-- ==== Sys2Proof/Word.lean ====
section
/-! DEFINITION. The bit-vector types the spec's values take, and the sparse table every memory of the model is kept in. -/

namespace Sys2Proof

/-- A 32-bit register of the configuration space (R445). -/
abbrev Word32 := BitVec 32
/-- A general register of a context (R240), or any 64-bit value. -/
abbrev Word64 := BitVec 64
/-- The 32 data bytes of a code word, byte k in bits 8k+7:8k (R5, R45). -/
abbrev Code := BitVec 256
/-- The 280 cells of a code word, position i in bit i (R45). -/
abbrev Cells := BitVec 280
/-- A physical byte address PA[47:0]. -/
abbrev PhysAddr := BitVec 48
/-- A line address PA[47:8]. -/
abbrev LineAddr := BitVec 40

/-- A sparse table: pairs of an index and an entry. In canonical form the indices rise strictly and no entry equals
what an unlisted index reads as. -/
abbrev Table (α : Type) := List (Nat × α)

end Sys2Proof
end

