-- ==== Sys2Proof/Message.lean ====
section
/-! DEFINITION. What the messages of the ports carry: ports, headers, code words with their poison indication, atomic
fields (16_ports_and_signals R417 to R419, Table 16.5, Table 8.1). -/

namespace Sys2Proof

/-- The message ports (R1, R414). -/
inductive Port where
  | mpa | mpb | xp
deriving DecidableEq, Repr, Inhabited

/-- One code word in transit: 32 data bytes and the poison indication of its flit (PMASK of Table 16.4). -/
structure CodeWord where
  data : Code
  poison : Bool
deriving DecidableEq, Repr, Inhabited

/-- The common header fields of an ingress message (R419, Table 16.5) and the port at which it registers. Agent IDs,
dies and labels are names, not bit fields the slice computes with. -/
structure Hdr where
  port : Port
  agent : Nat
  die : Nat
  txn : BitVec 16
  line : LineAddr
  label : Nat
  /-- Continuation flits that follow, as the header says (NDF, R420). -/
  ndf : Nat
deriving DecidableEq, Repr, Inhabited

/-- The fields of an atomic (Table 8.1). -/
structure AtomOp where
  aop : BitVec 4
  w64 : Bool
  fetch : Bool
  cw : BitVec 3
  lmask : BitVec 8
deriving DecidableEq, Repr, Inhabited

end Sys2Proof
end

