-- ==== Sys2Proof/Syntax.lean ====
section
/-! DEFINITION. The commands of the slice: one constructor for every row of spec/opcode_table.json, with the row's operands.
A Zellek row carries the number of the context that issues its next instruction; the instruction itself is in the program store. -/

namespace Sys2Proof

inductive Instr where
  /-- RESET_ASSERT (R457): rs_n sampled at 0 drives all outputs to 0, accepts no flit and loses every message in progress. -/
  | resetAssert
  /-- RESET_RELEASE (R415): After synchronisation rs_n is sampled at 1, sc 0 begins and fuse load starts. -/
  | resetRelease (slice : BitVec 11) (die : BitVec 5) (agent : BitVec 8) (sub : BitVec 2)
  /-- POWER_LOSS (R458): Removal of vdd or vdd_sram loses all state as a reset would, including the counter. -/
  | powerLoss
  /-- FUSE_LOAD_END (R435): At the end of fuse load the stream check decides between setting fu_bad and clearing the tags. -/
  | fuseLoadEnd (stream : BitVec 3000) (stray : Bool)
  /-- RS_READY (R435): Tag clearing ends, rs_ready rises and SB is opened. -/
  | rsReady
  /-- TK_STROBE (R12): A tick strobe loads the counter after reset or checks it against tk_value. -/
  | tkStrobe (value : Word64)
  /-- STROBE_LATE (R13): 2^15 sc pass without a strobe while unparked, so STROBE_LATE is set and reported. -/
  | strobeLate
  /-- AON_TICK (R35): While parked, each always-on clock edge advances the counter by 17. -/
  | aonTick
  /-- FRAME_BOUNDARY (R20): The counter reaches a multiple of the frame length and the frame-boundary actions are performed. -/
  | frameBoundary
  /-- CALIBRATION_DUE (R368): At a frame that is a multiple of CAL_FRAMES every bank queues a six-step calibration. -/
  | calibrationDue
  /-- DEADLOCK_DECLARE (R266): A whole frame passes with only flag or channel waits and no release, so the sequencer is muzzled. -/
  | deadlockDeclare
  /-- REG_WINDOW_END (R351): A regulation window ends, per-window counts restart and shortfall is counted. -/
  | regWindowEnd
  /-- CALENDAR_SLOT (R355): A bank's calendar slot begins and one background operation is chosen for it. -/
  | calendarSlot (bank : Fin 16)
  /-- SCRUB_STEP_DUE (R358): A scrub step falls due at a bank mark, queues a scrub read and advances the pointer. -/
  | scrubStepDue (bank : Fin 16)
  /-- BANK_ACCESS_START (R344): A waiting foreground array access starts on a free bank in the order of the regulation keys. -/
  | bankAccessStart
  /-- XP_EGRESS_START (R345): XP egress starts the first ready message and sends its code words. -/
  | xpEgressStart
  /-- INTERNAL_LOOKUP (R473): A pack result write, accumulate read or walk step takes a lookup start and is served or waits again. -/
  | internalLookup
  /-- WAITED_REQUEST_RESUME (R346): A request held behind an eviction or a joined miss resumes its tag lookup. -/
  | waitedRequestResume
  /-- RECLAIM_WALK_STEP (R149): In an idle tag-pipeline sc, the reclamation walk reclaims the lines of one set. -/
  | reclaimWalkStep
  /-- TRANSACTION_END (R120): The last flit of a transaction leaves, so the held WbAck is sent and a recorded reservation starts. -/
  | transactionEnd
  /-- RESERVATION_EXPIRY (R126): 512 sc pass without the reserved agent's REQ and the reservation entry is freed. -/
  | reservationExpiry
  /-- HOME_TIMEOUT (R139): The home snoop timer expires, so the transaction ends with POISON and missing agents are counted. -/
  | homeTimeout
  /-- AGENT_DOWN (R144): ad_strobe with ad_agent declares a caching agent dead. -/
  | agentDown (agent : BitVec 8)
  /-- SM_HOLD (R439): The seam bridge hold bits register, pausing the affected timers and setting class SUSP bits. -/
  | smHold (bits : BitVec 16)
  /-- PARK_REQUEST (R436): pk_req registered at 1 starts draining, and the listed requests receive PARKED. -/
  | parkRequest
  /-- DRAIN_COMPLETE (R437): All drain conditions hold, pk_ack rises and the slice is parked. -/
  | drainComplete
  /-- PARK_RELEASE (R438): pk_req registered at 0 ends draining or the park and reopens SB and requests. -/
  | parkRelease
  /-- LINK_CHECK_FAIL (R424): An ingress flit fails its link check, is discarded and a replay is requested. -/
  | linkCheckFail (port : Port)
  /-- LINK_REPLAY_REQUEST (R424): A tx_rty from the mesh or ring makes the slice replay its last flits. -/
  | linkReplayRequest (port : Port)
  /-- LINK_CREDIT (R423): A credit pulse on tx_crd returns one egress buffer credit of a virtual channel. -/
  | linkCredit (port : Port) (channel : Nat)
  /-- RDS (R119): A shared read is served by the home as the directory transitions state. -/
  | rds (h : Hdr) (mask : BitVec 4) (crit : BitVec 2)
  /-- RDX (R119): An exclusive read is served by the home. -/
  | rdx (h : Hdr) (mask : BitVec 4) (crit : BitVec 2)
  /-- UPG (R119): An upgrade from S is served by the home. -/
  | upg (h : Hdr) (mask : BitVec 4)
  /-- RDU (R119): An uncached read is served with DataU. -/
  | rdu (h : Hdr) (mask : BitVec 4) (crit : BitVec 2)
  /-- WRFULL (R131): A full-line write invalidates copies and writes all eight code words. -/
  | wrfull (h : Hdr) (data : List CodeWord)
  /-- WRPART (R132): A partial write recalls the owner's data and writes the named code words. -/
  | wrpart (h : Hdr) (cwMask : BitVec 8) (data : List CodeWord)
  /-- PREFETCH (R95): A Pf takes a fetch buffer entry and issues an XP read, or is dropped. -/
  | prefetch (h : Hdr) (mask : BitVec 4)
  /-- REQ_UNASSIGNED (R113): A REQ with an unassigned opcode is answered with BOUNDS. -/
  | reqUnassigned (h : Hdr) (op : BitVec 4)
  /-- WBD (R119): A writeback of dirty sectors is sunk and written, and WbAck is sent or held. -/
  | wbd (h : Hdr) (mask : BitVec 4) (data : List CodeWord)
  /-- EVC (R119): A clean eviction notice of an E line is sunk and acknowledged. -/
  | evc (h : Hdr)
  /-- SNPRSP (R119): A snoop answer advances the transient of its transaction. -/
  | snprsp (h : Hdr) (outcome : BitVec 3) (mask : BitVec 4) (data : List CodeWord)
  /-- ATREQ (R470): An atomic request is checked, takes its coherence actions, reads, computes and answers. -/
  | atreq (h : Hdr) (op : AtomOp) (data : List CodeWord)
  /-- PKCTB (R196): A pack contribution is matched to its pack and accepted or refused. -/
  | pkctb (h : Hdr) (epoch : BitVec 16) (idx : BitVec 6) (chunk : BitVec 10) (ncw : BitVec 3) (data : List CodeWord)
  /-- CALL_MESSAGE (R252): A Call starts the lowest eligible IDLE pool context or is refused. -/
  | callMessage (h : Hdr) (entry : BitVec 8) (reply : Bool) (args : Code)
  /-- RESERVE (R168): A channel RESERVE takes the slot at PI, or waits or refuses. -/
  | reserve (h : Hdr) (blocking : Bool) (ch : BitVec 8)
  /-- COMMIT (R168): A channel COMMIT makes a RESV slot FULL and, on a push channel, starts a credit reservation. -/
  | commit (h : Hdr) (ch : BitVec 8) (slot : BitVec 16)
  /-- TAKE (R168): A channel TAKE takes the slot at CI, or waits or refuses. -/
  | take (h : Hdr) (blocking : Bool) (ch : BitVec 8)
  /-- FREE (R168): A channel FREE returns a TAKEN slot to EMPTY. -/
  | free (h : Hdr) (ch : BitVec 8) (slot : BitVec 16)
  /-- CREDIT (R177): A CREDIT returns credits to a target entry and may resume a stopped reservation. -/
  | credit (h : Hdr) (tgt : BitVec 10) (count : BitVec 9)
  /-- LITTER_BUDGET_END (R179): The credit budget ends while the reservation is stopped, so credits are returned and LITTER-BUSY is answered. -/
  | litterBudgetEnd
  /-- PUSH_START (R178): The FULL slot at CI begins credit reservation once the previous push has ended. -/
  | pushStart
  /-- PUSH_END (R178): The last PushD flit of a slot leaves, the slot becomes EMPTY and CI advances. -/
  | pushEnd
  /-- SLOT_WATCHDOG_EXPIRY (R183): A slot watchdog expires, the slot becomes POISON and the channel is muzzled. -/
  | slotWatchdogExpiry
  /-- PACK_COMPLETE (R214): A pack writes its result, record and flag after earlier epochs, then frees its entry. -/
  | packComplete
  /-- PACK_WATCHDOG_EXPIRY (R218): A pack watchdog expires with chunks missing and the pack ends with POISON TIMEOUT. -/
  | packWatchdogExpiry
  /-- RED_LOCKSTEP_MISMATCH (R220): The reduction comparator fails, the unit is muzzled and armed packs end with POISON UNIT. -/
  | redLockstepMismatch (entry : Option (Fin 16))
  /-- SEQ_LOCKSTEP_MISMATCH (R264): The sequencer comparator or shared-state parity fails and the sequencer is muzzled. -/
  | seqLockstepMismatch (parity : Bool)
  /-- MOVE_REQUEST_ISSUE (R321): A mover engine issues the next line request of its move. -/
  | moveRequestIssue (engine : Fin 8)
  /-- MOVE_END (R324): A move's requests have all completed, so its record is written, its flag set and the engine freed. -/
  | moveEnd (engine : Fin 8)
  /-- MOVE_WATCHDOG_EXPIRY (R328): A move watchdog expires and the move ends with POISON TIMEOUT. -/
  | moveWatchdogExpiry (engine : Fin 8)
  /-- XRSP (R427): An XP read response delivers code words through the ingress check for early restart and fill. -/
  | xrsp (txn : BitVec 16) (status : BitVec 5) (cwMask : BitVec 8) (words : List (BitVec 3 × CodeWord))
  /-- XACK (R429): An XP write acknowledgement frees its eviction buffer entry. -/
  | xack (txn : BitVec 16) (status : BitVec 5)
  /-- DATAU (R286): Data answering a request originated by the slice completes that load or move read. -/
  | datau (h : Hdr) (mask : BitVec 4) (data : List CodeWord)
  /-- CMP (R278): A completion answering a store, move write or report write completes it. -/
  | cmp (h : Hdr)
  /-- STS (R286): A status answer to an originated request completes it, or triggers a resend for NACK-RETRY or PARKED. -/
  | sts (h : Hdr) (status : BitVec 5)
  /-- ATRSP (R278): An atomic answer to a slice program's remote ATOM completes it. -/
  | atrsp (h : Hdr) (status : BitVec 5) (succ : BitVec 8) (data : List CodeWord)
  /-- PKRSP (R296): A contribution answer completes a remote PCTB. -/
  | pkrsp (h : Hdr) (status : BitVec 5)
  /-- CALLRSP (R313): A call answer completes a CALL instruction. -/
  | callrsp (h : Hdr) (status : BitVec 5) (ctx : BitVec 4) (data : List CodeWord)
  /-- HEEL_RELEASE (R25): The counter reaches H and every context waiting on that heel is released in context order. -/
  | heelRelease
  /-- CONTEXT_SAVE (R259): The last request of an XFER context completes, its image is written and it enters SUSP. -/
  | contextSave (c : Fin 16)
  /-- RESTORE_READS_END (R261): The image reads of a restore end and the context awaits the next frame boundary. -/
  | restoreReadsEnd (c : Fin 16)
  /-- PSCENT_DONE (R389): The program scent computation ends and PS_VALID is set. -/
  | pscentDone
  /-- LOCK_WALK_END (R99): Every writeback of a lock walk is acknowledged and the ways become locked. -/
  | lockWalkEnd
  /-- GATE_WALK_END (R104): A gate walk ends, the INIT bit is cleared and the way is powered down. -/
  | gateWalkEnd
  /-- WAY_POWER_UP_END (R105): A powered way's tags are cleared and it rejoins replacement. -/
  | wayPowerUpEnd
  /-- REPORT_WRITE (R407): The oldest queued report record is written to the report ring. -/
  | reportWrite
  /-- NOP (R282): The instruction has no effect. -/
  | nop (c : Fin 16)
  /-- ILLEGAL (R270): A reserved encoding faults the context with cause ILLEGAL. -/
  | illegal (c : Fin 16)
  /-- END (R254): The context ends, becomes IDLE and sends any owed reply. -/
  | endI (c : Fin 16)
  /-- BR (R271): The context branches unconditionally. -/
  | br (c : Fin 16)
  /-- BCC (R280): The context branches on a register comparison. -/
  | bcc (c : Fin 16)
  /-- BST (R281): The context branches on LAST_STS. -/
  | bst (c : Fin 16)
  /-- JAL (R282): The return address is written and the context branches. -/
  | jal (c : Fin 16)
  /-- JR (R282): The context branches to a register. -/
  | jr (c : Fin 16)
  /-- MOVST (R282): ST is copied to a register. -/
  | movst (c : Fin 16)
  /-- ALU_ADD (R283): The ALU adds modulo 2^64. -/
  | aluAdd (c : Fin 16)
  /-- ALU_SUB (R283): The ALU subtracts modulo 2^64. -/
  | aluSub (c : Fin 16)
  /-- ALU_MUL (R283): The ALU forms the low 64 bits of a product. -/
  | aluMul (c : Fin 16)
  /-- ALU_AND (R283): The ALU forms a bitwise AND. -/
  | aluAnd (c : Fin 16)
  /-- ALU_OR (R283): The ALU forms a bitwise OR. -/
  | aluOr (c : Fin 16)
  /-- ALU_XOR (R283): The ALU forms a bitwise XOR. -/
  | aluXor (c : Fin 16)
  /-- ALU_SHL (R283): The ALU shifts left. -/
  | aluShl (c : Fin 16)
  /-- ALU_SHR (R283): The ALU shifts right with zero fill. -/
  | aluShr (c : Fin 16)
  /-- ALU_SAR (R283): The ALU shifts right with sign fill. -/
  | aluSar (c : Fin 16)
  /-- ALU_SLT (R283): The ALU sets 1 on a signed less-than. -/
  | aluSlt (c : Fin 16)
  /-- ALU_SLTU (R283): The ALU sets 1 on an unsigned less-than. -/
  | aluSltu (c : Fin 16)
  /-- ALU_SEQ (R283): The ALU sets 1 on equality. -/
  | aluSeq (c : Fin 16)
  /-- ALU_MIN (R283): The ALU forms a signed minimum. -/
  | aluMin (c : Fin 16)
  /-- ALU_MAX (R283): The ALU forms a signed maximum. -/
  | aluMax (c : Fin 16)
  /-- MOVI (R284): A sign-extended immediate is written to a register. -/
  | movi (c : Fin 16)
  /-- MOVHI (R284): An immediate is written to the high half of a register. -/
  | movhi (c : Fin 16)
  /-- LDW (R285): One code word is loaded into four registers. -/
  | ldw (c : Fin 16)
  /-- LDD (R285): Eight bytes are loaded into one register. -/
  | ldd (c : Fin 16)
  /-- STW (R285): Four registers are stored to one code word. -/
  | stw (c : Fin 16)
  /-- PF (R287): A prefetch is sent for a line. -/
  | pf (c : Fin 16)
  /-- TLD (R288): Tile blocks are loaded, all or nothing. -/
  | tld (c : Fin 16)
  /-- TST (R290): A tile is stored with output rounding and the saturation count is returned. -/
  | tst (c : Fin 16)
  /-- TADD (R292): Two tiles are added block by block on the reduction unit. -/
  | tadd (c : Fin 16)
  /-- TCVT (R293): Tile blocks are converted between BX20 and binary32. -/
  | tcvt (c : Fin 16)
  /-- TZERO (R293): A tile is set to BX20 zero. -/
  | tzero (c : Fin 16)
  /-- TMOV (R293): A tile is copied with its format bits. -/
  | tmov (c : Fin 16)
  /-- PARM (R295): A pack is armed from a kennel descriptor. -/
  | parm (c : Fin 16)
  /-- PCTB (R296): A slice program sends one pack contribution. -/
  | pctb (c : Fin 16)
  /-- CRSV (R299): A slice program reserves a channel slot. -/
  | crsv (c : Fin 16)
  /-- CCMT (R298): A slice program commits a channel slot. -/
  | ccmt (c : Fin 16)
  /-- CTAKE (R299): A slice program takes a channel slot. -/
  | ctake (c : Fin 16)
  /-- CFREE (R298): A slice program frees a channel slot. -/
  | cfree (c : Fin 16)
  /-- EVSET (R301): Event flags are set, releasing waiting contexts in the next sc. -/
  | evset (c : Fin 16)
  /-- EVCLR (R301): Event flags are cleared. -/
  | evclr (c : Fin 16)
  /-- EVWAIT (R302): The context waits on an event mask in ANY or ALL mode. -/
  | evwait (c : Fin 16)
  /-- EVRD (R301): The event flags are read into a register. -/
  | evrd (c : Fin 16)
  /-- RDCNT (R303): The global counter is read into a register. -/
  | rdcnt (c : Fin 16)
  /-- RDFRM (R303): The frame number is read into a register. -/
  | rdfrm (c : Fin 16)
  /-- HEEL (R304): A heel count is armed and the context waits for it. -/
  | heel (c : Fin 16)
  /-- MOVE (R305): A move descriptor is handed to a mover engine. -/
  | moveI (c : Fin 16)
  /-- ATOM (R306): A slice program issues an atomic. -/
  | atom (c : Fin 16)
  /-- LABEL (R307): The context's class is set. -/
  | labelI (c : Fin 16)
  /-- SCABS (R308): Kennel code words are absorbed into a stream's scent context. -/
  | scabs (c : Fin 16)
  /-- SCRD (R310): A stream's scent digest is read into two registers. -/
  | scrd (c : Fin 16)
  /-- SCCLR (R309): A stream's scent context is cleared. -/
  | scclr (c : Fin 16)
  /-- STEPRD (R311): A stream's step counter is read. -/
  | steprd (c : Fin 16)
  /-- STEPADD (R311): A value is added to a stream's step counter. -/
  | stepadd (c : Fin 16)
  /-- FENCE (R312): Issue waits until every earlier request of the context has completed. -/
  | fence (c : Fin 16)
  /-- CALL (R313): A Call is sent to another slice. -/
  | call (c : Fin 16)
  /-- CTXC_START (R244): The master starts a non-pool context. -/
  | ctxcStart (c : Fin 16)
  /-- CTXC_STOP (R245): The master stops a live context. -/
  | ctxcStop (c : Fin 16)
  /-- CTXC_SUSPEND (R258): The master records a SUSPEND for the next frame boundary. -/
  | ctxcSuspend (c : Fin 16)
  /-- CTXC_RESTORE (R261): The master starts a restore of a context from its image. -/
  | ctxcRestore (c : Fin 16)
  /-- CTXC_POOL (R245): The master rewrites the POOL bits. -/
  | ctxcPool (c : Fin 16)
  /-- SB_WRITE (R430): An SB write to a register without its own row sets fields by their access types. -/
  | sbWrite (addr : BitVec 18) (value : Word32)
  /-- HOLD (R431): An SB HOLD sets a debug hold for a holder. -/
  | hold (value : Word32)
  /-- RELEASE (R431): An SB RELEASE frees a debug hold. -/
  | release (value : Word32)
  /-- COUNTER_LO_READ (R16): A read of SL_COUNTER_LO returns the low word and captures the high word. -/
  | counterLoRead
  /-- SEED_LO_READ (R448): A read of SL_STR_SEED_LO captures the seed's high word. -/
  | seedLoRead
  /-- STEP_LO_READ (R448): A read of SL_STR_STEP_LO captures the step counter's high bits. -/
  | stepLoRead
  /-- SCENT_0_READ (R393): A read of SL_STR_SCENT_0 captures digest bits 127:32. -/
  | scent0Read
  /-- PSCENT_0_READ (R393): A read of SL_PSCENT_0 captures program scent bits 127:32. -/
  | pscent0Read
  /-- TAG_DATA_0_READ (R454): A debug read samples a tag entry and captures its upper bits. -/
  | tagData0Read
  /-- PSTORE_LO_READ (R455): A read returns an instruction's low word and captures its high word. -/
  | pstoreLoRead (index : BitVec 14)
  /-- FRAME_CFG_WRITE (R18): A write of FRAME_LOG2 is accepted, made pending or rejected. -/
  | frameCfgWrite (value : Word32)
  /-- COH_CFG_WRITE (R137): A write of NCLUST and HOME_TMO is accepted or rejected as a whole. -/
  | cohCfgWrite (value : Word32)
  /-- AGENT_DOWN_WRITE (R144): A write of SL_AGENT_DOWN declares an agent dead. -/
  | agentDownWrite (value : Word32)
  /-- WAY_LOCK (R99): A KWAYS increase starts a lock walk. -/
  | wayLock (value : Word32)
  /-- WAY_UNLOCK (R102): A KWAYS decrease unlocks ways, unless kennel use forbids it. -/
  | wayUnlock (value : Word32)
  /-- WAY_GATE (R104): Setting a GATE bit starts a gate walk of a cache way. -/
  | wayGate (value : Word32)
  /-- WAY_POWER (R105): Clearing a GATE bit powers a gated way up. -/
  | wayPower (value : Word32)
  /-- CACHE_CFG_WRITE (R95): A write of SL_CACHE_CFG sets FB_EN and SD_EN, and clearing FB_EN discards fetch buffer entries. -/
  | cacheCfgWrite (value : Word32)
  /-- SPARE_RT_WRITE (R69): A runtime spare entry write is installed or ignored. -/
  | spareRtWrite (value : Word32)
  /-- STAGE_CFG_WRITE (R162): The staging region is enabled, disabled or the write is refused. -/
  | stageCfgWrite (value : Word32)
  /-- CHANNEL_ENABLE (R165): Setting EN enables a channel if every check passes. -/
  | channelEnable (value : Word32)
  /-- CHANNEL_DISABLE (R166): Clearing EN disables a channel, discarding RESV and FULL slots. -/
  | channelDisable (value : Word32)
  /-- TARGET_VALID (R176): Setting VALID makes a target entry usable with full credits. -/
  | targetValid (value : Word32)
  /-- SEQ_ENABLE (R243): Writing EN = 1 starts the master context and the program scent. -/
  | seqEnable (value : Word32)
  /-- SEQ_DISABLE (R462): Writing EN = 0 disables the sequencer when every context is IDLE or FAULT. -/
  | seqDisable (value : Word32)
  /-- HALT (R267): The context halts at its next instruction boundary. -/
  | halt
  /-- RESUME (R267): A halted context becomes READY. -/
  | resume
  /-- STEP (R267): A halted context issues one instruction and halts again. -/
  | step
  /-- SUSPEND (R258): A SUSPEND is recorded for the next frame boundary. -/
  | suspend
  /-- RESTORE (R261): A restore of a context from its save image starts. -/
  | restore
  /-- DUMP (R267): The save image is written with DUMP = 1 and the context state is unchanged. -/
  | dump
  /-- STOP (R245): A live context other than 0 becomes IDLE. -/
  | stop
  /-- EVT_CLEAR (R255): A W1C write of SL_EVT_LO or SL_EVT_HI clears event flags. -/
  | evtClear (high : Bool) (value : Word32)
  /-- EVT_SET (R255): A write of SL_EVT_SET_LO or SL_EVT_SET_HI sets event flags. -/
  | evtSet (high : Bool) (value : Word32)
  /-- MV_GO (R316): Writing GO = 1 decides acceptance of the SB move descriptor. -/
  | mvGo (value : Word32)
  /-- REG_CFG_WRITE (R340): A write of SL_REG_CFG sets MODE and DEFCLASS, and makes a WIN_LOG2 change pending or rejects it. -/
  | regCfgWrite (value : Word32)
  /-- CLS_CFG_WRITE (R348): A class configuration write is admitted or refused by reservation sums. -/
  | clsCfgWrite (second : Bool) (value : Word32)
  /-- XP_GRANT_WRITE (R348): A GRANT write is accepted, refused by admission or rejected. -/
  | xpGrantWrite (value : Word32)
  /-- SEED_LO_WRITE (R381): The low seed word is held pending. -/
  | seedLoWrite (value : Word32)
  /-- SEED_HI_WRITE (R381): The whole seed is set from the pending low word. -/
  | seedHiWrite (value : Word32)
  /-- STEP_LO_WRITE (R381): The low step word is held pending. -/
  | stepLoWrite (value : Word32)
  /-- STEP_HI_WRITE (R381): The whole step counter is set from the pending low word. -/
  | stepHiWrite (value : Word32)
  /-- STR_CLR (R386): A stream's scent context is emptied, or the write is ignored while a SCABS is incomplete. -/
  | strClr
  /-- CEL_CLR (R362): The corrected-error log is emptied and OVF is cleared. -/
  | celClr
  /-- PSTORE_LO_WRITE (R455): The program store window's pending low word is set. -/
  | pstoreLoWrite (index : BitVec 14) (value : Word32)
  /-- PSTORE_HI_WRITE (R455): An instruction is stored with the pending low word and computed check bits. -/
  | pstoreHiWrite (index : BitVec 14) (value : Word32)
  /-- BG_CFG_WRITE (R374): The scrub and calibration settings are written, or rejected with CFG_REJ. -/
  | bgCfgWrite (value : Word32)
  /-- TEL_CFG_WRITE (R374): The telemetry ring settings are written, or rejected with CFG_REJ. -/
  | telCfgWrite (value : Word32)
  /-- WS_BYPASS (R441): The wrapper selects the 1-bit bypass. -/
  | wsBypass
  /-- WS_EXTEST (R441): The boundary cells drive and capture the terminals. -/
  | wsExtest
  /-- WS_INTEST (R441): The boundary cells drive and capture the slice from inside. -/
  | wsIntest
  /-- WS_PRELOAD (R441): The boundary cells are loaded. -/
  | wsPreload (cells : BitVec 3772)
  /-- WS_CLAMP (R441): The outputs are held from the boundary cells. -/
  | wsClamp
  /-- WS_SAFE (R441): The outputs are held at their safe values. -/
  | wsSafe
  /-- WX_IJTAG (R443): The IEEE 1687 network is selected. -/
  | wxIjtag
  /-- CFG_READ (R443): The instrument reads a configuration word without side effects. -/
  | cfgRead (addr : BitVec 18)
  /-- FUSE_IMAGE (R443): The instrument returns the loaded fuse stream. -/
  | fuseImage
  /-- RPT_LOG (R443): The instrument returns the 16 report log records. -/
  | rptLog
  /-- WB_UNASSIGNED (R113): A WB-class message with an unassigned opcode is sunk and treated as R109 states: WbAck, PROTO_ERR and a protocol report. -/
  | wbUnassigned (h : Hdr) (op : BitVec 4)
  /-- MEM_UNASSIGNED (R426): A MEM message on XP with an opcode other than XRsp or XAck is discarded and counted in XP_UNEX. -/
  | memUnassigned (op : BitVec 4) (txn : BitVec 16)
  /-- CHOP_RESERVED (R169): A channel REQ with CHOP 0x7 to 0xF is answered with BOUNDS and changes no state. -/
  | chopReserved (h : Hdr) (chop : BitVec 4)
  /-- WAY_UNLOCK_END (R102): Unlocked ways finish having their tag entries cleared and INIT bits cleared, rejoin replacement, and SL_WAY_STATUS.BUSY falls. -/
  | wayUnlockEnd
deriving DecidableEq, Repr

end Sys2Proof
end

