-- ==== Sys2Proof/Config.lean ====
section
/-! DEFINITION. What the spec leaves open: values of which nothing is known. Each is an opaque constant applied to the
counter of free values that the state holds, so that no proof can rest on a value. -/

namespace Sys2Proof.Config

/-- DESIGN CHOICE (entry 5): the 280 cells read from a code word of the array that nothing has written since reset or
since its way was gated (R56, R57, R71). -/
opaque freeCells : Nat → Cells

/-- DESIGN CHOICE (entry 5): whether such a read is reported when its class would be (R57). -/
opaque freeReported : Nat → Bool

/-- DESIGN CHOICE (entry 6): the instruction word fetched from a program store word that nothing has written since reset,
or that has three or more bit errors (R246, R247). -/
opaque freeInsn : Nat → Word64

/-- DESIGN CHOICE (entry 6): how the checker classes a program store word with three or more bit errors (R246): 0 clean,
1 corrected, otherwise a double error. -/
opaque freeInsnClass : Nat → Nat

/-- DESIGN CHOICE (entry 13): whether the replica row reads its pattern exactly at a trial code (R368: the outcome is
physical). -/
opaque freeReplica : Nat → Bool

/-- DESIGN CHOICE (entry 14): the 32 bytes of a result that a failed obligation leaves undefined (R4). -/
opaque freeCode : Nat → Code

/-- DESIGN CHOICE (entry 60): SECT of a flit that does not carry one sector of a line (Table 16.4). -/
opaque freeSect : Nat → BitVec 2

end Sys2Proof.Config
end

