-- ==== Sys2Proof/Machine/Bits.lean ====
section
/-! DEFINITION. Bit fields, saturating counts and byte order (R5): numbers as they lie in registers, records and code words. -/

namespace Sys2Proof.Machine

/-- Bits lo + w - 1 : lo of a word, as a number. -/
def fld {n : Nat} (x : BitVec n) (lo w : Nat) : Nat := x.toNat / 2 ^ lo % 2 ^ w

/-- Bit i of a word. -/
def bit {n : Nat} (x : BitVec n) (i : Nat) : Bool := x.getLsbD i

/-- One bit as a number. -/
def b01 (b : Bool) : Nat := if b then 1 else 0

/-- A number laid out from fields (low end, width, value), every value taken modulo its width. -/
def pack (fs : List (Nat × Nat × Nat)) : Nat := fs.foldl (fun a f => a + (f.2.2 % 2 ^ f.2.1) * 2 ^ f.1) 0

/-- Replace bits lo + w - 1 : lo by v. -/
def setFld {n : Nat} (x : BitVec n) (lo w v : Nat) : BitVec n :=
  (x &&& ~~~(BitVec.ofNat n ((2 ^ w - 1) * 2 ^ lo))) ||| BitVec.ofNat n ((v % 2 ^ w) * 2 ^ lo)

/-- Set bit i to b. -/
def setBit {n : Nat} (x : BitVec n) (i : Nat) (b : Bool) : BitVec n := setFld x i 1 (b01 b)

/-- Add with saturation at m. -/
def satAdd (m a b : Nat) : Nat := min m (a + b)

/-- The mask of n low ones. -/
def ones (n : Nat) : Nat := 2 ^ n - 1

/-- The indices below n whose bit is set, ascending. -/
def bitsOf {n : Nat} (x : BitVec n) : List Nat := (List.range n).filter fun i => bit x i

/-- The vector whose set bits are those named. -/
def maskOf (n : Nat) (l : List Nat) : BitVec n := l.foldl (fun a i => a ||| BitVec.ofNat n (2 ^ i)) 0

/-- 32-bit word k of a wider vector (little-endian, R5). -/
def word32 {n : Nat} (x : BitVec n) (k : Nat) : Word32 := x.extractLsb' (32 * k) 32

/-- 64-bit word k of a wider vector. -/
def word64 {n : Nat} (x : BitVec n) (k : Nat) : Word64 := x.extractLsb' (64 * k) 64

/-- A code word from four 64-bit words, the first in the low bytes. -/
def codeOf64 (a b c d : Word64) : Code := d ++ c ++ b ++ a

/-- A code word of numbers of w bits each, the first in the low bytes. -/
def codeOf (w : Nat) (l : List Nat) : Code :=
  BitVec.ofNat 256 ((l.zipIdx).foldl (fun a p => a + (p.1 % 2 ^ w) * 2 ^ (w * p.2)) 0)

/-- The exclusive or of the first n 32-bit words of a vector. -/
def xor32 {m : Nat} (x : BitVec m) (n : Nat) : Word32 := (List.range n).foldl (fun a k => a ^^^ word32 x k) 0

/-- The exclusive or of the first n 64-bit words of a vector. -/
def xor64 {m : Nat} (x : BitVec m) (n : Nat) : Word64 := (List.range n).foldl (fun a k => a ^^^ word64 x k) 0

/-- The exclusive or of all bits: 1 where the number of ones is odd. -/
def parity {n : Nat} (x : BitVec n) : Bool := (List.range n).foldl (fun a i => a ^^ bit x i) false

/-- Split a vector into its code words, the lowest first. -/
def codesOf {n : Nat} (x : BitVec n) (k : Nat) : List Code := (List.range k).map fun i => x.extractLsb' (256 * i) 256

/-- Round n up to a multiple of k and divide. -/
def ceilDiv (n k : Nat) : Nat := (n + k - 1) / k

/-- Two half-open ranges of numbers meet. -/
def meets (a b c d : Nat) : Bool := decide (a < d) && decide (c < b)

end Sys2Proof.Machine
end

