-- ==== Sys2Proof/Machine/Boleri.lean ====
section
/-! DEFINITION. The Boleri code and the address fold (02_data_array_and_boleri_code R43 to R52). -/

namespace Sys2Proof.Machine

/-- Bits 23:0 of g(x) = (x^4 + 1) m1(x) m3(x) (R44), where m1 = x^10 + x^3 + 1 and m3 = x^10 + x^3 + x^2 + x + 1. -/
def gLow : BitVec 24 := 0x119f07#24

/-- One step of the remainder: multiply by x, add the coefficient x^24 · b, reduce (R46). -/
def remStep (r : BitVec 24) (b : Bool) : BitVec 24 :=
  if r.getLsbD 23 ^^ b then (r <<< 1) ^^^ gLow else r <<< 1

/-- The remainder over data bits k - 1 down to 0. -/
def remFrom (d : Code) (r : BitVec 24) : Nat → BitVec 24
  | 0 => r
  | k + 1 => remFrom d (remStep r (d.getLsbD k)) k

/-- x^24 · d(x) mod g(x) (R46). -/
def boleriRem (d : Code) : BitVec 24 := remFrom d 0 256

/-- The Boleri hash of a location of a slice (R47). -/
def boleriHash (slice loc : Nat) : Nat := ((slice * 2 ^ 19 + loc) * 0x6C8E9CF5) % 2 ^ 32

/-- The address fold F (R48). -/
def boleriFold (slice loc : Nat) : BitVec 24 :=
  let u := BitVec.ofNat 24 (boleriHash slice loc % 2 ^ 20)
  let n := (u ^^^ (u >>> 4) ^^^ (u >>> 8) ^^^ (u >>> 12) ^^^ (u >>> 16)) &&& 0xF#24
  (n <<< 20) ||| u

/-- The 280 cells that hold data d with the check bits of fold f: check bits in 23:0, data bit k in 24 + k (R45, R46). -/
def boleriEncode (f : BitVec 24) (d : Code) : Cells := d ++ (boleriRem d ^^^ f)

/-- The cells of a poison mark: zero data, check bits F xor 0xFF_FFFF (R52). -/
def poisonCells (f : BitVec 24) : Cells := (0#256) ++ (f ^^^ 0xFFFFFF#24)

/-- The data bits of the cells. -/
def cellData (c : Cells) : Code := c.extractLsb' 24 256

/-- The syndrome (R49). -/
def syndrome (f : BitVec 24) (c : Cells) : BitVec 24 := c.extractLsb' 0 24 ^^^ f ^^^ boleriRem (cellData c)

/-- The group parity P of a syndrome (R49). -/
def groupParity (s : BitVec 24) : BitVec 24 :=
  (s ^^^ (s >>> 4) ^^^ (s >>> 8) ^^^ (s >>> 12) ^^^ (s >>> 16) ^^^ (s >>> 20)) &&& 0xF#24

/-- Division of a syndrome by x modulo g. -/
def divX (t : BitVec 24) : BitVec 24 :=
  if t.getLsbD 0 then ((t ^^^ gLow) >>> 1) ||| 0x800000#24 else t >>> 1

/-- Whether an odd mask of at most four positions, placed at position i, stays within 279. -/
def patternFits (i m : Nat) : Bool := m % 2 == 1 && decide (m < 16) && decide (i + Nat.log2 m ≤ 279)

/-- The correctable pattern whose syndrome, divided by x^i, is t: its lowest position and its mask (R49). -/
def patternFrom (t : BitVec 24) (i : Nat) : Nat → Option (Nat × Nat)
  | 0 => none
  | k + 1 => if patternFits i t.toNat then some (i, t.toNat) else patternFrom (divX t) (i + 1) k

/-- The correctable pattern with syndrome s, if there is one. -/
def pattern (s : BitVec 24) : Option (Nat × Nat) := patternFrom s 0 280

/-- The classes of Table 2.3. -/
inductive WordClass where
  | clean | pmark | ceBit | ceBurst | ue
deriving DecidableEq, Repr

/-- What the corrector makes of a code word: its class, the data delivered, and the inverted positions. -/
structure Corrected where
  cls : WordClass
  data : Code
  pos : Nat
  pmask : Nat
deriving DecidableEq, Repr

/-- The corrector (R50): the rows of Table 2.3 in order. -/
def correct (f : BitVec 24) (c : Cells) : Corrected :=
  let s := syndrome f c
  let m := s ^^^ 0xFFFFFF#24
  if s = 0 then { cls := .clean, data := cellData c, pos := 0, pmask := 0 }
  else if m = 0 ∨ (pattern m).isSome then { cls := .pmark, data := 0, pos := 0, pmask := 0 }
  else match pattern s with
    | some (i, p) =>
      { cls := if p = 1 then .ceBit else .ceBurst, data := cellData (c ^^^ (BitVec.ofNat 280 p <<< i)), pos := i,
        pmask := p }
    | none => { cls := .ue, data := 0, pos := 0, pmask := 0 }

/-- The location of the code word at byte a of the line in a set and a way (Table 2.2, R43). -/
def location (set way a : Nat) : Nat :=
  let sct := a / 64 % 4
  let bank := set / 4 % 4 * 4 + (BitVec.ofNat 2 sct ^^^ BitVec.ofNat 2 set).toNat
  let row := way % 16 * 32 + set / 128 % 32
  let sir := set / 16 % 8 * 4 + set % 4
  bank * 2 ^ 15 + row * 2 ^ 6 + sir * 2 + a / 32 % 2

/-- Bank, row and word of a location. -/
def locBank (loc : Nat) : Nat := loc / 2 ^ 15 % 16
def locRow (loc : Nat) : Nat := loc / 2 ^ 6 % 512
def locWord (loc : Nat) : Nat := loc % 64

/-- The way of a location (the inverse of Table 2.2). -/
def locWay (loc : Nat) : Nat := locRow loc / 32

/-- The set of a location. -/
def locSet (loc : Nat) : Nat :=
  let sir := locWord loc / 2
  locRow loc % 32 * 128 + sir / 4 % 8 * 16 + locBank loc / 4 * 4 + sir % 4

/-- The sector of the line that a location lies in. -/
def locSect (loc : Nat) : Nat := (BitVec.ofNat 2 (locBank loc) ^^^ BitVec.ofNat 2 (locSet loc)).toNat

end Sys2Proof.Machine
end

