-- ==== Sys2Proof/Machine/State.lean ====
section
/-! DEFINITION. The state of the slice: every register, table, queue and pin the spec gives it, as plain data, and the
state right after reset. Names follow the spec; INVENTORY.md lists each field with its rule. -/

namespace Sys2Proof.Machine

/-- The statuses of Table 16.8 (R9, R425). -/
inductive Status where
  | ok | empty | emptyMove | slotFull | bounds | litterBusy | packCollision | parked | poison | nackRetry | muzzled
deriving DecidableEq, Repr, Inhabited

/-- The further fields of a message the slice sends (R419 and the tables it names). -/
inductive Body where
  | none
  | status (st : Status)
  | readReq (mask : BitVec 4) (crit : BitVec 2)
  | snpFwd (agent die : Nat) (txn : BitVec 16) (mask : BitVec 4)
  | snpInv (broadcast : Bool) (except : Nat)
  | data (mask : BitVec 4) (crit : BitVec 2) (dirty : Bool)
  | cwMask (mask : BitVec 8)
  | sectors (mask : BitVec 4)
  | chRsp (st : Status) (slot : BitVec 16) (offset : BitVec 24)
  | atRsp (st : Status) (succ : BitVec 8)
  | callRsp (st : Status) (ctx : BitVec 4)
  | atReq (op : AtomOp)
  | pkCtb (epoch : BitVec 16) (idx : BitVec 6) (chunk : BitVec 10) (ncw : BitVec 3)
  | call (entry : BitVec 8) (reply : Bool)
  | pushD (addr : Word32) (ch : BitVec 8) (slot : BitVec 16) (half : Bool) (last : Bool)
  | xrd (mask : BitVec 4) (crit : BitVec 3)
  | xwr (mask : BitVec 8)
deriving DecidableEq, Repr, Inhabited

/-- Which transaction ends when a message has left (R120). -/
inductive TxRef where
  | none
  | tracker (index : Nat)
  | active (id : Nat)
  | push (ch : Nat)
deriving DecidableEq, Repr, Inhabited

/-- The classes of messages (Table 4.1 and R417). -/
inductive MsgClass where
  | wb | rsp | fwd | req | mem
deriving DecidableEq, Repr, Inhabited

/-- A message the slice sends, with the sc from which it may leave. -/
structure OutMsg where
  port : Port
  cls : MsgClass
  op : BitVec 4
  dstAgent : Nat
  dstDie : Nat
  txn : BitVec 16
  line : LineAddr
  label : Nat
  body : Body
  data : List CodeWord
  ready : Nat
  tx : TxRef
  /-- Flits of the same answer that went before: the sectors of a miss leave one by one (R87). -/
  first : Nat := 0
deriving DecidableEq, Repr, Inhabited

/-- A flit (R417, R418): its payload, of which a flit of XP uses bits 255:0, and its side field. -/
structure Flit where
  port : Port
  payload : BitVec 512
  side : BitVec 128
deriving DecidableEq, Repr, Inhabited

/-- What a request the home serves asks for (Table 4.2, R229). -/
inductive ReqKind where
  | rds | rdx | upg | rdu | wrfull | wrpart | atom
deriving DecidableEq, Repr, Inhabited

/-- A request at the home: its kind, its requester and its fields. -/
structure Req where
  kind : ReqKind
  port : Port
  agent : Nat
  die : Nat
  txn : BitVec 16
  line : LineAddr
  label : Nat
  cls : Nat
  mask : BitVec 4
  crit : BitVec 2
  cwMask : BitVec 8
  data : List CodeWord
  op : AtomOp
  /-- A pack's result write or accumulate read (R473): no agent awaits it. -/
  internal : Bool
  /-- A full-line store that came while its class was in streaming mode (R83, R84). -/
  str : Bool := false
deriving DecidableEq, Repr, Inhabited

/-- Where the slice is between reset and service (R434, R435, R457). -/
inductive Phase where
  | held | fuseLoad | tagClear | ready | stuck
deriving DecidableEq, Repr, Inhabited

/-- A message as it registers (R121, R417, R422): its port, class and flits, whether it is one header alone, and its source with
bits 15:14 of its TXN. -/
structure Arrival where
  port : Port
  cls : MsgClass
  flits : Nat
  alone : Bool
  agent : Nat
  die : Nat
  sub : Nat
  line : LineAddr
  label : Nat
  /-- Its line is ignored, so its class is its label (R337). -/
  labelled : Bool
deriving DecidableEq, Repr, Inhabited

/-- Which once-per-sc events of the present sc have been performed. -/
structure Done where
  frame : Bool
  window : Bool
  calib : Bool
  /-- The frame that ended at this sc was quiet throughout (R266). -/
  deadlock : Bool
  scrub : BitVec 16
  /-- The lookup start of R346 has been taken. -/
  lookup : Bool
  /-- A message registered in this sc. -/
  intake : Bool
  reclaim : Bool
  /-- The messages that have registered in this sc, the last first (R121). -/
  taken : List Arrival := []
  /-- Status bits that the slice has set in this sc, which a W1C write of the sc leaves at 1 (R446): 0 RT_EXHAUST, 1 PROTO_ERR,
  2 AD_REJ, 3 RPT_FAIL, 4 HB_FAIL, 8 to 13 STUCK. -/
  raised : BitVec 16 := 0
  /-- An event flag has been set since the last compare of R257. -/
  compare : Bool := false
deriving DecidableEq, Repr, Inhabited

/-- Pins, phase, park handshake and test wrapper (16_ports_and_signals). -/
structure Env where
  phase : Phase
  sc : Nat
  idSlice : BitVec 11
  idDie : BitVec 5
  idAgent : BitVec 8
  idSub : BitVec 2
  pkReq : Bool
  /-- The pin pk_ack in the present sc: the slice is parked while it is 1. -/
  pkAck : Bool
  /-- What pk_ack is in the next sc (R437). -/
  ackNext : Bool
  drainAt : Nat
  reopenAt : Nat
  /-- The counter of a parked slice runs on sc_clk again (Table 16.12). -/
  scRun : Bool
  /-- The first strobe after unpark has not come yet (R36). -/
  reload : Bool
  smHold : BitVec 16
  /-- The pin sb_rdy in the present sc, and in the last: a transaction registers in the sc after its acceptance (R430, R432). -/
  sbRdy : Bool
  sbOpen : Bool
  wir : BitVec 5
  boundary : BitVec 3772
  wsUndefined : Bool
  done : Done
deriving DecidableEq, Repr

/-- The tick unit (01_frame_and_timing_contract). -/
structure Tick where
  counter : Word64
  /-- A value presented by the first strobe: the counter takes it up in the next sc (Table 1.1). -/
  load : Option Word64
  cntValid : Bool
  cntFault : Bool
  strobeLate : Bool
  cfgRej : Bool
  strobeAge : Nat
  frameLog2 : BitVec 5
  framePend : Option (BitVec 5)
  lock : Bool
  parkFrames : Nat
deriving DecidableEq, Repr

/-- The shadows of Table 17.2 (R448). -/
structure Shadows where
  counter : Word32
  seed : Word32
  step : BitVec 16
  scent : BitVec 96
  pscent : BitVec 96
  tag : BitVec 52
  pstore : Word32
deriving DecidableEq, Repr

/-- The fuse stream as loaded (R434, R435). -/
structure Fuse where
  stream : BitVec 3000
  loaded : Bool
  bad : Bool
deriving DecidableEq, Repr

/-- A runtime spare entry (Table 2.9). -/
structure Spare where
  valid : Bool
  hw : Bool
  row : BitVec 9
deriving DecidableEq, Repr, Inhabited

/-- The data array and its spare maps (02_data_array_and_boleri_code). -/
structure Arr where
  /-- Physical index (bank × 528 + physical row) × 64 + word ↦ the 280 cells; unlisted: never written. -/
  cells : Table Cells
  /-- Physical index of a sector ↦ its cells on the bank's four spare bit lines (R66). -/
  lines : Table (BitVec 4)
  /-- Locations whose next code word out of the corrector fails the post-check (R398). -/
  postBad : List Nat
  written : BitVec 16
  rtExhaust : Bool
  spareRej : Bool
  /-- Bank × 8 + entry ↦ runtime spare entry. -/
  spares : Table Spare
  spareBank : BitVec 4
  spareEntry : BitVec 3
  wayInit : BitVec 16
deriving DecidableEq, Repr

/-- One piece of background work of orders 1 to 4 and 7 (Table 13.1); sec is bits 18:1 of the location. -/
inductive BgKind where
  | writeback (mask : BitVec 2) (lo hi : Code)
  | telemetry (lo hi : Code)
  | marks (mask : BitVec 2)
  | rewrite (mask : BitVec 2) (lo hi : Code)
  | scrubRead
deriving DecidableEq, Repr, Inhabited

structure BgWork where
  sec : Nat
  kind : BgKind
deriving DecidableEq, Repr, Inhabited

/-- A retirement copy (R366): the next sector, the sectors already moved or skipped, and the copy buffer. -/
structure Copy where
  bank : Nat
  row : Nat
  entry : Nat
  next : Nat
  moved : BitVec 32
  /-- The two code words read, each with true for poison marks. -/
  buf : Option (CodeWord × CodeWord)
deriving DecidableEq, Repr, Inhabited

/-- A running calibration (R368): the outcomes of its steps so far. -/
structure Cal where
  bank : Nat
  passes : List Bool
deriving DecidableEq, Repr, Inhabited

/-- A retirement tracker entry (R364). -/
structure RowTrack where
  bank : Nat
  row : Nat
  count : Nat
  first : Nat
deriving DecidableEq, Repr, Inhabited

/-- An entry of the foreground corrected-error log (Table 13.7). -/
structure CelEntry where
  burst : Bool
  src : BitVec 3
  loc : BitVec 19
  frame : BitVec 16
  pmask : BitVec 4
  pos : BitVec 9
deriving DecidableEq, Repr, Inhabited

/-- The counts of the telemetry span (Table 13.2). -/
structure Tel where
  span : Nat
  parkIn : Bool
  ovfIn : Bool
  rtIn : Bool
  calIn : Bool
  missIn : Bool
  ceFg : Nat
  ceBg : Nat
  ue : Nat
  rwFull : Nat
  retired : Nat
  trkDrop : Nat
  scrubbed : Nat
  idle : Nat
  skipped : Nat
  pfDrop : Nat
  fbUnused : Nat
  pstoreCe : Nat
  snoopTmo : Nat
  poisonLines : Nat
  deadDecl : Nat
  susp : BitVec 16
  /-- Class ↦ (SHORT, OVER_WIN) summed over the span. -/
  cls : Table (Nat × Nat)
deriving DecidableEq, Repr, Inhabited

/-- The background engine (13_background_work). -/
structure Bg where
  work : List BgWork
  copies : List Copy
  cals : List Cal
  codes : Table Nat
  scrubPtr : Table Nat
  tracker : List RowTrack
  /-- Bank ↦ 1 + number of the 512-sc period whose calendar slot has begun. -/
  slotPeriod : Table Nat
  scrubEn : Bool
  calFrames : BitVec 8
  scrubLog2 : BitVec 5
  telEn : Bool
  telRing : BitVec 4
  telBase : BitVec 16
  cfgRej : Bool
  telMiss : Bool
  calFail : BitVec 16
  cel : List CelEntry
  /-- The corrections registered in the present sc (R362). -/
  celNow : List CelEntry
  celOvf : Bool
  celSel : BitVec 4
  ceFg : Nat
  ceBg : Nat
  ueCnt : Nat
  retiredCnt : Nat
  calDeferred : Bool
  tel : Tel
deriving DecidableEq, Repr

/-- A tag entry: tag part of Table 3.1 and directory part of Table 4.4. -/
structure TagEntry where
  tag : BitVec 28
  tv : Bool
  sv : BitVec 4
  sd : BitVec 4
  dsum1 : Bool
  dsum0 : Bool
  age : BitVec 2
  ps : Bool
  pt : Bool
  pd : Bool
  dst : BitVec 3
  pv : BitVec 4
  ptr3 : BitVec 8
  ptr2 : BitVec 8
  ptr1 : BitVec 8
  ptr0 : BitVec 8
deriving DecidableEq, Repr, Inhabited

/-- The directory part of a tag entry without its parity bit (Table 4.4). -/
structure DirPart where
  dst : BitVec 3
  pv : BitVec 4
  ptr3 : BitVec 8
  ptr2 : BitVec 8
  ptr1 : BitVec 8
  ptr0 : BitVec 8
deriving DecidableEq, Repr, Inhabited

/-- A requester of a miss whose sectors are still to come (R87, R469, R62): the opcode of its answer, the transaction it ends,
the directory part from before its grant, and the number of its sectors already sent. -/
structure Owed where
  req : Req
  op : Nat
  tx : TxRef
  was : DirPart
  sent : Nat
  /-- The sectors that come with the fetch, and those still to be read from the array. -/
  fetch : BitVec 4
  read : BitVec 4
  /-- The code words that have come, by index in the line, and the sc in which each sector did. -/
  words : Table CodeWord
  since : Table Nat
deriving DecidableEq, Repr, Inhabited

/-- A miss entry (R85): what has been asked of XP, what has arrived, and for whom. -/
structure Miss where
  line : LineAddr
  way : Nat
  cls : Nat
  /-- Sectors asked of XP. -/
  asked : BitVec 4
  /-- Sectors that have arrived whole. -/
  got : BitVec 4
  /-- Sectors of which XP returned a poisoned code word (R152). -/
  pois : BitVec 4
  buf : Table CodeWord
  /-- Code words a write merges into the fetched sectors (R81). -/
  merge : Table CodeWord
  tracker : Option Nat
  joined : List Req
  granted : Bool
  owed : List Owed
  /-- Sector ↦ the sc in which both its code words have left the XP ingress check (R87). -/
  since : Table Nat
  /-- The victim of the way has not been read out yet (R92). -/
  held : Bool
  /-- R103: every way is locked or gated, and nothing is allocated. -/
  uncached : Bool
  /-- The line is poisoned once its way is free of the victim (R217). -/
  marks : Bool := false
deriving DecidableEq, Repr, Inhabited

/-- A fetch buffer entry (R95 to R97). -/
structure Prefetched where
  line : LineAddr
  cls : Nat
  asked : BitVec 4
  got : BitVec 4
  pois : BitVec 4
  buf : Table CodeWord
  /-- FB_EN was cleared while data was awaited: discard on arrival (Table 3.3). -/
  doomed : Bool
  /-- The miss entry that has taken over its XP read (R97). -/
  into : Option Nat
  order : Nat
deriving DecidableEq, Repr, Inhabited

/-- An eviction buffer entry (R92, R93). -/
structure Evict where
  index : Nat
  line : LineAddr
  cls : Nat
  cwMask : BitVec 8
  data : Table CodeWord
  sent : Bool
  /-- The line leaves for a walk or a scrub eviction, not for a miss (R99). -/
  walked : Bool
deriving DecidableEq, Repr, Inhabited

/-- Where a victim stands on its way out (R91, R92). -/
inductive VictimStep where
  | backInv | awaitBuffer | reading
deriving DecidableEq, Repr, Inhabited

/-- A line selected as a victim and not yet read out (R94). -/
structure Victim where
  line : LineAddr
  set : Nat
  way : Nat
  sv : BitVec 4
  sd : BitVec 4
  step : VictimStep
  cls : Nat
  /-- The first sc in which its read may start. -/
  since : Nat
  /-- The miss entry that takes the way; none for a walk or a scrub eviction. -/
  miss : Option Nat
deriving DecidableEq, Repr, Inhabited

/-- A lock or gate walk (R99, R104): the ways still to walk, the present set of the first of them. -/
structure Walk where
  lock : Bool
  ways : List Nat
  set : Nat
  /-- All the ways of the command. -/
  all : List Nat
  target : Nat
deriving DecidableEq, Repr, Inhabited

/-- The cache (03_cache_behaviour). -/
structure Cache where
  /-- Set × 16 + way ↦ tag entry. -/
  tags : Table TagEntry
  cleanClass : BitVec 4
  fbEn : Bool
  sdEn : Bool
  kways : BitVec 5
  gate : BitVec 16
  gated : BitVec 16
  locked : Nat
  cmdRej : Bool
  walk : Option Walk
  /-- Ways being unlocked, and the sc in which that ends (R102). -/
  unlocking : Option (Nat × BitVec 16)
  /-- Ways being powered up, and the sc in which that ends (R105). -/
  powering : BitVec 16
  powerAt : Nat
  streamCnt : Table Nat
  miss : Table Miss
  fb : Table Prefetched
  fbOrder : Nat
  ev : List Evict
  victims : List Victim
  waiters : List Req
  tagSelWay : BitVec 4
  tagSelSet : BitVec 12
deriving DecidableEq, Repr

/-- The transients of Table 4.6. -/
inductive Transient where
  | tfs | tfx | ti | td | tr | tw | tm | tb
deriving DecidableEq, Repr, Inhabited

/-- A WbAck the home holds until the transaction ends (R120). -/
structure HeldAck where
  port : Port
  agent : Nat
  die : Nat
  txn : BitVec 16
  line : LineAddr
  label : Nat
deriving DecidableEq, Repr, Inhabited

/-- A tracker entry (R118). -/
structure Tracker where
  line : LineAddr
  set : Nat
  way : Nat
  tr : Transient
  /-- A WBP answer has registered. -/
  wbp : Bool
  req : Option Req
  /-- Agents whose snoop answer is awaited (the answer mask of R141 for a broadcast). -/
  await : List Nat
  /-- Agents the snoop was sent to (R114). -/
  sentTo : List Nat
  broadcast : Bool
  owner : Option Nat
  ownerWb : Bool
  requesterWb : Bool
  /-- First sc in which the timer runs, and how far it has run (R134); none: no timer. -/
  timerFrom : Option Nat
  elapsed : Nat
  /-- Directory state that preceded the transaction: the entry keeps its pointers meanwhile (Table 4.4). -/
  prev : BitVec 3
  /-- Directory part that the transaction will leave, once it is decided. -/
  next : Option DirPart
  /-- Its service waits for a miss entry or a way (R135). -/
  stalled : Bool
  held : List HeldAck
  missIndex : Option Nat
  /-- The response has been handed to egress; the sc in which its last flit leaves, once known (R120). -/
  served : Bool
  endsAt : Option Nat
deriving DecidableEq, Repr, Inhabited

/-- A transaction without a tracker entry that is active until its response has left (R118). -/
structure Active where
  id : Nat
  line : LineAddr
  agent : Nat
  die : Nat
  endsAt : Option Nat
deriving DecidableEq, Repr, Inhabited

/-- A reservation entry (R126); running is the number of sc left once the transaction has ended. -/
structure Resv where
  line : LineAddr
  agent : Nat
  die : Nat
  running : Option Nat
deriving DecidableEq, Repr, Inhabited

/-- A message whose lookup found a failing tag entry (R75, R346). -/
inductive Check where
  | req (r : Req) (fresh : Bool)
  | wb (h : Hdr) (mask : BitVec 4) (data : List CodeWord) (framed : Bool)
  | snp (h : Hdr) (outcome : Nat) (mask : BitVec 4) (data : List CodeWord)
  | pf (line : LineAddr) (cls : Nat) (mask : BitVec 4)
deriving DecidableEq, Repr, Inhabited

/-- The coherence home engine (04_coherence_protocol, 05_coherence_failures). -/
structure Coh where
  nclust : BitVec 8
  homeTmo : BitVec 20
  lock : Bool
  cfgRej : Bool
  protoErr : Bool
  trk : Table Tracker
  active : List Active
  nextActive : Nat
  resv : List Resv
  dead : BitVec 160
  /-- Agents declared dead in the present sc: their messages of this sc are still served (R145). -/
  declared : BitVec 160
  /-- Messages whose lookup found a failing tag entry: it is checked in tag stage 4, in the sc given (R75). -/
  checks : List (Nat × Check)
  tmoCnt : Table Nat
  adRej : Bool
  lastCause : BitVec 2
  lastDead : BitVec 8
  reclaim : Option Nat
  poisonLines : Nat
  snoopTmo : Nat
  muzBanks : BitVec 16
  nackNow : Nat
  nackPrev : Nat
deriving DecidableEq, Repr

/-- Slot states (R164, Table 6.2). -/
inductive SlotState where
  | empty | resv | full | taken | poison
deriving DecidableEq, Repr, Inhabited

/-- Who acts on a channel: an agent (with what its answer needs) or a context with a pending instruction. -/
inductive ChParty where
  | agent (h : Hdr)
  | ctx (c : Nat) (id : Nat)
  /-- A dead agent, whose waiting request has been dropped (R186). -/
  | gone (holder : BitVec 14)
deriving DecidableEq, Repr, Inhabited

/-- A slot of an enabled channel (R165, R167, R182). Holder none with state taken: the slice pushes it. -/
structure Slot where
  state : SlotState
  holder : Option (BitVec 14)
  age : Nat
  /-- The COMMIT that made it FULL on a push channel, with its class. -/
  commit : Option (ChParty × Nat)
  parityBad : Bool
  /-- The sc in which it came into its state: its watchdog counts the boundaries after it (R22), and a push of it begins in a
  later sc (R178). -/
  since : Nat := 0
deriving DecidableEq, Repr, Inhabited

/-- A push channel's credit reservation or push (R178, R179). -/
inductive Push where
  | idle
  | reserving (start : Nat) (held : Nat)
  | pushing
deriving DecidableEq, Repr, Inhabited

/-- A channel descriptor (Tables 6.8 to 6.11). -/
structure Channel where
  en : Bool
  muz : Bool
  litCnt : BitVec 7
  litFirst : BitVec 10
  wdog : BitVec 8
  lb : BitVec 4
  base : BitVec 19
  slotsz : BitVec 12
  owner : BitVec 14
  nslots : BitVec 17
  pi : Nat
  ci : Nat
  push : Push
  parityBad : Bool
deriving DecidableEq, Repr, Inhabited

/-- A target entry (Tables 6.13 to 6.15). -/
structure Target where
  valid : Bool
  bufsz : BitVec 12
  die : BitVec 5
  agent : BitVec 8
  base : BitVec 27
  nbuf : BitVec 9
  next : Nat
  credits : Nat
  parityBad : Bool
deriving DecidableEq, Repr, Inhabited

/-- A blocking RESERVE or TAKE that waits (R172, R300). -/
structure ChWait where
  ch : Nat
  take : Bool
  party : ChParty
deriving DecidableEq, Repr, Inhabited

/-- Kennels and channels (06_kennels_and_channels). -/
structure Ken where
  lock : Bool
  en : Bool
  base : BitVec 13
  stageEn : Bool
  stageSize : BitVec 9
  stageBase : BitVec 8
  chSel : BitVec 8
  tgtSel : BitVec 10
  chRej : Bool
  ch : Table Channel
  /-- Channel × 65,536 + slot ↦ slot. -/
  slots : Table Slot
  tgt : Table Target
  waits : List ChWait
  holds : Table (BitVec 14)
deriving DecidableEq, Repr

/-- How far a pack has come (R214, R218): it gathers until its result is formed; it reads, writes or poisons the lines of a
cacheable target; its record is to be written. -/
inductive PackPhase where
  | gathering | reading | writing | poisoning | closing
deriving DecidableEq, Repr, Inhabited

/-- A node of a pack's block (R210): level, lowest contributor, whether it is BX20, whether it is poisoned. Its values
are in the staging area. -/
structure Node where
  block : Nat
  level : Nat
  lo : Nat
  bx : Bool
  /-- First sc in which it can enter an add (R471). -/
  since : Nat
deriving DecidableEq, Repr, Inhabited

/-- A recorded fault of a pack (R216). -/
structure PackFault where
  block : Nat
  level : Nat
  idx : Nat
  cause : Nat
deriving DecidableEq, Repr, Inhabited

/-- A pack entry: the descriptor of Table 7.1 and the progress of its reduction. -/
structure Pack where
  desc : Code
  cls : Nat
  seed : Word64
  step : BitVec 48
  /-- Order of arming among packs (R193). -/
  order : Nat
  /-- Chunks accepted, as IDX × 1,024 + CHUNK. -/
  got : List Nat
  nodes : List Node
  faults : List PackFault
  sat : Nat
  repeats : Nat
  age : Nat
  /-- The sc of its arming: its watchdog counts the boundaries after it (R22). -/
  armedAt : Nat := 0
  phase : PackPhase
  /-- The cause that ended it before its completion: 3 TIMEOUT, 5 UNIT, 6 TARGET (entry 21). -/
  stop : Option Nat
  /-- Block ↦ the 16 values of its root (binary32 or int64, as staged); none: poisoned. -/
  roots : Table (Option (BitVec 1024))
  /-- First sc in which every root has been formed (R471). -/
  readyAt : Nat
  /-- Lines of a cacheable target already read, written or poisoned in the present phase. -/
  line : Nat
  /-- Target words read for an accumulation; then the final words of the result. -/
  result : List CodeWord
  parityBad : Bool
deriving DecidableEq, Repr, Inhabited

/-- What the words of PCTB, PARM and MOVE are handed to, with the class of the instruction (R295, R296, R305). -/
inductive Handoff where
  /-- A contribution, with gA and gB. -/
  | ctb (a b : Word64) (cls : Nat)
  /-- A pack descriptor: the register for the entry, and the seed and step of each stream when PARM issued (R213). -/
  | arm (gd cls : Nat) (seeds : List (Word64 × BitVec 48))
  /-- A move descriptor: the register for the engine, and the offset. -/
  | move (gd off cls : Nat)
deriving DecidableEq, Repr, Inhabited

/-- Words of an instruction on their way to a unit of the slice: the sc in which they are there (R295, R296, R305). -/
structure Contrib where
  due : Nat
  ctx : Nat
  id : Nat
  use : Handoff
  words : List CodeWord
deriving DecidableEq, Repr, Inhabited

/-- A node of a pack that exists from sc since on and has not been taken further (R210, R471); img none: poisoned. -/
structure Forming where
  entry : Nat
  block : Nat
  level : Nat
  lo : Nat
  bx : Bool
  img : Option (BitVec 1024)
  since : Nat
deriving DecidableEq, Repr, Inhabited

/-- The reduction unit (07_reduction_arithmetic). -/
structure Red where
  muz : Bool
  /-- The sc of the muzzle (R402). -/
  muzAt : Nat
  packs : Table Pack
  nextOrder : Nat
  poisonPacks : Nat
  donePacks : Nat
  /-- Sc ↦ block-add slots taken in it (R221). -/
  slots : Table Nat
  /-- Lines that an accumulate read fetched from XP without allocation (R103, R214). -/
  fetched : List (LineAddr × Table CodeWord)
  /-- Lines of pack targets whose recall ended with the line poisoned: their write is not performed (R139). -/
  spoiled : List LineAddr
  contribs : List Contrib
  forming : List Forming := []
deriving DecidableEq, Repr

/-- Who receives the answer of an atomic. -/
inductive AtomParty where
  | agent (r : Req)
  | ctx (c : Nat) (id : Nat) (gd : Nat)
deriving DecidableEq, Repr, Inhabited

/-- The pending entry of a bank (R237): the sector and half of the atomic, and the code words its write carries. -/
structure AtomPend where
  sec : Nat
  half : Bool
  lo : Code
  hi : Code
  /-- The agent, die and transaction awaiting AtRsp; none for a context. -/
  asker : Option (Nat × Nat × BitVec 16)
  parityBad : Bool
deriving DecidableEq, Repr, Inhabited

/-- The atomic unit (08_atomic_updates). -/
structure Atom where
  muz : Bool
  fbank : BitVec 4
  pend : List AtomPend
  /-- Locations of code words of which the next computed lanes fail their residue or parity check (R237). -/
  laneBad : List Nat
  doneNow : Nat
  poisNow : Nat
  donePrev : Nat
  poisPrev : Nat
deriving DecidableEq, Repr

/-- Context states (Table 9.2). -/
inductive CtxState where
  | idle | ready | stall | wait | xfer | susp | halt | fault
deriving DecidableEq, Repr, Inhabited

/-- What a context in WAIT waits for (R248, R256, R300, R304). -/
inductive WaitFor where
  | nothing
  | events (mask : Word64) (all consume : Bool)
  | heel (h : Word64)
  /-- The channel instruction of a number. -/
  | channel (id : Nat)
deriving DecidableEq, Repr, Inhabited

/-- The call record of a context (Table 9.1, R253) with the port at which the Call registered. -/
structure CallRec where
  holder : BitVec 14
  txn : BitVec 16
  reply : Bool
  port : Port
  line : LineAddr
  label : Nat
deriving DecidableEq, Repr, Inhabited

/-- What the words an instruction gathers are for (R285, R288, R290). -/
inductive Gather where
  | nothing
  | load (gd : Nat) (lane : Option Nat)
  | tile (t : Nat) (mask : BitVec 4) (form : Nat)
  | store (sat : Option (Nat × Nat))
  /-- What is handed to a unit of the slice, once its words have come. -/
  | unit (use : Handoff)
deriving DecidableEq, Repr, Inhabited

/-- What an incomplete instruction of a context is (R272, R273, R278). -/
structure Pending where
  id : Nat
  /-- General registers it will write, and the tile register (R272). -/
  regs : List Nat
  tile : Option Nat
  sts : Bool
  /-- Counted as a request (Table 10.2). -/
  request : Bool
  /-- STW, TST or ATOM (R278). -/
  store : Bool
  long : Bool
  gather : Gather
  /-- Code words that have arrived, parts still awaited, and the first status other than success. -/
  words : Table CodeWord
  left : Nat
  bad : Option Status
deriving DecidableEq, Repr, Inhabited

/-- A tile block: its format bit and its 64-byte image (Table 7.5 or 16 binary32 values). -/
structure TileBlock where
  bx : Bool
  img : BitVec 512
deriving DecidableEq, Repr, Inhabited

/-- The image that a RESTORE reads (R261): the sc in which its reads end, whether they have ended, and the instruction of
context 0 that asked for it. -/
structure Image where
  words : List Code
  readAt : Nat
  ready : Bool
  asker : Option Nat
  /-- The context was SUSP (R262). -/
  susp : Bool := true
deriving DecidableEq, Repr, Inhabited

/-- A sequencer context (Table 9.1). -/
structure Ctx where
  g : Table Word64
  pc : BitVec 14
  lastSts : BitVec 5
  heelLate : Bool
  /-- Tile × 4 + block ↦ tile block. -/
  tiles : Table TileBlock
  cls : Nat
  call : Option CallRec
  wait : WaitFor
  state : CtxState
  cause : BitVec 4
  suspPend : Bool
  haltPend : Bool
  stepping : Bool
  pend : List Pending
  /-- The latest-issued status-returning instruction (R274). -/
  stsId : Nat
  /-- First sc in which the next instruction may issue (R271). -/
  after : Nat
  /-- Items whose parity fails: 0 to 15 registers, 16 to 47 tile blocks, 48 ST (R263). -/
  parityBad : List Nat
  /-- The image of a RESTORE in progress (R261). -/
  image : Option Image
deriving DecidableEq, Repr

/-- A program store word: what was written, and which of its 72 cells have flipped since (R246). -/
structure Insn where
  word : Word64
  flips : BitVec 72
deriving DecidableEq, Repr, Inhabited

/-- A call entry (Table 9.11). -/
structure Entry where
  valid : Bool
  cmask : BitVec 16
  pc : BitVec 14
deriving DecidableEq, Repr, Inhabited

/-- A result on its way to a context: it is written in sc at (R272). -/
structure Result where
  due : Nat
  ctx : Nat
  id : Nat
  status : Option Status
  regs : List (Nat × Word64)
  tiles : List (Nat × TileBlock)
deriving DecidableEq, Repr, Inhabited

/-- The slice sequencer (09_sequencer_architecture). -/
structure Seq where
  en : Bool
  mclass : BitVec 4
  m0pc : BitVec 14
  pool : BitVec 15
  saveBase : BitVec 8
  muz : Bool
  mcause : BitVec 2
  cmdRej : Bool
  entrySel : BitVec 8
  ctxSel : BitVec 4
  ctx : Table Ctx
  pstore : Table Insn
  psPending : Word32
  cur : Option Nat
  lastIssue : Nat
  /-- The context that departed from the issue slot last (R249). -/
  departed : Nat
  notBefore : Nat
  /-- Contexts released by a heel that have not had their turn, each with the sc of it, and all those released (R25). -/
  heelQ : List (Nat × Nat)
  heelAll : List Nat
  events : Word64
  evNext : Word64
  /-- Flags set in this sc: a W1C write of the same sc does not clear them (R446). -/
  evArr : Word64 := 0
  entries : Table Entry
  /-- The conditions of the deadlock rule have held so far in this frame (R266). -/
  quiet : Bool
  done : List Result
  nextId : Nat
deriving DecidableEq, Repr

/-- A line request of a move that has not completed (R321, R322): its first byte relative to the range, its length, and the
data of a write. -/
structure MoveReq where
  off : Nat
  len : Nat
  write : Bool
  data : List CodeWord
  /-- Its number among the requests of the move, in the order of issue (R327). -/
  num : Nat := 0
deriving DecidableEq, Repr, Inhabited

/-- How an accepted move ends (Table 11.5): status, cause, line address of the request that ended it. -/
structure MoveEnd where
  status : Status
  cause : Nat
  line : LineAddr
deriving DecidableEq, Repr, Inhabited

/-- A mover engine (11_bulk_mover). -/
structure Engine where
  muz : Bool
  busy : Bool
  parityBad : Bool
  /-- The number of the move among all moves accepted since reset: an answer for an earlier move is discarded (R328). -/
  serial : Nat
  desc : BitVec 512
  descOff : Nat
  sb : Bool
  cls : Nat
  holder : Option (BitVec 14)
  /-- Positions of the range already passed, sixteen to a 4 KiB block, in the order of R321. -/
  pos : Nat
  /-- First sc in which the engine may issue again. -/
  next : Nat
  flight : List MoveReq
  /-- Those of flight that must be sent again (R322). -/
  again : List MoveReq
  /-- Source code words that have arrived and have not been written, by their number within the range. -/
  buf : Table CodeWord
  /-- Completed bytes: a prefix of the range, and parts beyond it as (offset, length). -/
  done : Nat
  parts : List (Nat × Nat)
  ended : Option MoveEnd
  /-- The sc in which the answer that ended it registered, and the number of its request (R327). -/
  endKey : Nat × Nat := (0, 0)
  /-- Requests issued. -/
  issued : Nat := 0
  timedOut : Bool
  age : Nat
  /-- The sc of the acceptance: the watchdog counts the boundaries after it (R22). -/
  takenAt : Nat := 0
deriving DecidableEq, Repr, Inhabited

/-- The bulk mover. -/
structure Mov where
  eng : Table Engine
  /-- Moves accepted since reset. -/
  serial : Nat
  /-- Kennel writes of moves that have started: the sc in which each is written, engine, move, offset in the range (R278). -/
  written : List (Nat × Nat × Nat × Nat) := []
  desc : BitVec 512
  resValid : Bool
  resEngine : BitVec 3
  resStatus : Status
deriving DecidableEq, Repr

/-- A class: its configuration and its counts (12_regulation). -/
structure Class where
  prio : BitVec 2
  res : BitVec 8
  leash : BitVec 22
  xres : BitVec 9
  bytes : Nat
  /-- Bank ↦ accesses started in the present window. -/
  starts : Table Nat
  xpWords : Nat
  leftLeash : Bool
  /-- The class has kept an XP request outstanding in every sc of the window (R351). -/
  asking : Bool
  shortNow : Nat
  overNow : Nat
  shortPrev : Nat
  overPrev : Nat
deriving DecidableEq, Repr

/-- An address range (Table 12.6). -/
structure Range where
  valid : Bool
  cls : BitVec 4
  base : BitVec 28
  limit : BitVec 28
deriving DecidableEq, Repr, Inhabited

/-- The regulator. -/
structure Reg where
  lock : Bool
  mode : Bool
  defclass : BitVec 4
  winLog2 : BitVec 5
  winPend : Option (BitVec 5)
  grant : BitVec 9
  admRej : Bool
  regRej : Bool
  clsSel : BitVec 4
  rangeSel : BitVec 4
  cls : Table Class
  range : Table Range
  suspNow : BitVec 16
  suspPrev : BitVec 16
deriving DecidableEq, Repr

/-- A stream (14_determinism_and_audit R380). -/
structure Stream where
  seed : Word64
  step : BitVec 48
  seedPend : Word32
  stepPend : Word32
  acc : BitVec 128
  leaves : Word64
  spoiled : Bool
  /-- The sc in which the last SCABS issued on the stream completes (R310); 0: none. -/
  busy : Nat
  broken : Bool
  /-- Parity fails in the seed, the step counter, the scent context. -/
  seedBad : Bool
  stepBad : Bool
  scentBad : Bool
deriving DecidableEq, Repr, Inhabited

/-- The determinism unit. -/
structure Det where
  lock : Bool
  cmdRej : Bool
  strSel : BitVec 4
  streams : Table Stream
  psValid : Bool
  psBusy : Nat
  psDigest : BitVec 128
  shadows : Shadows
deriving DecidableEq, Repr

/-- The containment monitor (15_containment_and_safety). -/
structure Saf where
  lock : Bool
  rptEn : Bool
  hbEn : Bool
  sclass : BitVec 4
  ringLog2 : BitVec 4
  rptBase : BitVec 43
  hbAddr : BitVec 43
  pend : Bool
  /-- The register behind sb_alert, one sc after PEND (R408). -/
  alert : Bool
  fatal : Bool
  rptFail : Bool
  hbFail : Bool
  cfgRej : Bool
  lost : Nat
  lostRun : Nat
  seq : Word32
  logSel : BitVec 4
  log : List Code
  queue : List Code
  /-- The records formed in the present sc, in order of formation, each with whether it is for the queue (R404); SEQ and the number of
  records lost in a row before the first of them. -/
  formed : List (Code × Bool)
  base : Word32 × Nat
  /-- TXN of the report write and of the heartbeat write that await an answer. -/
  rptFlight : Option (BitVec 16)
  hbFlight : Option (BitVec 16)
  hbRecord : Code
  hbFirst : Bool
  /-- RWL fields whose configuration parity fails, by register offset in words; and the monitor's own parity (R399, R403). -/
  cfgBad : List Nat
  monBad : Bool
deriving DecidableEq, Repr

/-- Links (R423, R424) and the seam map (R440). -/
structure Lnk where
  stuck : BitVec 6
  xpWerr : Nat
  xpUnex : Nat
  replays : Nat
  seam : BitVec 160
  /-- Port rank ↦ consecutive failures of one flit, receive and send. -/
  rxFail : Table Nat
  txFail : Table Nat
  /-- Port rank ↦ the sc of a flit's replay, before which nothing is accepted (Table 16.7). -/
  rxOpen : Table Nat
  /-- Port rank × 8 + channel ↦ egress credits; ingress credits owed to the sender. -/
  txCrd : Table Nat
  rxOwed : Table Nat
  initPulses : Nat
  /-- Port rank ↦ first sc in which the egress port is free. -/
  txFree : Table Nat
  /-- The last flits sent on each port, newest first; at most four per port. -/
  last4 : List Flit
deriving DecidableEq, Repr

/-- What follows a foreground array access (the row BANK_ACCESS_START). -/
inductive Purpose where
  /-- A read served at the home: the opcode of its answer (8: POISON), and the directory part from before its grant. -/
  | home (r : Req) (tx : TxRef) (op : Nat) (was : DirPart)
  /-- The read of the sectors that a granted requester of a miss names and that were valid (R469). -/
  | send (miss : Nat) (r : Req) (tx : TxRef)
  /-- A read of a kennel by an agent: DataU. -/
  | kennel (r : Req)
  /-- No read takes place: an answer leaves as the data of a hit on the same banks would (R32, R97). -/
  | timed (r : Req) (tx : TxRef) (op : Nat) (st : Status) (words : Table CodeWord)
  /-- The transaction has ended otherwise (R155). -/
  | discard
  /-- Code words of a load or tile load of a context: the place of each among the words of the sectors, and its number
  within the instruction's words. -/
  | seqRead (c id : Nat) (want : List (Nat × Nat))
  | atomRead (who : AtomParty) (op : AtomOp) (opnd cmp : Code) (cached : Bool)
  /-- An atomic's write (R231); for a context's atomic, the completion it brings (R278). -/
  | atomWrite (done : Option Result)
  /-- A store of a context completes. -/
  | store (c id : Nat)
  | write
  /-- A fill write of a miss entry (R88). -/
  | fill (miss : Nat)
  /-- The read of a victim (R92). -/
  | evict (line : LineAddr)
  /-- A kennel read of a move: the engine, the move's serial number, the request, and which of the sectors' code words it
  covers. -/
  | moveRead (engine serial off skip count : Nat)
  | moveWrite (engine serial off : Nat)
deriving DecidableEq, Repr, Inhabited

/-- A waiting foreground array access: the sectors of one line it names, all started in one sc (R79). -/
structure Access where
  id : Nat
  ready : Nat
  cls : Nat
  /-- 0 ingress; 1 fills and eviction reads; 2 sequencer; 4 + e mover engine e (key 4 of R343). -/
  source : Nat
  secs : List Nat
  /-- Location ↦ code word to write; empty for a read. -/
  data : Table CodeWord
  isWrite : Bool
  kennel : Bool
  purpose : Purpose
deriving DecidableEq, Repr, Inhabited

/-- The access takes no bank: only its answer is timed. -/
def Access.ghost (a : Access) : Bool := match a.purpose with
  | .timed _ _ _ _ _ => true
  | _ => false

/-- A code word in the corrector: its cells as the bank delivered them, none where a poison mark was pending (R63); whether
it has been written since reset and, where it has not, whether its outcome is noted (R57); whether a foreground write has
replaced the word since (R55). -/
structure Seen where
  loc : Nat
  cells : Option Cells
  known : Bool
  noted : Bool
  stale : Bool
deriving DecidableEq, Repr, Inhabited

/-- A read in the corrector: it goes to its reader in sc due (R53, Table 1.4). -/
structure Reading where
  due : Nat
  acc : Access
  seen : List Seen
deriving DecidableEq, Repr, Inhabited

/-- The code words of an XRsp in the XP ingress check: the first leaves it in sc due (R87, Table 3.2). -/
structure XpData where
  due : Nat
  txn : Nat
  /-- In order of arrival. -/
  words : Table CodeWord
deriving DecidableEq, Repr, Inhabited

/-- The shared resources: array banks and XP. -/
structure Fg where
  /-- Messages that no port can register in the present sc, in order (R121): they register in a later one. -/
  held : List Instr := []
  accs : List Access
  reads : List Reading
  bankFree : Table Nat
  xpq : List OutMsg
  xpIn : List XpData
  xpFree : Nat
  nextId : Nat
deriving DecidableEq, Repr

/-- The SB reads that capture a shadow (Table 17.2). -/
inductive SbRead where
  | counterLo | seedLo | stepLo | scent0 | pscent0 | tagData0
  | pstoreLo (index : BitVec 14)
deriving DecidableEq, Repr, Inhabited

/-- SB responses (Table 16.10). A read is sampled at the end of its sc (R446). -/
structure SbResp where
  leaves : Nat
  resp : BitVec 2
  data : Word32
  read : Option SbRead := none
deriving DecidableEq, Repr, Inhabited

/-- For whom the slice originated a request (R276, R322, R407, R409). -/
inductive Origin where
  /-- A line of a load or tile load of a context: as in Purpose.seqRead, the place among the words of the answer. -/
  | seqRead (c id : Nat) (want : List (Nat × Nat))
  /-- A line of a store of a context. -/
  | seqStore (c id : Nat)
  | atom (c id gd : Nat) (writes : Bool)
  | pctb (c id : Nat)
  | call (c id gd : Nat) (reply : Bool)
  /-- A line of a move: the engine, the move's serial number, the request. -/
  | move (engine serial off : Nat) (write : Bool)
  | report
  | heartbeat
deriving DecidableEq, Repr, Inhabited

/-- A request of the slice that awaits its answer, by its TXN. -/
structure Originated where
  txn : BitVec 16
  who : Origin
  msg : OutMsg
deriving DecidableEq, Repr, Inhabited

/-- Outputs and originated requests. -/
structure Out where
  egress : List OutMsg
  wire : List OutMsg
  sb : List SbResp
  scan : List Word32
  orig : List Originated
  nextTxn : BitVec 14
deriving DecidableEq, Repr

/-- The state of the slice. -/
structure State where
  pending : List Instr
  fresh : Nat
  env : Env
  tick : Tick
  fuse : Fuse
  arr : Arr
  bg : Bg
  cache : Cache
  coh : Coh
  ken : Ken
  red : Red
  atom : Atom
  seq : Seq
  mov : Mov
  reg : Reg
  det : Det
  saf : Saf
  lnk : Lnk
  fg : Fg
  out : Out
deriving DecidableEq, Repr

/-- A context after reset: IDLE (R242). DESIGN CHOICE (entry 10): its registers hold 0. -/
def Ctx.idle : Ctx :=
  { g := [], pc := 0, lastSts := 0, heelLate := false, tiles := [], cls := 0, call := none, wait := .nothing,
    state := .idle, cause := 0, suspPend := false, haltPend := false, stepping := false, pend := [], stsId := 0, after := 0,
    parityBad := [], image := none }

/-- A tile block of BX20 zero (R243): what an unlisted block of a tile holds. -/
def TileBlock.zero : TileBlock := { bx := true, img := 0 }

/-- A class after reset (Table 12.4): LEASH 4,194,303, everything else 0. -/
def Class.initial : Class :=
  { prio := 0, res := 0, leash := 4194303, xres := 0, bytes := 0, starts := [], xpWords := 0, leftLeash := false,
    asking := false, shortNow := 0, overNow := 0, shortPrev := 0, overPrev := 0 }

/-- An empty stream (R380). -/
def Stream.initial : Stream :=
  { seed := 0, step := 0, seedPend := 0, stepPend := 0, acc := 0, leaves := 0, spoiled := false, busy := 0,
    broken := false, seedBad := false, stepBad := false, scentBad := false }

/-- The telemetry counts at the start of a span. -/
def Tel.zero : Tel :=
  { span := 0, parkIn := false, ovfIn := false, rtIn := false, calIn := false, missIn := false, ceFg := 0, ceBg := 0,
    ue := 0, rwFull := 0, retired := 0, trkDrop := 0, scrubbed := 0, idle := 0, skipped := 0, pfDrop := 0,
    fbUnused := 0, pstoreCe := 0, snoopTmo := 0, poisonLines := 0, deadDecl := 0, susp := 0, cls := [] }

def Done.none : Done :=
  { frame := false, window := false, calib := false, deadlock := false, scrub := 0, lookup := false,
    intake := false, reclaim := false, compare := false, taken := [], raised := 0 }

def Env.reset : Env :=
  { phase := .held, sc := 0, idSlice := 0, idDie := 0, idAgent := 0, idSub := 0, pkReq := false, pkAck := false,
    ackNext := false, drainAt := 0, reopenAt := 0, scRun := false, reload := false, smHold := 0, sbRdy := false,
    sbOpen := false, wir := 0, boundary := 0, wsUndefined := false,
    done := Done.none }

def Tick.reset : Tick :=
  { counter := 0, load := none, cntValid := false, cntFault := false, strobeLate := false, cfgRej := false, strobeAge := 0,
    frameLog2 := 21, framePend := none, lock := false, parkFrames := 0 }

def Shadows.reset : Shadows :=
  { counter := 0, seed := 0, step := 0, scent := 0, pscent := 0, tag := 0, pstore := 0 }

def Fuse.reset : Fuse := { stream := 0, loaded := false, bad := false }

def Arr.reset : Arr :=
  { cells := [], lines := [], postBad := [], written := 0, rtExhaust := false, spareRej := false, spares := [], spareBank := 0, spareEntry := 0,
    wayInit := 0 }

def Bg.reset : Bg :=
  { work := [], copies := [], cals := [], codes := [], scrubPtr := [], tracker := [], slotPeriod := [],
    scrubEn := true, calFrames := 64, scrubLog2 := 15, telEn := false, telRing := 0, telBase := 0, cfgRej := false,
    telMiss := false, calFail := 0, cel := [], celNow := [], celOvf := false, celSel := 0, ceFg := 0, ceBg := 0, ueCnt := 0,
    retiredCnt := 0, calDeferred := false, tel := Tel.zero }

def Cache.reset : Cache :=
  { tags := [], cleanClass := 0, fbEn := true, sdEn := true, kways := 0, gate := 0, gated := 0, locked := 0,
    cmdRej := false, walk := none, unlocking := none, powering := 0, powerAt := 0, streamCnt := [], miss := [], fb := [],
    fbOrder := 0, ev := [], victims := [], waiters := [], tagSelWay := 0, tagSelSet := 0 }

def Coh.reset : Coh :=
  { nclust := 160, homeTmo := 4096, lock := false, cfgRej := false, protoErr := false, trk := [], active := [],
    nextActive := 0, resv := [], dead := 0, declared := 0, checks := [], tmoCnt := [], adRej := false, lastCause := 0, lastDead := 0,
    reclaim := none, poisonLines := 0, snoopTmo := 0, muzBanks := 0, nackNow := 0, nackPrev := 0 }

def Ken.reset : Ken :=
  { lock := false, en := false, base := 0, stageEn := false, stageSize := 0, stageBase := 0, chSel := 0, tgtSel := 0,
    chRej := false, ch := [], slots := [], tgt := [], waits := [], holds := [] }

def Red.reset : Red :=
  { muz := false, muzAt := 0, packs := [], nextOrder := 0, poisonPacks := 0, donePacks := 0, slots := [], fetched := [], spoiled := [], contribs := [] }

def Atom.reset : Atom :=
  { muz := false, fbank := 0, pend := [], laneBad := [], doneNow := 0, poisNow := 0, donePrev := 0, poisPrev := 0 }

def Seq.reset : Seq :=
  { en := false, mclass := 0, m0pc := 0, pool := 0, saveBase := 0, muz := false, mcause := 0, cmdRej := false,
    entrySel := 0, ctxSel := 0, ctx := [], pstore := [], psPending := 0, cur := none, lastIssue := 0, departed := 15, notBefore := 0,
    heelQ := [], heelAll := [], events := 0, evNext := 0, entries := [], quiet := false, done := [], nextId := 1 }

def Mov.reset : Mov := { eng := [], serial := 0, desc := 0, resValid := false, resEngine := 0, resStatus := .ok }

def Reg.reset : Reg :=
  { lock := false, mode := false, defclass := 0, winLog2 := 12, winPend := none, grant := 0, admRej := false,
    regRej := false, clsSel := 0, rangeSel := 0, cls := [], range := [], suspNow := 0, suspPrev := 0 }

def Det.reset : Det :=
  { lock := false, cmdRej := false, strSel := 0, streams := [], psValid := false, psBusy := 0, psDigest := 0,
    shadows := Shadows.reset }

def Saf.reset : Saf :=
  { lock := false, rptEn := false, hbEn := false, sclass := 0, ringLog2 := 0, rptBase := 0, hbAddr := 0, pend := false,
    alert := false, fatal := false, rptFail := false, hbFail := false, cfgRej := false, lost := 0, lostRun := 0,
    seq := 0, logSel := 0, log := [], queue := [], formed := [], base := (0, 0), rptFlight := none, hbFlight := none, hbRecord := 0,
    hbFirst := false, cfgBad := [], monBad := false }

def Lnk.reset : Lnk :=
  { stuck := 0, xpWerr := 0, xpUnex := 0, replays := 0, seam := 0, rxFail := [], txFail := [], rxOpen := [], txCrd := [],
    rxOwed := [], initPulses := 0, txFree := [], last4 := [] }

def Fg.reset : Fg := { held := [], accs := [], reads := [], bankFree := [], xpq := [], xpIn := [], xpFree := 0, nextId := 0 }

def Out.reset : Out := { egress := [], wire := [], sb := [], scan := [], orig := [], nextTxn := 0 }

/-- The slice while rs_n is 0 (R457, R459): every register at its reset value, nothing listed in any table. -/
def State.reset : State :=
  { pending := [], fresh := 0, env := Env.reset, tick := Tick.reset, fuse := Fuse.reset, arr := Arr.reset,
    bg := Bg.reset, cache := Cache.reset, coh := Coh.reset, ken := Ken.reset, red := Red.reset, atom := Atom.reset,
    seq := Seq.reset, mov := Mov.reset, reg := Reg.reset, det := Det.reset, saf := Saf.reset, lnk := Lnk.reset,
    fg := Fg.reset, out := Out.reset }

/-- Faults of the model. -/
inductive Fault where
  /-- Raised by every functional command after WS_EXTEST, WS_INTEST, WS_CLAMP or WS_SAFE has been in effect and before
  the next reset: R442 leaves the state undefined. Safe: the hardware goes on, the model says nothing of it. -/
  | wrapperUndefined
deriving DecidableEq, Repr

/-- Refusals of the model. -/
inductive Refusal where
  /-- Raised by exec's arm of a command that has no meaning yet. Safe. -/
  | notModelled (mnemonic : String)
deriving DecidableEq, Repr

end Sys2Proof.Machine
end

