-- ==== Sys2Proof/Machine/Table.lean ====
section
/-! DEFINITION. Operations on the sparse tables: look up, put, erase, and read or write with a default entry that is never
listed. Every table the model builds keeps its indices strictly rising. -/

namespace Sys2Proof.Machine

/-- The entry at index k, if one is listed. -/
def tfind {α : Type} (t : Table α) (k : Nat) : Option α :=
  match t with
  | [] => none
  | (i, a) :: r => if i = k then some a else tfind r k

/-- List entry a at index k. -/
def tput {α : Type} (t : Table α) (k : Nat) (a : α) : Table α :=
  match t with
  | [] => [(k, a)]
  | (i, b) :: r => if k < i then (k, a) :: (i, b) :: r else if k = i then (k, a) :: r else (i, b) :: tput r k a

/-- Unlist index k. -/
def terase {α : Type} (t : Table α) (k : Nat) : Table α :=
  match t with
  | [] => []
  | (i, b) :: r => if i = k then terase r k else (i, b) :: terase r k

/-- The entry at k, or d where none is listed. -/
def tget {α : Type} (d : α) (t : Table α) (k : Nat) : α := (tfind t k).getD d

/-- Write entry a at k, in a table whose unlisted indices read as d. -/
def tset {α : Type} [DecidableEq α] (d : α) (t : Table α) (k : Nat) (a : α) : Table α :=
  if a = d then terase t k else tput t k a

/-- Change the entry at k. -/
def tmod {α : Type} [DecidableEq α] (d : α) (t : Table α) (k : Nat) (f : α → α) : Table α := tset d t k (f (tget d t k))

/-- Change the entry at k where one is listed. -/
def tupd {α : Type} (t : Table α) (k : Nat) (f : α → α) : Table α :=
  match tfind t k with
  | none => t
  | some a => tput t k (f a)

/-- The lowest index below n at which nothing is listed. -/
def tfree {α : Type} (t : Table α) (n : Nat) : Option Nat := (List.range n).find? fun k => (tfind t k).isNone

/-- Every index is at least n, and the indices rise strictly. -/
def tableFrom {α : Type} (n : Nat) (t : Table α) : Bool :=
  match t with
  | [] => true
  | (i, _) :: r => decide (n ≤ i) && tableFrom (i + 1) r

/-- The canonical form of a table. -/
def tableWf {α : Type} (t : Table α) : Bool := tableFrom 0 t

/-- No entry of a table equals what an unlisted index reads as. -/
def tableClean {α : Type} [DecidableEq α] (d : α) (t : Table α) : Bool := t.all fun p => decide (p.2 ≠ d)

end Sys2Proof.Machine
end

