-- ==== Sys2Proof/Machine/Ops.lean ====
section
/-! DEFINITION. Operations every unit uses: when a command acts, counter and frames, classes and charges, reports, and the
messages the slice sends. -/

namespace Sys2Proof.Machine

/-- What no command but a register write or a reset changes: the queue, the fuse stream, the identity, the program store, and
the registers that only software writes (R445, R450). -/
def settle (s t : State) : State :=
  { t with
    pending := s.pending
    fuse := s.fuse
    env := { t.env with idSlice := s.env.idSlice, idDie := s.env.idDie, idAgent := s.env.idAgent, idSub := s.env.idSub,
                        wir := s.env.wir, boundary := s.env.boundary, wsUndefined := s.env.wsUndefined,
                        phase := s.env.phase }
    arr := { t.arr with spareBank := s.arr.spareBank, spareEntry := s.arr.spareEntry }
    bg := { t.bg with scrubEn := s.bg.scrubEn, calFrames := s.bg.calFrames, scrubLog2 := s.bg.scrubLog2,
                      telEn := s.bg.telEn, telRing := s.bg.telRing, telBase := s.bg.telBase, celSel := s.bg.celSel }
    coh := { t.coh with nclust := s.coh.nclust, homeTmo := s.coh.homeTmo, lock := s.coh.lock }
    ken := { t.ken with lock := s.ken.lock, en := s.ken.en, base := s.ken.base, stageEn := s.ken.stageEn,
                        stageSize := s.ken.stageSize, stageBase := s.ken.stageBase, chSel := s.ken.chSel,
                        tgtSel := s.ken.tgtSel }
    det := { t.det with lock := s.det.lock, strSel := s.det.strSel }
    cache := { t.cache with cleanClass := s.cache.cleanClass, fbEn := s.cache.fbEn, sdEn := s.cache.sdEn,
                            kways := s.cache.kways, gate := s.cache.gate, tagSelWay := s.cache.tagSelWay,
                            tagSelSet := s.cache.tagSelSet }
    seq := { t.seq with en := s.seq.en, mclass := s.seq.mclass, m0pc := s.seq.m0pc, saveBase := s.seq.saveBase,
                        entrySel := s.seq.entrySel, ctxSel := s.seq.ctxSel, entries := s.seq.entries,
                        psPending := s.seq.psPending, pstore := s.seq.pstore }
    reg := { t.reg with lock := s.reg.lock, mode := s.reg.mode, defclass := s.reg.defclass, grant := s.reg.grant,
                        clsSel := s.reg.clsSel, rangeSel := s.reg.rangeSel, range := s.reg.range }
    saf := { t.saf with lock := s.saf.lock, rptEn := s.saf.rptEn, hbEn := s.saf.hbEn, sclass := s.saf.sclass,
                        ringLog2 := s.saf.ringLog2, rptBase := s.saf.rptBase, hbAddr := s.saf.hbAddr,
                        logSel := s.saf.logSel }
    lnk := { t.lnk with seam := s.lnk.seam } }

/-- Keep the frame length and the window length, which change only at their boundaries and by register writes. -/
def settlePeriods (s t : State) : State :=
  { t with tick := { t.tick with frameLog2 := s.tick.frameLog2, framePend := s.tick.framePend, lock := s.tick.lock }
           reg := { t.reg with winLog2 := s.reg.winLog2, winPend := s.reg.winPend } }

/-- Keep the frame length and the window length, but where a pending one has been taken up (R18, R340). -/
def settlePassed (s t : State) : State :=
  let frame := s.tick.framePend.isSome && t.tick.framePend.isNone
  let win := s.reg.winPend.isSome && t.reg.winPend.isNone
  { t with
    tick := { t.tick with frameLog2 := if frame then s.tick.framePend.getD s.tick.frameLog2 else s.tick.frameLog2
                          framePend := if frame then none else s.tick.framePend
                          lock := s.tick.lock }
    reg := { t.reg with winLog2 := if win then s.reg.winPend.getD s.reg.winLog2 else s.reg.winLog2
                        winPend := if win then none else s.reg.winPend } }

/-- An effect that writes no configuration register: what `settle` and `settlePeriods` name stays. -/
def keepConfig (body : State → State) (s : State) : State := settle s (settlePeriods s (body s))

/-- When a command of the functional interface acts (entry 2): once the slice is in service. Before, a message is not
accepted and an event does not come about. After a wrapper instruction of R442 the state is undefined. -/
def inService (s : State) (body : State → State) : Host.Outcome State Fault Refusal :=
  if s.env.wsUndefined then .fault .wrapperUndefined
  else if s.env.phase = .ready then .next (settle s (body s))
  else .next s

/-- A message or an event: it changes no register that only software writes. -/
def event (s : State) (body : State → State) : Host.Outcome State Fault Refusal :=
  inService s fun s => settlePeriods s (body s)

/-- What moves the counter of a parked slice: it may take up a pending length, and changes no other such register. -/
def counterEvent (s : State) (body : State → State) : Host.Outcome State Fault Refusal :=
  inService s fun s => settlePassed s (body s)

/-- The same as `event`, where a condition says whether the event is due. -/
def eventIf (due : State → Bool) (s : State) (body : State → State) : Host.Outcome State Fault Refusal :=
  event s fun s => if due s then body s else s

/-- The atomic unit answers as muzzled (R238, R403). -/
def atomOff (s : State) : Bool := s.atom.muz || s.saf.fatal

/-- Parked: pk_ack is 1 (R437). -/
def parked (s : State) : Bool := s.env.pkAck

/-- Draining for park, or parked: requests of R436 are answered with PARKED. The request registered at drainAt acts from
the sc after it; service returns in sc reopenAt. -/
def draining (s : State) : Bool :=
  (s.env.pkReq && decide (s.env.drainAt < s.env.sc)) || s.env.pkAck || decide (s.env.sc < s.env.reopenAt)

/-- The number of the present frame; 0 while CNT_VALID is 0 (R14, R17). -/
def frameNumber (s : State) : Nat :=
  if s.tick.cntValid then s.tick.counter.toNat / 2 ^ s.tick.frameLog2.toNat else 0

/-- The counter is a multiple of 2^l (R19). -/
def onMultiple (s : State) (l : Nat) : Bool := s.tick.cntValid && s.tick.counter.toNat % 2 ^ l == 0

/-- The SLICE field of records (Table 15.5). -/
def sliceField (s : State) : Nat := s.env.idSlice.toNat + s.env.idDie.toNat * 2 ^ 11

/-- The encodings of Table 16.8 (R425). -/
def statusCode : Status → Nat
  | .ok => 0 | .empty => 1 | .emptyMove => 2 | .slotFull => 3 | .bounds => 4 | .litterBusy => 5 | .packCollision => 6
  | .parked => 7 | .poison => 8 | .nackRetry => 9 | .muzzled => 10

/-- A status received: codes 0x0B to 0x1F are taken as POISON (R425). -/
def statusOf (n : Nat) : Status :=
  match n with
  | 0 => .ok | 1 => .empty | 2 => .emptyMove | 3 => .slotFull | 4 => .bounds | 5 => .litterBusy | 6 => .packCollision
  | 7 => .parked | 8 => .poison | 9 => .nackRetry | 10 => .muzzled | _ => .poison

/-! ### Classes (12_regulation) -/

def getClass (s : State) (c : Nat) : Class := tget Class.initial s.reg.cls c
def setClass (s : State) (c : Nat) (f : Class → Class) : State :=
  { s with reg := { s.reg with cls := tmod Class.initial s.reg.cls c f } }

/-- A class is within its leash (R341); without windows every class is (R340). -/
def withinLeash (s : State) (c : Nat) : Bool :=
  !s.tick.cntValid || decide ((getClass s c).bytes < (getClass s c).leash.toNat * 64)

/-- The effective level of a class (R342). -/
def level (s : State) (c : Nat) : Nat := if withinLeash s c then (getClass s c).prio.toNat else 0

/-- The window length W (R340). -/
def window (s : State) : Nat := 2 ^ s.reg.winLog2.toNat

/-- The reserved accesses R_c and code words X_c of a window (R347, R350). -/
def resAccesses (s : State) (c : Nat) : Nat := (getClass s c).res.toNat * window s / 2048
def resWords (s : State) (c : Nat) : Nat := (getClass s c).xres.toNat * s.reg.grant.toNat * window s / 65536

/-- A class is within its reservation on a bank (R347). -/
def withinBank (s : State) (c bank : Nat) : Bool :=
  s.tick.cntValid && decide (tget 0 (getClass s c).starts bank < resAccesses s c)

/-- A class is within its XP reservation (R350). -/
def withinXp (s : State) (c : Nat) : Bool := s.tick.cntValid && decide ((getClass s c).xpWords < resWords s c)

/-- A class is within a leash of n (R341). -/
def Class.within (k : Class) (n : Nat) : Bool := decide (k.bytes < n * 64)

/-- Charge n bytes to a class (R341). DEDUCED (entry 62): a class leaves its leash where it was within it and is no longer. -/
def charge (c n : Nat) (s : State) : State :=
  if s.tick.cntValid then
    setClass s c fun k =>
      { k with bytes := k.bytes + n
               leftLeash := k.leftLeash || (k.within k.leash.toNat && decide (k.leash.toNat * 64 ≤ k.bytes + n)) }
  else s

/-- Charge one sector access on a bank (Table 12.1, R347). -/
def chargeSector (c bank : Nat) (s : State) : State :=
  if s.tick.cntValid then
    setClass (charge c 64 s) c fun k => { k with starts := tmod 0 k.starts bank (· + 1) }
  else s

/-- Charge n code words that cross XP (Table 12.1, R350). -/
def chargeXp (c n : Nat) (s : State) : State :=
  if s.tick.cntValid then setClass (charge c (32 * n) s) c fun k => { k with xpWords := k.xpWords + n } else s

/-- The lowest-numbered valid range entry that holds a line (R338). -/
def rangeOf (s : State) (line : LineAddr) : Option (BitVec 4) :=
  let mb := line.toNat / 2 ^ 12
  (List.range 16).findSome? fun n =>
    match tfind s.reg.range n with
    | some r => if r.valid && decide (r.base.toNat ≤ mb) && decide (mb ≤ r.limit.toNat) then some r.cls else none
    | none => none

/-- The class of a message (R337). -/
def classOf (s : State) (line : LineAddr) (label : Nat) : Nat :=
  if s.reg.mode then ((rangeOf s line).getD s.reg.defclass).toNat else label % 16

/-! ### Muzzles and reports (15_containment_and_safety) -/

/-- At least one channel is muzzled (Table 13.2). -/
def anyChannelMuz (s : State) : Bool := s.ken.ch.any fun p => p.2.muz

/-- The MUZ field of Table 13.2. -/
def muzField (s : State) : Nat :=
  s.coh.muzBanks.toNat + b01 s.atom.muz * 2 ^ 16 + b01 s.red.muz * 2 ^ 17 + b01 s.seq.muz * 2 ^ 18
    + (List.range 8).foldl (fun a e => a + (match tfind s.mov.eng e with
        | some g => b01 g.muz * 2 ^ (19 + e)
        | none => 0)) 0
    + b01 (anyChannelMuz s) * 2 ^ 27

/-- The sequence number after n (R404). -/
def nextSeq (n : Word32) : Word32 := if n = 0xFFFFFFFF#32 then 1 else n + 1

/-- The slice sets a W1C status bit (R446), numbered as `Done.raised` says. -/
def raise (k : Nat) (s : State) : State :=
  { s with env := { s.env with done := { s.env.done with raised := setBit s.env.done.raised k true } } }

/-- The record of Table 15.5. -/
def reportRecord (s : State) (seq : Word32) (ev react muzid lost detail : Nat) : Code :=
  BitVec.ofNat 256 (pack [(0, 32, seq.toNat), (32, 32, frameNumber s), (64, 16, sliceField s), (80, 8, ev),
    (88, 8, react), (96, 16, muzid), (112, 16, min lost 65535), (128, 128, detail)])

/-- The records formed in this sc with one more (R404). -/
def Saf.form (m : Saf) (r : Code) (queued : Bool) : Saf :=
  { m with formed := m.formed ++ [(r, queued)], base := if m.formed.isEmpty then (m.seq, m.lostRun) else m.base, pend := true }

/-- A record that does not enter the queue (R404, R407): it is counted as not queued. -/
def logRecord (forQueue : Bool) (ev react muzid detail : Nat) (s : State) : State :=
  let seq := nextSeq s.saf.seq
  let r := reportRecord s seq ev react muzid (s.saf.lostRun + 1) detail
  let m := s.saf.form r forQueue
  { s with saf := { m with seq := seq, log := (r :: s.saf.log).take 16, lostRun := s.saf.lostRun + 1,
                           lost := satAdd 65535 s.saf.lost 1 } }

/-- A report that is never written to the ring (R407). -/
def reportUnqueued (ev react muzid detail : Nat) (s : State) : State := logRecord false ev react muzid detail s

/-- Form a report (R404): it takes the next sequence number, enters the log, and enters the queue where there is room. -/
def report (ev react muzid detail : Nat) (s : State) : State :=
  if s.saf.queue.length < 64 then
    let seq := nextSeq s.saf.seq
    let r := reportRecord s seq ev react muzid s.saf.lostRun detail
    let m := s.saf.form r true
    { s with saf := { m with seq := seq, log := (r :: s.saf.log).take 16, queue := s.saf.queue ++ [r], lostRun := 0 } }
  else logRecord true ev react muzid detail s

/-- Bits of the first detail field of a record, by its event (Tables 15.4 and 15.6). -/
def firstDetailBits (ev : Nat) : Nat :=
  if ev = 0x10 ∨ ev = 0x11 ∨ ev = 0x48 then 19
  else if ev = 0x24 ∨ (0x30 ≤ ev ∧ ev ≤ 0x32) then 8
  else if ev = 0x22 ∨ ev = 0x23 ∨ ev = 0x25 then 40
  else if ev = 0x41 ∨ ev = 0x58 ∨ ev = 0x59 then 48
  else if ev = 0x03 ∨ ev = 0x04 ∨ ev = 0x40 ∨ ev = 0x50 ∨ ev = 0x70 ∨ ev = 0x71 then 16
  else if ev = 0x01 ∨ ev = 0x02 then 64
  else 4

/-- The order of R404 among the records of one sc: ascending EVENT, then ascending first detail field. -/
def recordBefore (a b : Code) : Bool :=
  let ka := fld a 80 8
  let kb := fld b 80 8
  if ka ≠ kb then decide (ka < kb)
  else decide (fld a 128 (firstDetailBits ka) < fld b 128 (firstDetailBits kb))

/-- Insert a record after those that are not after it. -/
def insertRecord (a : Code × Bool) : List (Code × Bool) → List (Code × Bool)
  | [] => [a]
  | b :: r => if recordBefore a.1 b.1 then a :: b :: r else b :: insertRecord a r

/-- A record is numbered and enters the log, and the queue where it is for the queue and there is room (R404). -/
def enterRecord (p : Code × Bool) (m : Saf) : Saf :=
  let seq := nextSeq m.seq
  let room := p.2 && decide (m.queue.length < 64)
  let run := if room then m.lostRun else m.lostRun + 1
  let r := setFld (setFld p.1 0 32 seq.toNat) 112 16 (min run 65535)
  { m with seq := seq, log := (r :: m.log).take 16, queue := if room then m.queue ++ [r] else m.queue
           lostRun := if room then 0 else run }

/-- The records formed in one sc take their sequence numbers in the order of R404: they enter again in it. -/
def orderReports (s : State) : State :=
  match s.saf.formed with
  | [] => s
  | [_] => s
  | l =>
    let sorted := l.foldl (fun acc p => insertRecord p acc) []
    let m := { s.saf with
      seq := s.saf.base.1, lostRun := s.saf.base.2, log := s.saf.log.drop l.length
      queue := s.saf.queue.filter fun r => !(l.any fun p => p.1 == r), formed := [] }
    { s with saf := sorted.foldl (fun m p => enterRecord p m) m }

/-- Detail layouts of Table 15.6. -/
def detailA (loc src : Nat) : Nat := pack [(0, 19, loc), (19, 3, src)]
def detailB (set way : Nat) : Nat := pack [(0, 4, set), (4, 12, set), (16, 4, way)]
def detailT (own shown : Word64) : Nat := own.toNat + shown.toNat * 2 ^ 64
def detailW (bank row entry code : Nat) : Nat := pack [(0, 4, bank), (4, 9, row), (13, 3, entry), (16, 5, code)]
def detailN (index kind : Nat) : Nat := pack [(0, 16, index), (16, 4, kind)]
def detailC (c pc cause : Nat) (mask : Word64) : Nat :=
  pack [(0, 4, c), (4, 14, pc), (18, 4, cause), (64, 64, mask.toNat)]
def detailH (ch slot holder tgt part : Nat) : Nat :=
  pack [(0, 8, ch), (8, 16, slot), (24, 14, holder), (38, 10, tgt), (48, 2, part)]
def detailL (line : LineAddr) (trans missing : Nat) (agents : List Nat) (cause : Nat) : Nat :=
  pack [(0, 40, line.toNat), (40, 4, trans), (44, 8, missing), (52, 8, agents.getD 0 255), (60, 8, agents.getD 1 255),
    (68, 8, agents.getD 2 255), (76, 8, agents.getD 3 255), (84, 4, cause)]

/-- Enter FATAL (R403) with the report of the parity failure. -/
def enterFatal (ev index : Nat) (s : State) : State :=
  let s := { s with saf := { s.saf with fatal := true } }
  report ev 9 0x8000 (detailN index 0) s

/-! ### Messages -/

/-- Flits of a message (Table 16.3): header and data, or one flit per sector; on XP one header, of an answer that leaves sector by
sector the first time only (R87), and one per code word. -/
def flits (m : OutMsg) : Nat :=
  if m.port = .xp then (if m.first = 0 then 1 else 0) + m.data.length
  else match m.body with
    | .data _ _ _ => max 1 (ceilDiv m.data.length 2)
    | .pushD _ _ _ _ _ => 1
    | _ => 1 + ceilDiv m.data.length 2

/-- Hand a message to egress: XP messages to XP egress, the others to their mesh port. -/
def emit (m : OutMsg) (s : State) : State :=
  if m.port = .xp then { s with fg := { s.fg with xpq := s.fg.xpq ++ [m] } }
  else { s with out := { s.out with egress := s.out.egress ++ [m] } }

/-- An RSP-class answer to the agent of a header, on the port of the message it answers (R421). -/
def answerMsg (h : Hdr) (op : Nat) (body : Body) (data : List CodeWord) (ready : Nat) (tx : TxRef) : OutMsg :=
  { port := h.port, cls := .rsp, op := BitVec.ofNat 4 op, dstAgent := h.agent, dstDie := h.die, txn := h.txn,
    line := h.line, label := h.label, body := body, data := data, ready := ready, tx := tx }

def answer (h : Hdr) (op : Nat) (body : Body) (data : List CodeWord) (ready : Nat) (tx : TxRef) (s : State) : State :=
  emit (answerMsg h op body data ready tx) s

/-- A NACK-RETRY answer is counted (Table 4.9). -/
def countNack (st : Status) (s : State) : State :=
  if st = .nackRetry then { s with coh := { s.coh with nackNow := satAdd 1023 s.coh.nackNow 1 } } else s

/-- Sts, leaving 9 sc after the header registers (R124, R232, R436). -/
def answerSts (h : Hdr) (st : Status) (s : State) : State :=
  answer h 8 (.status st) [] (s.env.sc + 9) .none (countNack st s)

/-- The header of a request at the home. -/
def Req.hdr (r : Req) : Hdr :=
  { port := r.port, agent := r.agent, die := r.die, txn := r.txn, line := r.line, label := r.label, ndf := 0 }

/-- A message that the slice originates: the transaction ID carries id_sub (R416), the port is that of R421. -/
def originMsg (s : State) (cls : MsgClass) (op dstAgent dstDie : Nat) (line : LineAddr) (label : Nat) (body : Body)
    (data : List CodeWord) (ready : Nat) : OutMsg :=
  { port := if dstAgent = 255 then (if bit line 0 then .mpb else .mpa) else (if dstAgent % 2 = 0 then .mpa else .mpb),
    cls := cls, op := BitVec.ofNat 4 op, dstAgent := dstAgent, dstDie := dstDie, txn := s.env.idSub ++ s.out.nextTxn,
    line := line, label := label, body := body, data := data, ready := ready, tx := .none }

/-- The next transaction number from n on that no awaited answer carries. -/
def nextFree (used : List (BitVec 14)) : Nat → BitVec 14 → BitVec 14
  | 0, n => n
  | k + 1, n => if used.contains n then nextFree used k (n + 1) else n

/-- Pass over the transaction number just used. -/
def passTxn (s : State) : State :=
  let used := s.out.orig.map fun o => o.txn.extractLsb' 0 14
  { s with out := { s.out with nextTxn := nextFree used (used.length + 1) (s.out.nextTxn + 1) } }

/-- Send a request of the slice, and remember for whom until it is answered (R276, R322, R407). -/
def originate (who : Option Origin) (m : OutMsg) (s : State) : State :=
  let s := match who with
    | some w => { s with out := { s.out with orig := s.out.orig ++ [Originated.mk m.txn w m] } }
    | none => s
  emit m (passTxn s)

/-- A code word without poison. -/
def plain (d : Code) : CodeWord := { data := d, poison := false }

/-! ### Addresses of this slice's kennel window (06_kennels_and_channels) -/

/-- The kennel offset that a line names: none where the line is outside the window (R158). -/
def kennelLine (s : State) (line : LineAddr) : Option Nat :=
  if s.ken.en && decide (line.toNat / 2 ^ 27 = s.ken.base.toNat) then some (line.toNat % 2 ^ 27 * 256) else none

/-- The part of the window that an offset of 35 bits lies in is this slice's, below the locked ways (R158, R159). -/
def kennelOk (s : State) (off35 : Nat) : Bool :=
  decide (off35 / 2 ^ 24 = s.env.idSlice.toNat) && decide (off35 / 2 ^ 20 % 16 < s.cache.locked)

/-- The location of the code word at a kennel offset (R159). -/
def kennelLoc (off : Nat) : Nat := location (off / 2 ^ 8 % 4096) (15 - off / 2 ^ 20 % 16) (off % 256)

end Sys2Proof.Machine
end

