-- ==== Sys2Proof/Machine/Array.lean ====
section
/-! DEFINITION. The data array behind its corrector (02_data_array_and_boleri_code): spare rows, reads with the outcome of
each correction class, writes, poison marks, and the retirement of rows (13_background_work R361 to R365). -/

namespace Sys2Proof.Machine

/-- Bank, row and sector in row of a sector number (a location without its lowest bit). -/
def secBank (sec : Nat) : Nat := sec / 2 ^ 14 % 16
def secRow (sec : Nat) : Nat := sec / 2 ^ 5 % 512
def secInRow (sec : Nat) : Nat := sec % 32

/-- The logical row that static entry k of a bank replaces, where it is valid (Table 2.6). -/
def staticRow (s : State) (bank k : Nat) : Option Nat :=
  let v := fld s.fuse.stream (124 * bank + 10 * k) 10
  if v ≥ 512 then some (v % 512) else none

/-- A runtime spare entry (Table 2.9). -/
def spareOf (s : State) (bank k : Nat) : Spare := tget default s.arr.spares (bank * 8 + k)

/-- The runtime entry applies to a sector: it names the row, and any copy into it has already moved the sector (R66, R366). -/
def spareApplies (s : State) (bank row sir k : Nat) : Bool :=
  (spareOf s bank k).valid && decide ((spareOf s bank k).row.toNat = row) &&
    s.bg.copies.all fun c => !(c.bank == bank && c.entry == k && c.row == row) || bit c.moved sir

/-- The physical row of a sector (R66). -/
def physRow (s : State) (sec : Nat) : Nat :=
  let b := secBank sec
  let r := secRow sec
  match (List.range 8).find? (spareApplies s b r (secInRow sec)) with
  | some k => 520 + k
  | none => match (List.range 8).find? (fun k => staticRow s b k == some r) with
    | some k => 512 + k
    | none => r

/-- The table key of a code word's cells in a physical row. -/
def cellKey (loc prow : Nat) : Nat := (locBank loc * 528 + prow) * 64 + locWord loc

/-- The fold of a location of this slice (R67: always the logical location). -/
def foldOf (s : State) (loc : Nat) : BitVec 24 := boleriFold s.env.idSlice.toNat loc

/-- The lane that column entry k of a bank names, where it is valid and has an effect (Table 2.6, R66). -/
def columnLane (s : State) (bank k : Nat) : Option Nat :=
  let v := fld s.fuse.stream (124 * bank + 80 + 11 * k) 11
  if 1024 ≤ v ∧ v % 1024 < 560 then some (v % 1024) else none

/-- The positions of a half whose lane a spare bit line replaces, each with the lowest-numbered entry that names it (R66). -/
def replaced (s : State) (bank half : Nat) : List (Nat × Nat) :=
  (List.range 4).filterMap fun k => match columnLane s bank k with
    | some j =>
      if j / 280 = half ∧ (List.range 4).find? (fun i => columnLane s bank i == some j) = some k then some (j % 280, k) else none
    | none => none

/-- The 280 cells that a code word's lines deliver, spare bit lines for the lanes they replace; none: never written. -/
def delivered (s : State) (loc prow : Nat) : Option Cells :=
  (tfind s.arr.cells (cellKey loc prow)).map fun c =>
    (replaced s (locBank loc) (loc % 2)).foldl
      (fun c p => setBit c p.1 (bit (tget 0 s.arr.lines (cellKey loc prow / 2)) p.2)) c

/-- Store the cells of a code word: each replaced lane's on its spare bit line. The replaced line's own cell takes the bit too
(entry 5): nothing reads it. -/
def storeCells (loc prow : Nat) (c : Cells) (s : State) : State :=
  { s with arr := { s.arr with
      cells := tput s.arr.cells (cellKey loc prow) c
      lines := tmod 0 s.arr.lines (cellKey loc prow / 2) fun l =>
        (replaced s (locBank loc) (loc % 2)).foldl (fun l p => setBit l p.2 (bit c p.1)) l
      written := setBit s.arr.written (locBank loc) true } }

/-- The code word has been written since reset, and since its way was last gated (R57). -/
def isWritten (s : State) (loc : Nat) : Bool := (delivered s loc (physRow s (loc / 2))).isSome

/-- The cells of a code word as the lines deliver them, and whether the outcome of the read is noted: of an unwritten word,
which delivers a fresh free value, it need not be (R56, R57; entry 5). -/
def cellsAt (loc prow : Nat) (s : State) : Cells × Bool × State :=
  match delivered s loc prow with
  | some c => (c, true, s)
  | none => (Config.freeCells s.fresh, Config.freeReported s.fresh, { s with fresh := s.fresh + 1 })

/-- A poison mark is queued for the code word and not yet written (R63, R150). -/
def markPending (s : State) (loc : Nat) : Bool :=
  s.bg.work.any fun w => w.sec == loc / 2 && (match w.kind with
    | .marks m => bit m (loc % 2)
    | _ => false)

/-- The code word counts as poisoned: its mark is pending, or stored (R150, R151). -/
def isPoisoned (s : State) (loc : Nat) : Bool :=
  markPending s loc || (match delivered s loc (physRow s (loc / 2)) with
    | some c => (correct (foldOf s loc) c).cls == .pmark
    | none => false)

/-- A rewrite of R59 is pending for the code word (R60). -/
def rewritePending (s : State) (loc : Nat) : Bool :=
  s.bg.work.any fun w => w.sec == loc / 2 && (match w.kind with
    | .rewrite m _ _ => bit m (loc % 2)
    | _ => false)

/-- The corrector's outcome for a code word; a word whose mark is pending is a poisoned word. The flag says whether the
outcome is noted: for an unwritten word it need not be (R57). -/
def look (loc : Nat) (s : State) : Corrected × Bool × State :=
  if markPending s loc then ({ cls := .pmark, data := 0, pos := 0, pmask := 0 }, true, s)
  else
    let r := cellsAt loc (physRow s (loc / 2)) s
    (correct (foldOf s loc) r.1, r.2.1, r.2.2)

/-- Queue poison marks over the code words of a sector that the mask names (R52, R356): they join queued marks of the
sector. -/
def queueMarks (sec : Nat) (mask : BitVec 2) (s : State) : State :=
  let isMarks (w : BgWork) : Bool := w.sec == sec && (match w.kind with
    | .marks _ => true
    | _ => false)
  if s.bg.work.any isMarks then
    { s with bg := { s.bg with work := s.bg.work.map fun w => match w.kind with
      | .marks m => if w.sec = sec then { w with kind := .marks (m ||| mask) } else w
      | _ => w } }
  else { s with bg := { s.bg with work := s.bg.work ++ [{ sec := sec, kind := .marks mask }] } }

/-- A queued piece of work without the named code word; none when no code word is left (R55, R60, R61, R356). -/
def BgWork.without (loc : Nat) (w : BgWork) : Option BgWork :=
  if w.sec ≠ loc / 2 then some w
  else
    let clear (m : BitVec 2) : BitVec 2 := setBit m (loc % 2) false
    let keep (m : BitVec 2) (k : BgKind) : Option BgWork := if m = 0 then none else some { w with kind := k }
    match w.kind with
    | .marks m => keep (clear m) (.marks (clear m))
    | .rewrite m lo hi => keep (clear m) (.rewrite (clear m) lo hi)
    | .writeback m lo hi => keep (clear m) (.writeback (clear m) lo hi)
    | _ => some w

/-- Write the cells of a code word: its bank counts as written, and a copy whose buffer holds the sector reads it again
(R69, R367). -/
def putCells (loc : Nat) (c : Cells) (s : State) : State :=
  let sec := loc / 2
  let s := storeCells loc (physRow s sec) c s
  { s with
    bg := { s.bg with copies := s.bg.copies.map fun cp =>
      if cp.bank = secBank sec ∧ cp.row = secRow sec ∧ cp.next = secInRow sec then { cp with buf := none } else cp } }

/-- The cells of a code word in transit (R46, R52). -/
def wordCells (s : State) (loc : Nat) (w : CodeWord) : Cells :=
  if w.poison then poisonCells (foldOf s loc) else boleriEncode (foldOf s loc) w.data

/-- A read in the corrector holds a word that is written now: what it finds no longer concerns the array. -/
def Reading.outrun (loc : Nat) (r : Reading) : Reading :=
  { r with seen := r.seen.map fun x => if x.loc = loc then { x with stale := true } else x }

/-- A foreground write of a whole code word (R54, R55): it cancels the background work queued for that word. -/
def writeWord (loc : Nat) (w : CodeWord) (s : State) : State :=
  let s := { s with bg := { s.bg with work := s.bg.work.filterMap (BgWork.without loc) }
                    fg := { s.fg with reads := s.fg.reads.map (Reading.outrun loc) } }
  putCells loc (wordCells s loc w) s

/-- Write the code words of a table keyed by location. -/
def writeWords (t : Table CodeWord) (s : State) : State := t.foldl (fun s p => writeWord p.1 p.2 s) s

/-- Retire a row (R365, R70): its report, or a runtime entry and a queued copy. -/
def retireRow (bank row : Nat) (s : State) : State :=
  match (List.range 8).find? (fun k => (spareOf s bank k).valid && (spareOf s bank k).row.toNat == row) with
  | some k => report 0x13 0 0 (detailW bank row k 0) s
  | none => match (List.range 8).find? (fun k => !(spareOf s bank k).valid) with
    | none => report 0x12 0 0 (detailW bank row 0 0) <| raise 0
        { s with arr := { s.arr with rtExhaust := true }, bg := { s.bg with tel := { s.bg.tel with rtIn := true } } }
    | some k =>
      { s with
        arr := { s.arr with spares := tput s.arr.spares (bank * 8 + k)
                                        { valid := true, hw := true, row := BitVec.ofNat 9 row } }
        bg := { s.bg with
          copies := s.bg.copies ++ [{ bank := bank, row := row, entry := k, next := 0, moved := 0, buf := none }]
          retiredCnt := satAdd 65535 s.bg.retiredCnt 1
          tel := { s.bg.tel with retired := satAdd 65535 s.bg.tel.retired 1 } } }

/-- Count a correction toward its row (R364): the fourth retires the row. -/
def trackRow (bank row : Nat) (s : State) : State :=
  match s.bg.tracker.find? (fun t => t.bank == bank && t.row == row) with
  | some t =>
    let rest := s.bg.tracker.filter fun u => !(u.bank == bank && u.row == row)
    if t.count + 1 ≥ 4 then retireRow bank row { s with bg := { s.bg with tracker := rest } }
    else { s with bg := { s.bg with tracker := s.bg.tracker.map fun u =>
      if u.bank = bank ∧ u.row = row then { u with count := u.count + 1 } else u } }
  | none =>
    if (s.bg.tracker.filter fun t => t.bank == bank).length < 4 then
      { s with bg := { s.bg with tracker := s.bg.tracker ++
        [{ bank := bank, row := row, count := 1, first := frameNumber s }] } }
    else { s with bg := { s.bg with tel := { s.bg.tel with trkDrop := satAdd 65535 s.bg.tel.trkDrop 1 } } }

/-- Queue the rewrite of a corrected code word (R59, R363). -/
def queueRewrite (loc : Nat) (d : Code) (s : State) : State :=
  let sec := loc / 2
  let one : BitVec 2 := setBit 0 (loc % 2) true
  let isRw (w : BgWork) : Bool := match w.kind with
    | .rewrite _ _ _ => true
    | _ => false
  if s.bg.work.any (fun w => w.sec == sec && isRw w) then
    { s with bg := { s.bg with work := s.bg.work.map fun w => match w.kind with
      | .rewrite m lo hi => if w.sec = sec then
          { w with kind := .rewrite (m ||| one) (if loc % 2 = 0 then d else lo) (if loc % 2 = 1 then d else hi) } else w
      | _ => w } }
  else if (s.bg.work.filter fun w => isRw w && secBank w.sec == secBank sec).length < 8 then
    { s with bg := { s.bg with work := s.bg.work ++ [{ sec := sec, kind := .rewrite one d d }] } }
  else { s with bg := { s.bg with tel := { s.bg.tel with rwFull := satAdd 65535 s.bg.tel.rwFull 1 } } }

/-- Enter the foreground corrected-error log (R361). -/
def logCorrection (src loc : Nat) (c : Corrected) (s : State) : State :=
  let e : CelEntry :=
    { burst := decide (c.cls = .ceBurst), src := BitVec.ofNat 3 src, loc := BitVec.ofNat 19 loc,
      frame := BitVec.ofNat 16 (frameNumber s), pmask := BitVec.ofNat 4 c.pmask, pos := BitVec.ofNat 9 c.pos }
  let s := { s with bg := { s.bg with celNow := s.bg.celNow ++ [e] } }
  if s.bg.cel.length < 16 then { s with bg := { s.bg with cel := s.bg.cel ++ [e] } }
  else { s with bg := { s.bg with celOvf := true, tel := { s.bg.tel with ovfIn := true } } }

/-- A foreground correction (R59, R60): no rewrite is queued of a word that has been written since. One of a word never written
is counted and logged, and concerns nothing else (R4, R57). -/
def noteCorrection (src : Nat) (x : Seen) (c : Corrected) (s : State) : State :=
  if rewritePending s x.loc then s
  else
    let s := { s with bg := { s.bg with ceFg := satAdd (2 ^ 32 - 1) s.bg.ceFg 1
                                        tel := { s.bg.tel with ceFg := satAdd (2 ^ 32 - 1) s.bg.tel.ceFg 1 } } }
    let s := logCorrection src x.loc c s
    if x.known then
      trackRow (locBank x.loc) (locRow x.loc) (if x.stale then s else queueRewrite x.loc c.data s)
    else s

/-- The tag entry of a set and way. -/
def tagAt (s : State) (set way : Nat) : TagEntry := tget default s.cache.tags (set * 16 + way)

/-- A way is locked, or gated. -/
def wayLocked (s : State) (way : Nat) : Bool := decide (16 ≤ way + s.cache.locked)
def wayGated (s : State) (way : Nat) : Bool := bit s.cache.gated way

/-- The code word lies in a line of a cache way with no dirty sector (R62 case 1). -/
def inCleanLine (s : State) (loc : Nat) : Bool :=
  let e := tagAt s (locSet loc) (locWay loc)
  !wayLocked s (locWay loc) && !wayGated s (locWay loc) && e.tv && e.sd == 0

/-- The read of a line's word finds the line without a dirty sector (R62 case 1): in its way, or, if it has left that, dropped
without a writeback. A read for no line goes by the place. -/
def readsClean (s : State) (line : Option LineAddr) (here : Bool) (loc : Nat) : Bool :=
  match line with
  | some l => if here then inCleanLine s loc
    else !(s.cache.ev.any fun e => e.line == l) && !(s.cache.victims.any fun v => v.line == l && v.sd != 0)
  | none => inCleanLine s loc

/-- The code word as the last of the accepted writes of it will leave it, where one is queued. -/
def queuedWord (s : State) (loc : Nat) : Option CodeWord :=
  (s.fg.accs.filterMap fun a => if a.isWrite then tfind a.data loc else none).getLast?

/-- The line of a cache way: what the tag entry there names. -/
def isHere (s : State) (line : Option LineAddr) (loc : Nat) : Bool :=
  match line with
  | some l => (tagAt s (locSet loc) (locWay loc)).tv && (tagAt s (locSet loc) (locWay loc)).tag == l.extractLsb' 12 28
  | none => true

/-- The uncorrectable error is counted and reported (R62, Table 15.4). -/
def reportUe (src loc : Nat) (poisoned : Bool) (s : State) : State :=
  report 0x10 (if poisoned then 2 else 0) 0 (detailA loc src)
    { s with bg := { s.bg with ueCnt := satAdd 65535 s.bg.ueCnt 1
                               tel := { s.bg.tel with ue := satAdd 65535 s.bg.tel.ue 1 } } }

/-- Parity bits of a tag entry as every write of it sets them (R74, R117). -/
def TagEntry.sealed (e : TagEntry) : TagEntry :=
  { e with
    dsum1 := decide (e.sd ≠ 0), dsum0 := decide (e.sd ≠ 0), ps := parity e.sd,
    pt := parity (e.tag ++ BitVec.ofBool e.tv ++ e.sv ++ e.age),
    pd := parity (e.dst ++ e.pv ++ e.ptr3 ++ e.ptr2 ++ e.ptr1 ++ e.ptr0) }

/-- Change a tag entry. -/
def setTag (set way : Nat) (f : TagEntry → TagEntry) (s : State) : State :=
  { s with cache := { s.cache with tags := tmod default s.cache.tags (set * 16 + way) fun e => (f e).sealed } }

/-- What a reader of one code word receives. -/
structure Got where
  word : CodeWord
  refetch : Bool
deriving DecidableEq, Repr, Inhabited

/-- The word that a reader receives in place of data. -/
def badWord : CodeWord := { data := 0, poison := true }

/-- A foreground read finds an uncorrectable error (R62). In a line without a dirty sector the sector is read again from
memory; anywhere else the marks go over the words of the sector that no write has replaced since, which the mask names (entry
51), or, of a word never written, over that word alone (R57). The reader of a victim passes victim: its sectors are dirty
whatever the tag entry now says (R93). A request passes its line, which may have left the way; SV stays where the word has been
or is to be filled again. -/
def findUe (src : Nat) (line : Option LineAddr) (victim : Bool) (mask : BitVec 2) (x : Seen) (s : State) : Got × State :=
  let here := isHere s line x.loc
  if !victim && readsClean s line here x.loc then
    let s := reportUe src x.loc false s
    ({ word := badWord, refetch := true },
      if x.stale || !here || (queuedWord s x.loc).isSome then s
      else setTag (locSet x.loc) (locWay x.loc) (fun e => { e with sv := setBit e.sv (locSect x.loc) false }) s)
  else
    let marks := if x.known then mask else mask &&& setBit 0 (x.loc % 2) true
    let s := reportUe src x.loc (decide (marks ≠ 0)) s
    ({ word := badWord, refetch := false }, if marks = 0 then s else queueMarks (x.loc / 2) marks s)

/-- The outcome of a foreground read of a code word for its reader and for the error logic (R59, R62, R63). -/
def settleRead (src : Nat) (line : Option LineAddr) (victim : Bool) (mask : BitVec 2) (x : Seen) (c : Corrected) (s : State) : Got × State :=
  match c.cls with
  | .clean => ({ word := plain c.data, refetch := false }, s)
  | .ceBit | .ceBurst => ({ word := plain c.data, refetch := false }, if x.noted then noteCorrection src x c s else s)
  | .pmark => ({ word := badWord, refetch := false }, s)
  | .ue => if x.noted then findUe src line victim mask x s else ({ word := badWord, refetch := false }, s)

/-- The post-check of a code word that leaves the corrector with data (R398): whether it fails, and its report. -/
def postCheck (src loc : Nat) (c : Corrected) (s : State) : Bool × State :=
  let data := match c.cls with
    | .clean | .ceBit | .ceBurst => true
    | _ => false
  if data && s.arr.postBad.contains loc then
    (true, report 0x11 2 0 (detailA loc src) { s with arr := { s.arr with postBad := s.arr.postBad.erase loc } })
  else (false, s)

/-- A code word leaves the corrector for its reader: its outcome, and the post-check, which puts poison in the place of its data
(R398). -/
def settleWord (src : Nat) (line : Option LineAddr) (victim : Bool) (mask : BitVec 2) (x : Seen) (c : Corrected) (s : State) : Got × State :=
  let r := settleRead src line victim mask x c s
  let p := postCheck src x.loc c r.2
  (if p.1 then { word := badWord, refetch := false } else r.1, p.2)

/-- A code word as the bank delivers it to the corrector. -/
def seeWord (loc : Nat) (s : State) : Seen × State :=
  if markPending s loc then ({ loc := loc, cells := none, known := true, noted := true, stale := false }, s)
  else
    let r := cellsAt loc (physRow s (loc / 2)) s
    ({ loc := loc, cells := some r.1, known := isWritten s loc, noted := r.2.1, stale := false }, r.2.2)

/-- The code words of sectors as their banks deliver them: two per sector. -/
def seeSectors : List Nat → State → List Seen × State
  | [], s => ([], s)
  | sec :: rest, s =>
    let a := seeWord (2 * sec) s
    let b := seeWord (2 * sec + 1) a.2
    let t := seeSectors rest b.2
    (a.1 :: b.1 :: t.1, t.2)

/-- The corrector's outcome for a code word: one whose poison has been decided meanwhile is a poisoned word (R63). -/
def judge (s : State) (x : Seen) : Corrected :=
  match x.cells with
  | none => { cls := .pmark, data := 0, pos := 0, pmask := 0 }
  | some c => if markPending s x.loc then { cls := .pmark, data := 0, pos := 0, pmask := 0 } else correct (foldOf s x.loc) c

/-- The two code words of a sector leave the corrector together (R53). DESIGN CHOICE (entry 51): two uncorrectable words are
two reports. -/
def settlePair (src : Nat) (line : Option LineAddr) (victim : Bool) (a b : Seen) (s : State) : Got × Got × State :=
  let ca := judge s a
  let cb := judge s b
  let mask : BitVec 2 := BitVec.ofNat 2 (b01 (!a.stale) + 2 * b01 (!b.stale))
  let ra := settleWord src line victim mask a ca s
  let rb := settleWord src line victim mask b cb ra.2
  (ra.1, rb.1, rb.2)

/-- The code words of a read leave the corrector. -/
def settleSeen (src : Nat) (line : Option LineAddr) (victim : Bool) : List Seen → State → List Got × State
  | a :: b :: rest, s =>
    let r := settlePair src line victim a b s
    let t := settleSeen src line victim rest r.2.2
    (r.1 :: r.2.1 :: t.1, t.2)
  | _, s => ([], s)

/-- Read sectors through the corrector at once; the words come two per sector. -/
def readSectors (src : Nat) (victim : Bool) (secs : List Nat) (s : State) : List Got × State :=
  let r := seeSectors secs s
  settleSeen src none victim r.1 r.2

/-- Poison a sector: marks over both of its code words. -/
def poisonSector (sec : Nat) (s : State) : State := queueMarks sec 3 s

/-- The four sectors of the line in a set and a way, in sector order. -/
def lineSecs (set way : Nat) : List Nat := (List.range 4).map fun i => location set way (64 * i) / 2

end Sys2Proof.Machine
end

