-- ==== Sys2Proof/Machine/Frames.lean ====
section
/-! DEFINITION. What restarts at every frame boundary, parked or not (01_frame_and_timing_contract R37, 12_regulation R351 to
R354, 13_background_work R370 to R373). -/

namespace Sys2Proof.Machine

/-- The counts of a class move to the frame that has ended: a suspended class has no shortfall (R353). -/
def rollClass (suspended : Bool) (k : Class) : Class :=
  { k with shortPrev := if suspended then 0 else k.shortNow, overPrev := k.overNow, shortNow := 0, overNow := 0 }

/-- Change every class. -/
def allClasses (f : Nat → Class → Class) (s : State) : State := (List.range 16).foldl (fun s c => setClass s c (f c)) s

/-- The counts that restart at a frame boundary (Tables 4.9, 8.5, 12.5) show the frame that has ended. -/
def rollCounts (s : State) : State :=
  let s := allClasses (fun c k => rollClass (bit s.reg.suspNow c) k) s
  { s with
    coh := { s.coh with nackPrev := s.coh.nackNow, nackNow := 0 }
    atom := { s.atom with donePrev := s.atom.doneNow, poisPrev := s.atom.poisNow, doneNow := 0, poisNow := 0 }
    reg := { s.reg with suspPrev := s.reg.suspNow, suspNow := 0 } }

/-- The class counts of a span of telemetry (R373). -/
def sumClasses (s : State) : Table (Nat × Nat) :=
  (List.range 16).foldl (fun t c =>
    let k := getClass s c
    tmod (0, 0) t c fun p => (satAdd 65535 p.1 k.shortPrev, satAdd 65535 p.2 k.overPrev)) s.bg.tel.cls

/-- One more frame is covered by the next telemetry record. -/
def coverFrame (s : State) : State :=
  { s with bg := { s.bg with tel := { s.bg.tel with
      span := satAdd 65535 s.bg.tel.span 1
      susp := s.bg.tel.susp ||| s.reg.suspPrev
      cls := sumClasses s } } }

/-- A calibration falls due with a frame number (R368). -/
def calFrame (s : State) (n : Nat) : Bool := decide (s.bg.calFrames ≠ 0) && decide (n % s.bg.calFrames.toNat = 0)

/-- A frame boundary passes while the slice is parked (R37, R370, R372, R438): n is the number of the frame it opens. -/
def parkedBoundary (n : Nat) (s : State) : State :=
  let s := coverFrame (rollCounts s)
  { s with
    tick := { s.tick with parkFrames := satAdd 65535 s.tick.parkFrames 1 }
    bg := { s.bg with calDeferred := s.bg.calDeferred || calFrame s n, tel := { s.bg.tel with missIn := true } } }

/-- Frame boundaries among the counter values a + 1 to b, which pass while the slice is parked, for frames of 2^l sc. What
the first finds counted moves to the frame that ended with it; the others find nothing more to move than the second does. -/
def passFrames (l a b : Nat) (s : State) : State :=
  let m := a / 2 ^ l
  let n := b / 2 ^ l
  if n ≤ m then s
  else if n = m + 1 then parkedBoundary (n % 2 ^ (64 - l)) s
  else
    let s := parkedBoundary (m + 2) (parkedBoundary (m + 1) s)
    let k := n - m - 2
    let due := decide (s.bg.calFrames ≠ 0) && decide ((m + 2) / s.bg.calFrames.toNat < n / s.bg.calFrames.toNat)
    { s with
      tick := { s.tick with parkFrames := satAdd 65535 s.tick.parkFrames k }
      bg := { s.bg with calDeferred := s.bg.calDeferred || due
                        tel := { s.bg.tel with span := satAdd 65535 s.bg.tel.span k } } }

/-- The first multiple of 2^l among a + 1 to b. -/
def firstMultiple (l a b : Nat) : Option Nat :=
  let m := (a / 2 ^ l + 1) * 2 ^ l
  if m ≤ b then some m else none

/-- The counter of a parked slice goes from a to b (R18, R37): boundaries are counted at the length in force, and a pending
length is taken up at the first multiple of both. -/
def passBoundaries (a b : Nat) (s : State) : State :=
  let l := s.tick.frameLog2.toNat
  match s.tick.framePend with
  | none => passFrames l a b s
  | some n => match firstMultiple (max l n.toNat) a b with
    | none => passFrames l a b s
    | some m =>
      let s := passFrames l a m s
      passFrames n.toNat m b { s with tick := { s.tick with frameLog2 := n, framePend := none } }

/-- Calendar slots skipped (R370). -/
def skipSlots (n : Nat) (s : State) : State :=
  { s with bg := { s.bg with tel := { s.bg.tel with skipped := satAdd (2 ^ 32 - 1) s.bg.tel.skipped n } } }

/-- Calendar slots of all banks that fall in the counter values a + 1 to b (R27). -/
def slotsBetween (a b : Nat) : Nat :=
  (List.range 16).foldl (fun n k => n + ((b + 512 - 32 * k) / 512 - (a + 512 - 32 * k) / 512)) 0

/-- The end of a window for a class: shortfall and leash are counted, and the counts of the window restart. -/
def endWindow (words : Nat) (k : Class) : Class :=
  let short := if decide (0 < words) && k.asking && decide (k.xpWords < words) then words - k.xpWords else 0
  { k with shortNow := satAdd 65535 k.shortNow short, overNow := satAdd 65535 k.overNow (b01 k.leftLeash),
           bytes := 0, starts := [], xpWords := 0, leftLeash := false, asking := true }

/-- The end of a window while the slice is parked (R340, R351): the counts restart, no class has a request, and a pending
length n is taken up where the counter m is a multiple of it. -/
def parkedWindow (m : Nat) (s : State) : State :=
  let words := fun c => resWords s c
  let s := allClasses (fun c k => { endWindow (words c) k with asking := false }) s
  match s.reg.winPend with
  | none => s
  | some n => if m % 2 ^ n.toNat = 0 then { s with reg := { s.reg with winLog2 := n, winPend := none } } else s

/-- What the counter of a parked slice passes on its way from a to b (R37, R340, R370, R438): the first window boundary ends a
window with counts, later ones find nothing to count. A pending window length is taken up at a common multiple. -/
def passWhileParked (a b : Nat) (s : State) : State :=
  let s := skipSlots (slotsBetween a b) s
  let common := match s.reg.winPend with
    | none => none
    | some n => firstMultiple (max s.reg.winLog2.toNat n.toNat) a b
  match firstMultiple s.reg.winLog2.toNat a b with
  | none => passBoundaries a b s
  | some m => passBoundaries (m - 1) b (parkedWindow (common.getD m) (passBoundaries a (m - 1) s))

end Sys2Proof.Machine
end

