-- ==== Sys2Proof/Machine/Bringup.lean ====
section
/-! DEFINITION. Reset, fuse load, the tick inputs, park and unpark, the seam bridge, links and the test wrapper
(01_frame_and_timing_contract R11 to R16 and R35 to R38, 16_ports_and_signals R415 to R443, 18_bringup_and_power). -/

namespace Sys2Proof.Machine

/-! ### Reset and fuse load -/

/-- A wrapper instruction of R442. -/
def wrapperDisturbs (code : BitVec 5) : Bool := code == 1 || code == 2 || code == 4 || code == 5

/-- The state while rs_n is 0 (R457, Table 18.1): what reset leaves; the wrapper is not part of the slice reset. -/
def resetState (s : State) : State :=
  { State.reset with
    pending := s.pending, fresh := s.fresh
    env := { Env.reset with wir := s.env.wir, boundary := s.env.boundary, wsUndefined := wrapperDisturbs s.env.wir } }

/-- RESET_ASSERT (R457). -/
def execResetAssert (s : State) : Host.Outcome State Fault Refusal := .next (resetState s)

/-- POWER_LOSS (R458): every state of Table 18.1 is lost, the wrapper's with it. -/
def execPowerLoss (s : State) : Host.Outcome State Fault Refusal :=
  .next { State.reset with pending := s.pending, fresh := s.fresh }

/-- RESET_RELEASE (R415, R416): sc 0, and fuse load; an agent ID outside 160 to 191 does not leave reset. -/
def execResetRelease (slice : BitVec 11) (die : BitVec 5) (agent : BitVec 8) (sub : BitVec 2) (s : State) :
    Host.Outcome State Fault Refusal :=
  if s.env.phase ≠ .held then .next s
  else .next { s with env := { s.env with
    phase := if 160 ≤ agent.toNat ∧ agent.toNat ≤ 191 then .fuseLoad else .stuck
    sc := 0, idSlice := slice, idDie := die, idAgent := agent, idSub := sub } }

/-- One bit of a division by G(x) of R424: the remainder takes in the next lower coefficient. -/
def crcStep (r : Word32) (b : Bool) : Word32 :=
  if r.getLsbD 31 != b then (r <<< 1) ^^^ 0x04C11DB7#32 else r <<< 1

/-- The remainder of x^32 · m(x) modulo G(x), m given by its n low bits (R424, Table 16.11). -/
def crcOf {w : Nat} (m : BitVec w) (r : Word32) : Nat → Word32
  | 0 => r
  | k + 1 => crcOf m (crcStep r (m.getLsbD k)) k

/-- The check of the fuse stream (Table 16.11). -/
def fuseCheck (stream : BitVec 3000) : Bool := decide (crcOf stream 0 2968 = stream.extractLsb' 2968 32)

/-- The link check of a flit (R424): payload bit k is the coefficient of x^k, side bit j that of x^(P + j). -/
def linkCheck {p : Nat} (payload : BitVec p) (side : BitVec 128) : Word32 :=
  crcOf payload (crcOf side 0 128) p

/-- The fused sense-timing code of a bank (Table 16.11). -/
def fusedCode (stream : BitVec 3000) (bank : Nat) : Nat := fld stream (1984 + 5 * bank) 5

/-- FUSE_LOAD_END (R435): the stream is kept as loaded; a failed check, or a fu_vld out of place, keeps the slice in reset
with fu_bad. -/
def execFuseLoadEnd (stream : BitVec 3000) (stray : Bool) (s : State) : Host.Outcome State Fault Refusal :=
  if s.env.phase ≠ .fuseLoad then .next s
  else if fuseCheck stream && !stray then
    .next { s with
      env := { s.env with phase := .tagClear, sc := 12000 }
      fuse := { stream := stream, loaded := true, bad := false }
      bg := { s.bg with codes := (List.range 16).foldl (fun t b => tset 0 t b (fusedCode stream b)) [] } }
  else
    .next { s with env := { s.env with phase := .stuck, sc := 12000 }
                   fuse := { stream := stream, loaded := false, bad := true } }

/-- RS_READY (R435, R423): tags are clear, rs_ready rises, and 16 credit pulses per channel begin. -/
def execRsReady (s : State) : Host.Outcome State Fault Refusal :=
  if s.env.phase ≠ .tagClear then .next s
  else .next { s with env := { s.env with phase := .ready, sc := 16096, sbRdy := true }
                      cache := { s.cache with tags := [] }
                      lnk := { s.lnk with initPulses := 16 } }

/-! ### The tick inputs -/

/-- A failed counter check (R12, R36). -/
def counterFault (own shown : Word64) (s : State) : State :=
  report 1 4 0 (detailT own shown) { s with tick := { s.tick with cntFault := true } }

/-- Two counter values differ by more than 16 (R36). -/
def farApart (a b : Word64) : Bool := decide (16 < (a - b).toNat) && decide (16 < (b - a).toNat)

/-- The counter value that the reload of R36 passes over: from the kept value to the reloaded one, where that lies ahead.
DESIGN CHOICE (entry 49): a value that lies behind passes nothing. -/
def passReload (kept shown : Word64) (s : State) : State :=
  let d := (shown - kept).toNat
  if s.env.pkAck && decide (d < 2 ^ 63) then passWhileParked kept.toNat (kept.toNat + d) s else s

/-- TK_STROBE (R12, R36): the first strobe loads the counter; the first after unpark reloads it, and the counter runs on
sc_clk again; every other is a check. -/
def execTkStrobe (value : Word64) (s : State) : Host.Outcome State Fault Refusal :=
  counterEvent s fun s =>
    let awaited := s.env.reload
    let s := { s with tick := { s.tick with strobeAge := 0 }
                      env := { s.env with scRun := s.env.scRun || awaited, reload := false } }
    if !s.tick.cntValid then
      match s.tick.load with
      | none => { s with tick := { s.tick with load := some value } }
      | some v => if v = value then s else counterFault v value s
    else if awaited then
      let t := passReload s.tick.counter value { s with tick := { s.tick with counter := value } }
      if farApart s.tick.counter value then counterFault s.tick.counter value t else t
    else if s.tick.counter = value then s
    else counterFault s.tick.counter value s

/-- 2^15 sc have passed without a strobe (R13). -/
def strobeLateDue (s : State) : Bool := s.tick.cntValid && !s.env.pkAck && s.tick.strobeAge == 32768

/-- STROBE_LATE (R13): the lapse is flagged once. -/
def execStrobeLate (s : State) : Host.Outcome State Fault Refusal :=
  eventIf strobeLateDue s fun s =>
    report 2 0 0 (detailT s.tick.counter 0)
      { s with tick := { s.tick with strobeLate := true, strobeAge := 32769 } }

/-! ### Park (R35 to R38, R436 to R438) -/

/-- AON_TICK (R35, R37, R370): the parked counter advances by 17; boundaries and calendar slots passed are counted. -/
def execAonTick (s : State) : Host.Outcome State Fault Refusal :=
  counterEvent s fun s =>
    if s.env.pkAck && !s.env.scRun && s.tick.cntValid then
      let a := s.tick.counter.toNat
      passWhileParked a (a + 17) { s with tick := { s.tick with counter := s.tick.counter + 17 } }
    else s

/-- PARK_REQUEST (R436): pk_req registers at 1; the slice drains from the next sc on. -/
def execParkRequest (s : State) : Host.Outcome State Fault Refusal :=
  event s fun s =>
    if s.env.pkReq then s else { s with env := { s.env with pkReq := true, drainAt := s.env.sc } }

/-- A live context is neither IDLE, SUSP nor FAULT. -/
def Ctx.drained (c : Ctx) : Bool :=
  match c.state with
  | .idle | .susp | .fault => true
  | _ => false

/-- Every drain condition of R437 holds. -/
def drained (s : State) : Bool :=
  s.coh.trk.isEmpty && s.coh.active.isEmpty && s.cache.miss.isEmpty && s.cache.ev.isEmpty && s.cache.victims.isEmpty
    && s.cache.waiters.isEmpty && s.ken.waits.isEmpty && s.atom.pend.isEmpty
    && (s.cache.fb.all fun f => f.2.asked == f.2.got)
    && s.red.packs.isEmpty && (s.mov.eng.all fun e => !e.2.busy)
    && (s.ken.ch.all fun c => c.2.push == .idle)
    && (s.seq.ctx.all fun c => c.2.drained)
    && s.cache.walk.isNone && s.out.orig.isEmpty
    && (!s.saf.rptEn || s.saf.queue.isEmpty)
    && s.out.sb.isEmpty && s.out.egress.isEmpty && s.out.wire.isEmpty && (s.lnk.txFree.all fun p => decide (p.2 ≤ s.env.sc)) && s.fg.xpq.isEmpty && s.fg.accs.isEmpty
    && s.fg.reads.isEmpty && s.fg.xpIn.isEmpty && s.fg.held.isEmpty && s.coh.checks.isEmpty

/-- Draining, and drained in this sc. -/
def drainDue (s : State) : Bool :=
  s.env.pkReq && decide (s.env.drainAt < s.env.sc) && !s.env.pkAck && !s.env.ackNext && drained s

/-- DRAIN_COMPLETE (R437): pk_ack rises in the next sc. -/
def execDrainComplete (s : State) : Host.Outcome State Fault Refusal :=
  eventIf drainDue s fun s => { s with env := { s.env with ackNext := true } }

/-- pk_ack has risen (R36, R37, Table 16.12): the counter goes over to the always-on clock, and the count of boundaries passed
while parked starts from 0. -/
def park (s : State) : State :=
  { s with env := { s.env with pkAck := true, scRun := false, reload := true }, tick := { s.tick with parkFrames := 0 }
           bg := { s.bg with tel := { s.bg.tel with parkIn := true } }
           saf := { s.saf with hbFirst := true } }

/-- PARK_RELEASE (R437, R438): pk_req registers at 0; pk_ack falls in the next sc, and requests are accepted again 2 sc
later. -/
def execParkRelease (s : State) : Host.Outcome State Fault Refusal :=
  event s fun s =>
    if s.env.pkReq then
      { s with env := { s.env with pkReq := false, ackNext := false, scRun := true, reopenAt := s.env.sc + 2 } }
    else s

/-- SM_HOLD (R439, R353): the hold bits register. At the end of every sc each class held has its SUSP bit set for the frame of
that sc. -/
def execSmHold (bits : BitVec 16) (s : State) : Host.Outcome State Fault Refusal :=
  event s fun s =>
    { s with env := { s.env with smHold := bits } }

/-! ### Links (R423, R424) -/

def portRank : Port → Nat
  | .mpa => 0 | .mpb => 1 | .xp => 2

/-- The virtual channel of a class (R417). -/
def channelOf : MsgClass → Nat
  | .wb => 0 | .rsp => 1 | .fwd => 2 | .req => 3 | .mem => 4

def countReplay (s : State) : State := { s with lnk := { s.lnk with replays := satAdd 255 s.lnk.replays 1 } }

/-- A port sets its STUCK bit (R424). -/
def stickPort (k : Nat) (s : State) : State := raise (8 + k) { s with lnk := { s.lnk with stuck := setBit s.lnk.stuck k true } }

/-- A port checks the flits that it is presented: it does not while it awaits a replay (Table 16.7). -/
def portOpen (s : State) (p : Port) : Bool := decide (tget 0 s.lnk.rxOpen (portRank p) ≤ s.env.sc)

/-- rx_rty of a port (Table 16.7): 1 in the sc after a flit that failed. -/
def rxRty (s : State) (p : Port) : Bool := tget 0 s.lnk.rxOpen (portRank p) == s.env.sc + 2

/-- LINK_CHECK_FAIL (R424, Table 16.7): the flit is discarded and a replay requested; it and the next two sc bring nothing, and the
flit comes again in the third. 16 failures in a row set STUCK. -/
def execLinkCheckFail (p : Port) (s : State) : Host.Outcome State Fault Refusal :=
  eventIf (portOpen · p) s fun s =>
    let k := portRank p
    let n := tget 0 s.lnk.rxFail k + 1
    let s := countReplay { s with lnk := { s.lnk with rxFail := tset 0 s.lnk.rxFail k (min 16 n)
                                                      rxOpen := tput s.lnk.rxOpen k (s.env.sc + 3) } }
    if n = 16 then stickPort k s else s

/-- LINK_REPLAY_REQUEST (R424): the slice sends its last flits again, ahead of everything else on the port, without new
credits. -/
def execLinkReplayRequest (p : Port) (s : State) : Host.Outcome State Fault Refusal :=
  event s fun s =>
    let k := portRank p
    let n := tget 0 s.lnk.txFail k + 1
    let again := (s.lnk.last4.filter fun f => f.port == p).length
    let s := countReplay { s with lnk := { s.lnk with
      txFail := tset 0 s.lnk.txFail k (min 16 n)
      txFree := tset 0 s.lnk.txFree k (max (tget 0 s.lnk.txFree k) (s.env.sc + 1) + min 3 again) } }
    if n = 16 then stickPort (3 + k) s else s

/-- LINK_CREDIT (R423): one egress credit of a channel returns. -/
def execLinkCredit (p : Port) (ch : Nat) (s : State) : Host.Outcome State Fault Refusal :=
  event s fun s =>
    if ch < (match p with
      | .xp => 5
      | _ => 4) then
      { s with lnk := { s.lnk with txCrd := tmod 0 s.lnk.txCrd (portRank p * 8 + ch) (· + 1) } }
    else s

/-! ### The test wrapper (R441 to R443) -/

/-- Select a wrapper instruction. It acts in every phase: the wrapper has its own clock and reset. -/
def selectWrapper (code : BitVec 5) (s : State) : State :=
  { s with env := { s.env with wir := code, wsUndefined := s.env.wsUndefined || wrapperDisturbs code } }

def execWsBypass (s : State) : Host.Outcome State Fault Refusal := .next (selectWrapper 0 s)
def execWsExtest (s : State) : Host.Outcome State Fault Refusal := .next (selectWrapper 1 s)
def execWsIntest (s : State) : Host.Outcome State Fault Refusal := .next (selectWrapper 2 s)
def execWsPreload (cells : BitVec 3772) (s : State) : Host.Outcome State Fault Refusal :=
  let t := selectWrapper 3 s
  .next { t with env := { t.env with boundary := cells } }
def execWsClamp (s : State) : Host.Outcome State Fault Refusal := .next (selectWrapper 4 s)
def execWsSafe (s : State) : Host.Outcome State Fault Refusal := .next (selectWrapper 5 s)
def execWxIjtag (s : State) : Host.Outcome State Fault Refusal := .next (selectWrapper 8 s)

/-- An instrument shows its content in the scan chain, and changes nothing else (R443). It works while rs_n is 1. -/
def instrument (content : State → List Word32) (s : State) : Host.Outcome State Fault Refusal :=
  if s.env.wsUndefined then .fault .wrapperUndefined
  else if s.env.phase = .held ∨ s.env.wir ≠ 8 then .next s
  else .next { s with out := { s.out with scan := content s } }

/-- FUSE_IMAGE (Table 16.14): the 3,000 bits of the stream. -/
def execFuseImage (s : State) : Host.Outcome State Fault Refusal :=
  instrument (fun s => (List.range 94).map fun n => word32 s.fuse.stream n) s

/-- The words of a log entry: zeros where it holds no record (Table 15.11). -/
def logWords (s : State) (n : Nat) : List Word32 := (List.range 8).map fun k => word32 (s.saf.log.getD n 0) k

/-- RPT_LOG (Table 16.14): the 16 records of the log, the most recent first. -/
def execRptLog (s : State) : Host.Outcome State Fault Refusal :=
  instrument (fun s => (List.range 16).flatMap (logWords s)) s

end Sys2Proof.Machine
end

