-- ==== Sys2Proof/Machine/Access.lean ====
section
/-! DEFINITION. The queue of foreground array accesses and the order in which they start (12_regulation R336, R343, R344;
01_frame_and_timing_contract R28). -/

namespace Sys2Proof.Machine

/-- Put an access at the end of the queue: the place in the queue is the order of R336. -/
def enqueue (a : Access) (s : State) : State :=
  { s with fg := { s.fg with accs := s.fg.accs ++ [{ a with id := s.fg.nextId }], nextId := s.fg.nextId + 1 } }

/-- A read access of sectors. -/
def readAccess (ready cls source : Nat) (kennel : Bool) (secs : List Nat) (p : Purpose) : Access :=
  { id := 0, ready := ready, cls := cls, source := source, secs := secs, data := [], isWrite := false, kennel := kennel,
    purpose := p }

/-- A write access of code words, by location. -/
def writeAccess (ready cls source : Nat) (kennel : Bool) (data : Table CodeWord) (p : Purpose) : Access :=
  { id := 0, ready := ready, cls := cls, source := source, secs := (data.map fun d => d.1 / 2).dedup, data := data,
    isWrite := true, kennel := kennel, purpose := p }

/-- The number of the 512-sc period of a bank that contains the present sc, counted from the bank's first mark. -/
def bankPeriod (s : State) (b : Nat) : Nat := (s.tick.counter.toNat + 512 - 32 * b) / 512

/-- The sc since the last calendar mark of a bank (R27). -/
def sinceMark (s : State) (b : Nat) : Nat := (s.tick.counter.toNat + 512 - 32 * b) % 512

/-- Bank b's calendar mark has come and its slot has not begun (R28). -/
def withheld (s : State) (b : Nat) : Bool :=
  s.tick.cntValid && decide (sinceMark s b < 8) && decide (tget 0 s.bg.slotPeriod b ≠ bankPeriod s b + 1)

/-- The calendar starts in this sc, with the counter or after a park: a mark before it opens no slot. DEDUCED (entry 48): no
calendar ran in the sc of such a mark (R14, R370). -/
def startCalendar (s : State) : State :=
  { s with bg := { s.bg with slotPeriod := (List.range 16).foldl (fun t b =>
      if sinceMark s b = 0 then t else tset 0 t b (bankPeriod s b + 1)) s.bg.slotPeriod } }

/-- A bank can take a foreground access in this sc. -/
def bankOpen (s : State) (b : Nat) : Bool := decide (tget 0 s.fg.bankFree b ≤ s.env.sc) && !withheld s b

/-- The banks an access needs. -/
def Access.banks (a : Access) : List Nat := (a.secs.map secBank).dedup

/-- The access is the write of an atomic, which goes before every other access of its bank (R231). -/
def Access.isAtomWrite (a : Access) : Bool := match a.purpose with
  | .atomWrite _ => true
  | _ => false

/-- The access is the read of an atomic. -/
def Access.isAtomRead (a : Access) : Bool := match a.purpose with
  | .atomRead _ _ _ _ _ => true
  | _ => false

/-- An atomic holds a sector from the start of its read to the end of its write (R231). -/
def heldByAtomic (s : State) (secs : List Nat) : Bool :=
  (s.atom.pend.any fun p => secs.contains p.sec)
    || s.fg.reads.any fun r => r.acc.isAtomRead && r.acc.secs.any fun x => secs.contains x

/-- The banks with a pending entry, from the read until the write has started (R237, Table 8.5). -/
def atomBanks (s : State) : BitVec 16 :=
  maskOf 16 ((s.atom.pend.map fun p => secBank p.sec)
    ++ (s.fg.reads.filter fun r => r.acc.isAtomRead).flatMap fun r => r.acc.secs.map secBank)

/-- An access ordered before this one names one of its sectors, or an atomic holds one (R231, R336). -/
def Access.blocked (s : State) (a : Access) : Bool :=
  !a.isAtomWrite && !a.ghost &&
    ((s.fg.accs.any fun b => decide (b.id < a.id) && !b.ghost && b.secs.any fun x => a.secs.contains x)
      || heldByAtomic s a.secs)

/-- Within its reservation on every bank it needs (R343 key 1). -/
def Access.reserved (s : State) (a : Access) : Bool := a.banks.all fun b => withinBank s a.cls b

/-- The order of R343, with the writes of atomics above it (R344). -/
def Access.before (s : State) (a b : Access) : Bool :=
  if a.isAtomWrite ≠ b.isAtomWrite then a.isAtomWrite
  else if a.reserved s ≠ b.reserved s then a.reserved s
  else if level s a.cls ≠ level s b.cls then decide (level s b.cls < level s a.cls)
  else if a.ready ≠ b.ready then decide (a.ready < b.ready)
  else if a.source ≠ b.source then decide (a.source < b.source)
  else decide (a.id < b.id)

/-- Insert an access into a list in the order of R343. -/
def insertAccess (s : State) (a : Access) : List Access → List Access
  | [] => [a]
  | b :: r => if a.before s b then a :: b :: r else b :: insertAccess s a r

/-- The ready accesses in the order of R343, but for those that must wait for another on one of their sectors. -/
def readyAccesses (s : State) : List Access :=
  (s.fg.accs.filter fun a => decide (a.ready ≤ s.env.sc) && !a.blocked s).foldr (insertAccess s) []

/-- The first access that can start: an access that cannot holds its banks for this sc (R344). -/
def firstStartable (s : State) (held : List Nat) : List Access → Option Access
  | [] => none
  | a :: r =>
    if a.banks.all fun b => bankOpen s b && !held.contains b then some a
    else firstStartable s (held ++ a.banks) r

/-- The access that starts next in this sc. -/
def nextAccess (s : State) : Option Access := firstStartable s [] (readyAccesses s)

/-- Take an access out of the queue. -/
def dropAccess (id : Nat) (s : State) : State :=
  { s with fg := { s.fg with accs := s.fg.accs.filter fun a => a.id != id } }

/-- The banks of an access are occupied for one bank cycle (R42), and the access is charged (R341). -/
def occupy (a : Access) (s : State) : State :=
  let s := { s with fg := { s.fg with bankFree := a.banks.foldl (fun t b => tset 0 t b (s.env.sc + 8)) s.fg.bankFree } }
  a.secs.foldl (fun s x => chargeSector a.cls (secBank x) s) s

end Sys2Proof.Machine
end

