-- ==== Sys2Proof/Machine/Home.lean ====
section
/-! DEFINITION. The home: tags and parity, the directory, trackers, victims, misses and fills (03_cache_behaviour R72 to
R103, 04_coherence_protocol R107 to R132). -/

namespace Sys2Proof.Machine

/-! ### Directory states and agents -/

def dirU : BitVec 3 := 0
def dirSP : BitVec 3 := 1
def dirSB : BitVec 3 := 2
def dirX : BitVec 3 := 3
def dirT : BitVec 3 := 4

/-- The set of a line (R72): PA[19:8] xor PA[31:20]. -/
def lineSet (line : LineAddr) : Nat := (line.extractLsb' 0 12 ^^^ line.extractLsb' 12 12).toNat

/-- The tag of a line (R72): PA[47:20]. -/
def lineTag (line : LineAddr) : BitVec 28 := line.extractLsb' 12 28

/-- The line of a tag in a set (R72). -/
def lineOf (tag : BitVec 28) (set : Nat) : LineAddr := tag ++ (BitVec.ofNat 12 set ^^^ tag.extractLsb' 0 12)

/-- The tag bank of a set (R77). -/
def tagBank (set : Nat) : Nat := set % 16

/-- The agent is a caching agent of this home (R107). -/
def caching (s : State) (agent die : Nat) : Bool := decide (die = s.env.idDie.toNat) && decide (agent < s.coh.nclust.toNat)

/-- The agent has been declared dead (R144). -/
def isDead (s : State) (agent die : Nat) : Bool :=
  decide (die = s.env.idDie.toNat) && decide (agent < 160) && bit s.coh.dead agent

/-- The messages of the agent are no longer served: it was declared dead in an earlier sc (R145). -/
def goneAgent (s : State) (agent die : Nat) : Bool := isDead s agent die && !bit s.coh.declared agent

/-- A source whose messages are answered with BOUNDS (R107, R145). -/
def badSource (s : State) (agent die : Nat) : Bool :=
  decide (192 ≤ agent) || (decide (die = s.env.idDie.toNat) && decide (s.coh.nclust.toNat ≤ agent) && decide (agent < 160))
    || goneAgent s agent die

/-- The directory part of an entry. -/
def TagEntry.dir (e : TagEntry) : DirPart :=
  { dst := e.dst, pv := e.pv, ptr3 := e.ptr3, ptr2 := e.ptr2, ptr1 := e.ptr1, ptr0 := e.ptr0 }

/-- An entry with another directory part. -/
def TagEntry.withDir (e : TagEntry) (d : DirPart) : TagEntry :=
  { e with dst := d.dst, pv := d.pv, ptr3 := d.ptr3, ptr2 := d.ptr2, ptr1 := d.ptr1, ptr0 := d.ptr0 }

/-- The pointers, in order of pointer. -/
def DirPart.ptr (d : DirPart) (i : Nat) : Nat :=
  (if i = 0 then d.ptr0 else if i = 1 then d.ptr1 else if i = 2 then d.ptr2 else d.ptr3).toNat

/-- The agents of the valid pointers. -/
def DirPart.sharers (d : DirPart) : List Nat := (bitsOf d.pv).map d.ptr
def TagEntry.sharers (e : TagEntry) : List Nat := e.dir.sharers

/-- Valid pointers to the agents named (at most four). -/
def DirPart.withSharers (d : DirPart) (l : List Nat) : DirPart :=
  let p (i : Nat) : BitVec 8 := BitVec.ofNat 8 (l.getD i 0)
  { d with pv := BitVec.ofNat 4 (ones (min 4 l.length)), ptr0 := p 0, ptr1 := p 1, ptr2 := p 2, ptr3 := p 3 }
def TagEntry.withSharers (e : TagEntry) (l : List Nat) : TagEntry := e.withDir (e.dir.withSharers l)

/-- One more sharer in the lowest-numbered free pointer (Table 4.7). -/
def DirPart.addSharer (d : DirPart) (a : Nat) : DirPart :=
  let v : BitVec 8 := BitVec.ofNat 8 a
  if !bit d.pv 0 then { d with pv := setBit d.pv 0 true, ptr0 := v }
  else if !bit d.pv 1 then { d with pv := setBit d.pv 1 true, ptr1 := v }
  else if !bit d.pv 2 then { d with pv := setBit d.pv 2 true, ptr2 := v }
  else { d with pv := setBit d.pv 3 true, ptr3 := v }

/-- No copies (Table 4.5). -/
def DirPart.uncached (d : DirPart) : DirPart := { d with dst := dirU, pv := 0 }

/-- One owner. -/
def DirPart.owned (d : DirPart) (a : Nat) : DirPart := { d with dst := dirX, pv := 1, ptr0 := BitVec.ofNat 8 a }

/-! ### Looking up -/

/-- The ways a lookup reads (R75): neither locked nor gated. -/
def openWays (s : State) : List Nat := (List.range 16).filter fun w => !wayLocked s w && !wayGated s w

/-- The way that holds a line. -/
def findWay (s : State) (line : LineAddr) : Option Nat :=
  (openWays s).find? fun w => (tagAt s (lineSet line) w).tv && (tagAt s (lineSet line) w).tag == lineTag line

/-- The tracker entry of an active transaction on a line. -/
def trackerOf (s : State) (line : LineAddr) : Option Nat :=
  (s.coh.trk.find? fun p => p.2.line == line).map Prod.fst

def getTracker (s : State) (i : Nat) : Tracker := tget default s.coh.trk i
def setTracker (i : Nat) (f : Tracker → Tracker) (s : State) : State :=
  { s with coh := { s.coh with trk := tupd s.coh.trk i f } }
def freeTracker (s : State) : Option Nat := tfree s.coh.trk 48
def trackersLeft (s : State) : Nat := 48 - s.coh.trk.length

/-- The directory part that a request of a transaction meets: under a transaction, the one that it will leave as far as that
is decided, else the preceding one (R118, Table 4.4). -/
def presentDir (s : State) (e : TagEntry) (trk : Option Nat) : DirPart :=
  if e.dst = dirT then (match trk with
    | some i => (getTracker s i).next.getD { e.dir with dst := (getTracker s i).prev }
    | none => e.dir.uncached) else e.dir

def getMiss (s : State) (i : Nat) : Miss := tget default s.cache.miss i
def setMiss (i : Nat) (f : Miss → Miss) (s : State) : State :=
  { s with cache := { s.cache with miss := tupd s.cache.miss i f } }

/-- The miss entry that fills a line into its way. -/
def missOf (s : State) (line : LineAddr) : Option Nat :=
  (s.cache.miss.find? fun p => p.2.line == line && !p.2.uncached).map Prod.fst

/-- A line is active (R118). -/
def lineActive (s : State) (line : LineAddr) : Bool :=
  (trackerOf s line).isSome || s.coh.active.any fun a => a.line == line

/-- The sectors of a line that a miss entry still awaits. -/
def outstanding (s : State) (line : LineAddr) : BitVec 4 :=
  match (missOf s line).bind (tfind s.cache.miss) with
  | some m => m.asked &&& ~~~m.got
  | none => 0

def freeMiss (s : State) : Option Nat := tfree s.cache.miss 32

/-- The line has its way, but the victim is still in it: the fill has not been written (R92). -/
def filling (s : State) (line : LineAddr) : Bool :=
  s.cache.miss.any fun p => p.2.line == line && p.2.held && p.2.granted

/-- The line is held in an eviction buffer entry or is a victim not yet read out (R94). -/
def leaving (s : State) (line : LineAddr) : Bool :=
  (s.cache.ev.any fun e => e.line == line) || s.cache.victims.any fun v => v.line == line

/-! ### Tag parity and muzzled tag banks -/

/-- An entry passes the check of R75. -/
def TagEntry.passes (e : TagEntry) : Bool :=
  decide (e.sealed.pt = e.pt) && decide (e.sealed.ps = e.ps) && decide (e.sealed.pd = e.pd) && e.dsum1 == e.dsum0
    && decide (e.dst.toNat ≤ 4)

/-- A failing entry is clean (R76). -/
def TagEntry.cleanFail (e : TagEntry) : Bool :=
  e.sd == 0 && !e.dsum0 && !e.dsum1 && decide (e.sealed.ps = e.ps) && decide (e.sealed.pd = e.pd) && e.dst == dirU

/-- The directory part alone decides R154. -/
def TagEntry.dirFails (e : TagEntry) : Bool := decide (e.sealed.pd ≠ e.pd) || decide (4 < e.dst.toNat)

/-- Poison marks over all four sectors of a set and way (R77, R114, R150). -/
def markLine (set way : Nat) (s : State) : State := (lineSecs set way).foldl (fun s x => poisonSector x s) s

/-- Sts or AtRsp to the requester of a transaction that ends by another event, 4 sc after it (R468). -/
def endWith (st : Status) (tx : TxRef) (r : Req) (s : State) : State :=
  if r.kind = .atom then answer r.hdr 0xB (.atRsp st 0) [] (s.env.sc + 4) tx s
  else answer r.hdr 8 (.status st) [] (s.env.sc + 4) tx s

/-- The transaction that an array read answers. -/
def Purpose.tx : Purpose → TxRef
  | .home _ u _ _ => u
  | .send _ _ u => u
  | .timed _ u _ _ _ => u
  | _ => .none

/-- Something of the transaction is still to be sent, to be read, or to arrive. -/
def txBusy (s : State) (t : TxRef) : Bool :=
  (s.out.egress.any fun m => m.tx == t && m.cls != .fwd) || (s.fg.xpq.any fun m => m.tx == t)
    || (s.fg.accs.any fun a => a.purpose.tx == t) || (s.fg.reads.any fun r => r.acc.purpose.tx == t)
    || s.cache.miss.any fun m => m.2.owed.any fun o => o.tx == t

/-- The requesters of a transaction for whom an array read or a fetch is under way, each with the directory part from before
its grant. -/
def txOwes (s : State) (t : TxRef) : List (Req × DirPart) :=
  let ofPurpose (p : Purpose) : List (Req × DirPart) := match p with
    | .home r u _ was => if u == t then [(r, was)] else []
    | .timed r u _ _ _ => if u == t then [(r, default)] else []
    | _ => []
  (s.fg.accs.flatMap fun a => ofPurpose a.purpose) ++ (s.fg.reads.flatMap fun r => ofPurpose r.acc.purpose)
    ++ s.cache.miss.flatMap fun m => (m.2.owed.filter fun o => o.tx == t).map fun o => (o.req, o.was)

/-- What is under way for a transaction is no longer wanted. -/
def dropTx (t : TxRef) (s : State) : State :=
  let hush (a : Access) : Access := if a.purpose.tx = t then { a with purpose := .discard } else a
  { s with
    fg := { s.fg with accs := s.fg.accs.filter fun a => a.purpose.tx != t
                      reads := s.fg.reads.map fun r => { r with acc := hush r.acc } }
    cache := { s.cache with miss := s.cache.miss.map fun m =>
      (m.1, { m.2 with owed := m.2.owed.filter fun o => o.tx != t }) } }

/-- The requesters of a transaction with a tracker entry whose answers have not been handed to egress (R125). -/
def Tracker.unanswered (s : State) (i : Nat) (t : Tracker) : List Req :=
  let owes := (txOwes s (.tracker i)).map Prod.fst
  if !owes.isEmpty then owes
  else if t.served then []
  else
    let opener : List Req := match t.req with
      | some r => [r]
      | none => []
    match t.missIndex.bind (tfind s.cache.miss) with
    | some m => if m.line = t.line ∧ !m.granted then opener ++ m.joined else opener
    | none => opener

/-- A miss whose transaction has ended otherwise: what XP still returns for it is dropped. -/
def Miss.abandon (m : Miss) : Miss :=
  { m with tracker := none, joined := [], granted := true, held := false, uncached := true }

/-- The directory part from before a grant stands again (R151, R155): in the tracker entry, or in the entry of a line that is
in no transaction. -/
def undoGrant (tx : TxRef) (line : LineAddr) (was : DirPart) (s : State) : State :=
  match tx with
  | .tracker i => setTracker i (fun t => { t with next := some was }) s
  | .active _ => match findWay s line with
    | some way => setTag (lineSet line) way (fun e => if e.dst = dirT then e else e.withDir was) s
    | none => s
  | _ => s

/-- A transaction of a muzzled tag bank ends with MUZZLED to its requesters (R155, R468); one whose answer has been handed to
egress ends as that leaves. -/
def endMuzzled (i : Nat) (s : State) : State :=
  match tfind s.coh.trk i with
  | none => s
  | some t =>
    if t.endsAt.isSome then s
    else
      let owes := (t.unanswered s i).filter fun r => !r.internal && !isDead s r.agent r.die
      let s := dropTx (.tracker i) s
      let s := setTracker i (fun t => { t with
        await := [], served := true, missIndex := none, stalled := false, next := none,
        endsAt := if owes.isEmpty && !txBusy s (.tracker i) then some s.env.sc else none }) s
      let s := match t.missIndex with
        | some m => { s with cache := { s.cache with miss := tupd s.cache.miss m Miss.abandon } }
        | none => s
      owes.foldl (fun s r => endWith .muzzled (.tracker i) r s) s

/-- The same for a transaction without a tracker entry. -/
def endActiveMuzzled (a : Active) (s : State) : State :=
  let owes := txOwes s (.active a.id)
  owes.foldl (fun s p => endWith .muzzled (.active a.id) p.1 (undoGrant (.active a.id) a.line p.2 s)) (dropTx (.active a.id) s)

/-- The home function of a tag bank stops (R155): its transactions end, what waits for it is answered, and victims whose
recall cannot end are given up. -/
def endBank (bank : Nat) (s : State) : State :=
  let here (line : LineAddr) : Bool := tagBank (lineSet line) == bank
  let trks := (s.coh.trk.filter fun p => tagBank p.2.set == bank).map Prod.fst
  let s := trks.foldl (fun s i => endMuzzled i s) s
  let s := (s.coh.active.filter fun a => here a.line).foldl (fun s a => endActiveMuzzled a s) s
  let waits := s.cache.waiters.filter fun r => here r.line && !r.internal
  let s := { s with cache := { s.cache with
    waiters := s.cache.waiters.filter fun r => !(here r.line && !r.internal)
    victims := s.cache.victims.filter fun v => !(here v.line && v.step == .backInv)
    miss := s.cache.miss.filter fun p => !(here p.2.line && p.2.granted && p.2.uncached && p.2.asked == p.2.got) } }
  waits.foldl (fun s r => endWith .muzzled .none r s) s

/-- Muzzle the home function of a tag bank (R77, R154, R155). -/
def muzzleBank (bank : Nat) (s : State) : State :=
  endBank bank { s with coh := { s.coh with muzBanks := setBit s.coh.muzBanks bank true } }

/-- The line of a way leaves it while a miss entry still fills it: what arrives is not written into the way. -/
def detachWay (set way : Nat) (s : State) : State :=
  let leave (p : Nat × Miss) : Nat × Miss :=
    if lineSet p.2.line = set ∧ p.2.way = way then (p.1, { p.2 with uncached := true }) else p
  { s with cache := { s.cache with miss := s.cache.miss.map leave } }

/-- Treat one failing entry (R76, R77, R154). -/
def failEntry (set way : Nat) (s : State) : State :=
  let e := tagAt s set way
  if e.passes then s
  else if e.cleanFail then
    let s := detachWay set way s
    report 0x20 0 0 (detailB set way)
      { s with cache := { s.cache with tags := terase s.cache.tags (set * 16 + way) } }
  else
    let s := markLine set way s
    let s := if e.dirFails then setTag set way (fun e => { e with tv := true, sv := 15, sd := 15 }) s else s
    let s := if e.dirFails then
        report 0x25 2 0 (detailL (lineOf e.tag set) 0 0 [] 3)
          { s with coh := { s.coh with poisonLines := satAdd 65535 s.coh.poisonLines 1 }
                   bg := { s.bg with tel := { s.bg.tel with poisonLines := satAdd 65535 s.bg.tel.poisonLines 1 } } }
      else s
    report 0x21 3 (0x1000 + tagBank set) (detailB set way) (muzzleBank (tagBank set) s)

/-- The check of every lookup (R75). -/
def checkSet (set : Nat) (s : State) : State :=
  if bit s.coh.muzBanks (tagBank set) then s else (openWays s).foldl (fun s w => failEntry set w s) s

/-! ### Reclaiming the lines of dead agents (R148) -/

/-- Poison a present line (R150): every sector valid and dirty, marks queued, counted and reported with its cause. -/
def poisonLine (set way cause trans : Nat) (s : State) : State :=
  let e := tagAt s set way
  let s := markLine set way (setTag set way (fun e => { e with tv := true, sv := 15, sd := 15 }) s)
  let s := if cause = 4 then s else
    { s with coh := { s.coh with poisonLines := satAdd 65535 s.coh.poisonLines 1 }
             bg := { s.bg with tel := { s.bg.tel with poisonLines := satAdd 65535 s.bg.tel.poisonLines 1 } } }
  report 0x25 2 0 (detailL (lineOf e.tag set) trans 0 [] cause) s

/-- Reclaim a line without an active transaction (Table 5.1). -/
def reclaimEntry (set way : Nat) (s : State) : State :=
  let e := tagAt s set way
  let dead (a : Nat) : Bool := isDead s a s.env.idDie.toNat
  if !e.tv then s
  else if e.dst = dirSP ∧ e.sharers.any dead then
    let pv := maskOf 4 ((bitsOf e.pv).filter fun i => !dead (e.dir.ptr i))
    setTag set way (fun e => { e with pv := pv, dst := if pv = 0 then dirU else dirSP }) s
  else if e.dst = dirX ∧ dead e.ptr0.toNat then
    poisonLine set way 2 0 (setTag set way (fun e => { e with dst := dirU, pv := 0 }) s)
  else s

/-! ### Replacement and victims -/

/-- The ways that a lock or gate walk, or a power-up, has taken out of replacement (R99, R104, R105). -/
def walkWays (s : State) : List Nat :=
  (match s.cache.walk with
    | some w => w.all
    | none => []) ++ (match s.cache.unlocking with
    | some u => bitsOf u.2
    | none => []) ++ bitsOf s.cache.powering

/-- The sectors of the line in a set and way that an atomic will write which has not computed yet: they are not dirty, but
must not be dropped (R230, R231). -/
def atomSectors (s : State) (set way : Nat) : BitVec 4 :=
  let mine (x : Nat) (a : Access) : Bool := a.isAtomRead && a.secs.contains (location set way (64 * x) / 2)
  maskOf 4 ((List.range 4).filter fun x => s.fg.accs.any (mine x) || s.fg.reads.any fun r => mine x r.acc)

/-- The candidate ways of a set (R89). -/
def candidates (s : State) (set : Nat) : List Nat :=
  (openWays s).filter fun w =>
    !(walkWays s).contains w && decide ((tagAt s set w).dst ≠ dirT)
      && !(s.cache.victims.any fun v => v.set == set && v.way == w)

/-- Replacement (R89): the chosen way, and the state with the ages of rule 2. -/
def chooseWay (set : Nat) (s : State) : Option Nat × State :=
  let cs := candidates s set
  match cs.find? (fun w => !(tagAt s set w).tv) with
  | some w => (some w, s)
  | none =>
    let top := cs.foldl (fun a w => max a (tagAt s set w).age.toNat) 0
    let s := if top < 3 then
        cs.foldl (fun s w => setTag set w (fun e => { e with age := BitVec.ofNat 2 (e.age.toNat + (3 - top)) }) s) s
      else s
    let old := cs.filter fun w => (tagAt s set w).age == 3
    match old.find? (fun w => (tagAt s set w).dst == dirU) with
    | some w => (some w, s)
    | none => (old.head?, s)

/-- Whether every way is locked or gated (R103). -/
def cacheOff (s : State) : Bool := (openWays s).isEmpty

/-- Snoop messages (Table 4.2): the opcode is 0 SnpFS, 1 SnpFX, 2 SnpInv, 3 SnpD, 4 SnpRec. -/
def snoop (op dst : Nat) (i : Nat) (line : LineAddr) (label : Nat) (body : Body) (s : State) : State :=
  emit { port := if dst = 255 then .mpa else if dst % 2 = 0 then .mpa else .mpb, cls := .fwd, op := BitVec.ofNat 4 op,
         dstAgent := dst, dstDie := s.env.idDie.toNat, txn := s.env.idSub ++ BitVec.ofNat 14 i, line := line,
         label := label, body := body, data := [], ready := s.env.sc + 9, tx := .tracker i } s

/-- A tracker entry for a transaction that begins now. -/
def newTracker (line : LineAddr) (set way : Nat) (kind : Transient) (req : Option Req) (prev : BitVec 3) : Tracker :=
  { line := line, set := set, way := way, tr := kind, wbp := false, req := req, await := [], broadcast := false,
    sentTo := [], owner := none, ownerWb := false, requesterWb := false, timerFrom := none, elapsed := 0, prev := prev,
    next := none, stalled := false, held := [], missIndex := none, served := false, endsAt := none }

/-- The caching agents whose answers a broadcast awaits (R129, R147). -/
def broadcastAwait (s : State) (except : Nat) : List Nat :=
  (List.range s.coh.nclust.toNat).filter fun a => a != except && !isDead s a s.env.idDie.toNat

/-- The snoop of a transaction awaits answers from the agents named. -/
def awaitFrom (i : Nat) (ags : List Nat) (s : State) : State :=
  setTracker i (fun t => { t with await := ags, sentTo := ags }) s

/-- Send SnpInv to sharers, or as a broadcast, and await the answers (R129, R130). -/
def invalidate (i : Nat) (line : LineAddr) (label : Nat) (d : DirPart) (except : Nat) (s : State) : State :=
  if d.dst = dirSB then
    snoop 2 255 i line label (.snpInv true except)
      (setTracker i (fun t => { t with broadcast := true }) (awaitFrom i (broadcastAwait s except) s))
  else
    let ags := d.sharers.filter (· ≠ except)
    ags.foldl (fun s a => snoop 2 a i line label (.snpInv false 0) s) (awaitFrom i ags s)

/-- Read the victims whose back-invalidation has ended into free eviction buffer entries (R92). -/
def pushVictims : Nat → State → State
  | 0, s => s
  | k + 1, s =>
    match s.cache.victims.find? (fun v => v.step == .awaitBuffer),
        (List.range 16).find? (fun i => !(s.cache.ev.any fun e => e.index == i)) with
    | some v, some i =>
      let secs := (bitsOf v.sd).map fun x => location v.set v.way (64 * x) / 2
      let mask := (bitsOf v.sd).foldl (fun (m : BitVec 8) x => m ||| BitVec.ofNat 8 (3 * 4 ^ x)) 0
      let s := { s with cache := { s.cache with
        ev := s.cache.ev ++ [{ index := i, line := v.line, cls := v.cls, cwMask := mask, data := [], sent := false,
                                walked := v.miss.isNone }]
        victims := s.cache.victims.map fun u => if u.line = v.line then { u with step := .reading } else u } }
      pushVictims k (enqueue (readAccess (max s.env.sc v.since) v.cls 1 false secs (.evict v.line)) s)
    | _, _ => s

/-- The class c is in streaming mode (R83). -/
def streaming (s : State) (c : Nat) : Bool := s.cache.sdEn && decide (tget 0 s.cache.streamCnt c = 16)

/-- The fill write of a sector that has arrived, once the way is free of its victim (R88, R92). -/
def enqueueFill (i : Nat) (sect : Nat) (s : State) : State :=
  let m := getMiss s i
  let set := lineSet m.line
  let words : Table CodeWord := [2 * sect, 2 * sect + 1].map fun k =>
    (location set m.way (32 * k), match tfind m.merge k with
      | some d => d
      | none => tget { data := 0, poison := true } m.buf k)
  let lo := (tfind m.merge (2 * sect)).isSome
  let hi := (tfind m.merge (2 * sect + 1)).isSome
  let age : BitVec 2 := if streaming s m.cls then 3 else 0
  let s := setTag set m.way (fun e => { e with sv := setBit e.sv sect true,
                                               sd := if lo || hi then setBit e.sd sect true else e.sd,
                                               age := if lo && hi then e.age else age }) s
  enqueue (writeAccess (max s.env.sc (tget 0 m.since sect + 1)) m.cls 1 false words (.fill i)) s

/-- Free a miss entry once every fetched sector has been written and its request answered (R88). -/
def retireMiss (i : Nat) (s : State) : State :=
  match tfind s.cache.miss i with
  | none => s
  | some m =>
    let writing := s.fg.accs.any fun a => match a.purpose with
      | .fill j => j == i
      | _ => false
    if m.granted && m.owed.isEmpty && m.asked == m.got && !writing && !m.held then
      { s with cache := { s.cache with miss := terase s.cache.miss i } }
    else s

/-- The victim has been read out or dropped: the way's fill may be written (R92). -/
def releaseVictim (line : LineAddr) (s : State) : State :=
  match s.cache.victims.find? (fun v => v.line == line) with
  | none => s
  | some v =>
    let s := { s with cache := { s.cache with victims := s.cache.victims.filter fun u => u.line != line } }
    match v.miss with
    | none => s
    | some i =>
      let m := getMiss s i
      let s := setMiss i (fun m => { m with held := false }) s
      retireMiss i (if m.uncached then s
        else if m.marks then markLine v.set v.way (setTag v.set v.way (fun e => { e with sv := 15, sd := 15 }) s)
        else (bitsOf m.got).foldl (fun s x => enqueueFill i x s) s)

/-- Copies of the line of an entry must be recalled (R91): an SB line of which no answer would be awaited needs no recall. -/
def recalls (s : State) (e : TagEntry) : Bool :=
  decide (e.dst ≠ dirU) && !(decide (e.dst = dirSB) && (broadcastAwait s 255).isEmpty)

/-- Begin the way out of the line in a set and way, which is not under a transaction (R91, R92): back-invalidate, read out,
or drop. The entry is cleared. A tracker entry is free where the line needs one. The sectors of an atomic that has not computed
leave as dirty ones. -/
def expel (set way cls label : Nat) (miss : Option Nat) (s : State) : State :=
  let e := tagAt s set way
  let line := lineOf e.tag set
  let sd := e.sd ||| (atomSectors s set way &&& e.sv)
  let s := { s with cache := { s.cache with tags := terase s.cache.tags (set * 16 + way) } }
  let s := detachWay set way s
  let v : Victim := { line := line, set := set, way := way, sv := e.sv, sd := sd, step := .backInv, cls := cls,
                      since := s.env.sc + 6, miss := miss }
  if !e.tv then s
  else if !recalls s e then
    let s := if e.dst = dirSB then
        emit { port := .mpa, cls := .fwd, op := 2, dstAgent := 255, dstDie := s.env.idDie.toNat, txn := s.env.idSub ++ 0#14,
               line := line, label := label, body := .snpInv true 255, data := [], ready := s.env.sc + 9, tx := .none } s
      else s
    if sd = 0 then s
    else pushVictims 16 { s with cache := { s.cache with victims := s.cache.victims ++ [{ v with step := .awaitBuffer }] } }
  else match freeTracker s with
    | none => s
    | some i =>
      let t := newTracker line set way .tb none e.dst
      let s := { s with cache := { s.cache with victims := s.cache.victims ++ [v] }
                        coh := { s.coh with
                          trk := tput s.coh.trk i { t with owner := if e.dst = dirX then some e.ptr0.toNat else none } } }
      if e.dst = dirX then
        snoop 4 e.ptr0.toNat i line label .none (awaitFrom i [e.ptr0.toNat] s)
      else invalidate i line label e.dir 255 s

/-- Whether the line in a set and way needs a tracker entry on its way out (R91). -/
def needsTb (s : State) (set way : Nat) : Bool := (tagAt s set way).tv && recalls s (tagAt s set way)

/-! ### Misses -/

/-- An XP read (R85, R426): the miss entry or fetch buffer entry is its TXN. -/
def xpRead (txn : Nat) (line : LineAddr) (cls : Nat) (mask : BitVec 4) (crit : Nat) (s : State) : State :=
  if mask = 0 then s
  else emit { port := .xp, cls := .mem, op := 0, dstAgent := 255, dstDie := s.env.idDie.toNat, txn := BitVec.ofNat 16 txn,
              line := line, label := cls, body := .xrd mask (BitVec.ofNat 3 crit), data := [], ready := s.env.sc + 9,
              tx := .none } s

/-- The named sectors in the order of R78: the critical one, then ascending with wrap. -/
def sectorOrder (mask : BitVec 4) (crit : Nat) : List Nat :=
  ((List.range 4).map fun k => (crit + k) % 4).filter fun i => bit mask i

/-- The critical code word of a request's fetch (R86): where the critical sector is not fetched, the first of those that are,
in the order of R78. DESIGN CHOICE (entry 52): a write's fetch, which has no critical sector, begins at sector 0. -/
def Req.critWord (r : Req) (missing : BitVec 4) : Nat :=
  if r.kind = .atom then 2 * r.crit.toNat + (if bit r.cwMask (2 * r.crit.toNat + 1) then 1 else 0)
  else 2 * ((sectorOrder missing r.crit.toNat).headD 0)

/-- The code words a write of a sector set merges, and the sectors it needs fetched first (R81): a sector with SV = 0 of
which only one code word is written. -/
def mergeNeeds (sv : BitVec 4) (cw : BitVec 8) : BitVec 4 :=
  maskOf 4 ((List.range 4).filter fun i => !bit sv i && (bit cw (2 * i) != bit cw (2 * i + 1)))

/-- The sector mask of a code-word mask. -/
def sectorsOf (cw : BitVec 8) : BitVec 4 := maskOf 4 ((List.range 4).filter fun i => bit cw (2 * i) || bit cw (2 * i + 1))

/-- The data of a request's code words, by index in the line. -/
def Req.words (r : Req) : Table CodeWord := (bitsOf r.cwMask).zip r.data

/-- A tracker entry for a request: the one it has, with its transient, or a new one on the line. -/
def ensureTracker (trk : Option Nat) (r : Req) (set way : Nat) (kind : Transient) (prev : BitVec 3) (s : State) :
    Option (Nat × State) :=
  match trk with
  | some i => some (i, setTracker i (fun t => { t with tr := kind, set := set, way := way }) s)
  | none => match freeTracker s with
    | none => none
    | some i =>
      let t := { newTracker r.line set way kind (some r) prev with
                 owner := if prev = dirX then some (tagAt s set way).ptr0.toNat else none }
      some (i, { s with coh := { s.coh with trk := tput s.coh.trk i t } })

/-- Open a miss entry for a request whose line has its way: fetch the missing sectors (R85), holding the writes until the
fetch has ended. -/
def openMiss (i trk way : Nat) (r : Req) (missing : BitVec 4) (held uncached : Bool) (s : State) : State :=
  let m : Miss := { line := r.line, way := way, cls := r.cls, asked := missing, got := 0, pois := 0, buf := [],
                    merge := [], tracker := some trk, joined := [], granted := false, owed := [], since := [],
                    held := held, uncached := uncached }
  let s := { s with cache := { s.cache with miss := tput s.cache.miss i m } }
  let s := setTracker trk (fun t => { t with missIndex := some i }) s
  xpRead i r.line r.cls missing (r.critWord missing) s

/-- The sectors a request needs that are not valid in the cache (R79, R81, R230). -/
def Req.missing (r : Req) (sv : BitVec 4) : BitVec 4 :=
  match r.kind with
  | .wrfull | .wrpart => mergeNeeds sv r.cwMask
  | _ => r.mask &&& ~~~sv

end Sys2Proof.Machine
end

