-- ==== Sys2Proof/Machine/Flits.lean ====
section
/-! DEFINITION. The flits of a message that the slice sends (16_ports_and_signals R417 to R419): its header, its side fields, its
data (Tables 16.3 to 16.6 and 16.9, and the message tables of the other chapters). -/

namespace Sys2Proof.Machine

/-- Fields packed upward from a bit with no gaps, each as its width and its value (R419). -/
def packFields : Nat → List (Nat × Nat) → Nat
  | _, [] => 0
  | lo, (w, n) :: r => n % 2 ^ w * 2 ^ lo + packFields (lo + w) r

/-- The further fields of a message, in the order of its table, as widths and values (Tables 4.2, 6.4, 7.2, 8.1, 9.3, 16.6
and 16.9). DataX alone of the data messages has a dirty flag. -/
def OutMsg.further (m : OutMsg) : List (Nat × Nat) :=
  match m.body with
  | .none => []
  | .status st => [(5, statusCode st)]
  | .readReq mask crit => [(4, mask.toNat), (2, crit.toNat)]
  | .snpFwd agent die txn mask => [(8, agent), (5, die), (16, txn.toNat), (4, mask.toNat)]
  | .snpInv b e => [(1, b01 b), (8, e)]
  | .data mask _ dirty => if m.op = 3 then [(4, mask.toNat), (1, b01 dirty)] else [(4, mask.toNat)]
  | .cwMask mask => [(8, mask.toNat)]
  | .sectors mask => [(4, mask.toNat)]
  | .chRsp st slot off => [(5, statusCode st), (16, slot.toNat), (24, off.toNat)]
  | .atRsp st succ => [(5, statusCode st), (8, succ.toNat)]
  | .callRsp st ctx => [(5, statusCode st), (4, ctx.toNat)]
  | .atReq op => [(4, op.aop.toNat), (1, b01 op.w64), (1, b01 op.fetch), (3, op.cw.toNat), (8, op.lmask.toNat)]
  | .pkCtb epoch idx chunk ncw => [(16, epoch.toNat), (6, idx.toNat), (10, chunk.toNat), (3, ncw.toNat)]
  | .call entry reply => [(8, entry.toNat), (1, b01 reply)]
  | .pushD addr ch slot half last =>
    [(32, addr.toNat), (8, ch.toNat), (16, slot.toNat), (1, b01 half),
     (2, b01 (m.data.getD 0 default).poison + 2 * b01 (m.data.getD 1 default).poison), (1, b01 last)]
  | .xrd mask crit => [(4, mask.toNat), (3, crit.toNat)]
  | .xwr mask => [(8, mask.toNat)]

/-- The header of a message (Table 16.5), from a source agent and die. DESIGN CHOICE (entry 60): at XP, where a flit carries one
code word, NDF counts as at a mesh port. -/
def OutMsg.header (agent die : Nat) (m : OutMsg) : BitVec 256 :=
  BitVec.ofNat 256 (packFields 0 [(3, channelOf m.cls), (4, m.op.toNat), (8, agent), (5, die), (8, m.dstAgent), (5, m.dstDie),
      (16, m.txn.toNat), (40, m.line.toNat), (4, m.label), (3, ceilDiv m.data.length 2)]
    + packFields 96 m.further)

/-- Code words in a flit of a port. -/
def perFlit (p : Port) : Nat := if p = .xp then 1 else 2

/-- Flits of the header: none in the data-only form of a mesh port, and none in the later parts of an answer at XP. -/
def OutMsg.heads (m : OutMsg) : Nat :=
  match m.body with
  | .data _ _ _ => if m.port = .xp && m.first = 0 then 1 else 0
  | .pushD _ _ _ _ _ => if m.port = .xp then 1 else 0
  | _ => 1

/-- The code words of a flit of a message. -/
def OutMsg.words (m : OutMsg) (i : Nat) : List CodeWord :=
  (m.data.drop ((i - m.heads) * perFlit m.port)).take (perFlit m.port)

/-- The place in its line of a code word of a message, where the message carries code words of a line (R78, Table 16.3). -/
def OutMsg.place (m : OutMsg) (k : Nat) : Option Nat :=
  match m.body with
  | .data mask crit _ => ((sectorOrder mask crit.toNat)[m.first + k / 2]?).map fun i => 2 * i + k % 2
  | .cwMask mask => (bitsOf mask)[k]?
  | .xwr mask => (bitsOf mask)[k]?
  | .none => if m.cls = .req then some k else none
  | _ => none

/-- The sector that a flit carries. DESIGN CHOICE (entry 60): the bits are free where its code words are not those of one sector of a
line. -/
def OutMsg.sector (fresh : Nat) (m : OutMsg) (i : Nat) : BitVec 2 :=
  let k := (i - m.heads) * perFlit m.port
  let places := (List.range (m.words i).length).map fun j => (m.place (k + j)).map (· / 2)
  match places with
  | [some a] => BitVec.ofNat 2 a
  | [some a, some b] => if a = b then BitVec.ofNat 2 a else Config.freeSect (fresh + i)
  | _ => Config.freeSect (fresh + i)

/-- The last flit of an answer that leaves sector by sector is the last of all its sectors (R87); PushD says itself (Table 6.4). -/
def OutMsg.isLast (m : OutMsg) (i : Nat) : Bool :=
  match m.body with
  | .pushD _ _ _ _ last => last && i + 1 == flits m
  | .data mask _ _ => i + 1 == flits m && decide ((bitsOf mask).length ≤ m.first + ceilDiv m.data.length 2)
  | _ => i + 1 == flits m

/-- EXT of Table 16.4: the slot of a PushD; at XP the place of the code word. -/
def OutMsg.ext (m : OutMsg) (i : Nat) : Nat :=
  match m.body with
  | .pushD addr ch slot _ _ => packFields 64 [(32, addr.toNat), (8, ch.toNat), (16, slot.toNat)]
  | _ => if m.port = .xp then packFields 64 [(3, (m.place (i - m.heads)).getD 0)] else 0

/-- The side field of an H flit (R418): FK, VC and the DST fields. -/
def OutMsg.sideH (m : OutMsg) : BitVec 128 :=
  BitVec.ofNat 128 (packFields 0 [(2, 1), (3, channelOf m.cls), (4, 0), (8, m.dstAgent), (5, m.dstDie)])

/-- The side field of a D flit (Table 16.4). -/
def OutMsg.sideD (agent die fresh : Nat) (m : OutMsg) (i : Nat) : BitVec 128 :=
  let ws := m.words i
  let poison := b01 (ws.getD 0 default).poison + 2 * b01 (ws.getD 1 default).poison
  let half := b01 (decide (m.port ≠ .xp) && ws.length == 1)
  let dirty := match m.body with
    | .data _ _ d => b01 d
    | _ => 0
  BitVec.ofNat 128 (packFields 0 [(2, 3), (3, channelOf m.cls), (4, m.op.toNat), (8, m.dstAgent), (5, m.dstDie), (8, agent),
      (5, die), (16, m.txn.toNat), (4, m.label), (2, (m.sector fresh i).toNat), (1, half), (2, poison), (1, b01 (m.isLast i)),
      (1, min 1 m.heads), (1, dirty), (1, 0)]
    + m.ext i)

/-- A flit of a message: the slice sends one header to an H flit (R417). -/
def flitOf (s : State) (m : OutMsg) (i : Nat) : Flit :=
  let agent := s.env.idAgent.toNat
  let die := s.env.idDie.toNat
  if i < m.heads then { port := m.port, payload := (m.header agent die).zeroExtend 512, side := m.sideH }
  else
    let ws := m.words i
    { port := m.port, side := m.sideD agent die s.fresh i
      payload := (ws.getD 1 default).data ++ (ws.getD 0 default).data }

/-- The link check of a flit (R424). -/
def Flit.check (f : Flit) : Word32 :=
  if f.port = .xp then linkCheck (f.payload.extractLsb' 0 256) f.side else linkCheck f.payload f.side

/-- The last flits of a message that starts to leave, four at most, the last first. -/
def lastFlits (s : State) (m : OutMsg) : List Flit :=
  let n := flits m
  (List.range (min 4 n)).map fun i => flitOf s m (n - 1 - i)

end Sys2Proof.Machine
end

