-- ==== Sys2Proof/Machine/MoveCore.lean ====
section
/-! DEFINITION. The state of a mover engine and the answers of its requests (11_bulk_mover R315, R321 to R327). -/

namespace Sys2Proof.Machine

/-! ### The descriptor (Table 11.1) -/

def Engine.src (g : Engine) : Nat := fld g.desc 0 48
def Engine.dst (g : Engine) : Nat := fld g.desc 48 48
def Engine.len (g : Engine) : Nat := fld g.desc 96 32
def Engine.kind (g : Engine) : Nat := fld g.desc 128 2
def Engine.evt (g : Engine) : Nat := fld g.desc 136 7
def Engine.norec (g : Engine) : Bool := bit g.desc 143
def Engine.recordAt (g : Engine) : Nat := fld g.desc 144 24
def Engine.mwdog (g : Engine) : Nat := fld g.desc 168 8
def Engine.pattern (g : Engine) : Code := g.desc.extractLsb' 256 256

def engineOf (s : State) (e : Nat) : Engine := tget default s.mov.eng e
def setEngine (e : Nat) (f : Engine → Engine) (s : State) : State :=
  { s with mov := { s.mov with eng := tmod default s.mov.eng e f } }

/-- The engine takes part in nothing while it, or the slice, is muzzled (R330, R403). -/
def engineMuzzled (s : State) (g : Engine) : Bool := g.muz || s.saf.fatal

/-- The check of an engine's state at its use (R330): a failure muzzles the engine, whose number is reported. -/
def checkEngine (e : Nat) (s : State) : State :=
  if (engineOf s e).parityBad && !engineMuzzled s (engineOf s e) then
    report 0x59 1 (0x6000 + e) (e * 2 ^ 104) (setEngine e (fun g => { g with muz := true }) s)
  else s

/-- The engine still carries out the move of the serial number. -/
def carries (s : State) (e serial : Nat) : Bool :=
  let g := engineOf s e
  g.busy && g.serial == serial && !engineMuzzled s g

/-! ### The order of lines (R321) -/

/-- The line number at a position of a range: none where the range does not cover it. -/
def moveLine (a len pos : Nat) : Option Nat :=
  let k := pos % 16
  let line := (a / 4096 + pos / 16) * 16 + (4 * (k % 4) + k / 4)
  if a < (line + 1) * 256 ∧ line * 256 < a + len then some line else none

/-- Positions of a range. -/
def movePositions (a len : Nat) : Nat := ((a + len - 1) / 4096 - a / 4096 + 1) * 16

/-- The first position from pos on that the range covers, with its line. -/
def nextLine (a len : Nat) : Nat → Nat → Option (Nat × Nat)
  | 0, _ => none
  | k + 1, pos =>
    if movePositions a len ≤ pos then none
    else match moveLine a len pos with
      | some line => some (pos, line)
      | none => nextLine a len k (pos + 1)

/-- The part of a range in a line: its offset in the range and its length. -/
def linePart (a len line : Nat) : Nat × Nat :=
  let lo := max a (line * 256)
  (lo - a, min (a + len) ((line + 1) * 256) - lo)

/-! ### Completed parts (R326) -/

/-- Extend the completed prefix by the parts that adjoin it. -/
def joinParts : Nat → Nat → List (Nat × Nat) → Nat × List (Nat × Nat)
  | 0, done, parts => (done, parts)
  | k + 1, done, parts => match parts.find? fun p => p.1 == done with
    | none => (done, parts)
    | some p => joinParts k (done + p.2) (parts.erase p)

/-- A request for bytes off to off + len - 1 has completed. -/
def Engine.complete (off len : Nat) (g : Engine) : Engine :=
  let r := joinParts (g.parts.length + 1) g.done (g.parts ++ [(off, len)])
  { g with done := r.1, parts := r.2 }

/-- A request is no longer awaited. -/
def Engine.settleReq (off : Nat) (write : Bool) (g : Engine) : Engine :=
  { g with flight := g.flight.filter fun r => !(r.off == off && r.write == write) }

/-- The line of a request. -/
def Engine.lineOf (g : Engine) (off : Nat) (write : Bool) : LineAddr :=
  BitVec.ofNat 40 (((if write || g.kind != 0 then g.dst else g.src) + off) / 256)

/-! ### Answers (R322, R327) -/

/-- A request that is awaited. -/
def Engine.awaits (g : Engine) (off : Nat) (write : Bool) : Option MoveReq :=
  g.flight.find? fun r => r.off == off && r.write == write

/-- An answer to a request of a move reaches its engine, whose state is checked; that of a move which has ended is discarded
(R328, R330). -/
def moveAnswer (e serial off : Nat) (write : Bool) (act : MoveReq → Engine → Engine) (s : State) : State :=
  let s := checkEngine e s
  if carries s e serial then
    match (engineOf s e).awaits off write with
    | some r => setEngine e (act r) s
    | none => s
  else s

/-- The answer that ends a move (R327): the first that registers, of those of one sc that of the request issued first. -/
def Engine.endBy (now : Nat) (r : MoveReq) (st : Status) (g : Engine) : Engine :=
  if g.ended.isNone || (g.endKey.1 == now && decide (r.num < g.endKey.2)) then
    { g with ended := some { status := st, cause := if r.write then 2 else 1, line := g.lineOf r.off r.write }
             endKey := (now, r.num) }
  else g

/-- A request ends without success (Table 11.5). -/
def moveFailed (e serial off : Nat) (write : Bool) (st : Status) (s : State) : State :=
  moveAnswer e serial off write (fun r g => (g.settleReq off write).endBy s.env.sc r st) s

/-- The code words of a source read have arrived; a poisoned one ends the move. -/
def moveData (e serial off : Nat) (words : List CodeWord) (s : State) : State :=
  if words.any fun w => w.poison then moveFailed e serial off false .poison s
  else moveAnswer e serial off false (fun _ g =>
    { g.settleReq off false with buf := (words.zipIdx).foldl (fun t w => tput t (off / 32 + w.2) w.1) g.buf }) s

/-- A write has completed. -/
def moveWritten (e serial off : Nat) (s : State) : State :=
  moveAnswer e serial off true (fun r g => (g.settleReq off true).complete off r.len) s

/-- A request is to be sent again (R322). -/
def moveAgain (e serial off : Nat) (write : Bool) (s : State) : State :=
  moveAnswer e serial off write (fun r g => { g with again := g.again ++ [r] }) s

end Sys2Proof.Machine
end

