-- ==== Sys2Proof/Machine/Serve.lean ====
section
/-! DEFINITION. Serving requests at the home (04_coherence_protocol Table 4.7, 03_cache_behaviour R78 to R103): grants,
answers, hits, writes, misses, the fetch buffer, and the intake of a request. -/

namespace Sys2Proof.Machine

/-- The transaction behind a response ends now (R120). -/
def endNow (tx : TxRef) (s : State) : State :=
  match tx with
  | .tracker i => setTracker i (fun t => { t with served := true, endsAt := some s.env.sc }) s
  | .active k => { s with coh := { s.coh with active := s.coh.active.map fun a =>
      if a.id = k then { a with endsAt := some s.env.sc } else a } }
  | _ => s

/-- Nothing is sent for this part of a transaction: it ends now unless something of it is still to come (R148). -/
def closeTx (tx : TxRef) (s : State) : State :=
  if txBusy s tx then (match tx with
    | .tracker i => setTracker i (fun t => { t with served := true }) s
    | _ => s)
  else endNow tx s

/-- Nothing is sent for a request: it is internal, or its agent is dead and its transaction has a tracker entry (R148). -/
def unheard (s : State) (r : Req) (tx : TxRef) : Bool :=
  r.internal || (isDead s r.agent r.die && match tx with
    | .tracker _ => true
    | _ => false)

/-- Answer a request, which then is served; first is the number of flits of the answer that went before. -/
def respondAt (first : Nat) (r : Req) (op : Nat) (body : Body) (data : List CodeWord) (ready : Nat) (tx : TxRef)
    (s : State) : State :=
  if unheard s r tx then closeTx tx s
  else
    let s := match tx with
      | .tracker i => setTracker i (fun t => { t with served := true }) s
      | _ => s
    emit { answerMsg r.hdr op body data ready tx with first := first } s

def respond (r : Req) (op : Nat) (body : Body) (data : List CodeWord) (ready : Nat) (tx : TxRef) (s : State) : State :=
  respondAt 0 r op body data ready tx s

/-- Answer a request with a status: Sts, or AtRsp for an atomic (R223). -/
def respondSts (r : Req) (st : Status) (ready : Nat) (tx : TxRef) (s : State) : State :=
  if r.kind = .atom then respond r 0xB (.atRsp st 0) [] ready tx (countNack st s)
  else respond r 8 (.status st) [] ready tx (countNack st s)

/-- The code words of the named sectors in the order they leave, from a table by index in the line. -/
def dataFlits (mask : BitVec 4) (crit : Nat) (t : Table CodeWord) : List CodeWord :=
  (sectorOrder mask crit).flatMap fun i => [tget default t (2 * i), tget default t (2 * i + 1)]

/-- The kind a request is served as: RdS and RdX from a non-caching source as RdU (R108). -/
def Req.effective (s : State) (r : Req) : ReqKind :=
  if (r.kind = .rds ∨ r.kind = .rdx) ∧ !caching s r.agent r.die then .rdu else r.kind

/-- The opcode of the answer and the directory part after a read is granted from the home's copy (Table 4.7). -/
def grantEntry (k : ReqKind) (a : Nat) (d : DirPart) : Nat × DirPart :=
  match k with
  | .rds =>
    if d.dst = dirU then (2, d.owned a)
    else if d.dst = dirSP then
      if d.sharers.contains a then (1, d)
      else if d.sharers.length < 4 then (1, d.addSharer a)
      else (1, { d with dst := dirSB, pv := 0 })
    else if d.dst = dirX then (3, d)
    else (1, d)
  | .rdx => if d.dst = dirX then (3, d) else (3, d.owned a)
  | .upg =>
    if d.dst = dirX then (4, d)
    else if d.dst = dirSP ∧ d.sharers.contains a then (4, d.owned a)
    else (3, d.owned a)
  | _ => (5, d)

/-- Store the directory part that a request leaves: in the entry, or, while a transaction is active, in its tracker entry
until it ends (R118, Table 4.4). -/
def storeDir (set way : Nat) (trk : Option Nat) (d : DirPart) (s : State) : State :=
  match trk with
  | none => setTag set way (fun e => e.withDir d) s
  | some i => setTracker i (fun t => { t with next := some d }) s

/-- The tracker entry of a transaction reference. -/
def trkOf (tx : TxRef) : Option Nat :=
  match tx with
  | .tracker i => some i
  | _ => none

/-- Grant a read (Table 4.7): the opcode of its answer. Nothing is recorded where nothing is granted, nor to a dead agent
(R148). -/
def grant (r : Req) (set way : Nat) (trk : Option Nat) (s : State) : Nat × State :=
  let g := grantEntry (r.effective s) r.agent (presentDir s (tagAt s set way) trk)
  if g.1 = 5 || isDead s r.agent r.die then (g.1, s) else (g.1, storeDir set way trk g.2 s)

/-- Send the data of a granted read. -/
def sendData (r : Req) (op : Nat) (t : Table CodeWord) (ready : Nat) (tx : TxRef) (s : State) : State :=
  if op = 4 then respond r 4 .none [] ready tx s
  else respond r op (.data r.mask r.crit false) (dataFlits r.mask r.crit.toNat t) ready tx s

/-- Sectors of a line, in ascending order, as sector numbers. -/
def maskSecs (set way : Nat) (mask : BitVec 4) : List Nat := (bitsOf mask).map fun i => location set way (64 * i) / 2

/-- A transaction without a tracker entry that stays active until its response has left (R118). -/
def openActive (r : Req) (s : State) : Nat × State :=
  (s.coh.nextActive, { s with coh := { s.coh with
    active := s.coh.active ++ [{ id := s.coh.nextActive, line := r.line, agent := r.agent, die := r.die, endsAt := none }]
    nextActive := s.coh.nextActive + 1 } })

/-- Whether a request is granted a copy, so that its transaction stays active (R118). -/
def Req.grants (s : State) (r : Req) : Bool :=
  caching s r.agent r.die && (match r.kind with
    | .rds | .rdx | .upg => true
    | _ => false)

/-- The transaction of a request that is served without a tracker entry. -/
def txFor (trk : Option Nat) (r : Req) (s : State) : TxRef × State :=
  match trk with
  | some i => (.tracker i, s)
  | none => if r.grants s then let p := openActive r s
      (.active p.1, p.2) else (.none, s)

/-- The transaction of a tracker entry, or none. -/
def refOf (trk : Option Nat) : TxRef :=
  match trk with
  | some i => .tracker i
  | none => .none

/-- Refuse a request before any effect, with its status 9 sc after the header (R124); an internal request waits (R473). -/
def refuse (trk : Option Nat) (r : Req) (st : Status) (s : State) : State :=
  if r.internal then s else respondSts r st (s.env.sc + 9) (refOf trk) s

/-- A request waits until it can be served (R94). -/
def waitHere (r : Req) (s : State) : State := { s with cache := { s.cache with waiters := s.cache.waiters ++ [r] } }

/-- A new entry for a line whose fetch begins (R88, R118). -/
def newEntry (line : LineAddr) : TagEntry := { (default : TagEntry) with tag := lineTag line, tv := true, dst := dirT }

/-- Words of a write: which sectors are written whole. -/
def wholeSectors (cw : BitVec 8) : BitVec 4 := maskOf 4 ((List.range 4).filter fun i => bit cw (2 * i) && bit cw (2 * i + 1))

/-- Cmp for a write whose fetched sectors have all arrived; the line has no copies left (R119). -/
def completeWrite (r : Req) (set way : Nat) (tx : TxRef) (ready : Nat) (s : State) : State :=
  respond r 6 .none [] ready tx (storeDir set way (trkOf tx) (tagAt s set way).dir.uncached s)

/-- The arrived whole sectors of a write that fetches or allocates count as fetched: they are merged words only. -/
def seedMiss (i : Nat) (r : Req) (missing sv : BitVec 4) (s : State) : State :=
  match r.kind with
  | .wrfull | .wrpart =>
    let full := wholeSectors r.cwMask &&& ~~~sv
    let m := getMiss s i
    let s := setMiss i (fun m => { m with asked := missing ||| full, got := full, merge := r.words }) s
    let s := if m.held then s else (bitsOf full).foldl (fun s x => enqueueFill i x s) s
    if missing = 0 ∧ m.held = false then
      completeWrite r (lineSet r.line) m.way (refOf m.tracker) (s.env.sc + 9) (setMiss i (fun m => { m with granted := true }) s)
    else s
  | _ => s

/-- The words of a write that fall into sectors already valid: written at once (R81). -/
def writeValid (r : Req) (set way : Nat) (sv : BitVec 4) (s : State) : State :=
  let ws := r.words.filter fun p => bit sv (p.1 / 2)
  if ws.isEmpty then s
  else
    let s := setTag set way (fun e => { e with sd := e.sd ||| (sectorsOf r.cwMask &&& sv) }) s
    enqueue (writeAccess (s.env.sc + 6) r.cls 0 false (ws.map fun p => (location set way (32 * p.1), p.2)) .write) s

/-- Every sector asked of XP has arrived. -/
def missDone (s : State) (i : Nat) : Bool := (getMiss s i).asked == (getMiss s i).got

/-- Fetch the missing sectors of a line that has a way (R85): none where an entry is lacking. -/
def fetchPresent (trk : Option Nat) (r : Req) (set way : Nat) (s : State) : Option State :=
  let e := tagAt s set way
  let missing := r.missing e.sv
  match freeMiss s with
  | none => none
  | some i => (ensureTracker trk r set way .tm e.dst s).map fun p =>
    let s := setTag set way (fun e => { e with dst := dirT }) p.2
    let s := openMiss i p.1 way r missing false false s
    match r.kind with
    | .wrfull | .wrpart => writeValid r set way e.sv (seedMiss i r missing e.sv s)
    | _ => s

/-- Make way for a line (R89 to R92, R148): the chosen way, and the state with its line on the way out for a miss entry. None
where no way can be had, or too few tracker entries are free: need of them are wanted besides. -/
def makeWay (line : LineAddr) (cls label i need : Nat) (s : State) : Option (Nat × State) :=
  let set := lineSet line
  let c := chooseWay set s
  match c.1 with
  | none => none
  | some way =>
    let s := reclaimEntry set way c.2
    if trackersLeft s < need + b01 (needsTb s set way) then none
    else some (way, expel set way cls label (some i) s)

/-- The victim of a miss entry's way has not been read out yet (R92). -/
def victimIn (s : State) (i : Nat) : Bool := s.cache.victims.any fun v => v.miss == some i

/-- Allocate a way for a line that is absent and fetch what is missing (R82, R85, R89 to R91). -/
def fetchAbsent (trk : Option Nat) (r : Req) (s0 : State) : Option State :=
  let set := lineSet r.line
  match freeMiss s0 with
  | none => none
  | some i => (makeWay r.line r.cls r.label i (b01 trk.isNone) s0).bind fun p =>
    let way := p.1
    let s := { p.2 with cache := { p.2.cache with tags := tput p.2.cache.tags (set * 16 + way) (newEntry r.line).sealed } }
    (ensureTracker trk r set way .tm dirU s).map fun q =>
      let s := setTracker q.1 (fun x => { x with prev := dirU, next := none }) q.2
      let missing := r.missing 0
      seedMiss i r missing 0 (openMiss i q.1 way r missing (victimIn s i) false s)

/-- A read served from XP without allocation (R103). -/
def fetchUncached (trk : Option Nat) (r : Req) (s : State) : Option State :=
  match freeMiss s with
  | none => none
  | some i => (ensureTracker trk r (lineSet r.line) 0 .tm dirU s).map fun p =>
    openMiss i p.1 0 r (r.missing 0) false true p.2

/-- A free eviction buffer entry. -/
def freeEvict (s : State) : Option Nat := (List.range 16).find? fun i => !(s.cache.ev.any fun e => e.index == i)

/-- Write a line, or some code words of it, to XP through an eviction buffer entry (R84, R103): a write waits while all are
in use. -/
def writeThrough (trk : Option Nat) (r : Req) (s : State) : State :=
  match freeEvict s with
  | none => waitHere r s
  | some i =>
    let s := { s with cache := { s.cache with
      ev := s.cache.ev ++ [{ index := i, line := r.line, cls := r.cls, cwMask := r.cwMask, data := r.words, sent := false, walked := false }] } }
    let m : OutMsg := {
      port := .xp, cls := .mem, op := 1, dstAgent := 255, dstDie := s.env.idDie.toNat,
      txn := BitVec.ofNat 16 (64 + i), line := r.line, label := r.cls, body := .xwr r.cwMask, data := (r.words.map fun p => p.2),
      ready := s.env.sc + 9, tx := .none }
    respond r 6 .none [] (s.env.sc + 9) (refOf trk) (emit m s)

/-! ### The fetch buffer (R95 to R98) -/

/-- The fetch buffer entry that holds or awaits a line. -/
def fbOf (s : State) (line : LineAddr) : Option Nat :=
  (s.cache.fb.find? fun p => p.2.line == line && !p.2.doomed && p.2.into.isNone).map Prod.fst

/-- Discard a fetch buffer entry: one that awaits data is discarded when it arrives (R98, Table 3.3). -/
def dropFb (k : Nat) (s : State) : State :=
  match tfind s.cache.fb k with
  | none => s
  | some f => { s with cache := { s.cache with
      fb := if f.asked = f.got then terase s.cache.fb k else tput s.cache.fb k { f with doomed := true } } }

/-- Discard what the fetch buffer holds or awaits of a line (R98). -/
def dropLineFb (line : LineAddr) (s : State) : State :=
  match fbOf s line with
  | some k => dropFb k s
  | none => s

/-- The index under which the fill of a promoted line is kept: it takes none of the 32 miss entries (R97). -/
def promoteIndex (s : State) : Nat :=
  (((List.range 4096).map (· + 32)).find? fun k => (tfind s.cache.miss k).isNone).getD 4128

/-- A read that finds all its sectors in a fetch buffer entry (R97): promote the line, and deliver from the buffer when a hit
on the same banks would. -/
def promote (k : Nat) (r : Req) (s0 : State) : Option State :=
  let f := tget default s0.cache.fb k
  let set := lineSet r.line
  let i := promoteIndex s0
  let place : Option (Nat × State) := match findWay s0 r.line with
    | some way => some (way, setTag set way (fun e => { e with age := 0 }) s0)
    | none => (makeWay r.line r.cls r.label i 0 s0).map fun p =>
        (p.1, { p.2 with cache := { p.2.cache with
          tags := tput p.2.cache.tags (set * 16 + p.1) ({ newEntry r.line with dst := dirU } : TagEntry).sealed } })
  place.map fun p =>
    let way := p.1
    let s := dropFb k p.2
    let held := victimIn s i
    let bad := decide (r.mask &&& f.pois ≠ 0)
    let tx : TxRef × State := if bad then (.none, s) else txFor none r s
    let g : Nat × State := if bad then (8, tx.2) else grant r set way none tx.2
    let s := enqueue (readAccess (s.env.sc + 6) r.cls 0 false (maskSecs set way r.mask)
      (.timed r tx.1 g.1 .poison f.buf)) g.2
    let m : Miss := { line := r.line, way := way, cls := r.cls, asked := f.got, got := f.got, pois := f.pois,
                      buf := f.buf, merge := [], tracker := none, joined := [], granted := true, owed := [],
                      since := (bitsOf f.got).map fun x => (x, s.env.sc + 5), held := held, uncached := false }
    let s := { s with cache := { s.cache with miss := tput s.cache.miss i m } }
    if held then s else (bitsOf f.got).foldl (fun s x => enqueueFill i x s) s

/-- A read that names sectors still awaited turns the fetch buffer entry's XP read into a miss (R97). -/
def convertFb (k : Nat) (r : Req) (s : State) : Option State :=
  let f := tget default s.cache.fb k
  let q := { r with mask := r.mask &&& ~~~f.asked }
  (match findWay s r.line with
    | some way => fetchPresent none q (lineSet r.line) way s
    | none => fetchAbsent none q s).map fun t =>
  match missOf t r.line, trackerOf t r.line with
  | some i, some j =>
    let t := setTracker j (fun x => { x with req := some r })
      (setMiss i (fun m => { m with asked := m.asked ||| f.asked, got := f.got, pois := f.pois, buf := f.buf }) t)
    let t := { t with cache := { t.cache with fb := tput t.cache.fb k { f with into := some i } } }
    if (getMiss t i).held then t else (bitsOf f.got).foldl (fun t x => enqueueFill i x t) t
  | _, _ => t

/-- A read that misses, where a fetch buffer entry may hold or await its line (R97); else it fetches. -/
def fromBuffer (trk : Option Nat) (r : Req) (fetch : State → Option State) (s : State) : Option State :=
  match fbOf s r.line, trk with
  | some k, none =>
    let f := tget default s.cache.fb k
    if r.mask &&& ~~~f.got = 0 then promote k r s
    else if r.mask &&& f.asked &&& ~~~f.got ≠ 0 then convertFb k r s
    else fetch s
  | _, _ => fetch s

/-! ### Serving from the home's copy -/

/-- Start the array read of a hit (R79), with AGE 0 (R80): it is granted in the tag pipeline (R118). -/
def startRead (trk : Option Nat) (r : Req) (set way : Nat) (s : State) : State :=
  let s := setTag set way (fun e => { e with age := 0 }) s
  let tx := txFor trk r s
  let was := presentDir tx.2 (tagAt tx.2 set way) trk
  let g := grant r set way trk tx.2
  if r.mask = 0 then sendData r g.1 [] (s.env.sc + 9) tx.1 g.2
  else enqueue (readAccess (s.env.sc + 6) r.cls 0 false (maskSecs set way r.mask) (.home r tx.1 g.1 was)) g.2

/-- An Upg that names no sector of an absent line: a way records its owner, and nothing is fetched (Table 4.7, R110). Where no
line can be allocated nothing is granted (R103). -/
def grantEmpty (r : Req) (s : State) : Option State :=
  if cacheOff s then some (sendData r 5 [] (s.env.sc + 9) .none s)
  else
    let i := promoteIndex s
    let set := lineSet r.line
    (makeWay r.line r.cls r.label i 0 s).map fun p =>
      let s := { p.2 with cache := { p.2.cache with
        tags := tput p.2.cache.tags (set * 16 + p.1) ({ newEntry r.line with dst := dirU } : TagEntry).sealed } }
      let m : Miss := { (default : Miss) with line := r.line, way := p.1, cls := r.cls, granted := true, held := victimIn s i }
      let s := if m.held then { s with cache := { s.cache with miss := tput s.cache.miss i m } } else s
      let tx := txFor none r s
      let g := grant r set p.1 none tx.2
      sendData r g.1 [] (s.env.sc + 9) tx.1 g.2

/-- The operand and compare images of an atomic (Table 8.1). -/
def Req.operand (r : Req) : Code := (r.data.getD 0 default).data
def Req.compare (r : Req) : Code := (r.data.getD 1 default).data

/-- A write of sectors that need no fetch (R81, R84). -/
def writeHere (trk : Option Nat) (r : Req) (set way : Nat) (s : State) : State :=
  let w := sectorsOf r.cwMask
  let s := setTag set way (fun e => { e with sv := e.sv ||| w, sd := e.sd ||| w, age := if r.str then e.age else 0 }) s
  let s := enqueue (writeAccess (s.env.sc + 6) r.cls 0 false
    (r.words.map fun p => (location set way (32 * p.1), p.2)) .write) s
  completeWrite r set way (refOf trk) (s.env.sc + 9) s

/-- The array read of an atomic whose sector is valid (R229, R231). -/
def atomHere (trk : Option Nat) (r : Req) (set way : Nat) (s : State) : State :=
  let s := setTag set way (fun e => { e with age := 0 }) s
  let s := storeDir set way trk (tagAt s set way).dir.uncached s
  enqueue (readAccess (s.env.sc + 6) r.cls 0 false (maskSecs set way r.mask)
    (.atomRead (.agent r) r.op r.operand r.compare true)) s

/-- Serve a request for which no copy need be recalled (Table 4.7, row U and the rows that need no snoop): none where an entry
or a way is lacking. -/
def serveHome (trk : Option Nat) (r : Req) (s : State) : Option State :=
  let set := lineSet r.line
  if r.kind = .atom ∧ atomOff s then some (respondSts r .muzzled (s.env.sc + 9) (refOf trk) s)
  else match findWay s r.line with
  | some way =>
    let e := tagAt s set way
    let lacks := decide (r.missing e.sv ≠ 0)
    match r.kind with
    | .wrfull | .wrpart => if lacks then fetchPresent trk r set way s else some (writeHere trk r set way s)
    | .atom => if lacks then fetchPresent trk r set way s else some (atomHere trk r set way s)
    | .upg =>
      let d := presentDir s e trk
      if d.dst = dirX ∨ (d.dst = dirSP ∧ d.sharers.contains r.agent) then
        let tx := txFor trk r s
        let g := grant r set way trk tx.2
        some (sendData r g.1 [] (s.env.sc + 9) tx.1 g.2)
      else if lacks then fetchPresent trk r set way s
      else some (startRead trk r set way s)
    | _ => if lacks then fromBuffer trk r (fetchPresent trk r set way) s else some (startRead trk r set way s)
  | none =>
    match r.kind with
    | .wrfull => if cacheOff s || r.str then some (writeThrough trk r s) else fetchAbsent trk r s
    | .wrpart => if cacheOff s then some (writeThrough trk r s) else fetchAbsent trk r s
    | .atom => if cacheOff s then fetchUncached trk r s else fetchAbsent trk r s
    | .upg => if r.mask = 0 then grantEmpty r s else if cacheOff s then fetchUncached trk r s else fetchAbsent trk r s
    | _ => if cacheOff s then fetchUncached trk r s else fromBuffer trk r (fetchAbsent trk r) s

/-! ### Requests after their snoops -/

/-- The service of a transaction waits for a miss entry or a way: no NACK-RETRY is sent (R135). -/
def stall (i : Nat) (r : Req) (s : State) : State := waitHere r (setTracker i (fun t => { t with stalled := true }) s)

/-- Serve the request of a transaction whose copies have been recalled. -/
def serveTracked (i : Nat) (r : Req) (s : State) : State := (serveHome (some i) r s).getD (stall i r s)

/-- The original request is served as from U (Table 4.7). -/
def serveAsU (i : Nat) (s : State) : State :=
  let t := getTracker s i
  let s := storeDir t.set t.way (some i) (tagAt s t.set t.way).dir.uncached s
  match t.req with
  | none => endNow (.tracker i) s
  | some r => if r.internal then endNow (.tracker i) s else serveTracked i r s

/-- Every answer to an invalidation has registered (Table 4.7, row TI): an Upg is granted without data where its copy is still
good. -/
def finishTi (i : Nat) (s : State) : State :=
  let t := getTracker s i
  match t.req with
  | some r =>
    let d := (tagAt s t.set t.way).dir
    if r.kind = .upg ∧ (t.prev = dirSB ∨ (t.prev = dirSP ∧ d.sharers.contains r.agent)) then
      let s := storeDir t.set t.way (some i) (if isDead s r.agent r.die then d.uncached else d.owned r.agent) s
      respond r 4 .none [] (s.env.sc + 9) (.tracker i) s
    else serveAsU i s
  | none => serveAsU i s

/-! ### Intake -/

/-- The reservation entry of a line (R126). -/
def resvOf (s : State) (line : LineAddr) : Option Resv := s.coh.resv.find? fun v => v.line == line

/-- The line is reserved for another source (R126). -/
def reservedForOther (s : State) (r : Req) : Bool :=
  s.coh.resv.any fun v => v.line == r.line && v.running.isSome && !(v.agent == r.agent && v.die == r.die)

/-- NACK-RETRY because of an active transaction: record the source where no entry names the line and one is free (R126). -/
def nackActive (r : Req) (s : State) : State :=
  let s := if (resvOf s r.line).isNone && decide (s.coh.resv.length < 64) && !r.internal then
      { s with coh := { s.coh with resv := s.coh.resv ++ [{ line := r.line, agent := r.agent, die := r.die, running := none }] } }
    else s
  refuse none r .nackRetry s

/-- An accepted request from the agent it is reserved for ends the reservation (R126); an internal one does not (R473). -/
def endReservation (r : Req) (s : State) : State :=
  if r.internal then s
  else { s with coh := { s.coh with resv := s.coh.resv.filter fun v =>
    !(v.line == r.line && v.running.isSome && v.agent == r.agent && v.die == r.die) } }

/-- The code word counts as poisoned for a request served now (R150, R151): a write ordered before it replaces the poison. -/
def poisonedNow (s : State) (loc : Nat) : Bool :=
  match queuedWord s loc with
  | some w => w.poison
  | none => isPoisoned s loc

/-- A sector that the request names holds a poisoned code word (R151). -/
def namesPoison (s : State) (set way : Nat) (mask : BitVec 4) : Bool :=
  (maskSecs set way mask).any fun x => poisonedNow s (2 * x) || poisonedNow s (2 * x + 1)

/-- The transient of a transaction that snoops (Table 4.6). -/
def snoopTransient (k : ReqKind) (dir : BitVec 3) : Transient :=
  if dir ≠ dirX then .ti else match k with
    | .rds => .tfs
    | .rdx | .upg => .tfx
    | .rdu => .td
    | .wrfull => .ti
    | _ => .tr

/-- Take a tracker entry and send the snoops of a request (Table 4.7): none where no entry is free. A broadcast to which no
answer is awaited has ended at once (R129, R147). -/
def startSnoop (r : Req) (set way : Nat) (s : State) : Option State :=
  let e := tagAt s set way
  let o := e.ptr0.toNat
  let k := r.effective s
  let kind := snoopTransient k e.dst
  (freeTracker s).map fun i =>
    let t := { newTracker r.line set way kind (some r) e.dst with owner := if e.dst = dirX then some o else none }
    let s := setTag set way (fun e => { e with dst := dirT }) { s with coh := { s.coh with trk := tput s.coh.trk i t } }
    if e.dst = dirX then
      let s := awaitFrom i [o] s
      let fields : Body := .snpFwd r.agent r.die r.txn r.mask
      match kind with
      | .tfs => snoop 0 o i r.line r.label fields s
      | .tfx => snoop 1 o i r.line r.label fields s
      | .td => snoop 3 o i r.line r.label .none s
      | .tr => snoop 4 o i r.line r.label .none s
      | _ => snoop 2 o i r.line r.label (.snpInv false 0) s
    else
      let except := if caching s r.agent r.die && (k = .rdx || k = .upg) then r.agent else 255
      let s := invalidate i r.line r.label e.dir except s
      if (getTracker s i).await.isEmpty then finishTi i s else s

/-- Whether copies must be recalled before a request is served from the home (Table 4.7). -/
def needsSnoop (s : State) (r : Req) (e : TagEntry) : Bool :=
  let k := r.effective s
  if e.dst = dirX then
    match k with
    | .rds | .rdx | .upg => !(decide (e.ptr0.toNat = r.agent) && caching s r.agent r.die)
    | _ => true
  else if e.dst = dirSP then
    match k with
    | .rds | .rdu => false
    | .rdx | .upg => e.sharers.any (· ≠ r.agent)
    | _ => true
  else if e.dst = dirSB then
    match k with
    | .rds | .rdu => false
    | _ => true
  else false

/-- The kind of a request that reads. -/
def ReqKind.isRead : ReqKind → Bool
  | .rds | .rdx | .rdu | .upg => true
  | _ => false

/-- The kind of a request that discards what the fetch buffer holds of its line (R98). -/
def ReqKind.dropsFb : ReqKind → Bool
  | .rds | .rdu => false
  | _ => true

/-- A read that names a poisoned sector (R151): its POISON leaves as its data would have (R32), and its hit sets AGE to 0. -/
def servePoison (r : Req) (set way : Nat) (sv : BitVec 4) (s : State) : State :=
  if r.kind = .upg then respondSts r .poison (s.env.sc + 9) .none s
  else enqueue (readAccess (s.env.sc + 6) r.cls 0 false (maskSecs set way (r.mask &&& sv)) (.home r .none 8 default))
    (setTag set way (fun e => { e with age := 0 }) s)

/-- A request takes its turn on its line, which is in no transaction and not leaving the cache (Table 4.7, R148, R151): none
where an entry or a way is lacking. -/
def serveLine (r : Req) (s : State) : Option State :=
  let set := lineSet r.line
  let s := match findWay s r.line with
    | some way => reclaimEntry set way s
    | none => s
  match findWay s r.line with
  | none => serveHome none r s
  | some way =>
    let e := tagAt s set way
    if r.kind.isRead && namesPoison s set way (r.mask &&& e.sv) then some (servePoison r set way e.sv s)
    else if needsSnoop s r e then startSnoop r set way s
    else serveHome none r s

/-- The streaming-store count of a class (R83). -/
def countStore (cls : Nat) (full : Bool) (s : State) : State :=
  if s.cache.sdEn then
    { s with cache := { s.cache with
      streamCnt := if full then tmod 0 s.cache.streamCnt cls fun n => min 16 (n + 1) else terase s.cache.streamCnt cls } }
  else s

/-- A request that has been accepted is counted, once (R83, R10). DEDUCED (entry 63): one that is refused is not. -/
def countReq (fresh : Bool) (r : Req) (s : State) : State :=
  if fresh then countStore r.cls (decide (r.kind = .wrfull)) s else s

/-- A RdS may join the miss entry that a RdS opened (R85, R124, R125), but not one that allocates nothing (R103). -/
def joinable (s : State) (r : Req) (i : Nat) : Option Nat :=
  let t := getTracker s i
  match t.tr, t.req, t.missIndex with
  | .tm, some q, some m =>
    if q.kind = .rds && r.kind = .rds && !(getMiss s m).granted && !(getMiss s m).uncached
        && decide ((t.next.map DirPart.dst).getD t.prev = dirU) then some m else none
  | _, _, _ => none

/-- Join a miss entry; sectors that it has not asked for are read in a further XP read (R85). -/
def joinMiss (m : Nat) (r : Req) (s : State) : State :=
  let x := getMiss s m
  let more := r.mask &&& ~~~x.asked &&& ~~~(tagAt s (lineSet r.line) x.way).sv
  let s := setMiss m (fun x => { x with joined := x.joined ++ [r], asked := x.asked ||| more }) s
  xpRead m r.line x.cls more (r.critWord more) s

/-- MUZZLED to a request of a muzzled tag bank (R155): to a read that would hit as its data would have left (R32). -/
def answerMuzzled (r : Req) (s : State) : State :=
  let set := lineSet r.line
  let hit := (findWay s r.line).filter fun way =>
    r.kind.isRead && decide (r.mask ≠ 0) && decide (r.missing (tagAt s set way).sv = 0)
  match hit with
  | some way => enqueue (readAccess (s.env.sc + 6) r.cls 0 false (maskSecs set way r.mask) (.timed r .none 8 .muzzled [])) s
  | none => respondSts r .muzzled (s.env.sc + 9) .none s

/-- The line of a request waits for the fetch of sectors that it needs, though no transaction is active on it. -/
def awaitsFill (s : State) (r : Req) : Bool :=
  decide (outstanding s r.line ≠ 0) && !lineActive s r.line && (!r.kind.isRead || (match findWay s r.line with
    | some way => decide (r.missing (tagAt s (lineSet r.line) way).sv ≠ 0)
    | none => true))

/-- A request waits for its line, or behind an older one that does (R94, R122, R125); one whose fill has not been written is as
one that is leaving. -/
def mustWait (fresh : Bool) (s : State) (r : Req) : Bool :=
  leaving s r.line || filling s r.line || awaitsFill s r
    || (fresh && !lineActive s r.line && s.cache.waiters.any fun w => w.line == r.line && !w.internal)

/-- A request on a line that is free takes effect as a whole or is refused (R118, R124, R126, R98). -/
def serveFresh (fresh : Bool) (r : Req) (s : State) : State :=
  let t := endReservation r s
  let t := if (r.effective s).dropsFb then dropLineFb r.line t else t
  match serveLine r t with
  | some u => countReq fresh r u
  | none => refuse none r .nackRetry s

/-- A request whose set passes its tag check (R118, R122 to R126): MUZZLED, wait, NACK, join, or service. -/
def admitRequest (fresh : Bool) (r : Req) (s : State) : State :=
  if bit s.coh.muzBanks (tagBank (lineSet r.line)) then answerMuzzled r s
  else match trackerOf s r.line with
  | some i =>
    if (getTracker s i).stalled && decide ((getTracker s i).req = some r) then
      serveTracked i r (setTracker i (fun t => { t with stalled := false }) s)
    else if mustWait fresh s r then waitHere r (countReq fresh r s)
    else if reservedForOther s r then refuse none r .nackRetry s
    else match joinable s r i with
      | some m => countReq fresh r (joinMiss m r (endReservation r s))
      | none => nackActive r s
  | none =>
    if mustWait fresh s r then waitHere r (countReq fresh r s)
    else if reservedForOther s r then refuse none r .nackRetry s
    else if s.coh.active.any fun a => a.line == r.line then nackActive r s
    else serveFresh fresh r s

/-- Some entry of a set that a lookup reads fails its check (R75). -/
def setFails (s : State) (line : LineAddr) : Bool :=
  !bit s.coh.muzBanks (tagBank (lineSet line)) && (openWays s).any fun w => !(tagAt s (lineSet line) w).passes

/-- A lookup (R75, R346): where an entry of the set fails, its check follows in tag stage 4. -/
def lookUp (line : LineAddr) (c : Check) (s : State) (act : State → State) : State :=
  if setFails s line then { s with coh := { s.coh with checks := s.coh.checks ++ [(s.env.sc + 3, c)] } } else act s

/-- A request at the home: what it is stays with it whether it waits or not (R84). -/
def homeRequest (r : Req) (s : State) : State :=
  let r := { r with str := decide (r.kind = .wrfull) && streaming s r.cls }
  lookUp r.line (.req r true) s (admitRequest true r)

/-- Run at another sc: as of then. -/
def asOf (t : Nat) (f : State → State) (s : State) : State :=
  let u := f { s with env := { s.env with sc := t } }
  { u with env := { u.env with sc := s.env.sc } }

/-- The check of a set in tag stage 4 (R75 to R77): what the message meets in a muzzled bank, or, where an entry was cleared, tag
stage 1 again in the following sc. -/
def checkLookup (line : LineAddr) (act : State → State) (s : State) : State :=
  let fails := setFails s line
  let s := checkSet (lineSet line) s
  asOf (if fails && !bit s.coh.muzBanks (tagBank (lineSet line)) then s.env.sc + 1 else s.env.sc - 3) act s

end Sys2Proof.Machine
end

