-- ==== Sys2Proof/Machine/Atomic.lean ====
section
/-! DEFINITION. The atomic unit (08_atomic_updates): the lane operations, the answer, and the muzzle. -/

namespace Sys2Proof.Machine

/-- One lane of w bits (Table 8.2): the new value and whether a compare matched. -/
def atomLane (aop w a b c : Nat) : Nat × Bool :=
  let sgn (x : Nat) : Int := if x < 2 ^ (w - 1) then x else (x : Int) - 2 ^ w
  match aop with
  | 0 => ((a + b) % 2 ^ w, false)
  | 1 => (if sgn a < sgn b then a else b, false)
  | 2 => (if sgn a > sgn b then a else b, false)
  | 3 => (if a < b then a else b, false)
  | 4 => (if a > b then a else b, false)
  | 5 => (a &&& b, false)
  | 6 => (a ||| b, false)
  | 7 => (a ^^^ b, false)
  | 8 => (b, false)
  | _ => if a = c then (b, true) else (a, false)

/-- Width of a lane. -/
def atomWidth (op : AtomOp) : Nat := if op.w64 then 64 else 32

/-- The lanes named. -/
def atomLanes (op : AtomOp) : List Nat := (List.range (256 / atomWidth op)).filter fun i => bit op.lmask i

/-- The fields are in range (Table 8.1). -/
def atomValid (op : AtomOp) : Bool :=
  decide (op.aop.toNat ≤ 9) && decide (op.lmask ≠ 0) && !(op.w64 && decide (15 < op.lmask.toNat))

/-- Code words of operand data that an operation needs (Table 8.1). -/
def atomOperands (op : AtomOp) : Nat := if op.aop = 9 then 2 else 1

/-- The answer carries the old values (Table 8.1). -/
def returnsOld (op : AtomOp) : Bool := op.fetch || op.aop == 8 || op.aop == 9

/-- The new code word, the old values of the named lanes, and SUCC (R224): every lane sees the value from before. -/
def atomApply (op : AtomOp) (old opnd cmp : Code) : Code × Code × BitVec 8 :=
  let w := atomWidth op
  (atomLanes op).foldl (fun acc i =>
    let r := atomLane op.aop.toNat w (fld old (w * i) w) (fld opnd (w * i) w) (fld cmp (w * i) w)
    (setFld acc.1 (w * i) w r.1, setFld acc.2.1 (w * i) w (fld old (w * i) w), setBit acc.2.2 i (r.2 && op.aop == 9)))
    (old, 0, 0)

/-- The tracker entry of an atomic that is being served. -/
def atomTx (r : Req) (s : State) : TxRef :=
  match trackerOf s r.line with
  | some i => if (getTracker s i).req = some r ∧ !(getTracker s i).served then .tracker i else .none
  | none => .none

/-- Count an atomic completed with success, or answered with POISON (Table 8.6). -/
def countAtom (st : Status) (s : State) : State :=
  if st = .ok then { s with atom := { s.atom with doneNow := s.atom.doneNow + 1 } }
  else if st = .poison then { s with atom := { s.atom with poisNow := satAdd 65535 s.atom.poisNow 1 } }
  else s

/-- AtRsp of an agent's atomic that succeeded. -/
def respondAtom (r : Req) (old : Code) (succ : BitVec 8) (ready : Nat) (s : State) : State :=
  respond r 0xB (.atRsp .ok succ) (if returnsOld r.op then [plain old] else []) ready (atomTx r s) (countAtom .ok s)

/-- A fault of the atomic unit (R237, R238): FBANK keeps the bank of the fault that muzzled it (Table 8.5). -/
def muzzleAtom (sec : Nat) (half : Bool) (s : State) : State :=
  let loc := 2 * sec + b01 half
  report 0x48 3 0x3000 (detailA loc 2)
    (poisonSector sec { s with atom := { s.atom with
      muz := true, fbank := if s.atom.muz then s.atom.fbank else BitVec.ofNat 4 (secBank sec) } })

/-- The residue and parity check of the lanes computed for a code word (R237): whether it fails. -/
def laneCheck (loc : Nat) (s : State) : Bool × State :=
  if s.atom.laneBad.contains loc then
    (true, { s with atom := { s.atom with laneBad := s.atom.laneBad.erase loc } })
  else (false, s)

/-- An atomic is charged as two accesses on its bank (R233): one that ends without a write is charged the second here. -/
def chargeAtom (cls sec : Nat) (s : State) : State := chargeSector cls (secBank sec) s

/-- The answer of an atomic that ends without success, to its agent or context. -/
def failAtom (who : AtomParty) (st : Status) (ready : Nat) (s : State) : State :=
  let s := countAtom st s
  match who with
  | .agent r => respond r 0xB (.atRsp st 0) [] ready (atomTx r s) s
  | .ctx c id _ => { s with seq := { s.seq with done := s.seq.done ++ [Result.mk (ready - 4) c id (some st) [] []] } }

/-- The atomic unit was muzzled before the read of an atomic started (R470, R238): MUZZLED, as its answer would have left. -/
def atomMuzzled (who : AtomParty) (s : State) : State := failAtom who .muzzled (s.env.sc + 15) s

/-- Registers gd to gd + 3 that receive a code word (R285, R306). -/
def regsOf (gd : Nat) (w : Code) : List (Nat × Word64) := (List.range 4).map fun k => (gd + k, word64 w k)

/-- The read of an atomic leaves the corrector, 10 sc after its start (R227, R231, R232): compute, open the pending entry,
queue the write, and answer. -/
def atomRead (who : AtomParty) (op : AtomOp) (opnd cmp : Code) (cls sec : Nat) (kennel : Bool) (a b : CodeWord) (s : State) :
    State :=
  let half := bit op.cw 0
  let mine := if half then b else a
  let now := s.env.sc
  let check := laneCheck (2 * sec + b01 half) s
  if mine.poison then failAtom who .poison (now + 5) (chargeAtom cls sec s)
  else if check.1 then failAtom who .poison (now + 5) (muzzleAtom sec half (chargeAtom cls sec check.2))
  else
    let x := atomApply op mine.data opnd cmp
    let lo := if half then a.data else x.1
    let hi := if half then x.1 else b.data
    let res : Option Result := match who with
      | .agent _ => none
      | .ctx c id gd => some (Result.mk 0 c id (some .ok) (if returnsOld op then regsOf gd x.2.1 else []) [])
    let asker := match who with
      | .agent r => some (r.agent, r.die, r.txn)
      | .ctx _ _ _ => none
    let s := match who with
      | .agent r => if kennel || findWay s r.line ≠ some (locWay (2 * sec)) then s
        else setTag (locSet (2 * sec)) (locWay (2 * sec)) (fun e => { e with sd := setBit e.sd (locSect (2 * sec)) true }) s
      | .ctx _ _ _ => s
    let s := { s with atom := { s.atom with pend := s.atom.pend ++ [AtomPend.mk sec half lo hi asker false] } }
    let other : CodeWord := if half then a else b
    let words : Table CodeWord := if half then [(2 * sec, other), (2 * sec + 1, plain hi)]
      else [(2 * sec, plain lo), (2 * sec + 1, other)]
    let s := enqueue (writeAccess (now + 2) cls 0 kennel words (.atomWrite res)) s
    match who with
    | .agent r => respondAtom r x.2.1 x.2.2 (now + 5) s
    | .ctx _ _ _ => countAtom .ok s

/-- An AtRsp that has not yet left becomes POISON without data when its pending entry fails (R237). -/
def spoilAnswer (q : AtomPend) (m : OutMsg) : OutMsg :=
  if m.cls = .rsp ∧ m.op = 0xB ∧ q.asker = some (m.dstAgent, m.dstDie, m.txn) then
    { m with body := .atRsp .poison 0, data := [] }
  else m

/-- An atomic counted as completed ends with POISON after all, while its answer has not left (Table 8.6). -/
def unsaid (q : AtomPend) (s : State) : State :=
  if s.out.egress.any (fun m => spoilAnswer q m ≠ m) || q.asker.isNone then
    countAtom .poison { s with atom := { s.atom with doneNow := s.atom.doneNow - 1 } }
  else s

/-- The write of an atomic starts (R231, R237): its pending entry is checked and freed. -/
def atomWriteStart (sec : Nat) (words : Table CodeWord) (res : Option Result) (s : State) : State :=
  let p := s.atom.pend.find? fun p => p.sec == sec
  let s := { s with atom := { s.atom with pend := s.atom.pend.filter fun p => p.sec != sec } }
  let s := match p with
    | some q => if q.parityBad then
        muzzleAtom sec q.half { unsaid q s with out := { s.out with egress := s.out.egress.map (spoilAnswer q) } }
      else writeWords words s
    | none => writeWords words s
  let bad := match p with
    | some q => q.parityBad
    | none => false
  match res with
  | some r => { s with seq := { s.seq with done := s.seq.done ++
      [if bad then Result.mk s.env.sc r.ctx r.id (some .poison) [] [] else { r with due := s.env.sc }] } }
  | none => s

end Sys2Proof.Machine
end

