-- ==== Sys2Proof/Machine/Fill.lean ====
section
/-! DEFINITION. What follows at the home: the start of a home read, fills (R86 to R88, R125, R152, R469), the eviction buffer
(R92, R93), writebacks and snoop answers (R109, R114, Table 4.7), the end of a transaction (R120, R126), timeouts and dead
agents (05_coherence_failures). -/

namespace Sys2Proof.Machine

/-! ### Array reads at the home -/

/-- The words of the named sectors, by index in the line. -/
def wordsOf (mask : BitVec 4) (got : List Got) : Table CodeWord :=
  ((bitsOf mask).flatMap fun i => [2 * i, 2 * i + 1]).zip (got.map fun g => g.word)

/-- The code words of the named sectors, by index in the line, as their array read brought them. -/
def gotWords (secs : List Nat) (got : List Got) : Table CodeWord :=
  (secs.flatMap fun x => [2 * locSect (2 * x), 2 * locSect (2 * x) + 1]).zip (got.map fun g => g.word)

/-- The sectors of which a word must be fetched again (R62). -/
def againMask (secs : List Nat) (got : List Got) : BitVec 4 :=
  maskOf 4 (((secs.flatMap fun x => [locSect (2 * x), locSect (2 * x)]).zip got).filterMap fun p =>
    if p.2.refetch then some p.1 else none)

/-- An owed answer of which nothing has come. -/
def Owed.ofReq (r : Req) (op : Nat) (tx : TxRef) (was : DirPart) (fetch read : BitVec 4) : Owed :=
  { req := r, op := op, tx := tx, was := was, sent := 0, fetch := fetch, read := read, words := [], since := [] }

/-- A request whose sectors must be fetched again joins the fetch of its line (R62, R85): the miss entry that is open, or a new
one, with a tracker entry where no transaction is active on the line. None where an entry is lacking. The sectors have been
refilled already where SV is set: they are read again. A line that has left its way is fetched without one. -/
def refetch (r : Req) (tx : TxRef) (op : Nat) (was : DirPart) (again : BitVec 4) (words : Table CodeWord) (s : State) :
    Option State :=
  let set := lineSet r.line
  let fresh (way : Nat) (todo : BitVec 4) (uncached : Bool) : Miss :=
    { (default : Miss) with line := r.line, way := way, cls := r.cls, asked := todo, granted := true, uncached := uncached }
  let owe (i : Nat) (tx : TxRef) (todo : BitVec 4) (s : State) : State :=
    let o := { Owed.ofReq r op tx was todo (again &&& ~~~todo) with
               words := words.filter fun p => !bit again (p.1 / 2)
               since := ((bitsOf (r.mask &&& ~~~again)).map fun x => (x, s.env.sc)) }
    setMiss i (fun m => { m with owed := m.owed ++ [o] }) s
  match findWay s r.line with
  | none => (freeMiss s).map fun i =>
    let s := { s with cache := { s.cache with miss := tput s.cache.miss i (fresh 0 again true) } }
    owe i tx again (xpRead i r.line r.cls again (r.critWord again) s)
  | some way =>
    let todo := again &&& ~~~(tagAt s set way).sv
    let place : Option (Nat × State) := match missOf s r.line with
      | some i =>
        let more := todo &&& ~~~(getMiss s i).asked
        some (i, xpRead i r.line r.cls more (r.critWord more) (setMiss i (fun m => { m with asked := m.asked ||| more }) s))
      | none => (freeMiss s).map fun i =>
        (i, xpRead i r.line r.cls todo (r.critWord todo)
          { s with cache := { s.cache with miss := tput s.cache.miss i (fresh way todo false) } })
    place.bind fun p =>
      let own : Option (TxRef × State) :=
        if tx = .none ∧ !lineActive s r.line then
          (ensureTracker none r set way .tm (tagAt s set way).dst p.2).map fun q =>
            (.tracker q.1, setTag set way (fun e => { e with dst := dirT })
              (setTracker q.1 (fun t => { t with missIndex := some p.1 }) q.2))
        else some (tx, p.2)
      own.map fun q =>
        let s := owe p.1 q.1 todo q.2
        let rd := again &&& ~~~todo
        if rd = 0 then s else enqueue (readAccess s.env.sc r.cls 0 false (maskSecs set way rd) (.send p.1 r q.1)) s

/-- The read of a request served at the home leaves the corrector (R79, R62, R151): its data, POISON with no grant, or the
fetch of what must be fetched again. A request whose line has left meanwhile, and that no transaction holds, is served anew. -/
def homeRead (r : Req) (tx : TxRef) (op : Nat) (was : DirPart) (secs : List Nat) (got : List Got) (s : State) : State :=
  let set := lineSet r.line
  let again := againMask secs got
  if op = 8 then respondSts r .poison (s.env.sc + 4) tx s
  else if got.any fun g => g.word.poison && !g.refetch then
    respondSts r .poison (s.env.sc + 4) tx (undoGrant tx r.line was s)
  else if again = 0 then sendData r op (wordsOf r.mask got) (s.env.sc + 4) tx s
  else
    let fetch := (refetch r tx op was again (gotWords secs got) s).getD
      (respondSts r .nackRetry (s.env.sc + 4) tx (undoGrant tx r.line was s))
    match findWay s r.line with
    | some way =>
      if again &&& ~~~(tagAt s set way).sv = 0 then
        enqueue (readAccess s.env.sc r.cls 0 false (maskSecs set way r.mask) (.home r tx op was)) s
      else fetch
    | none => if tx = .none then admitRequest false r s else fetch

/-! ### Fills -/

/-- The transaction of a miss, where it is still active: its tracker entry and the request that opened it. -/
def missReq (s : State) (m : Miss) : Option (Nat × Req) :=
  match m.tracker with
  | none => none
  | some t => match tfind s.coh.trk t with
    | none => none
    | some x => if x.line = m.line then x.req.map fun r => (t, r) else none

/-- A code word of a miss entry: as a write has merged it, else as XP returned it. -/
def Miss.word (m : Miss) (k : Nat) : CodeWord := (tfind m.merge k).getD (tget badWord m.buf k)

/-- The sectors of an owed answer that have arrived since, with their code words (R87). -/
def Owed.capture (m : Miss) (o : Owed) : Owed :=
  (bitsOf (o.fetch &&& m.got)).foldl (fun o x =>
    if (tfind o.since x).isSome then o
    else { o with since := tput o.since x (tget 0 m.since x)
                  words := tput (tput o.words (2 * x) (m.word (2 * x))) (2 * x + 1) (m.word (2 * x + 1)) }) o

/-- Replace an owed answer of a miss, or take it out. -/
def putOwed (i : Nat) (o : Owed) (new : Option Owed) (s : State) : State :=
  setMiss i (fun m => { m with owed := m.owed.flatMap fun x => if x = o then new.toList else [x] }) s

/-- The directory part without a grant that comes to nothing (R125, R152). -/
def DirPart.withdraw (d : DirPart) (a : Nat) (was : DirPart) : DirPart :=
  if d.dst = dirX ∧ d.ptr0.toNat = a then was
  else if d.dst = dirSP ∧ d.sharers.contains a ∧ !(was.dst = dirSP ∧ was.sharers.contains a) then
    let pv := maskOf 4 ((bitsOf d.pv).filter fun i => d.ptr i != a)
    if pv = 0 then d.uncached else { d with pv := pv }
  else d

/-- No grant stands for a requester that receives POISON (R125, R152). -/
def withdrawGrant (o : Owed) (s : State) : State :=
  match o.tx with
  | .tracker i => setTracker i (fun t => { t with next := t.next.map fun d => d.withdraw o.req.agent o.was }) s
  | tx => undoGrant tx o.req.line o.was s

/-- The first sc in which each flit of an owed answer may leave, for the flits whose sectors have come, in their order (R78,
R87, Table 3.2). -/
def Owed.times (o : Owed) : List Nat :=
  (((sectorOrder o.req.mask o.req.crit.toNat).map fun x => tfind o.since x).takeWhile Option.isSome).foldl
    (fun l t => l ++ [max ((t.getD 0) + 4) ((l.getLast?.getD 0) + 1)]) []

/-- Send the flit of one sector of an owed answer, the n-th of the answer. -/
def sendSector (o : Owed) (n ready : Nat) (tx : TxRef) (s : State) : State :=
  let x := (sectorOrder o.req.mask o.req.crit.toNat).getD n 0
  respondAt n o.req o.op (.data o.req.mask o.req.crit false) [tget default o.words (2 * x), tget default o.words (2 * x + 1)]
    ready tx s

/-- An owed answer goes on: each sector leaves when it has come, without waiting for the rest (R87); a poisoned one brings
POISON and no grant (R125, R152). -/
def sendOwed (i : Nat) (o : Owed) (s : State) : State :=
  if unheard s o.req o.tx then closeTx o.tx (putOwed i o none s)
  else if o.words.any fun p => p.2.poison then
    let at4 := ((o.words.filter fun p => p.2.poison).map fun p => tget 0 o.since (p.1 / 2)).foldl max s.env.sc + 4
    respondSts o.req .poison at4 o.tx (withdrawGrant o (putOwed i o none s))
  else
    let times := o.times
    let n := (bitsOf o.req.mask).length
    let s := putOwed i o (if times.length < n then some { o with sent := times.length } else none) s
    (times.zipIdx.drop o.sent).foldl (fun s t => sendSector o t.2 t.1 o.tx s) s

/-- An atomic acts on its code word as that leaves the XP ingress check (R230, R237, R238, R470): the fill writes what it makes
of the sector. -/
def fillAtom (i : Nat) (r : Req) (tx : TxRef) (s : State) : State :=
  let m := getMiss s i
  let k := (bitsOf r.cwMask).headD 0
  let w := m.word k
  let loc := location (lineSet r.line) m.way (32 * k)
  let fail (st : Status) (s : State) : State := respond r 0xB (.atRsp st 0) [] (s.env.sc + 5) tx (countAtom st s)
  let put (words : Table CodeWord) (s : State) : State :=
    let s := setMiss i (fun m => { m with merge := words.foldl (fun t p => tput t p.1 p.2) m.merge }) s
    if m.uncached then
      writeThrough none { r with data := words.map Prod.snd, cwMask := maskOf 8 (words.map Prod.fst), internal := true,
                                 kind := .wrpart } s
    else s
  if atomOff s then fail .muzzled s
  else
    let s := if m.uncached then charge r.cls 128 s else chargeAtom r.cls (loc / 2) s
    if w.poison then fail .poison s
    else
      let check := laneCheck loc s
      if check.1 then
        let sect := 2 * (k / 2)
        fail .poison (put [(sect, badWord), (sect + 1, badWord)] (muzzleAtom (loc / 2) (bit r.op.cw 0) check.2))
      else
        let x := atomApply r.op w.data r.operand r.compare
        respond r 0xB (.atRsp .ok x.2.2) (if returnsOld r.op then [plain x.2.1] else []) (s.env.sc + 5) tx
          (countAtom .ok (put [(k, plain x.1)] check.2))

/-- What has arrived is for the owed answers in the order in which they were ordered (R235): a read takes its sectors as they
then are, an atomic acts. -/
def captureOwed (i : Nat) (s : State) : State :=
  (getMiss s i).owed.foldl (fun s o =>
    let m := getMiss s i
    let c := o.capture m
    if o.req.kind = .atom then
      (if c.since.isEmpty then s else fillAtom i o.req o.tx (putOwed i o none s))
    else putOwed i o (some c) s) s

/-- Send of the owed answers of a miss what has come. -/
def settleOwed (i : Nat) (s : State) : State :=
  let s := captureOwed i s
  ((getMiss s i).owed.filter fun o => o.req.kind != .atom).foldl (fun s o => sendOwed i o s) s

/-- Grant one requester of a miss its answer: the sectors that were not fetched are read from the array (R469). -/
def sendMiss (i : Nat) (tx : TxRef) (q : Req) (op : Nat) (was : DirPart) (s : State) : State :=
  if op = 4 then respond q 4 .none [] (s.env.sc + 4) tx s
  else
    let m := getMiss s i
    let rd := q.mask &&& ~~~m.asked
    let s := setMiss i (fun m => { m with owed := m.owed ++ [Owed.ofReq q op tx was (q.mask &&& m.asked) rd] }) s
    if rd = 0 then s
    else enqueue (readAccess s.env.sc q.cls 0 false (maskSecs (lineSet m.line) m.way rd) (.send i q tx)) s

/-- The sectors of a granted requester leave the corrector (R469); one that must be fetched again joins the fetch (R62). -/
def sendRead (i : Nat) (q : Req) (secs : List Nat) (got : List Got) (s : State) : State :=
  match tfind s.cache.miss i with
  | none => s
  | some m =>
    let again := againMask secs got
    let came := (gotWords secs got).filter fun p => !bit again (p.1 / 2)
    let fill (o : Owed) : Owed :=
      { o with read := 0, fetch := o.fetch ||| again
               words := came.foldl (fun t p => tput t p.1 p.2) o.words
               since := came.foldl (fun t p => tput t (p.1 / 2) s.env.sc) o.since }
    let more := again &&& ~~~(m.asked &&& ~~~m.got)
    let s := setMiss i (fun m => { m with asked := m.asked ||| again, got := m.got &&& ~~~more
                                          buf := m.buf.filter fun p => !bit more (p.1 / 2)
                                          owed := m.owed.map fun o => if o.req = q then fill o else o }) s
    retireMiss i (settleOwed i (xpRead i m.line m.cls more (2 * (bitsOf more).headD 0) s))

/-- Grant a miss opened by RdS with the requests that joined it (R125). -/
def grantShared (i t : Nat) (all : List Req) (s : State) : State :=
  let m := getMiss s i
  let set := lineSet m.line
  let cs := (all.filter fun q => caching s q.agent q.die && !isDead s q.agent q.die).map fun q => q.agent
  let d := presentDir s (tagAt s set m.way) (some t)
  let e : DirPart := match cs with
    | [] => d.uncached
    | [a] => d.owned a
    | _ => if cs.length ≤ 4 then { d.withSharers cs with dst := dirSP } else { d with dst := dirSB, pv := 0 }
  let s := storeDir set m.way (some t) e s
  all.foldl (fun s q =>
    sendMiss i (.tracker t) q (if !caching s q.agent q.die then 5 else if cs.length ≤ 1 then 2 else 1) d s) s

/-- The fill has arrived: answer the requesters of a miss (Table 4.7 row TM, R103, R125, R152). -/
def grantMiss (i : Nat) (s : State) : State :=
  let m := getMiss s i
  let s := setMiss i (fun m => { m with granted := true }) s
  match missReq s m with
  | none => s
  | some (t, r) =>
    let set := lineSet m.line
    let tx : TxRef := .tracker t
    match r.kind with
    | .wrfull | .wrpart => completeWrite r set m.way tx (s.env.sc + 4) s
    | .atom => s
    | _ =>
      let named := r :: m.joined
      let bad := named.filter fun q => q.mask &&& m.pois ≠ 0
      let good := named.filter fun q => q.mask &&& m.pois = 0
      let at4 (q : Req) : Nat :=
        ((bitsOf (q.mask &&& m.pois)).map fun x => tget 0 m.since x).foldl max s.env.sc + 4
      let s := if m.uncached then
          let s := if r.internal then
              { s with red := { s.red with fetched := s.red.fetched ++ [(m.line, m.buf)] } } else s
          good.foldl (fun s q => sendMiss i tx q 5 default s) s
        else
          let d := presentDir s (tagAt s set m.way) (some t)
          if r.kind = .rds ∧ d.dst = dirU then (if good.isEmpty then s else grantShared i t good s)
          else good.foldl (fun s q => let g := grant q set m.way (some t) s
              sendMiss i tx q g.1 d g.2) s
      bad.foldl (fun s q => respondSts q .poison (at4 q) tx s) s

/-- The fetch of the request that opened a miss has come so far that it is granted (R125, R469, R81, R230). -/
def Miss.opened (m : Miss) (r : Req) : Bool :=
  match r.kind with
  | .wrfull | .wrpart => m.asked == m.got && !m.held
  | .atom => m.asked == m.got
  | _ => if bit m.asked r.crit.toNat then bit m.got r.crit.toNat
    else decide (r.mask &&& m.got ≠ 0) || m.asked == m.got

/-- The atomic that opened a miss acts; its line has no copies left (R229, R230). -/
def openerAtom (i t : Nat) (r : Req) (s : State) : State :=
  let m := getMiss s i
  let s := if m.uncached then s
    else storeDir (lineSet r.line) m.way (some t) (presentDir s (tagAt s (lineSet r.line) m.way) (some t)).uncached s
  fillAtom i r (.tracker t) s

/-- Code words of a miss entry leave the XP ingress check, in order of arrival, the first of them in this sc (R87, R88). -/
def deliver (i : Nat) (words : Table CodeWord) (s : State) : State :=
  let m := getMiss s i
  let buf := words.foldl (fun b p => if bit m.asked (p.1 / 2) && !bit m.got (p.1 / 2) then tput b p.1 p.2 else b) m.buf
  let newly := maskOf 4 ((bitsOf m.asked).filter fun x =>
    !bit m.got x && (tfind buf (2 * x)).isSome && (tfind buf (2 * x + 1)).isSome)
  let bad := maskOf 4 ((bitsOf newly).filter fun x =>
    (tget default buf (2 * x)).poison || (tget default buf (2 * x + 1)).poison)
  let since := ((words.map fun p => p.1 / 2).dedup.zipIdx).foldl
    (fun t p => if bit newly p.1 then tput t p.1 (s.env.sc + 2 * p.2) else t) m.since
  let s := setMiss i (fun m => { m with buf := buf, got := m.got ||| newly, pois := m.pois ||| bad, since := since }) s
  let now := !m.granted && (match missReq s m with
    | some (_, r) => (getMiss s i).opened r
    | none => missDone s i)
  let s := match missReq s m with
    | some (t, r) => if now && r.kind = .atom then openerAtom i t r s else s
    | none => s
  let s := captureOwed i s
  let s := if m.held || m.uncached then s else (bitsOf newly).foldl (fun s x => enqueueFill i x s) s
  let s := if now then grantMiss i s else s
  retireMiss i (settleOwed i s)

/-- The way of a miss is free of its victim (R92): a write that waited for it completes. -/
def wayFreed (i : Nat) (s : State) : State :=
  let m := getMiss s i
  match missReq s m with
  | some (_, r) =>
    if !m.granted && m.opened r && (r.kind = .wrfull || r.kind = .wrpart) then retireMiss i (grantMiss i s) else s
  | none => s

/-- A victim has gone: its way's fill is written, and a write that waited for it completes. -/
def victimGone (line : LineAddr) (s : State) : State :=
  let i := (s.cache.victims.find? fun v => v.line == line).bind fun v => v.miss
  let s := releaseVictim line s
  match i with
  | some i => wayFreed i s
  | none => s

/-- A MEM message names no waiting entry (R426). -/
def unexpectedMem (s : State) : State := { s with lnk := { s.lnk with xpUnex := satAdd 255 s.lnk.xpUnex 1 } }

/-- The class of the entry that awaits an XRsp, where one does (R426). -/
def xpAwaited (s : State) (txn : Nat) : Option Nat :=
  if txn < 32 then (tfind s.cache.miss txn).bind fun m => if m.asked = m.got then none else some m.cls
  else if txn < 64 then (tfind s.cache.fb (txn - 32)).bind fun f => if f.asked = f.got then none else some f.cls
  else none

/-- XRsp (R426, R427): its code words pass the XP ingress check, the first sector until 4 sc after the header (Table 3.2). -/
def xpResponse (txn : Nat) (status : BitVec 5) (words : Table CodeWord) (s : State) : State :=
  match xpAwaited s txn with
  | none => unexpectedMem s
  | some c =>
    let words := words.map fun p => (p.1, { p.2 with poison := p.2.poison || status != 0 })
    let s := chargeXp c words.length s
    { s with fg := { s.fg with xpIn := s.fg.xpIn ++ [{ due := s.env.sc + 4, txn := txn, words := words }] } }

/-- Code words for a fetch buffer entry (R95 to R98): where a read has made it a miss, they are the miss's. -/
def deliverFb (k : Nat) (words : Table CodeWord) (s : State) : State :=
  match tfind s.cache.fb k with
  | none => s
  | some f =>
    let gone := { s with cache := { s.cache with fb := terase s.cache.fb k } }
    if f.doomed then gone
    else match f.into with
    | some i => if (tfind s.cache.miss i).isSome then deliver i words gone else gone
    | none =>
        let buf := words.foldl (fun b p => tput b p.1 p.2) f.buf
        let whole := maskOf 4 ((bitsOf f.asked).filter fun x =>
          (tfind buf (2 * x)).isSome && (tfind buf (2 * x + 1)).isSome)
        let bad := maskOf 4 ((bitsOf whole).filter fun x =>
          (tget default buf (2 * x)).poison || (tget default buf (2 * x + 1)).poison)
        { s with cache := { s.cache with fb := tput s.cache.fb k { f with buf := buf, got := whole, pois := bad } } }

/-- The code words of an XRsp leave the XP ingress check. -/
def landWords (x : XpData) (s : State) : State :=
  if x.txn < 32 then
    if (tfind s.cache.miss x.txn).isSome then deliver x.txn x.words s else s
  else deliverFb (x.txn - 32) x.words s

/-- The XRsps whose first sector leaves the check in this sc. -/
def landXp (s : State) : State :=
  let due := s.fg.xpIn.filter fun x => decide (x.due ≤ s.env.sc)
  due.foldl (fun s x => landWords x s)
    { s with fg := { s.fg with xpIn := s.fg.xpIn.filter fun x => !decide (x.due ≤ s.env.sc) } }

/-- XAck (R93, R429): the eviction buffer entry is freed whatever the status. -/
def xpAck (txn : Nat) (status : BitVec 5) (s : State) : State :=
  if decide (64 ≤ txn) && decide (txn < 80) && s.cache.ev.any (fun e => e.index == txn - 64 && e.sent) then
    let s := { s with cache := { s.cache with ev := s.cache.ev.filter fun e => e.index != txn - 64 } }
    let s := if status = 0 then s else { s with lnk := { s.lnk with xpWerr := satAdd 255 s.lnk.xpWerr 1 } }
    pushVictims 16 s
  else unexpectedMem s

/-- An atomic that its leaving line counted on has written nothing: its sector is not dirty on that account. -/
def forgetSector (line : LineAddr) (x : Nat) (s : State) : State :=
  let pair : BitVec 8 := BitVec.ofNat 8 (3 * 4 ^ x)
  let without (a : Access) : Access := if a.purpose = .evict line then
      { a with secs := a.secs.filter fun q => locSect (2 * q) != x } else a
  { s with
    cache := { s.cache with
      victims := s.cache.victims.map fun v => if v.line = line then { v with sd := setBit v.sd x false } else v
      ev := s.cache.ev.map fun e => if e.line = line ∧ e.data.isEmpty then { e with cwMask := e.cwMask &&& ~~~pair } else e }
    fg := { s.fg with accs := s.fg.accs.map without } }

/-- The victim has been read (R92, R93): its dirty sectors leave through the eviction buffer, in order of allocation. -/
def evictRead (line : LineAddr) (got : List Got) (s : State) : State :=
  match s.cache.ev.find? (fun e => e.line == line && e.data.isEmpty) with
  | none => victimGone line s
  | some e =>
    if e.cwMask = 0 then
      pushVictims 16 (victimGone line { s with cache := { s.cache with ev := s.cache.ev.filter fun x => x.index != e.index } })
    else
    let words := (bitsOf e.cwMask).zip (got.map fun g => g.word)
    let s := { s with cache := { s.cache with ev := s.cache.ev.map fun x =>
      if x.index = e.index then { x with data := words } else x } }
    let m : OutMsg := {
      port := .xp, cls := .mem, op := 1, dstAgent := 255, dstDie := s.env.idDie.toNat,
      txn := BitVec.ofNat 16 (64 + e.index), line := line, label := e.cls, body := .xwr e.cwMask,
      data := (words.map fun p => p.2), ready := s.env.sc + 4, tx := .none }
    victimGone line (emit m s)

/-! ### The end of transactions -/

/-- WbAck (R120). -/
def sendAck (a : HeldAck) (ready : Nat) (s : State) : State :=
  answer { port := a.port, agent := a.agent, die := a.die, txn := a.txn, line := a.line, label := a.label, ndf := 0 } 7 .none []
    ready .none s

/-- A recorded reservation starts when the transaction ends (R126). -/
def startReservation (line : LineAddr) (s : State) : State :=
  { s with coh := { s.coh with resv := s.coh.resv.map fun v =>
    if v.line = line ∧ v.running.isNone then { v with running := some 512 } else v } }

/-- A transaction with a tracker entry has ended (R120): the directory state stands, the held WbAcks leave, the entry is
free. -/
def endTracker (i : Nat) (s : State) : State :=
  match tfind s.coh.trk i with
  | none => s
  | some t =>
    let s := { s with coh := { s.coh with trk := terase s.coh.trk i } }
    let s := match findWay s t.line with
      | some way => setTag (lineSet t.line) way (fun e => if e.dst = dirT then
          e.withDir (t.next.getD { e.dir with dst := t.prev }) else e) s
      | none => s
    let s := match t.missIndex with
      | some m => retireMiss m s
      | none => s
    startReservation t.line (t.held.foldl (fun s a => sendAck { a with } s.env.sc s) s)

/-- A transaction without a tracker entry has ended (R120). -/
def endActive (k : Nat) (s : State) : State :=
  match s.coh.active.find? (fun a => a.id == k) with
  | none => s
  | some a => startReservation a.line { s with coh := { s.coh with active := s.coh.active.filter fun a => a.id != k } }

/-- Back-invalidation has ended (R91, R92): the victim is read out, or dropped where nothing is dirty. -/
def endTb (i : Nat) (s : State) : State :=
  let t := getTracker s i
  let s := { s with coh := { s.coh with trk := terase s.coh.trk i } }
  let s := t.held.foldl (fun s a => sendAck a s.env.sc s) s
  match s.cache.victims.find? (fun v => v.line == t.line) with
  | none => s
  | some v =>
    if v.sd = 0 then victimGone t.line s
    else pushVictims 16 { s with cache := { s.cache with victims := s.cache.victims.map fun u =>
      if u.line = t.line then { u with step := .awaitBuffer, since := s.env.sc + 6 } else u } }

/-! ### Writebacks and snoop answers -/

def transCode : Transient → Nat
  | .tfs => 1 | .tfx => 2 | .ti => 3 | .td => 4 | .tr => 5 | .tw => 6 | .tm => 7 | .tb => 8

/-- Write the dirty sectors that an agent returns into the home's line, or into the victim (Table 4.7, R91): of a sector that a
fetch still awaits they are merged into it. The fetch buffer's copy is stale (R98). -/
def sinkSectors (line : LineAddr) (cls : Nat) (mask : BitVec 4) (data : List CodeWord) (s : State) : State :=
  let s := dropLineFb line s
  let words := ((bitsOf mask).flatMap fun i => [2 * i, 2 * i + 1]).zip data
  let write (set way : Nat) (s : State) : State :=
    if words.isEmpty then s
    else enqueue (writeAccess (s.env.sc + 6) cls 0 false (words.map fun p => (location set way (32 * p.1), p.2)) .write) s
  match s.cache.victims.find? (fun v => v.line == line) with
  | some v => write v.set v.way { s with cache := { s.cache with victims := s.cache.victims.map fun u =>
      if u.line = line then { u with sv := u.sv ||| mask, sd := u.sd ||| mask } else u } }
  | none => match (if filling s line then missOf s line else none), findWay s line with
    | some i, _ => setMiss i (fun m => { m with
        asked := m.asked ||| mask, got := m.got ||| mask, merge := words.foldl (fun t w => tput t w.1 w.2) m.merge }) s
    | none, some way =>
      let late := mask &&& outstanding s line
      let now := words.filter fun p => !bit late (p.1 / 2)
      let s := match missOf s line with
        | some i => setMiss i (fun m => { m with
            merge := (words.filter fun p => bit late (p.1 / 2)).foldl (fun t w => tput t w.1 w.2) m.merge }) s
        | none => s
      let s := setTag (lineSet line) way (fun e => { e with
        sv := e.sv ||| (mask &&& ~~~late), sd := e.sd ||| (mask &&& ~~~late) }) s
      if now.isEmpty then s
      else enqueue (writeAccess (s.env.sc + 6) cls 0 false
        (now.map fun p => (location (lineSet line) way (32 * p.1), p.2)) .write) s
    | none, none => s

/-- A protocol event (R109, R114). -/
def protocolEvent (line : LineAddr) (trans agent : Nat) (poisoned : Bool) (s : State) : State :=
  report 0x22 (if poisoned then 2 else 0) 0 (detailL line trans 0 [agent] 4) <| raise 1
    { s with coh := { s.coh with protoErr := true } }

/-- Every awaited answer has registered (Table 4.7). -/
def finishSnoops (i : Nat) (s : State) : State :=
  match (getTracker s i).tr with
  | .tb => endTb i s
  | .ti => finishTi i s
  | _ => serveAsU i s

/-- The transaction ends with POISON to its requester and its line poisoned (R114, R139, R148); a victim is released poisoned.
DESIGN CHOICE (entry 55): a protocol event, too, leaves the line in U. No write of a pack is performed (R139): its line is
passed over. -/
def endPoisoned (i cause : Nat) (s : State) : State :=
  let t := getTracker s i
  let s := setTracker i (fun t => { t with await := [], stalled := false }) s
  match t.tr with
  | .tb =>
    let s := markLine t.set t.way { s with cache := { s.cache with victims := s.cache.victims.map fun v =>
      if v.line = t.line then { v with sv := 15, sd := 15 } else v } }
    let s := if cause = 4 then s else { s with coh := { s.coh with poisonLines := satAdd 65535 s.coh.poisonLines 1 }
                                               bg := { s.bg with tel := { s.bg.tel with
                                                 poisonLines := satAdd 65535 s.bg.tel.poisonLines 1 } } }
    endTb i (report 0x25 2 0 (detailL t.line 8 0 [] cause) s)
  | _ =>
    let s := storeDir t.set t.way (some i) (tagAt s t.set t.way).dir.uncached s
    let s := poisonLine t.set t.way cause (transCode t.tr) s
    match t.req with
    | none => endNow (.tracker i) s
    | some r =>
      let s := if r.internal then { s with red := { s.red with spoiled := s.red.spoiled ++ [r.line] } } else s
      respondSts r .poison (s.env.sc + 4) (.tracker i)
        (if r.kind = .atom then countAtom .poison s else s)

/-- Table 4.2: the outcomes that are legal for the snoop of a transaction, from an owner or from a sharer. -/
def legalOutcome (t : Tracker) (agent : Nat) (outcome : Nat) : Bool :=
  let fromOwner := t.owner == some agent
  match t.tr with
  | .tfs => outcome = 4 || outcome = 5 || outcome = 7
  | .tfx => outcome = 6 || outcome = 7
  | .ti => outcome = 0 || (fromOwner && outcome = 7)
  | .td => outcome = 1 || outcome = 2 || outcome = 7
  | .tr => outcome = 0 || outcome = 3 || outcome = 7
  | .tb => if fromOwner then outcome = 0 || outcome = 3 || outcome = 7 else outcome = 0
  | _ => false

/-- A legal answer from an awaited agent (Table 4.7). -/
def acceptAnswer (i agent outcome : Nat) (mask : BitVec 4) (data : List CodeWord) (s : State) : State :=
  let t := getTracker s i
  let s := setTracker i (fun t => { t with await := t.await.filter (· ≠ agent) }) s
  let cls := match t.req with
    | some r => r.cls
    | none => 0
  let s := if outcome = 2 ∨ outcome = 3 ∨ outcome = 5 then sinkSectors t.line cls mask data s else s
  let d := (tagAt s t.set t.way).dir
  let keep (x : DirPart) (s : State) : State := storeDir t.set t.way (some i) x s
  let owner : List Nat := match t.owner with
    | some o => [o]
    | none => []
  if outcome = 7 then
    if t.ownerWb then (match t.tr with
      | .tb => endTb i s
      | _ => serveAsU i s)
    else setTracker i (fun t => { t with wbp := true, tr := if t.tr = .tb then .tb else .tw }) s
  else if outcome = 4 ∨ outcome = 5 then
    let r := t.req.getD default
    let l := if isDead s r.agent r.die then owner else owner ++ [r.agent]
    endNow (.tracker i) (keep { d.withSharers l with dst := dirSP } s)
  else if outcome = 6 then
    let r := t.req.getD default
    if isDead s r.agent r.die then
      endNow (.tracker i) (poisonLine t.set t.way 2 2 (keep d.uncached s))
    else endNow (.tracker i) (keep (if t.requesterWb then d.uncached else d.owned r.agent) s)
  else if outcome = 1 ∨ outcome = 2 then
    let r := t.req.getD default
    serveTracked i r (keep { d.withSharers owner with dst := dirSP } s)
  else if (getTracker s i).await.isEmpty then finishSnoops i s
  else s

/-- The code of the transient that a line is in; 0 where it is in none. -/
def lineTrans (s : State) (line : LineAddr) : Nat :=
  match trackerOf s line with
  | some i => transCode (getTracker s i).tr
  | none => 0

/-- The agent may answer the snoop of a transaction: it was sent to it (R114, R145). -/
def askedAgent (s : State) (t : Tracker) (h : Hdr) : Bool :=
  caching s h.agent h.die && !goneAgent s h.agent h.die && t.sentTo.contains h.agent

/-- SnpRsp (R114, R142, R143, R145, Table 4.7): an answer for no active snoop is sunk as a protocol event; so is a second answer
of an agent that has answered. One that is not legal, or not of an agent that the snoop was sent to, ends the transaction. -/
def snoopAnswer (h : Hdr) (outcome : Nat) (mask : BitVec 4) (data : List CodeWord) (s : State) : State :=
  let sunk := protocolEvent h.line (lineTrans s h.line) h.agent false s
  if bit s.coh.muzBanks (tagBank (lineSet h.line)) then sunk
  else match trackerOf s h.line with
    | none => sunk
    | some i =>
      let t := getTracker s i
      if t.await.isEmpty then sunk
      else if !askedAgent s t h then endPoisoned i 4 (protocolEvent h.line (transCode t.tr) h.agent true s)
      else if !t.await.contains h.agent then sunk
      else
        let s := { s with coh := { s.coh with tmoCnt := terase s.coh.tmoCnt h.agent } }
        if legalOutcome t h.agent outcome then acceptAnswer i h.agent outcome mask data s
        else endPoisoned i 4 (protocolEvent h.line (transCode t.tr) h.agent true s)

/-- WbAck at once. -/
def ackNow (h : Hdr) (s : State) : State := answer h 7 .none [] (s.env.sc + 9) .none s

/-- WbD or EvC (R109, R112, R119, R155; Table 4.7). -/
def writeBack (h : Hdr) (mask : BitVec 4) (data : List CodeWord) (framed : Bool) (s : State) : State :=
  let held : HeldAck := { port := h.port, agent := h.agent, die := h.die, txn := h.txn, line := h.line, label := h.label }
  let cls := classOf s h.line h.label
  let refuse109 := ackNow h (protocolEvent h.line (lineTrans s h.line) h.agent false s)
  if bit s.coh.muzBanks (tagBank (lineSet h.line)) then ackNow h s
  else if !caching s h.agent h.die || goneAgent s h.agent h.die || !framed then refuse109
  else match trackerOf s h.line with
    | some i =>
      let t := getTracker s i
      if t.owner = some h.agent ∧ !t.ownerWb ∧ !t.served then
        let s := sinkSectors h.line cls mask data s
        let s := setTracker i (fun t => { t with ownerWb := true, held := t.held ++ [held] }) s
        if t.tr = .tw then serveAsU i s
        else if t.tr = .tb ∧ t.wbp then endTb i s
        else if t.tr = .tm then storeDir t.set t.way (some i) (tagAt s t.set t.way).dir.uncached s
        else s
      else if t.tr = .tfx ∧ (t.req.map fun r => r.agent) = some h.agent ∧ !t.served then
        setTracker i (fun t => { t with requesterWb := true, held := t.held ++ [held] }) (sinkSectors h.line cls mask data s)
      else refuse109
    | none => match findWay s h.line with
      | none => refuse109
      | some way =>
        let e := tagAt s (lineSet h.line) way
        if e.dst = dirX ∧ e.ptr0.toNat = h.agent then
          ackNow h (setTag (lineSet h.line) way (fun e => e.withDir e.dir.uncached) (sinkSectors h.line cls mask data s))
        else refuse109

/-! ### Timeouts and dead agents -/

/-- The transaction still awaits an answer or a writeback (R139, R140). -/
def Tracker.waiting (t : Tracker) : Bool := !t.served && t.endsAt.isNone && (!t.await.isEmpty || (t.wbp && !t.ownerWb))

/-- The agents whose answers are missing (R140, R141). -/
def Tracker.missing (t : Tracker) : List Nat :=
  if t.wbp then (match t.owner with
    | some o => [o]
    | none => []) else t.await.insertionSort (· ≤ ·)

/-- The seam bridge pauses the timer (R440): some hold bit is set and an awaited agent is named. -/
def seamPaused (s : State) (t : Tracker) : Bool :=
  decide (s.env.smHold ≠ 0) && t.missing.any fun a => decide (a < 160) && bit s.lnk.seam a

/-- The timer of R134 advances in this sc. -/
def timerRuns (s : State) (t : Tracker) : Bool :=
  t.waiting && !s.env.pkAck && !seamPaused s t && (match t.timerFrom with
    | some f => decide (f ≤ s.env.sc)
    | none => false)

/-- The timer expires in this sc (R134, R139). -/
def expired (s : State) (t : Tracker) : Bool := timerRuns s t && decide (s.coh.homeTmo.toNat ≤ t.elapsed + 1)

/-- The 14-bit holder of an agent (Table 6.1). -/
def agentHolder (agent die : Nat) : BitVec 14 := BitVec.ofNat 14 (die % 32 * 256 + agent % 256)

/-- Every slot a dead agent holds becomes POISON, and its waiting requests go, its COMMITs that await credits among them
(R186). -/
def dropHolder (agent die : Nat) (s : State) : State :=
  { s with ken := { s.ken with
    slots := s.ken.slots.map fun p => if p.2.holder = some (agentHolder agent die) then
        (p.1, { p.2 with state := .poison, holder := none, age := 0, since := s.env.sc })
      else (p.1, { p.2 with commit := p.2.commit.map fun q => match q.1 with
        | .agent h => if h.agent = agent ∧ h.die = die then (.gone (agentHolder agent die), q.2) else q
        | _ => q })
    waits := s.ken.waits.filter fun w => match w.party with
      | .agent h => !(h.agent == agent && h.die == die)
      | _ => true } }

/-- One transaction under a declaration (Table 5.1). -/
def reclaimTracker (d i : Nat) (s : State) : State :=
  let t := getTracker s i
  let drop := setTracker i (fun t => { t with await := t.await.filter (· ≠ d) }) s
  if !t.waiting then s
  else if t.owner = some d then
    if t.tr = .ti then (if t.await.contains d || (t.wbp && !t.ownerWb) then serveAsU i drop else s)
    else if t.tr = .tm then s
    else endPoisoned i 2 s
  else if t.await.contains d then
    (if (getTracker drop i).await.isEmpty then finishSnoops i drop else drop)
  else s

/-- Declare an agent dead (R144, R147, R148, R149). -/
def declareDead (d cause : Nat) (s : State) : State :=
  if s.coh.nclust.toNat ≤ d then raise 2 { s with coh := { s.coh with adRej := true } }
  else if bit s.coh.dead d then s
  else
    let die := s.env.idDie.toNat
    let s := { s with
      coh := { s.coh with dead := setBit s.coh.dead d true, declared := setBit s.coh.declared d true, lastCause := BitVec.ofNat 2 cause,
                          lastDead := BitVec.ofNat 8 d, reclaim := some 0,
                          resv := s.coh.resv.filter fun v => !(v.agent == d && v.die == die) }
      bg := { s.bg with tel := { s.bg.tel with deadDecl := satAdd 255 s.bg.tel.deadDecl 1 } } }
    let s := report 0x24 0 0 (pack [(0, 8, d), (8, 2, cause)]) s
    let s := dropHolder d die s
    (s.coh.trk.map Prod.fst).foldl (fun s i => reclaimTracker d i s) s

/-- One missing answer is counted against its agent (R142): the third declares it dead. -/
def countMissing (a : Nat) (s : State) : State :=
  let n := tget 0 s.coh.tmoCnt a + 1
  let s := { s with coh := { s.coh with tmoCnt := tput s.coh.tmoCnt a (min 3 n), snoopTmo := satAdd 65535 s.coh.snoopTmo 1 }
                    bg := { s.bg with tel := { s.bg.tel with snoopTmo := satAdd 65535 s.bg.tel.snoopTmo 1 } } }
  if n = 3 then declareDead a 1 s else s

/-- Lists of at most four agents (R406). -/
def groupsOf4 : Nat → List Nat → List (List Nat)
  | 0, _ => []
  | k + 1, l => if l.length ≤ 4 then [l] else l.take 4 :: groupsOf4 k (l.drop 4)

/-- The SNOOP_TMO reports of an expiry (R406). -/
def reportTimeout (t : Tracker) (s : State) : State :=
  (groupsOf4 40 t.missing).foldl
    (fun s g => report 0x23 2 0 (detailL t.line (transCode t.tr) t.missing.length g 1) s) s

/-- One expiry (R139, R142): its report, its end, and the counts of the answers missing. -/
def expire (i : Nat) (s : State) : State :=
  let t := getTracker s i
  t.missing.foldl (fun s a => countMissing a s) (endPoisoned i 1 (reportTimeout t s))

/-- The expiries of one sc, in ascending tracker entry (R142). DESIGN CHOICE (entry 53): one is applied as a whole before the
next, so that a transaction which an earlier one's declaration has ended or gone on with does not expire too. -/
def homeTimeouts (s : State) : State :=
  (s.coh.trk.filter fun p => expired s p.2).foldl
    (fun s p => if (getTracker s p.1).waiting then expire p.1 s else s) s

end Sys2Proof.Machine
end

