-- ==== Sys2Proof/Machine/Number.lean ====
section
/-! DEFINITION. The number formats, the BX20 block format, the adds and the roundings (07_reduction_arithmetic R198 to
R213). Values are exact: a pair of an integer m and an exponent e stands for m · 2^e. -/

namespace Sys2Proof.Machine

/-- An exact binary value m · 2^e. -/
structure Dy where
  m : Int
  e : Int
deriving DecidableEq, Repr

def Dy.zero : Dy := { m := 0, e := 0 }

/-- m · 2^k for an exponent that may be negative only where 2^(-k) divides m. -/
def shiftInt (m : Int) (k : Int) : Int := if 0 ≤ k then m * 2 ^ k.toNat else m / 2 ^ (-k).toNat

/-- The exact sum. -/
def Dy.add (a b : Dy) : Dy :=
  let e := min a.e b.e
  { m := shiftInt a.m (a.e - e) + shiftInt b.m (b.e - e), e := e }

/-- m · 2^-d rounded to the nearest integer, ties to even (R203, R204). -/
def rneShr (m : Int) (d : Nat) : Int :=
  let q := m / 2 ^ d
  let r := m - q * 2 ^ d
  if 2 * r > 2 ^ d ∨ (2 * r = 2 ^ d ∧ q % 2 = 1) then q + 1 else q

/-- A floating-point format: width, precision, smallest normal exponent, largest finite magnitude, and the smallest
magnitude that is an infinity or a NaN (Tables 7.3, 7.4). -/
structure Fmt where
  w : Nat
  p : Nat
  emin : Int
  maxMag : Nat
  special : Nat
deriving DecidableEq, Repr

def binary32 : Fmt := { w := 32, p := 24, emin := -126, maxMag := 0x7F7FFFFF, special := 0x7F800000 }
def binary16 : Fmt := { w := 16, p := 11, emin := -14, maxMag := 0x7BFF, special := 0x7C00 }
def bfloat16 : Fmt := { w := 16, p := 8, emin := -126, maxMag := 0x7F7F, special := 0x7F80 }
def e4m3 : Fmt := { w := 8, p := 4, emin := -6, maxMag := 0x7E, special := 0x7F }
def e5m2 : Fmt := { w := 8, p := 3, emin := -14, maxMag := 0x7B, special := 0x7C }

/-- The floating-point format with a code of Table 7.3 or 7.4. -/
def fmtOf (code : Nat) : Fmt :=
  if code = 1 then binary16 else if code = 2 then bfloat16 else if code = 3 then e4m3 else if code = 4 then e5m2
  else binary32

/-- Bytes of an element in a format code (Tables 7.3, 7.4): input codes 5 and 6 are int8 and int32. -/
def inputBytes (code : Nat) : Nat := if code = 0 ∨ code = 6 then 4 else if code = 1 ∨ code = 2 then 2 else 1
def outputBytes (code : Nat) : Nat :=
  if code = 6 then 8 else if code = 0 ∨ code = 5 then 4 else if code = 1 ∨ code = 2 then 2 else 1

/-- The exact value of an encoded element; none for an infinity or a NaN (R198). -/
def decodeFloat (f : Fmt) (bits : Nat) : Option Dy :=
  let mag := bits % 2 ^ (f.w - 1)
  let ex := mag / 2 ^ (f.p - 1)
  let fr := mag % 2 ^ (f.p - 1)
  let v : Dy := if ex = 0 then { m := fr, e := f.emin - f.p + 1 }
    else { m := fr + 2 ^ (f.p - 1), e := (ex : Int) - 1 + f.emin - f.p + 1 }
  if mag ≥ f.special then none
  else some { v with m := if bits / 2 ^ (f.w - 1) % 2 = 1 then -v.m else v.m }

/-- The magnitude code of |v| rounded to a format, before saturation (R212): u is the generator output, none for round to
nearest even. -/
def roundMag (f : Fmt) (u : Option Nat) (v : Dy) : Nat :=
  let a := v.m.natAbs
  if a = 0 then 0
  else
    let ex := v.e + Nat.log2 a
    let low : Int := f.emin - f.p + 1
    let g := max ex f.emin - f.p + 1
    let d := (g - v.e).toNat
    let q := if v.e ≥ g then a * 2 ^ (v.e - g).toNat else a / 2 ^ d
    let r := if v.e ≥ g then 0 else a % 2 ^ d
    let up : Bool := match u with
      | none => decide (2 * r > 2 ^ d) || (decide (r ≠ 0) && decide (2 * r = 2 ^ d) && decide (q % 2 = 1))
      | some t => decide (r * 2 ^ 32 / 2 ^ d + t ≥ 2 ^ 32)
    (g - low).toNat * 2 ^ (f.p - 1) + (if up then q + 1 else q)

/-- The element with a magnitude code and a sign; a zero is +0 (R199). -/
def signed (f : Fmt) (neg : Bool) (mag : Nat) : Nat := if neg ∧ mag ≠ 0 then mag + 2 ^ (f.w - 1) else mag

/-- An output element and whether it saturated (R199, R212). -/
def roundOut (f : Fmt) (u : Option Nat) (v : Dy) : Nat × Bool :=
  let mag := roundMag f u v
  if mag > f.maxMag then (signed f (decide (v.m < 0)) f.maxMag, true) else (signed f (decide (v.m < 0)) mag, false)

/-- A value rounded to nearest even in binary32; none on overflow (R209). -/
def round32 (v : Dy) : Option Nat :=
  let mag := roundMag binary32 none v
  if mag > binary32.maxMag then none else some (signed binary32 (decide (v.m < 0)) mag)

/-- The exact value of a binary32 pattern that is known to be finite. -/
def value32 (bits : Nat) : Dy := (decodeFloat binary32 bits).getD Dy.zero

/-- IEEE 754 addition of two finite binary32 patterns (R209); none on overflow. -/
def add32 (a b : Nat) : Option Nat := round32 ((value32 a).add (value32 b))

/-- A BX20 block: exponent and sixteen mantissas (R201). -/
structure Bx where
  e : Nat
  m : List Int
deriving DecidableEq, Repr

/-- The smallest mantissa at exponent e (R201). -/
def bxLow (e : Nat) : Int := if e = 255 then 1 - 2 ^ 19 else -(2 ^ 19)

/-- A mantissa lies in the range of R201. -/
def bxFits (e : Nat) (m : Int) : Bool := decide (bxLow e ≤ m) && decide (m ≤ 2 ^ 19 - 1)

/-- x · 2^(146 - e) rounded to the nearest integer, ties to even (R203). -/
def bxMantissa (e : Nat) (x : Dy) : Int :=
  let k : Int := x.e + 146 - e
  if 0 ≤ k then x.m * 2 ^ k.toNat else rneShr x.m (-k).toNat

/-- A bound below which no exponent fits: |x| at least 2^ex needs an exponent of at least ex + 127. -/
def bxStart (xs : List Dy) : Nat :=
  xs.foldl (fun a x => if x.m = 0 then a else max a (x.e + (Nat.log2 x.m.natAbs : Int) + 127).toNat) 0

/-- The first exponent from e on at which every mantissa fits. -/
def bxSearch (xs : List Dy) (e : Nat) : Nat → Option Bx
  | 0 => none
  | k + 1 =>
    if e > 255 then none
    else
      let ms := xs.map (bxMantissa e)
      if ms.all (bxFits e) then some { e := e, m := ms } else bxSearch xs (e + 1) k

/-- Encoding of sixteen exact values (R203): the smallest exponent that fits; none is cause RANGE. -/
def bxEncode (xs : List Dy) : Option Bx := bxSearch xs (bxStart xs) 256

/-- The exact values of a block (R201). -/
def bxValues (b : Bx) : List Dy := b.m.map fun m => { m := m, e := (b.e : Int) - 146 }

/-- The operands aligned at exponent e and added (R204). -/
def bxSums (a b : Bx) (e : Nat) : List Int :=
  List.zipWith (fun x y => rneShr x (e - a.e) + rneShr y (e - b.e)) a.m b.m

/-- Add, and repeat from the operands at the next exponent on overflow (R204, R205): the sums, their exponent and the
number of repeats. -/
def bxAddFrom (a b : Bx) (e reps : Nat) : Nat → Option (Bx × Nat)
  | 0 => none
  | k + 1 =>
    let s := bxSums a b e
    if s.all (bxFits e) then some ({ e := e, m := s }, reps)
    else if e = 255 then none
    else bxAddFrom a b (e + 1) (reps + 1) k

/-- Lower the exponent while every mantissa fits in 19 bits (R204). -/
def bxNormal (b : Bx) : Nat → Bx
  | 0 => b
  | k + 1 =>
    if b.e > 0 ∧ b.m.all (fun m => decide (-(2 ^ 18) ≤ m) && decide (m ≤ 2 ^ 18 - 1)) then
      bxNormal { e := b.e - 1, m := b.m.map (· * 2) } k
    else b

/-- A BX20 add (R204): the block and the repeats it took; none is cause RANGE. -/
def bxAdd (a b : Bx) : Option (Bx × Nat) :=
  match bxAddFrom a b (max a.e b.e) 0 256 with
  | none => none
  | some (s, r) => if s.m.all (· == 0) then some ({ s with e := 0 }, r) else some (bxNormal s 256, r)

/-- The block image of Table 7.5. -/
def bxImage (b : Bx) : BitVec 512 :=
  BitVec.ofNat 512 ((b.m.zipIdx).foldl (fun a p => a + (p.1 % 2 ^ 20).toNat * 2 ^ (20 * p.2)) (b.e % 256 * 2 ^ 320))

/-- Two's complement of w bits. -/
def toSigned (w n : Nat) : Int := if n % 2 ^ w < 2 ^ (w - 1) then (n % 2 ^ w : Nat) else (n % 2 ^ w : Nat) - (2 ^ w : Int)

/-- The block of an image. -/
def bxOfImage (x : BitVec 512) : Bx :=
  { e := fld x 320 8, m := (List.range 16).map fun i => toSigned 20 (fld x (20 * i) 20) }

/-- An image lies outside the mantissa range of R201 (R261, R289). -/
def bxImageBad (x : BitVec 512) : Bool := fld x 320 8 == 255 && (bxOfImage x).m.any (· == -(2 ^ 19))

/-- Sixteen binary32 patterns as a 64-byte image, and back. -/
def f32Image (l : List Nat) : BitVec 512 :=
  BitVec.ofNat 512 ((l.zipIdx).foldl (fun a p => a + (p.1 % 2 ^ 32) * 2 ^ (32 * p.2)) 0)
def f32OfImage (x : BitVec 512) : List Nat := (List.range 16).map fun i => fld x (32 * i) 32

/-- BX20 values converted to binary32, exactly (R201, R208). -/
def bxTo32 (b : Bx) : List Nat := (bxValues b).map fun v => (round32 v).getD 0

/-- The mixing function of the stochastic rounding generator (R213). -/
def pmix (z : Word64) : Word64 :=
  let z := (z ^^^ (z >>> 32)) * 0x8F3A61C5D27B4E09#64
  let z := (z ^^^ (z >>> 29)) * 0xE4D10B973C6FA52D#64
  z ^^^ (z >>> 32)

/-- The generator output for element i (R213). -/
def srBits (seed : Word64) (step target : BitVec 48) (i : Nat) : Nat :=
  let x := pmix (seed ^^^ 0x3D96F0A47C21E5B8#64)
  let x := pmix (x ^^^ ((step.zeroExtend 64 <<< 16) ||| BitVec.ofNat 64 (i % 2 ^ 16)))
  let x := pmix (x ^^^ target.zeroExtend 64)
  (x >>> 32).toNat

/-- An integer saturated to w bits, and whether it was (R199). -/
def satInt (w : Nat) (v : Int) : Int × Bool :=
  if v > 2 ^ (w - 1) - 1 then (2 ^ (w - 1) - 1, true) else if v < -(2 ^ (w - 1)) then (-(2 ^ (w - 1)), true) else (v, false)

/-- The levels of adds of a tree of p contributors (R206): the least d with p ≤ 2^d. -/
def treeDepth (p : Nat) : Nat := if p ≤ 1 then 0 else Nat.log2 (p - 1) + 1

end Sys2Proof.Machine
end

