-- ==== Sys2Proof/Machine/Zellek.lean ====
section
/-! DEFINITION. The Zellek instruction set (10_zellek_instruction_set): the layout of an instruction word, the instructions,
their encoding, and the decoder that finds what R270 calls ILLEGAL. -/

namespace Sys2Proof.Machine

/-- The fields of an instruction word (Table 10.1). -/
structure ZFields where
  op : BitVec 8
  d : BitVec 4
  a : BitVec 4
  b : BitVec 4
  c : BitVec 4
  f : BitVec 8
  imm : BitVec 32
deriving DecidableEq, Repr

/-- The word of fields. -/
def ZFields.word (x : ZFields) : Word64 := x.op ++ x.d ++ x.a ++ x.b ++ x.c ++ x.f ++ x.imm

/-- The fields of a word. -/
def ZFields.ofWord (w : Word64) : ZFields :=
  { op := w.extractLsb' 56 8, d := w.extractLsb' 52 4, a := w.extractLsb' 48 4, b := w.extractLsb' 44 4,
    c := w.extractLsb' 40 4, f := w.extractLsb' 32 8, imm := w.extractLsb' 0 32 }

/-- Conditions of BCC (R280). -/
inductive Cond where
  | eq | ne | lt | ge | ltu | geu
deriving DecidableEq, Repr

/-- Operations of ALU (Table 10.4). -/
inductive AluOp where
  | add | sub | mul | and | or | xor | shl | shr | sar | slt | sltu | seq | min | max
deriving DecidableEq, Repr

/-- The second operand of ALU (R283). -/
inductive AluSrc where
  | reg (b : BitVec 4)
  | imm (v : BitVec 32)
deriving DecidableEq, Repr

/-- Source and output forms of tiles (R288, R290): an element format 0 to 4, or block images. -/
inductive TileForm where
  | f0 | f1 | f2 | f3 | f4 | image
deriving DecidableEq, Repr

/-- The data of PCTB (R296). -/
inductive CtbSrc where
  | kennel (c : BitVec 4)
  | tile (t : BitVec 3)
deriving DecidableEq, Repr

/-- Operations of CTXC (Table 10.5). -/
inductive CtxOp where
  | start (a : BitVec 4) (g : BitVec 2) (pc : BitVec 14) (cls : BitVec 4)
  | stop (a : BitVec 4)
  | suspend (a : BitVec 4)
  | restore (a : BitVec 4)
  | pool (bits : BitVec 15)
deriving DecidableEq, Repr

/-- A legal instruction. Registers are numbers of 4 bits, groups of four registers numbers of 2 bits, pairs of 3 bits. -/
inductive Zellek where
  | nop
  | endI
  | br (target : BitVec 14)
  | bcc (cond : Cond) (a b : BitVec 4) (target : BitVec 14)
  | bst (neg : Bool) (ref : Option (BitVec 5)) (target : BitVec 14)
  | jal (d : BitVec 4) (target : BitVec 14)
  | jr (a : BitVec 4)
  | movst (d : BitVec 4)
  | alu (op : AluOp) (d a : BitVec 4) (src : AluSrc)
  | movi (d : BitVec 4) (imm : BitVec 32)
  | movhi (d : BitVec 4) (imm : BitVec 32)
  | ldw (g : BitVec 2) (a : BitVec 4) (imm : BitVec 32)
  | ldd (d a : BitVec 4) (imm : BitVec 32)
  | stw (a : BitVec 4) (g : BitVec 2) (imm : BitVec 32)
  | pf (a : BitVec 4) (mask : BitVec 4) (imm : BitVec 32)
  | tld (t : BitVec 3) (a : BitVec 4) (mask : BitVec 4) (form : TileForm) (imm : BitVec 32)
  | tst (d : BitVec 4) (t : BitVec 3) (b : BitVec 4) (form : TileForm) (imm : BitVec 32)
  | tstSr (d : BitVec 4) (t : BitVec 3) (b stream : BitVec 4) (form : BitVec 2) (imm : BitVec 32)
  | tadd (t ta tb : BitVec 3) (single : Bool)
  | tcvt (t ta : BitVec 3) (single : Bool)
  | tzero (t : BitVec 3)
  | tmov (t ta : BitVec 3)
  | parm (d a : BitVec 4)
  | pctb (a b : BitVec 4) (src : CtbSrc)
  | crsv (d : BitVec 4) (blocking : Bool) (ch : BitVec 8)
  | ccmt (a : BitVec 4) (ch : BitVec 8)
  | ctake (d : BitVec 4) (blocking : Bool) (ch : BitVec 8)
  | cfree (a : BitVec 4) (ch : BitVec 8)
  | evset (a : BitVec 4)
  | evclr (a : BitVec 4)
  | evwait (a : BitVec 4) (all consume : Bool)
  | evrd (d : BitVec 4)
  | rdcnt (d : BitVec 4)
  | rdfrm (d : BitVec 4)
  | heel (a : BitVec 4) (frame : Bool)
  | moveI (d a : BitVec 4)
  | atom (aop : BitVec 4) (w64 fetch : Bool) (g : BitVec 2) (a : BitVec 4) (opnd cmp : BitVec 2) (lmask : BitVec 8)
  | labelI (cls : BitVec 4)
  | scabs (a b stream : BitVec 4)
  | scrd (pair : BitVec 3) (stream : BitVec 4)
  | scclr (stream : BitVec 4)
  | steprd (d stream : BitVec 4)
  | stepadd (a stream : BitVec 4)
  | fence
  | call (g : BitVec 2) (a : BitVec 4) (args : BitVec 2) (reply : Bool) (entry : BitVec 8)
  | ctxc (op : CtxOp)
deriving DecidableEq, Repr

/-- ATOM returns old values (R306): otherwise its D must be 0. -/
def atomOld (aop : BitVec 4) (fetch : Bool) : Bool := fetch || aop == 8 || aop == 9

/-! ### Encoding -/

def Cond.code : Cond → BitVec 8
  | .eq => 0 | .ne => 1 | .lt => 2 | .ge => 3 | .ltu => 4 | .geu => 5

def AluOp.code : AluOp → BitVec 4
  | .add => 0 | .sub => 1 | .mul => 2 | .and => 3 | .or => 4 | .xor => 5 | .shl => 6 | .shr => 7 | .sar => 8 | .slt => 9
  | .sltu => 10 | .seq => 11 | .min => 12 | .max => 13

def TileForm.code : TileForm → BitVec 4
  | .f0 => 0 | .f1 => 1 | .f2 => 2 | .f3 => 3 | .f4 => 4 | .image => 8

/-- The first register of a group, of a pair; a tile field. -/
def grp (g : BitVec 2) : BitVec 4 := g ++ 0#2
def pairReg (p : BitVec 3) : BitVec 4 := p ++ 0#1
def tileField (t : BitVec 3) : BitVec 4 := 0#1 ++ t

def flag8 (b : Bool) : BitVec 8 := if b then 1 else 0

/-- F[3:0] of a TST with stochastic rounding: formats 1 to 4 (R290). -/
def srForm (k : BitVec 2) : BitVec 4 :=
  match k.toNat with
  | 0 => 1 | 1 => 2 | 2 => 3 | _ => 4

/-- The fields of an instruction, an opcode and an immediate given. -/
def zf (op : BitVec 8) (d a b c : BitVec 4) (f : BitVec 8) (imm : BitVec 32) : ZFields :=
  { op := op, d := d, a := a, b := b, c := c, f := f, imm := imm }

def target32 (t : BitVec 14) : BitVec 32 := 0#18 ++ t
def low8 (x : BitVec 8) : BitVec 32 := 0#24 ++ x

/-- The encoding of an instruction (Table 10.2 and the sections of the instructions). -/
def Zellek.fields : Zellek → ZFields
  | .nop => zf 0x00 0 0 0 0 0 0
  | .endI => zf 0x01 0 0 0 0 0 0
  | .br t => zf 0x02 0 0 0 0 0 (target32 t)
  | .bcc k a b t => zf 0x03 0 a b 0 k.code (target32 t)
  | .bst n r t => zf 0x04 0 0 0 0 (match r with
      | none => BitVec.ofBool n ++ 1#1 ++ 0#6
      | some x => BitVec.ofBool n ++ 0#2 ++ x) (target32 t)
  | .jal d t => zf 0x05 d 0 0 0 0 (target32 t)
  | .jr a => zf 0x06 0 a 0 0 0 0
  | .movst d => zf 0x07 d 0 0 0 0 0
  | .alu o d a (.reg b) => zf 0x10 d a b 0 (0#4 ++ o.code) 0
  | .alu o d a (.imm v) => zf 0x10 d a 0 0 (8#4 ++ o.code) v
  | .movi d v => zf 0x11 d 0 0 0 0 v
  | .movhi d v => zf 0x12 d 0 0 0 0 v
  | .ldw g a v => zf 0x20 (grp g) a 0 0 0 v
  | .ldd d a v => zf 0x21 d a 0 0 0 v
  | .stw a g v => zf 0x22 0 a (grp g) 0 0 v
  | .pf a m v => zf 0x23 0 a 0 0 (0#4 ++ m) v
  | .tld t a m k v => zf 0x30 (tileField t) a 0 m (0#4 ++ k.code) v
  | .tst d t b k v => zf 0x31 d (tileField t) b 0 (0#4 ++ k.code) v
  | .tstSr d t b s k v => zf 0x31 d (tileField t) b s (1#4 ++ srForm k) v
  | .tadd t x y one => zf 0x32 (tileField t) (tileField x) (tileField y) 0 (flag8 one) 0
  | .tcvt t x one => zf 0x33 (tileField t) (tileField x) 0 0 (flag8 one) 0
  | .tzero t => zf 0x34 (tileField t) 0 0 0 0 0
  | .tmov t x => zf 0x35 (tileField t) (tileField x) 0 0 0 0
  | .parm d a => zf 0x36 d a 0 0 0 0
  | .pctb a b (.kennel c) => zf 0x37 0 a b c 0 0
  | .pctb a b (.tile t) => zf 0x37 0 a b (tileField t) 1 0
  | .crsv d k ch => zf 0x40 d 0 0 0 (flag8 k) (low8 ch)
  | .ccmt a ch => zf 0x41 0 a 0 0 0 (low8 ch)
  | .ctake d k ch => zf 0x42 d 0 0 0 (flag8 k) (low8 ch)
  | .cfree a ch => zf 0x43 0 a 0 0 0 (low8 ch)
  | .evset a => zf 0x50 0 a 0 0 0 0
  | .evclr a => zf 0x51 0 a 0 0 0 0
  | .evwait a all use => zf 0x52 0 a 0 0 (0#6 ++ BitVec.ofBool use ++ BitVec.ofBool all) 0
  | .evrd d => zf 0x53 d 0 0 0 0 0
  | .rdcnt d => zf 0x58 d 0 0 0 0 0
  | .rdfrm d => zf 0x59 d 0 0 0 0 0
  | .heel a fr => zf 0x5A 0 a 0 0 (flag8 fr) 0
  | .moveI d a => zf 0x60 d a 0 0 0 0
  | .atom o w f g a x y m =>
    zf 0x68 (if atomOld o f then grp g else 0) a (grp x) (if o = 9 then grp y else 0)
      (0#2 ++ BitVec.ofBool f ++ BitVec.ofBool w ++ o) (low8 m)
  | .labelI k => zf 0x70 0 0 0 0 0 (0#28 ++ k)
  | .scabs a b s => zf 0x78 0 a b s 0 0
  | .scrd p s => zf 0x79 (pairReg p) 0 0 s 0 0
  | .scclr s => zf 0x7A 0 0 0 s 0 0
  | .steprd d s => zf 0x7B d 0 0 s 0 0
  | .stepadd a s => zf 0x7C 0 a 0 s 0 0
  | .fence => zf 0x80 0 0 0 0 0 0
  | .call g a x r e => zf 0x88 (grp g) a (grp x) 0 (flag8 r) (low8 e)
  | .ctxc (.start a g pc k) => zf 0x90 0 a (grp g) 0 0 (0#12 ++ k ++ 0#2 ++ pc)
  | .ctxc (.stop a) => zf 0x90 0 a 0 0 1 0
  | .ctxc (.suspend a) => zf 0x90 0 a 0 0 2 0
  | .ctxc (.restore a) => zf 0x90 0 a 0 0 3 0
  | .ctxc (.pool p) => zf 0x90 0 0 0 0 4 (0#16 ++ p ++ 0#1)

/-- The program store word of an instruction. -/
def Zellek.encode (z : Zellek) : Word64 := z.fields.word

/-! ### Decoding -/

def condOf (f : BitVec 8) : Option Cond :=
  match f.toNat with
  | 0 => some .eq | 1 => some .ne | 2 => some .lt | 3 => some .ge | 4 => some .ltu | 5 => some .geu | _ => none

def aluOf (f : BitVec 4) : Option AluOp :=
  match f.toNat with
  | 0 => some .add | 1 => some .sub | 2 => some .mul | 3 => some .and | 4 => some .or | 5 => some .xor | 6 => some .shl
  | 7 => some .shr | 8 => some .sar | 9 => some .slt | 10 => some .sltu | 11 => some .seq | 12 => some .min
  | 13 => some .max | _ => none

def formOf (f : BitVec 4) : Option TileForm :=
  match f.toNat with
  | 0 => some .f0 | 1 => some .f1 | 2 => some .f2 | 3 => some .f3 | 4 => some .f4 | 8 => some .image | _ => none

def flagOf (f : BitVec 8) : Option Bool :=
  match f.toNat with
  | 0 => some false | 1 => some true | _ => none

def grpOf (r : BitVec 4) : Option (BitVec 2) := if r.extractLsb' 0 2 = 0 then some (r.extractLsb' 2 2) else none
def pairOf (r : BitVec 4) : Option (BitVec 3) := if r.extractLsb' 0 1 = 0 then some (r.extractLsb' 1 3) else none
def tileOf (r : BitVec 4) : Option (BitVec 3) := if r.extractLsb' 3 1 = 0 then some (r.extractLsb' 0 3) else none
def targetOf (v : BitVec 32) : Option (BitVec 14) := if v.extractLsb' 14 18 = 0 then some (v.extractLsb' 0 14) else none
def low8Of (v : BitVec 32) : Option (BitVec 8) := if v.extractLsb' 8 24 = 0 then some (v.extractLsb' 0 8) else none

/-- All of the named fields are zero. -/
def unused (l : List (BitVec 4)) : Bool := l.all (· == 0)

/-- Decode by opcode; none is ILLEGAL (R270), but for the check that only context 0 issues CTXC. -/
def ZFields.decode (x : ZFields) : Option Zellek :=
  match x.op.toNat with
  | 0x00 => if unused [x.d, x.a, x.b, x.c] && x.f == 0 && x.imm == 0 then some .nop else none
  | 0x01 => if unused [x.d, x.a, x.b, x.c] && x.f == 0 && x.imm == 0 then some .endI else none
  | 0x02 => if unused [x.d, x.a, x.b, x.c] && x.f == 0 then (targetOf x.imm).map .br else none
  | 0x03 => if unused [x.d, x.c] then (do some (.bcc (← condOf x.f) x.a x.b (← targetOf x.imm))) else none
  | 0x04 =>
    if unused [x.d, x.a, x.b, x.c] && !bit x.f 5 then
      if bit x.f 6 then
        if x.f.extractLsb' 0 5 = 0 then (targetOf x.imm).map (.bst (bit x.f 7) none) else none
      else (targetOf x.imm).map (.bst (bit x.f 7) (some (x.f.extractLsb' 0 5)))
    else none
  | 0x05 => if unused [x.a, x.b, x.c] && x.f == 0 then (targetOf x.imm).map (.jal x.d) else none
  | 0x06 => if unused [x.d, x.b, x.c] && x.f == 0 && x.imm == 0 then some (.jr x.a) else none
  | 0x07 => if unused [x.a, x.b, x.c] && x.f == 0 && x.imm == 0 then some (.movst x.d) else none
  | 0x10 =>
    if !unused [x.c] then none
    else if x.f.extractLsb' 4 4 = 0 then
      (aluOf (x.f.extractLsb' 0 4)).map fun o => .alu o x.d x.a (.reg x.b)
    else if x.f.extractLsb' 4 4 = 8 then
      if x.b = 0 then (aluOf (x.f.extractLsb' 0 4)).map fun o => .alu o x.d x.a (.imm x.imm) else none
    else none
  | 0x11 => if unused [x.a, x.b, x.c] && x.f == 0 then some (.movi x.d x.imm) else none
  | 0x12 => if unused [x.a, x.b, x.c] && x.f == 0 then some (.movhi x.d x.imm) else none
  | 0x20 => if unused [x.b, x.c] && x.f == 0 then (grpOf x.d).map fun g => .ldw g x.a x.imm else none
  | 0x21 => if unused [x.b, x.c] && x.f == 0 then some (.ldd x.d x.a x.imm) else none
  | 0x22 => if unused [x.d, x.c] && x.f == 0 then (grpOf x.b).map fun g => .stw x.a g x.imm else none
  | 0x23 => if unused [x.d, x.b, x.c] && x.f.extractLsb' 4 4 == 0 then some (.pf x.a (x.f.extractLsb' 0 4) x.imm) else none
  | 0x30 =>
    if unused [x.b] && x.f.extractLsb' 4 4 == 0 then
      (do some (.tld (← tileOf x.d) x.a x.c (← formOf (x.f.extractLsb' 0 4)) x.imm))
    else none
  | 0x31 =>
    if x.f.extractLsb' 4 4 = 0 then
      if x.c = 0 then (do some (.tst x.d (← tileOf x.a) x.b (← formOf (x.f.extractLsb' 0 4)) x.imm)) else none
    else if x.f.extractLsb' 4 4 = 1 then
      match (x.f.extractLsb' 0 4).toNat with
      | 1 => (tileOf x.a).map fun t => .tstSr x.d t x.b x.c 0 x.imm
      | 2 => (tileOf x.a).map fun t => .tstSr x.d t x.b x.c 1 x.imm
      | 3 => (tileOf x.a).map fun t => .tstSr x.d t x.b x.c 2 x.imm
      | 4 => (tileOf x.a).map fun t => .tstSr x.d t x.b x.c 3 x.imm
      | _ => none
    else none
  | 0x32 =>
    if unused [x.c] && x.imm == 0 then
      (do some (.tadd (← tileOf x.d) (← tileOf x.a) (← tileOf x.b) (← flagOf x.f)))
    else none
  | 0x33 =>
    if unused [x.b, x.c] && x.imm == 0 then (do some (.tcvt (← tileOf x.d) (← tileOf x.a) (← flagOf x.f))) else none
  | 0x34 => if unused [x.a, x.b, x.c] && x.f == 0 && x.imm == 0 then (tileOf x.d).map .tzero else none
  | 0x35 =>
    if unused [x.b, x.c] && x.f == 0 && x.imm == 0 then (do some (.tmov (← tileOf x.d) (← tileOf x.a))) else none
  | 0x36 => if unused [x.b, x.c] && x.f == 0 && x.imm == 0 then some (.parm x.d x.a) else none
  | 0x37 =>
    if unused [x.d] && x.imm == 0 then
      if x.f = 0 then some (.pctb x.a x.b (.kennel x.c))
      else if x.f = 1 then (tileOf x.c).map fun t => .pctb x.a x.b (.tile t)
      else none
    else none
  | 0x40 => if unused [x.a, x.b, x.c] then (do some (.crsv x.d (← flagOf x.f) (← low8Of x.imm))) else none
  | 0x41 => if unused [x.d, x.b, x.c] && x.f == 0 then (low8Of x.imm).map (.ccmt x.a) else none
  | 0x42 => if unused [x.a, x.b, x.c] then (do some (.ctake x.d (← flagOf x.f) (← low8Of x.imm))) else none
  | 0x43 => if unused [x.d, x.b, x.c] && x.f == 0 then (low8Of x.imm).map (.cfree x.a) else none
  | 0x50 => if unused [x.d, x.b, x.c] && x.f == 0 && x.imm == 0 then some (.evset x.a) else none
  | 0x51 => if unused [x.d, x.b, x.c] && x.f == 0 && x.imm == 0 then some (.evclr x.a) else none
  | 0x52 =>
    if unused [x.d, x.b, x.c] && x.f.extractLsb' 2 6 == 0 && x.imm == 0 then some (.evwait x.a (bit x.f 0) (bit x.f 1))
    else none
  | 0x53 => if unused [x.a, x.b, x.c] && x.f == 0 && x.imm == 0 then some (.evrd x.d) else none
  | 0x58 => if unused [x.a, x.b, x.c] && x.f == 0 && x.imm == 0 then some (.rdcnt x.d) else none
  | 0x59 => if unused [x.a, x.b, x.c] && x.f == 0 && x.imm == 0 then some (.rdfrm x.d) else none
  | 0x5A => if unused [x.d, x.b, x.c] && x.imm == 0 then (flagOf x.f).map (.heel x.a) else none
  | 0x60 => if unused [x.b, x.c] && x.f == 0 && x.imm == 0 then some (.moveI x.d x.a) else none
  | 0x68 =>
    let o := x.f.extractLsb' 0 4
    if x.f.extractLsb' 6 2 ≠ 0 then none
    else if !atomOld o (bit x.f 5) && x.d != 0 then none
    else if o ≠ 9 ∧ x.c ≠ 0 then none
    else (do some (.atom o (bit x.f 4) (bit x.f 5) (← grpOf x.d) x.a (← grpOf x.b) (← grpOf x.c) (← low8Of x.imm)))
  | 0x70 =>
    if unused [x.d, x.a, x.b, x.c] && x.f == 0 && x.imm.extractLsb' 4 28 == 0 then some (.labelI (x.imm.extractLsb' 0 4))
    else none
  | 0x78 => if unused [x.d] && x.f == 0 && x.imm == 0 then some (.scabs x.a x.b x.c) else none
  | 0x79 => if unused [x.a, x.b] && x.f == 0 && x.imm == 0 then (pairOf x.d).map fun p => .scrd p x.c else none
  | 0x7A => if unused [x.d, x.a, x.b] && x.f == 0 && x.imm == 0 then some (.scclr x.c) else none
  | 0x7B => if unused [x.a, x.b] && x.f == 0 && x.imm == 0 then some (.steprd x.d x.c) else none
  | 0x7C => if unused [x.d, x.b] && x.f == 0 && x.imm == 0 then some (.stepadd x.a x.c) else none
  | 0x80 => if unused [x.d, x.a, x.b, x.c] && x.f == 0 && x.imm == 0 then some .fence else none
  | 0x88 =>
    if unused [x.c] then
      (do some (.call (← grpOf x.d) x.a (← grpOf x.b) (← flagOf x.f) (← low8Of x.imm)))
    else none
  | 0x90 =>
    if !unused [x.d, x.c] then none
    else match x.f.toNat with
      | 0 =>
        if x.imm.extractLsb' 14 2 = 0 ∧ x.imm.extractLsb' 20 12 = 0 then
          (grpOf x.b).map fun g => .ctxc (.start x.a g (x.imm.extractLsb' 0 14) (x.imm.extractLsb' 16 4))
        else none
      | 1 => if x.b = 0 ∧ x.imm = 0 then some (.ctxc (.stop x.a)) else none
      | 2 => if x.b = 0 ∧ x.imm = 0 then some (.ctxc (.suspend x.a)) else none
      | 3 => if x.b = 0 ∧ x.imm = 0 then some (.ctxc (.restore x.a)) else none
      | 4 =>
        if x.a = 0 ∧ x.b = 0 ∧ x.imm.extractLsb' 0 1 = 0 ∧ x.imm.extractLsb' 16 16 = 0 then
          some (.ctxc (.pool (x.imm.extractLsb' 1 15)))
        else none
      | _ => none
  | _ => none

/-- The instruction that context c finds in a word; none is ILLEGAL (R270). -/
def zdecode (c : Nat) (w : Word64) : Option Zellek :=
  match (ZFields.ofWord w).decode with
  | some (.ctxc o) => if c = 0 then some (.ctxc o) else none
  | r => r

/-- An instruction whose unused choices are in their one encoded form: groups that the encoding does not carry are 0. -/
def Zellek.canonical : Zellek → Bool
  | .atom o _ f g _ _ y _ => (atomOld o f || g == 0) && (o == 9 || y == 0)
  | _ => true

/-! ### What an instruction reads, writes and waits for (R272, R278, Table 10.2) -/

/-- Registers of a group. -/
def grpRegs (g : BitVec 2) : List Nat := (List.range 4).map fun k => 4 * g.toNat + k

/-- A tile register among the registers of a context, after the 16 general ones. -/
def tileReg (t : BitVec 3) : Nat := 16 + t.toNat

def Zellek.reads : Zellek → List Nat
  | .bcc _ a b _ => [a.toNat, b.toNat]
  | .jr a | .ldw _ a _ | .ldd _ a _ | .pf a _ _ | .parm _ a | .ccmt a _ | .cfree a _ | .evset a | .evclr a
  | .evwait a _ _ | .heel a _ | .moveI _ a | .stepadd a _ => [a.toNat]
  | .tld t a _ _ _ => [a.toNat, tileReg t]
  | .alu _ _ a (.reg b) => [a.toNat, b.toNat]
  | .alu _ _ a (.imm _) => [a.toNat]
  | .movhi d _ => [d.toNat]
  | .stw a g _ => a.toNat :: grpRegs g
  | .tst _ t b _ _ | .tstSr _ t b _ _ _ => [b.toNat, tileReg t]
  | .tadd _ x y _ => [tileReg x, tileReg y]
  | .tcvt _ x _ | .tmov _ x => [tileReg x]
  | .pctb a b (.kennel c) => [a.toNat, b.toNat, c.toNat]
  | .pctb a b (.tile t) => [a.toNat, b.toNat, tileReg t]
  | .atom o _ _ _ a x y _ => a.toNat :: (grpRegs x ++ if o = 9 then grpRegs y else [])
  | .scabs a b _ => [a.toNat, b.toNat]
  | .call _ a x _ _ => a.toNat :: grpRegs x
  | .ctxc (.start a g _ _) => a.toNat :: grpRegs g
  | .ctxc (.stop a) | .ctxc (.suspend a) | .ctxc (.restore a) => [a.toNat]
  | _ => []

def Zellek.writes : Zellek → List Nat
  | .jal d _ | .movst d | .alu _ d _ _ | .movi d _ | .movhi d _ | .ldd d _ _ | .tst d _ _ _ _ | .tstSr d _ _ _ _ _
  | .parm d _ | .crsv d _ _ | .ctake d _ _ | .evrd d | .rdcnt d | .rdfrm d | .moveI d _ | .steprd d _ => [d.toNat]
  | .ldw g _ _ => grpRegs g
  | .tld t _ _ _ _ | .tadd t _ _ _ | .tcvt t _ _ | .tzero t | .tmov t _ => [tileReg t]
  | .atom o _ f g _ _ _ _ => if atomOld o f then grpRegs g else []
  | .scrd p _ => [2 * p.toNat, 2 * p.toNat + 1]
  | .call g _ _ r _ => if r then grpRegs g else [4 * g.toNat]
  | _ => []

/-- The instruction reads ST (R272). -/
def Zellek.readsSt : Zellek → Bool
  | .bst _ _ _ | .movst _ => true
  | _ => false

/-- Counted by the limit on incomplete requests (Table 10.2). -/
def Zellek.isRequest : Zellek → Bool
  | .ldw _ _ _ | .ldd _ _ _ | .stw _ _ _ | .tld _ _ _ _ _ | .tst _ _ _ _ _ | .tstSr _ _ _ _ _ _ | .parm _ _
  | .pctb _ _ _ | .crsv _ _ _ | .ccmt _ _ | .ctake _ _ _ | .cfree _ _ | .moveI _ _ | .atom _ _ _ _ _ _ _ _
  | .scabs _ _ _ | .call _ _ _ _ _ | .ctxc (.restore _) => true
  | _ => false

/-- Waits for every earlier store and atomic of the context (R278). -/
def Zellek.signals : Zellek → Bool
  | .evset _ | .ccmt _ _ | .cfree _ _ | .pctb _ _ _ | .moveI _ _ | .call _ _ _ _ _ => true
  | _ => false

/-- Waits for every earlier request of the context (R278). -/
def Zellek.fences : Zellek → Bool
  | .fence | .endI => true
  | _ => false

end Sys2Proof.Machine
end

