-- ==== Sys2Proof/Machine/SeqCore.lean ====
section
/-! DEFINITION. The sequencer's contexts (09_sequencer_architecture): registers, completion of instructions, events and
waking, faults and the muzzle, replies, fetch, and who issues. -/

namespace Sys2Proof.Machine

/-! ### Contexts and registers -/

def getCtx (s : State) (c : Nat) : Ctx := tget Ctx.idle s.seq.ctx c
def setCtx (c : Nat) (f : Ctx → Ctx) (s : State) : State :=
  { s with seq := { s.seq with ctx := tmod Ctx.idle s.seq.ctx c f } }

/-- A general register (R240). -/
def Ctx.reg (x : Ctx) (i : Nat) : Word64 := tget 0 x.g i

/-- Write a general register, with good parity. -/
def Ctx.setReg (i : Nat) (v : Word64) (x : Ctx) : Ctx :=
  { x with g := tset 0 x.g i v, parityBad := x.parityBad.filter (· ≠ i) }

/-- Write several general registers. -/
def Ctx.setRegs (l : List (Nat × Word64)) (x : Ctx) : Ctx := l.foldl (fun x p => x.setReg p.1 p.2) x

/-- Block b of tile t (R240). -/
def Ctx.block (x : Ctx) (t b : Nat) : TileBlock := tget TileBlock.zero x.tiles (t * 4 + b)

/-- Write tile blocks, by index tile × 4 + block. -/
def Ctx.setBlocks (l : List (Nat × TileBlock)) (x : Ctx) : Ctx :=
  { x with tiles := l.foldl (fun t p => tset TileBlock.zero t p.1 p.2) x.tiles
           parityBad := x.parityBad.filter fun i => !(l.any fun p => p.1 + 16 == i) }

/-- Write LAST_STS for the instruction named, with good parity of ST. -/
def Ctx.setSts (st : Nat) (id : Nat) (x : Ctx) : Ctx :=
  { x with lastSts := BitVec.ofNat 5 st, stsId := id, parityBad := x.parityBad.filter (· ≠ 48) }

/-- A context's holder (Table 6.1). -/
def ctxHolder (c : Nat) : BitVec 14 := BitVec.ofNat 14 (2 ^ 13 + c % 16)

/-- Live (R242). -/
def Ctx.live (x : Ctx) : Bool :=
  match x.state with
  | .idle | .fault => false
  | _ => true

/-- SL_SEQ_STATUS.LIVE (Table 9.10). -/
def liveMask (s : State) : BitVec 16 := maskOf 16 ((List.range 16).filter fun c => (getCtx s c).live)

/-- The sequencer answers as muzzled (R265, R403). -/
def seqMuzzled (s : State) : Bool := s.seq.muz || s.saf.fatal

/-- Something has registered that breaks a quiet frame (R266). -/
def noisy (s : State) : State := { s with seq := { s.seq with quiet := false } }

/-! ### Completion (R272 to R274, R278) -/

/-- Hand over a result that completes an instruction in the sc it names. -/
def complete (r : Result) (s : State) : State := { s with seq := { s.seq with done := s.seq.done ++ [r] } }

/-- Complete an instruction with a status alone. -/
def completeSts (due c id : Nat) (st : Status) (s : State) : State := complete (Result.mk due c id (some st) [] []) s

/-- A context runs again: READY, or HALT where a HALT or a STEP awaits its boundary (R267). -/
def Ctx.wakeUp (x : Ctx) : Ctx :=
  if x.haltPend then { x with state := .halt, haltPend := false, stepping := false, wait := .nothing }
  else { x with state := .ready, wait := .nothing }

/-- Write a result to its context: the registers, the tile blocks, LAST_STS where no later instruction returns one (R274);
a context that waited for it on a channel runs again (R300). -/
def applyResult (r : Result) (s : State) : State :=
  let x := getCtx s r.ctx
  if x.pend.any fun p => p.id == r.id then
    setCtx r.ctx (fun (x : Ctx) =>
      let x : Ctx := { x with pend := x.pend.filter fun p => p.id != r.id }
      let x : Ctx := (x.setRegs r.regs).setBlocks r.tiles
      let x : Ctx := match r.status with
        | some st => if x.stsId = r.id then x.setSts (statusCode st) r.id else x
        | none => x
      if x.state = .wait ∧ x.wait = .channel r.id then x.wakeUp else x) s
  else s

/-- The results that are due by the end of this sc (R272). -/
def applyDue (s : State) : State :=
  let now := s.seq.done.filter fun r => decide (r.due ≤ s.env.sc)
  now.foldl (fun s r => applyResult r s)
    { s with seq := { s.seq with done := s.seq.done.filter fun r => !decide (r.due ≤ s.env.sc) } }

/-- The pending entry of an instruction. -/
def pendOf (s : State) (c id : Nat) : Option Pending := (getCtx s c).pend.find? fun p => p.id == id

/-- Change the pending entry of an instruction. -/
def setPend (c id : Nat) (f : Pending → Pending) (s : State) : State :=
  setCtx c (fun x => { x with pend := x.pend.map fun p => if p.id = id then f p else p }) s

/-! ### Tiles (R288 to R291) -/

/-- The input or output format of a form. -/
def TileForm.format : TileForm → Nat
  | .f0 => 0 | .f1 => 1 | .f2 => 2 | .f3 => 3 | .f4 => 4 | .image => 8

/-- Bytes between the starts of two blocks in memory (R288, R290). -/
def TileForm.stride (f : TileForm) : Nat :=
  match f with
  | .image => 64
  | _ => 16 * inputBytes f.format

/-- The 16 elements of a block, decoded to binary32; none where one is an infinity or a NaN (R289). -/
def loadBlock (f : TileForm) (bytes : Nat) : Option TileBlock :=
  match f with
  | .image =>
    let img : BitVec 512 := BitVec.ofNat 512 bytes
    if bxImageBad img then none else some { bx := true, img := bxImage (bxOfImage img) }
  | _ =>
    let z := inputBytes f.format
    let vals := (List.range 16).map fun i => decodeFloat (fmtOf f.format) (bytes / 2 ^ (8 * z * i) % 2 ^ (8 * z))
    if vals.any Option.isNone then none
    else some { bx := false, img := f32Image (vals.map fun v => (round32 (v.getD Dy.zero)).getD 0) }

/-- The 16 lanes of a block as binary32 (R291). -/
def TileBlock.lanes (b : TileBlock) : List Nat := if b.bx then bxTo32 (bxOfImage b.img) else f32OfImage b.img

/-- A block as BX20: a binary32 block is encoded by R203; none where that fails. -/
def TileBlock.asBx (b : TileBlock) : Option Bx :=
  if b.bx then some (bxOfImage b.img) else bxEncode ((f32OfImage b.img).map value32)

/-- The code words gathered for a load from location key order, as one number, least significant first. -/
def gathered (words : Table CodeWord) : Nat := words.foldl (fun a p => a + p.2.data.toNat * 2 ^ (256 * p.1)) 0

/-- The result of an instruction whose words have all arrived (R285, R289, R290). -/
def finishGather (p : Pending) : Status × List (Nat × Word64) × List (Nat × TileBlock) :=
  match p.bad with
  | some st => (st, [], [])
  | none =>
    let all := gathered p.words
    match p.gather with
    | .nothing => (.ok, [], [])
    | .load gd none => (.ok, regsOf gd (BitVec.ofNat 256 all), [])
    | .load gd (some lane) => (.ok, [(gd, BitVec.ofNat 64 (all / 2 ^ (64 * lane)))], [])
    | .tile t mask form =>
      let f : TileForm := (formOf (BitVec.ofNat 4 form)).getD .f0
      let bits := 8 * f.stride
      let blocks := (bitsOf mask).map fun b => (t * 4 + b, loadBlock f (all / 2 ^ (bits * b) % 2 ^ bits))
      if blocks.any fun q => q.2.isNone then (.poison, [], [])
      else (.ok, [], blocks.map fun q => (q.1, q.2.getD TileBlock.zero))
    | .store (some (gd, n)) => (.ok, [(gd, BitVec.ofNat 64 n)], [])
    | .store none => (.ok, [], [])
    | .unit _ => (.ok, [], [])

/-- The named ones of the words delivered, by their numbers within the instruction. -/
def pickWords (want : List (Nat × Nat)) (got : List CodeWord) : Table CodeWord :=
  want.map fun w => (w.2, got.getD w.1 { data := 0, poison := true })

/-- Words of an instruction are on their way to a unit of the slice, where they are in sc due. -/
def handOver (c id : Nat) (use : Handoff) (words : List CodeWord) (due : Nat) (s : State) : State :=
  { s with red := { s.red with contribs := s.red.contribs ++ [{ due := due, ctx := c, id := id, use := use, words := words }] } }

/-- The words of an instruction have all come: it completes in sc due, or its words are at their unit then, those of a
contribution, which none may be poisoned of, one sc later (R295, R296, R305). -/
def gatherDone (c id : Nat) (q : Pending) (due : Nat) (s : State) : State :=
  let plainly :=
    let r := finishGather q
    complete (Result.mk due c id (some r.1) r.2.1 r.2.2) s
  match q.gather with
  | .unit (.ctb a b cls) =>
    if q.bad.isNone then handOver c id (.ctb a b cls) (q.words.map Prod.snd) (due + 1) s else plainly
  | .unit use => handOver c id use (q.words.map Prod.snd) due s
  | _ => plainly

/-- A part of an instruction's accesses has ended: its words and its status; the last part completes it in sc due. -/
def partDone (c id : Nat) (words : Table CodeWord) (bad : Option Status) (due : Nat) (s : State) : State :=
  match pendOf s c id with
  | none => s
  | some p =>
    let q := { p with words := words.foldl (fun t w => tput t w.1 w.2) p.words, left := p.left - 1,
                      bad := match p.bad with
                        | some b => some b
                        | none => bad }
    let s := setPend c id (fun _ => q) s
    if q.left = 0 then gatherDone c id q due s else s

/-! ### Replies, the end of a context, faults, the muzzle (R254, R263 to R265) -/

/-- CallRsp to the caller of a context (Table 9.3). -/
def sendReply (k : CallRec) (c : Nat) (st : Status) (data : List CodeWord) (ready : Nat) (s : State) : State :=
  answer { port := k.port, agent := k.holder.toNat % 256, die := k.holder.toNat / 256 % 32, txn := k.txn, line := k.line,
           label := k.label, ndf := 0 } 0xA (.callRsp st (BitVec.ofNat 4 c)) data ready .none s

/-- Send an owed reply with a status that ends the call otherwise than by END (R254). -/
def owedReply (c : Nat) (st : Status) (s : State) : State :=
  match (getCtx s c).call with
  | some k =>
    if k.reply then
      sendReply k c st [] (s.env.sc + 4) (setCtx c (fun x => { x with call := some { k with reply := false } }) s)
    else s
  | none => s

/-- A context becomes IDLE: nothing of its program stays, nor any right to a result (R254, R245). -/
def becomeIdle (c : Nat) (s : State) : State :=
  setCtx c (fun x => { x with state := .idle, wait := .nothing, suspPend := false, haltPend := false, stepping := false,
                              pend := [], call := none, image := none }) s

/-- A context faults (R263): FAULT with its cause, its report, its owed reply. -/
def ctxFault (c cause : Nat) (st : Status) (s : State) : State :=
  let pc := (getCtx s c).pc.toNat
  let s := report 0x51 1 (0x7000 + c) (detailC c pc cause 0) s
  owedReply c st (setCtx c (fun x => { x with state := .fault, cause := BitVec.ofNat 4 cause, wait := .nothing, image := none,
                                              suspPend := false, haltPend := false, stepping := false }) s)

/-- The wait mask of a context (Table 15.6). -/
def Ctx.waitMask (x : Ctx) : Word64 :=
  match x.wait with
  | .events m _ _ => m
  | _ => 0

/-- Muzzle the sequencer (R264 to R266): every live context enters FAULT, owed replies are sent with MUZZLED, waits on
channels are given up. -/
def muzzleSeq (mcause : Nat) (s : State) : State :=
  if s.seq.muz then s
  else
    let cause := if mcause = 2 then 5 else 4
    let live := (List.range 16).filter fun c => (getCtx s c).live
    let waiting := live.filter fun c => (getCtx s c).state == .wait
    let s := report 0x50 1 0x5000 (detailN 0 mcause)
      { s with seq := { s.seq with muz := true, mcause := BitVec.ofNat 2 mcause, heelQ := [], heelAll := [], cur := none } }
    let masks := waiting.map fun c => (c, (getCtx s c).pc.toNat, (getCtx s c).waitMask)
    let s := live.foldl (fun s c => ctxFault c cause .muzzled s) s
    let s := if mcause = 2 then masks.foldl (fun s m => report 0x52 0 0 (detailC m.1 m.2.1 0 m.2.2) s) s else s
    { s with ken := { s.ken with waits := s.ken.waits.filter fun w => match w.party with
      | .ctx _ _ => false
      | _ => true } }

/-! ### Starting a context (R243, R244, R253) -/

/-- Start a context: READY at a PC, in a class, with four arguments, everything else as R243 states. -/
def startCtx (c : Nat) (pc : BitVec 14) (cls : Nat) (args : List Word64) (g4 : Word64) (call : Option CallRec) (s : State) :
    State :=
  let x : Ctx := { Ctx.idle with pc := pc, cls := cls, call := call, state := .ready }
  let regs := (args.zipIdx.map fun p => (p.2, p.1)) ++ [(4, g4)]
  { s with seq := { s.seq with ctx := tput s.seq.ctx c (x.setRegs regs) } }

/-! ### Events (R255 to R257) -/

/-- The condition of a wait. -/
def waitHolds (events mask : Word64) (all : Bool) : Bool :=
  if all then decide (events &&& mask = mask) else decide (events &&& mask ≠ 0)

/-- Release a waiting context with a status (R256, R302). -/
def releaseWait (c : Nat) (st : Status) (s : State) : State :=
  let s := setCtx c (fun x => (x.setSts (statusCode st) s.seq.nextId).wakeUp) s
  { s with seq := { s.seq with nextId := s.seq.nextId + 1 } }

/-- Examine one waiting context (R257). -/
def tryRelease (c : Nat) (s : State) : State :=
  let x := getCtx s c
  match x.state, x.wait with
  | .wait, .events m all use =>
    if waitHolds s.seq.events m all then
      let s := if use then { s with seq := { s.seq with events := s.seq.events &&& ~~~m } } else s
      releaseWait c .ok s
    else s
  | _, _ => s

/-- Examine the waiting contexts in ascending number (R257). -/
def wake (s : State) : State := (List.range 16).foldl (fun s c => tryRelease c s) s

/-- Set event flags: an arrival (R255), which the compare of the sc looks at (R257). -/
def setFlags (mask : Word64) (s : State) : State :=
  if mask = 0 then s
  else noisy { s with seq := { s.seq with events := s.seq.events ||| mask, evArr := s.seq.evArr ||| mask }
                      env := { s.env with done := { s.env.done with compare := true } } }

/-- The compare of an sc, once its arrivals have registered (R20, R257). -/
def compareFlags (s : State) : State := wake { s with env := { s.env with done := { s.env.done with compare := false } } }

/-- A pack or a move that ends sets its flag, as the first arrival of the next sc. -/
def flagNext (evt : Nat) (s : State) : State :=
  noisy (if evt < 64 then { s with seq := { s.seq with evNext := s.seq.evNext ||| BitVec.ofNat 64 (2 ^ evt) } } else s)

/-! ### Fetch and issue (R246, R248 to R250, R272, R273) -/

/-- The number of flipped cells of a program store word. -/
def Insn.errors (i : Insn) : Nat := (bitsOf i.flips).length

/-- What the checker delivers for the instruction at the PC of a context (R246, R247): its class, 0 clean, 1 corrected,
2 double error; and the word. -/
def fetch (s : State) (c : Nat) : Nat × Word64 :=
  match tfind s.seq.pstore (getCtx s c).pc.toNat with
  | none => (min 2 (Config.freeInsnClass s.fresh), Config.freeInsn s.fresh)
  | some i =>
    if i.errors < 2 then (i.errors, i.word)
    else if i.errors = 2 then (2, i.word)
    else (min 2 (Config.freeInsnClass s.fresh), Config.freeInsn s.fresh)

/-- The instruction that a context issues next; none where its word is a double error or ILLEGAL. -/
def nextInsn (s : State) (c : Nat) : Option Zellek :=
  if (fetch s c).1 = 2 then none else zdecode c (fetch s c).2

/-- Registers, general and tile, that an incomplete instruction will write. -/
def Pending.busy (p : Pending) : List Nat :=
  p.regs ++ match p.tile with
    | some t => [16 + t]
    | none => []

/-- The incomplete instructions that an instruction must wait for (R272, R273, R278). -/
def awaited (x : Ctx) (z : Zellek) : List Pending :=
  let uses := z.reads ++ z.writes
  let reqs := x.pend.filter fun p => p.request
  x.pend.filter (fun p =>
    (p.busy.any fun r => uses.contains r) || (z.readsSt && p.sts) || (z.signals && p.store) || (z.fences && p.request))
  ++ (if z.isRequest && decide (8 ≤ reqs.length) then reqs.take 1 else [])

/-- A SCABS of a stream is incomplete in this sc (R310). -/
def streamBusy (s : State) (k : Nat) : Bool :=
  let b := (tget Stream.initial s.det.streams k).busy
  decide (b ≠ 0) && decide (s.env.sc ≤ b)

/-- SCRD and SCCLR wait for the SCABS of their stream (R310, R386). -/
def scentBusy (s : State) (z : Zellek) : Bool :=
  match z with
  | .scrd _ k | .scclr k => streamBusy s k.toNat
  | _ => false

/-- The next instruction of a context cannot issue yet (R271 to R273, R310). -/
def stalled (s : State) (c : Nat) : Bool :=
  match nextInsn s c with
  | some z => !(awaited (getCtx s c) z).isEmpty || scentBusy s z
  | none => false

/-- The next instruction awaits a long-stall request (R248). -/
def longStall (s : State) (c : Nat) : Bool :=
  match nextInsn s c with
  | some z => (awaited (getCtx s c) z).any fun p => p.long
  | none => false

/-- The context released by a heel whose turn this sc is (R25). -/
def heelNow (s : State) : Option Nat :=
  match s.seq.heelQ with
  | p :: _ => if p.2 ≤ s.env.sc then some p.1 else none
  | [] => none

/-- A context released by a heel takes the issue slot in this sc (R25). -/
def heelTurn (s : State) : Bool := (heelNow s).isSome

/-- A context released by a heel awaits its turn (R25). -/
def awaitsTurn (s : State) (c : Nat) : Bool := s.seq.heelQ.any fun p => p.1 == c

/-- A context holds the issue slot in this sc (R249, R250, R25). -/
def holdsSlot (s : State) (c : Nat) : Bool :=
  if heelTurn s then heelNow s == some c
  else s.seq.cur == some c && decide (s.seq.notBefore ≤ s.env.sc)

/-- A context may issue an instruction in this sc. -/
def mayIssue (s : State) (c : Nat) : Bool :=
  !seqMuzzled s && decide ((getCtx s c).state = .ready) && holdsSlot s c && decide (s.seq.lastIssue < s.env.sc)
    && decide ((getCtx s c).after ≤ s.env.sc) && !stalled s c

/-- The four blocks of a tile, as items of a context's parity (R263): 0 to 15 registers, 16 to 47 tile blocks, 48 ST. -/
def tileItems (t : BitVec 3) : List Nat := (List.range 4).map fun b => 16 + 4 * t.toNat + b

/-- The items that an instruction reads (R263): a TLD reads no tile, a PCTB the blocks that hold its lanes, an END that owes a
reply g0 to g3. -/
def Zellek.items (x : Ctx) (z : Zellek) : List Nat :=
  match z with
  | .endI => match x.call with
    | some k => if k.reply then [0, 1, 2, 3] else []
    | none => []
  | .tld _ a _ _ _ => [a.toNat]
  | .pctb a b (.tile t) => a.toNat :: b.toNat :: (tileItems t).take (ceilDiv (8 * (fld (x.reg b.toNat) 32 3 + 1)) 16)
  | .bst _ _ _ | .movst _ => [48]
  | _ => z.reads.flatMap fun r => if r < 16 then [r] else tileItems (BitVec.ofNat 3 (r - 16))

/-- The state of the context that an instruction reads fails its parity (R263). -/
def readsBad (x : Ctx) (z : Zellek) : Bool := x.parityBad.any fun i => (z.items x).contains i

/-- The lowest-numbered READY context above k, with wrap (R249); one that a heel has released has its own turn first. -/
def nextReady (s : State) (k : Nat) : Option Nat :=
  ((List.range 16).map fun i => (k + 1 + i) % 16).find? fun c =>
    decide ((getCtx s c).state = .ready) && !awaitsTurn s c

/-- The turns of the heel are over, context c's last: who is current next (R25). -/
def endTurns (c : Nat) (s : State) : State :=
  let still := s.seq.heelAll.find? fun k => decide ((getCtx s k).state = .ready) && !awaitsTurn s k
  { s with seq := { s.seq with
    heelAll := s.seq.heelQ.map Prod.fst
    cur := match still with
      | some k => some k
      | none => nextReady s c
    notBefore := if still.isSome then s.env.sc + 1 else s.env.sc + 2 } }

/-- A context has issued in its turn of the heel: the next has its turn in the next sc; after the last, R25 says who is
current. -/
def heelIssued (c : Nat) (s : State) : State :=
  if heelNow s = some c then
    let s := { s with seq := { s.seq with heelQ := s.seq.heelQ.tail } }
    match s.seq.heelQ with
    | p :: _ => if p.2 ≤ s.env.sc + 1 then s else endTurns c s
    | [] => endTurns c s
  else s

/-- The instruction at the PC of a context has been fetched and takes the issue slot of this sc: a corrected one is counted
(R246). -/
def takeFetch (c : Nat) (s : State) : State :=
  let s := if (fetch s c).1 = 1 then
      { s with bg := { s.bg with tel := { s.bg.tel with pstoreCe := satAdd 65535 s.bg.tel.pstoreCe 1 } } }
    else s
  { s with fresh := s.fresh + 1, seq := { s.seq with lastIssue := s.env.sc } }

/-- The fetched instruction issues. -/
def beginIssue (c : Nat) (s : State) : State :=
  setCtx c (fun x => { x with pc := x.pc + 1, after := 0 }) (takeFetch c s)

/-- After an instruction: a STEP halts its context at the next boundary (R267), and a heel's turn passes. -/
def endIssue (c : Nat) (s : State) : State :=
  let x := getCtx s c
  let s := if x.stepping then
      if x.state = .ready then setCtx c (fun x => { x with state := .halt, stepping := false }) s
      else setCtx c (fun x => { x with stepping := false, haltPend := decide (x.state = .wait) }) s
    else s
  heelIssued c s

/-- A context faults at issue with PC at the instruction (R246, R263, R270). -/
def issueFault (c : Fin 16) (cause : Nat) (s : State) : State :=
  heelIssued c (ctxFault c cause .poison (takeFetch c s))

/-- Context c issues its next instruction, where that is one of a row of Table 10.2: the meaning is given for the
instructions of the row. -/
def issueStep (c : Fin 16) (meaning : Zellek → Option (State → State)) (s : State) : State :=
  if !mayIssue s c then s
  else match nextInsn s c with
    | none => s
    | some z => match meaning z with
      | none => s
      | some f => if readsBad (getCtx s c) z then issueFault c 3 s else endIssue c (f (beginIssue c s))

/-- The command of a row of Table 10.2. -/
def issue (c : Fin 16) (meaning : Zellek → Option (State → State)) (s : State) : Host.Outcome State Fault Refusal :=
  event s (issueStep c meaning)

/-! ### Instructions that complete at issue -/

/-- A new number for an instruction. -/
def newId (s : State) : Nat × State := (s.seq.nextId, { s with seq := { s.seq with nextId := s.seq.nextId + 1 } })

/-- Write registers at issue (Table 10.3). -/
def writeRegs (c : Nat) (l : List (Nat × Word64)) (s : State) : State := setCtx c (fun x => x.setRegs l) s

/-- Place a status in LAST_STS at issue (R274, R472). -/
def placeSts (c : Nat) (st : Status) (s : State) : State :=
  let n := newId s
  setCtx c (fun x => x.setSts (statusCode st) n.1) n.2

/-- Branch (R271): the target issues no earlier than 2 sc after the branch. -/
def branch (c : Nat) (target : BitVec 14) (s : State) : State :=
  setCtx c (fun x => { x with pc := target, after := s.env.sc + 2 }) s

/-- Open the pending entry of an instruction that completes later (R272, R273). -/
def openPend (c : Nat) (z : Zellek) (long store : Bool) (gather : Gather) (parts : Nat) (sts : Bool) (s : State) :
    Nat × State :=
  let n := newId s
  let p : Pending := {
    id := n.1, regs := z.writes.filter (· < 16), tile := (z.writes.find? (16 ≤ ·)).map (· - 16), sts := sts,
    request := z.isRequest, store := store, long := long, gather := gather, words := [], left := parts, bad := none }
  (n.1, setCtx c (fun x => { x with pend := x.pend ++ [p], stsId := if sts then n.1 else x.stsId }) n.2)

end Sys2Proof.Machine
end

