-- ==== Sys2Proof/Machine/Start.lean ====
section
/-! DEFINITION. The start of array accesses and of messages: what a started access does (12_regulation R336, R343 to R345;
06_kennels_and_channels R175), accesses that the slice's engines make at once, and messages that leave (R120, R134, R417,
R423). -/

namespace Sys2Proof.Machine

/-! ### Messages that leave -/

/-- Egress credits held on a channel of a port (R423). -/
def creditsOf (s : State) (p : Port) (ch : Nat) : Nat := tget 0 s.lnk.txCrd (portRank p * 8 + ch)

/-- A message may start: it is ready, its port is free, and its flits have credits (R417, R423). -/
def canLeave (s : State) (m : OutMsg) : Bool :=
  decide (m.ready ≤ s.env.sc) && decide (tget 0 s.lnk.txFree (portRank m.port) ≤ s.env.sc)
    && decide (flits m ≤ creditsOf s m.port (channelOf m.cls))

/-- What the leaving of a message means for its transaction, with the sc of its last flit (R120): a timer starts when the last
of its snoops has left (R134). -/
def txLeft (m : OutMsg) (last : Nat) (s : State) : State :=
  match m.tx with
  | .tracker i =>
    if m.cls = .fwd then
      if s.out.egress.any fun n => n.tx == m.tx && n.cls == .fwd then s
      else setTracker i (fun t => if t.line = m.line then { t with timerFrom := some (last + 1), elapsed := 0 } else t) s
    else if txBusy s m.tx then s
    else setTracker i (fun t => { t with endsAt := some last }) s
  | .active k =>
    if txBusy s m.tx then s
    else { s with coh := { s.coh with active := s.coh.active.map fun a =>
      if a.id = k then { a with endsAt := some last } else a } }
  | _ => s

/-- A message starts to leave in this sc; it has been taken out of its queue. -/
def launch (m : OutMsg) (s : State) : State :=
  let k := portRank m.port
  let n := flits m
  let last := s.env.sc + n - 1
  let s := { s with
    lnk := { s.lnk with
      txCrd := tmod 0 s.lnk.txCrd (k * 8 + channelOf m.cls) (· - n)
      txFree := tset 0 s.lnk.txFree k (last + 1)
      txFail := terase s.lnk.txFail k
      last4 := lastFlits s m ++ ((s.lnk.last4.filter fun f => f.port == m.port).take (4 - min 4 n))
        ++ s.lnk.last4.filter fun f => f.port != m.port }
    out := { s.out with wire := s.out.wire ++ [m] } }
  txLeft m last s

/-- The first message in order of readiness, of equals the first handed over. -/
def earliest : List OutMsg → Option OutMsg
  | [] => none
  | m :: r => match earliest r with
    | none => some m
    | some b => if m.ready ≤ b.ready then some m else some b

/-- A request of the slice waits for an earlier one of the same line (R277). -/
def OutMsg.behind (s : State) (m : OutMsg) : Bool :=
  decide (m.cls = .req) && (s.out.egress.takeWhile fun b => b != m).any fun b => b.cls == .req && b.line == m.line

/-- The message that a mesh port starts in this sc: the heartbeat goes ahead of every other request of the slice. -/
def portNext (s : State) (p : Port) : Option OutMsg :=
  let cand := s.out.egress.filter fun m => m.port == p && canLeave s m && !m.behind s
  match earliest cand with
  | none => none
  | some m =>
    if m.cls = .req then
      match cand.find? fun b => b.cls == .req && some b.txn == s.saf.hbFlight with
      | some b => some b
      | none => some m
    else some m

/-- A mesh port starts a message. -/
def startPort (p : Port) (s : State) : State :=
  match portNext s p with
  | none => s
  | some m => launch m { s with out := { s.out with egress := s.out.egress.erase m } }

/-- The class whose XP share a message uses. -/
def xpClass (s : State) (m : OutMsg) : Nat := if m.cls = .mem then m.label else classOf s m.line m.label

/-- Of messages that became ready in one sc, those that ingress messages cause come before eviction writes (R343 key 4). -/
def xpSource (m : OutMsg) : Nat := b01 (decide (m.cls = .mem) && m.op == 1)

/-- The order of R343 at XP egress, for messages in order of their handing over. -/
def xpBefore (s : State) (a b : OutMsg) : Bool :=
  let ra := withinXp s (xpClass s a)
  let rb := withinXp s (xpClass s b)
  let la := level s (xpClass s a)
  let lb := level s (xpClass s b)
  if ra ≠ rb then ra else if la ≠ lb then decide (lb < la)
  else if a.ready ≠ b.ready then decide (a.ready < b.ready) else decide (xpSource a ≤ xpSource b)

/-- The first message in that order. -/
def xpFirst (s : State) : List OutMsg → Option OutMsg
  | [] => none
  | m :: r => match xpFirst s r with
    | none => some m
    | some b => if xpBefore s m b then some m else some b

/-- A write of the eviction buffer. -/
def OutMsg.isXwr (m : OutMsg) : Bool := decide (m.cls = .mem) && m.op == 1

/-- The messages that compete for XP egress: of the eviction buffer only the write of its oldest entry that has not been sent
(R93, R345). -/
def xpReady (s : State) : List OutMsg :=
  let oldest := (s.cache.ev.find? fun e => !e.sent).map fun e => e.index + 64
  s.fg.xpq.filter fun m => canLeave s m && (!m.isXwr || oldest == some m.txn.toNat)

/-- The message that XP egress starts now. -/
def xpNext (s : State) : Option OutMsg :=
  if s.fg.xpFree ≤ s.env.sc then xpFirst s (xpReady s) else none

/-- XP egress sends a message: its code words are charged, and an eviction buffer entry awaits its XAck (R93, R341). -/
def xpSend (m : OutMsg) (s : State) : State :=
  let s := { s with fg := { s.fg with xpq := s.fg.xpq.erase m, xpFree := s.env.sc + flits m } }
  let s := chargeXp (xpClass s m) m.data.length s
  let s := if m.isXwr then { s with cache := { s.cache with ev := s.cache.ev.map fun e =>
      if e.index + 64 = m.txn.toNat then { e with sent := true } else e } } else s
  launch m s

/-- XP_EGRESS_START (R345). -/
def execXpEgressStart (s : State) : Host.Outcome State Fault Refusal :=
  event s fun s => match xpNext s with
    | some m => xpSend m s
    | none => s

/-! ### What a started access does -/

/-- The reading function of a purpose (Table 13.7). -/
def Purpose.source : Purpose → Nat
  | .seqRead _ _ _ => 1
  | .store _ _ => 1
  | .atomRead _ _ _ _ _ => 2
  | .atomWrite _ => 2
  | .evict _ => 6
  | .moveRead _ _ _ _ _ => 4
  | .moveWrite _ _ _ => 4
  | _ => 0

/-- A kennel read of an agent leaves the corrector (R160, R32): DataU, or POISON. -/
def kennelRead (r : Req) (got : List Got) (s : State) : State :=
  if got.any fun g => g.word.poison then respondSts r .poison (s.env.sc + 4) .none s
  else sendData r 5 (wordsOf r.mask got) (s.env.sc + 4) .none s

/-- The sector of an atomic must be fetched again (R62): it is read again where it has been refilled already; where its line has
left its way, the atomic is served anew. -/
def atomAgain (who : AtomParty) (sec : Nat) (s : State) : State :=
  match who with
  | .agent r =>
    let set := lineSet r.line
    match findWay s r.line with
    | some way =>
      if r.missing (tagAt s set way).sv = 0 then
        enqueue (readAccess s.env.sc r.cls 0 false (maskSecs set way r.mask)
          (.atomRead (.agent r) r.op r.operand r.compare true)) s
      else
        let tx := atomTx r s
        (refetch r tx 0xB default r.mask [] s).getD (respondSts r .nackRetry (s.env.sc + 4) tx s)
    | none => admitRequest false r (forgetSector r.line (locSect (2 * sec)) s)
  | .ctx _ _ _ => s

/-- An atomic that ends without a write on a line that is leaving (R230). -/
def atomForgets (who : AtomParty) (sec : Nat) (bad : Bool) (s : State) : State :=
  match who with
  | .agent r => if bad && (findWay s r.line).isNone then forgetSector r.line (locSect (2 * sec)) s else s
  | .ctx _ _ _ => s

/-- An answer that no read brings leaves as the data of a hit would (R32, R97). -/
def timedAnswer (r : Req) (tx : TxRef) (op : Nat) (st : Status) (words : Table CodeWord) (s : State) : State :=
  if op = 8 then respondSts r st (s.env.sc + 4) tx s else sendData r op words (s.env.sc + 4) tx s

/-- The line for which a cache way is read. -/
def Purpose.line : Purpose → Option LineAddr
  | .home r _ _ _ => some r.line
  | .send _ r _ => some r.line
  | .atomRead (.agent r) _ _ _ true => some r.line
  | _ => none

/-- The read of a victim passes victim (R93). -/
def Purpose.isEvict : Purpose → Bool
  | .evict _ => true
  | _ => false

/-- The read of an access leaves the corrector and goes to its reader, 10 sc after its start (R53, Table 1.4). -/
def landRead (x : Reading) (s : State) : State :=
  let a := x.acc
  let r := settleSeen a.purpose.source a.purpose.line a.purpose.isEvict x.seen s
  let got := r.1
  let s := r.2
  match a.purpose with
  | .home q tx op was => homeRead q tx op was a.secs got s
  | .timed q tx op st words => timedAnswer q tx op st words s
  | .send i q _ => sendRead i q a.secs got s
  | .kennel q => kennelRead q got s
  | .seqRead c id want =>
    let words := pickWords want (got.map fun g => g.word)
    let bad := if words.any fun w => w.2.poison then some Status.poison else none
    partDone c id words bad (s.env.sc + 1) s
  | .atomRead who op opnd cmp _ =>
    let sec := a.secs.headD 0
    if got.any fun g => g.refetch then atomAgain who sec s
    else
      let lo := (got.getD 0 ⟨default, false⟩).word
      let hi := (got.getD 1 ⟨default, false⟩).word
      let bad := if bit op.cw 0 then hi.poison else lo.poison
      atomRead who op opnd cmp a.cls sec a.kennel lo hi (atomForgets who sec (bad && !a.kennel) s)
  | .evict line => evictRead line got s
  | .moveRead e serial off skip count =>
    moveData e serial off (((got.map fun g => g.word).drop skip).take count) s
  | _ => s

/-- The reads that leave the corrector in this sc. -/
def landReads (s : State) : State :=
  let due := s.fg.reads.filter fun r => decide (r.due ≤ s.env.sc)
  due.foldl (fun s r => landRead r s)
    { s with fg := { s.fg with reads := s.fg.reads.filter fun r => !decide (r.due ≤ s.env.sc) } }

/-- The kennel writes of moves that are written by this sc complete (R278, R324). -/
def landMoves (s : State) : State :=
  let due := s.mov.written.filter fun w => decide (w.1 ≤ s.env.sc)
  due.foldl (fun s w => moveWritten w.2.1 w.2.2.1 w.2.2.2 s)
    { s with mov := { s.mov with written := s.mov.written.filter fun w => !decide (w.1 ≤ s.env.sc) } }

/-- The read of an access starts: the banks deliver its sectors to the corrector. -/
def readStarted (a : Access) (s : State) : State :=
  let r := if a.ghost then ([], s) else seeSectors a.secs s
  { r.2 with fg := { r.2.fg with reads := r.2.fg.reads ++ [{ due := s.env.sc + 10, acc := a, seen := r.1 }] } }

/-- The write of an access has been started. -/
def writeStarted (a : Access) (s : State) : State :=
  match a.purpose with
  | .atomWrite res => atomWriteStart (a.secs.headD 0) a.data res s
  | .store c id => partDone c id [] none (s.env.sc + 8) (writeWords a.data s)
  | .fill i => retireMiss i (writeWords a.data s)
  | .moveWrite e serial off =>
    let s := writeWords a.data s
    { s with mov := { s.mov with written := s.mov.written ++ [(s.env.sc + 8, e, serial, off)] } }
  | _ => writeWords a.data s

/-- The data effect of an access, already out of the queue; an atomic whose read had not started when its unit was muzzled takes
no access (R238). -/
def startAccess (a : Access) (s : State) : State :=
  if a.isWrite then writeStarted a s
  else match a.purpose with
    | .atomRead who _ _ _ _ => if atomOff s then atomMuzzled who s else readStarted a s
    | _ => readStarted a s

/-- The access takes its banks: an answer that is only timed does not, nor does an atomic that is answered with MUZZLED. -/
def takesBanks (s : State) (a : Access) : Bool := !a.ghost && !(a.isAtomRead && atomOff s)

/-- An access starts: out of the queue, its banks, its data effect. -/
def beginAccess (a : Access) (s : State) : State :=
  let t := dropAccess a.id s
  startAccess a (if takesBanks s a then occupy a t else t)

/-- A read that others may merge with, and that may merge (R175). -/
def Access.merges (a : Access) : Bool := a.kennel && !a.isWrite && !a.isAtomRead && !a.ghost

/-- The banks that a read still needs where the accesses of the named sectors have started. -/
def Access.restBanks (a : Access) (secs : List Nat) : List Nat := (a.secs.filter fun x => !secs.contains x).map secBank

/-- A waiting read of one of the sectors whose accesses start now joins them (R175): nothing that changes a sector of it is
ordered before it, and its other sectors can start in this sc. `group` holds those that have joined. -/
def mayMerge (s : State) (group : List Access) (secs : List Nat) (b : Access) : Bool :=
  b.merges && decide (b.ready ≤ s.env.sc) && (b.secs.any fun x => secs.contains x)
    && !(s.fg.accs.any fun e => decide (e.id < b.id) && (e.isWrite || e.isAtomRead) && e.secs.any fun x => b.secs.contains x)
    && !heldByAtomic s b.secs
    && (b.restBanks secs).all fun k => bankOpen s k && !(secs.any fun x => secBank x == k)
      && !((readyAccesses s).any fun c => c.before s b && !group.contains c && c.banks.contains k)

/-- The reads that start together with the accesses of the named sectors: the waiting reads are looked at in the order of R343,
over and over. -/
def mergeGroup (s : State) : Nat → List Access → List Nat → List Access × List Nat
  | 0, g, secs => (g, secs)
  | k + 1, g, secs =>
    match (s.fg.accs.foldr (insertAccess s) []).find? fun b => !g.contains b && mayMerge s g secs b with
    | none => (g, secs)
    | some b => mergeGroup s k (g ++ [b]) (secs ++ b.secs.filter fun x => !secs.contains x)

/-- The class that a shared sector is charged to: that of the first read of it in the order of R343. -/
def mergeClass (s : State) (group : List Access) (dflt sec : Nat) : Nat :=
  match (group.filter fun a => a.secs.contains sec).foldr (insertAccess s) [] with
  | [] => dflt
  | a :: _ => a.cls

/-- Start a group of reads that merge, in the order of R336: each of their sectors takes one bank cycle and is charged once. -/
def startGroup (group : List Access) (dflt : Nat) (secs : List Nat) (s : State) : State :=
  let classes := secs.map fun x => (x, mergeClass s group dflt x)
  let ids := (group.map fun a => a.id).mergeSort (· ≤ ·)
  let s := { s with fg := { s.fg with bankFree := secs.foldl (fun t x => tset 0 t (secBank x) (s.env.sc + 8)) s.fg.bankFree } }
  let s := classes.foldl (fun s p => chargeSector p.2 (secBank p.1) s) s
  ids.foldl (fun s n => match group.find? fun a => a.id == n with
    | some a => startAccess a (dropAccess n s)
    | none => s) s

/-- BANK_ACCESS_START (R344): the first access that can start. -/
def execBankAccessStart (s : State) : Host.Outcome State Fault Refusal :=
  event s fun s => match nextAccess s with
    | none => s
    | some a =>
      if a.merges then
        let g := mergeGroup s s.fg.accs.length [a] a.secs
        startGroup g.1 a.cls g.2 s
      else beginAccess a s

/-! ### Accesses of the slice's engines (entry 18) -/

/-- The queued accesses that must precede an access to the named sectors (R336), in order: those that name one of them, or a
sector of an access that must itself precede. A read needs none that only reads to precede it. -/
def mustPrecede (reads : Bool) : List Access → List Nat → List Access
  | [], _ => []
  | a :: r, secs =>
    let later := mustPrecede reads r secs
    let changes := a.isWrite || a.isAtomRead || !reads
    let named := (if changes then secs else []) ++ later.flatMap fun b => b.secs
    if !a.ghost && a.secs.any fun x => named.contains x then a :: later else later

/-- Perform those accesses, and any that they queue, before an engine touches the sectors: an atomic whose read is in the
corrector goes on first (R231). -/
def performBefore (reads : Bool) (secs : List Nat) : Nat → State → State
  | 0, s => s
  | k + 1, s =>
    match s.fg.reads.find? fun r => r.acc.isAtomRead && r.acc.secs.any fun x => secs.contains x with
    | some r => performBefore reads secs k (landRead r { s with fg := { s.fg with reads := s.fg.reads.erase r } })
    | none => match mustPrecede reads s.fg.accs secs with
    | [] => s
    | a :: _ => performBefore reads secs k (beginAccess a s)

/-- The sectors that the bytes off to off + n - 1 of kennel space touch. -/
def kennelSecs (off n : Nat) : List Nat :=
  if n = 0 then []
  else (List.range ((off + n - 1) / 64 - off / 64 + 1)).map fun i => kennelLoc ((off / 64 + i) * 64) / 2

/-- An engine reads the code words of kennel space from off on, n bytes: all earlier accesses that change them come first, the
waiting reads that R175 merges with it are served, and each sector is charged once. -/
def engineRead (src cls off n : Nat) (s : State) : List CodeWord × State :=
  let secs := kennelSecs off n
  let s := performBefore true secs (2 * s.fg.accs.length + 16) s
  let r := readSectors src false secs s
  let s := r.2
  let words := ((r.1.map fun g => g.word).drop (off / 32 % 2)).take (ceilDiv n 32)
  let g := mergeGroup s s.fg.accs.length [] secs
  (words, if g.1.isEmpty then secs.foldl (fun s x => chargeSector cls (secBank x) s) s else startGroup g.1 cls g.2 s)

/-- An engine writes code words to kennel space from off on. -/
def engineWrite (cls off : Nat) (words : List CodeWord) (s : State) : State :=
  let secs := kennelSecs off (32 * words.length)
  let s := performBefore false secs (2 * s.fg.accs.length + 16) s
  let s := (words.zipIdx).foldl (fun s w => writeWord (kennelLoc (off + 32 * w.2)) w.1 s) s
  secs.foldl (fun s x => chargeSector cls (secBank x) s) s

/-- An engine poisons the code words of kennel space from off on, n bytes (R52). -/
def enginePoison (cls off n : Nat) (s : State) : State :=
  engineWrite cls off (List.replicate (n / 32) { data := 0, poison := true }) s

end Sys2Proof.Machine
end

