-- ==== Sys2Proof/Machine/Kennel.lean ====
section
/-! DEFINITION. Kennels and channels (06_kennels_and_channels): regions, slot checks, slot operations, waiting requests, pushes
and credits, watchdogs and the channel muzzle. -/

namespace Sys2Proof.Machine

/-! ### Regions (R161, R162, R165) -/

def chanOf (s : State) (i : Nat) : Channel := tget default s.ken.ch i
def setChan (i : Nat) (f : Channel → Channel) (s : State) : State :=
  { s with ken := { s.ken with ch := tmod default s.ken.ch i f } }
def targetAt (s : State) (i : Nat) : Target := tget default s.ken.tgt i
def setTarget (i : Nat) (f : Target → Target) (s : State) : State :=
  { s with ken := { s.ken with tgt := tmod default s.ken.tgt i f } }
def slotAt (s : State) (ch k : Nat) : Slot := tget default s.ken.slots (ch * 65536 + k)
def setSlot (ch k : Nat) (f : Slot → Slot) (s : State) : State :=
  { s with ken := { s.ken with slots := tmod default s.ken.slots (ch * 65536 + k) f } }

/-- The slot area of a channel, in bytes of kennel offset. -/
def Channel.first (c : Channel) : Nat := c.base.toNat * 32
def Channel.slotBytes (c : Channel) : Nat := c.slotsz.toNat * 32
def Channel.last (c : Channel) : Nat := c.first + c.nslots.toNat * c.slotBytes

/-- A push channel (R164). -/
def Channel.isPush (c : Channel) : Bool := decide (c.litCnt ≠ 0)

/-- The target entries of a push channel's litter (R164). -/
def Channel.litter (c : Channel) : List Nat := (List.range c.litCnt.toNat).map (c.litFirst.toNat + ·)

/-- The end of kennel space (R159). -/
def kennelEnd (s : State) : Nat := s.cache.locked * 2 ^ 20

/-- The staging region, from its first byte to the byte after its last (R162). -/
def stageFirst (s : State) : Nat := s.ken.stageBase.toNat * 65536
def stageLast (s : State) : Nat := (s.ken.stageBase.toNat + s.ken.stageSize.toNat) * 65536

/-- Bytes a to b - 1 touch the enabled staging region. -/
def inStage (s : State) (a b : Nat) : Bool := s.ken.stageEn && meets a b (stageFirst s) (stageLast s)

/-- Bytes a to b - 1 touch the slot area of an enabled channel. -/
def inSlots (s : State) (a b : Nat) : Bool := s.ken.ch.any fun c => c.2.en && meets a b c.2.first c.2.last

/-- Bytes a to b - 1 lie wholly in plain kennel memory (R161). -/
def plainKennel (s : State) (a b : Nat) : Bool := decide (b ≤ kennelEnd s) && !inStage s a b && !inSlots s a b

/-- The channel and slot that hold the byte at an offset. -/
def slotOf (s : State) (off : Nat) : Option (Nat × Nat) :=
  s.ken.ch.findSome? fun c =>
    if c.2.en && decide (c.2.first ≤ off) && decide (off < c.2.last) then some (c.1, (off - c.2.first) / c.2.slotBytes)
    else none

/-! ### The channel muzzle (R183, R184, R187) -/

/-- Who acts on a channel, as a holder (R167). -/
def ChParty.holder : ChParty → BitVec 14
  | .agent h => agentHolder h.agent h.die
  | .ctx c _ => ctxHolder c
  | .gone h => h

/-- The request of an agent at a channel is accepted, and counts in its class, which is its label (R83, R337). -/
def chCount (p : ChParty) (s : State) : State :=
  match p with
  | .agent h => countStore (h.label % 16) false s
  | _ => s

/-- Answer a channel operation (R170, R299): ChRsp 9 sc later, or the completion of a context's instruction. -/
def chAnswer (p : ChParty) (st : Status) (slot off : Nat) (s : State) : State :=
  match p with
  | .agent h => answer h 0xC (.chRsp st (BitVec.ofNat 16 slot) (BitVec.ofNat 24 off)) [] (s.env.sc + 9) .none (countNack st s)
  | .ctx c id =>
    let regs := match pendOf s c id with
      | some q => q.regs.map fun g => (g, BitVec.ofNat 64 (off + slot * 2 ^ 32))
      | none => []
    complete (Result.mk s.env.sc c id (some st) regs []) s
  | .gone _ => s

/-- Return the credits that a reservation holds (R179, R184). -/
def returnCredits (ch : Nat) (s : State) : State :=
  match (chanOf s ch).push with
  | .reserving _ held =>
    let s := ((chanOf s ch).litter.take held).foldl
      (fun s t => setTarget t (fun t => { t with credits := t.credits + 1 }) s) s
    setChan ch (fun c => { c with push := .idle }) s
  | _ => s

/-- Answer everything that waits on a channel with a status: waiting requests, and commits that await their credits. -/
def answerWaiting (ch : Nat) (st : Status) (s : State) : State :=
  let waits := s.ken.waits.filter fun w => w.ch == ch
  let commits := s.ken.slots.filterMap fun p =>
    if p.1 / 65536 = ch then p.2.commit.map fun q => (p.1 % 65536, q.1) else none
  let s := { s with ken := { s.ken with waits := s.ken.waits.filter fun w => w.ch != ch } }
  let s := commits.foldl (fun s q => chAnswer q.2 st 0 0 (setSlot ch q.1 (fun k => { k with commit := none }) s)) s
  waits.foldl (fun s w => chAnswer w.party st 0 0 s) s

/-- Muzzle a channel (R184): its state stays, what waits on it is answered, a reservation returns its credits. -/
def muzzleChannel (ch : Nat) (s : State) : State :=
  if (chanOf s ch).muz then s
  else answerWaiting ch .muzzled (returnCredits ch (setChan ch (fun c => { c with muz := true }) s))

/-- A slot becomes POISON (R183, R186, R187). -/
def Slot.spoil (now : Nat) (k : Slot) : Slot :=
  { k with state := .poison, holder := none, age := 0, parityBad := false, since := now }

/-- The check of a channel descriptor and of a slot entry at their use (R187). -/
def checkSlot (ch k : Nat) (s : State) : State :=
  let s := if (chanOf s ch).parityBad && !(chanOf s ch).muz then
      muzzleChannel ch (report 0x32 1 (0x2000 + ch) (detailH ch 0 0 0 1) s)
    else s
  if (slotAt s ch k).parityBad then
    let s := report 0x32 1 (0x2000 + ch) (detailH ch k 0 0 0) s
    muzzleChannel ch (setSlot ch k (Slot.spoil s.env.sc) s)
  else s

/-- The check of a target entry at its use (R187): one that no enabled channel covers is reported without a channel. -/
def checkTarget (t : Nat) (s : State) : State :=
  if (targetAt s t).parityBad then
    let chs := (s.ken.ch.filter fun c => c.2.en && c.2.litter.contains t).map Prod.fst
    let s := if chs.isEmpty then report 0x32 0 0 (detailH 0 0 0 t 2) s
      else chs.foldl (fun s ch => report 0x32 1 (0x2000 + ch) (detailH ch 0 0 t 2) s) s
    chs.foldl (fun s ch => muzzleChannel ch s) (setTarget t (fun x => { x with parityBad := false }) s)
  else s

/-! ### Slot checks of reads and writes (R173, R174) -/

/-- The slots that code words at the offsets name. -/
def slotsNamed (s : State) (offs : List Nat) : List (Nat × Nat) := (offs.filterMap (slotOf s)).dedup

/-- Check the descriptors and entries that an access uses (R187). -/
def checkSlots (offs : List Nat) (s : State) : State :=
  (slotsNamed s offs).foldl (fun s p => checkSlot p.1 p.2 s) s

/-- R173: the status that refuses a write of code words at the offsets by a holder (none: a writer without one, R323); none
admits it. -/
def writeRefused (s : State) (holder : Option (BitVec 14)) (offs : List Nat) : Option Status :=
  let named := slotsNamed s offs
  let st (p : Nat × Nat) : SlotState := (slotAt s p.1 p.2).state
  if named.isEmpty then none
  else if named.any fun p => (chanOf s p.1).muz then some .muzzled
  else if offs.all (fun o => (slotOf s o).isSome)
      && named.all (fun p => st p == .resv && holder.isSome && (slotAt s p.1 p.2).holder == holder) then none
  else if named.any fun p => st p == .full || st p == .taken then some .slotFull
  else if named.any fun p => st p == .poison then some .poison
  else some .bounds

/-- R174: the status that refuses a read of code words at the offsets; none admits it. -/
def readRefused (s : State) (offs : List Nat) : Option Status :=
  let named := slotsNamed s offs
  let st (p : Nat × Nat) : SlotState := (slotAt s p.1 p.2).state
  if named.any fun p => (chanOf s p.1).muz then some .muzzled
  else if named.any fun p => st p == .poison then some .poison
  else if named.any fun p => st p == .empty then some .empty
  else none

/-! ### Reserve, take, commit, free (Table 6.2) -/

/-- Kennel offset of a slot (Table 6.4). -/
def slotOffset (c : Channel) (k : Nat) : Nat := c.first + k * c.slotBytes

/-- The index after i in a ring of n. -/
def nextIndex (i n : Nat) : Nat := if i + 1 < n then i + 1 else 0

/-- RESERVE where the slot at PI allows it. -/
def tryReserve (ch : Nat) (p : ChParty) (s : State) : Option State :=
  let c := chanOf s ch
  let k := slotAt s ch c.pi
  if k.state = .empty ∨ k.state = .poison then
    let st : Status := if k.state = .poison then .poison else .ok
    let s := setSlot ch c.pi (fun _ => { state := .resv, holder := some p.holder, age := 0, commit := none,
                                         parityBad := false, since := s.env.sc }) s
    let s := setChan ch (fun c => { c with pi := nextIndex c.pi c.nslots.toNat }) s
    some (chAnswer p st c.pi (slotOffset c c.pi) s)
  else none

/-- TAKE where the slot at CI allows it. -/
def tryTake (ch : Nat) (p : ChParty) (s : State) : Option State :=
  let c := chanOf s ch
  let k := slotAt s ch c.ci
  if k.state = .full ∨ k.state = .poison then
    let st : Status := if k.state = .poison then .poison else .ok
    let s := setSlot ch c.ci (fun k => { k with state := .taken, holder := some p.holder, age := 0, since := s.env.sc }) s
    let s := setChan ch (fun c => { c with ci := nextIndex c.ci c.nslots.toNat }) s
    some (chAnswer p st c.ci (slotOffset c c.ci) s)
  else none

/-- Complete one waiting request of a channel, of each kind the one that registered first (R172); its slot is checked first, and
a failure answers every one of them (R184, R187). -/
def serveOne (ch : Nat) (s : State) : Option State :=
  let attempt (take : Bool) : Option State :=
    match s.ken.waits.find? (fun w => w.ch == ch && w.take == take) with
    | none => none
    | some w =>
      let c := chanOf s ch
      let s := checkSlot ch (if take then c.ci else c.pi) s
      if (chanOf s ch).muz then some s
      else (if take then tryTake ch w.party s else tryReserve ch w.party s).map fun t =>
        { t with ken := { t.ken with waits := t.ken.waits.erase w } }
  match attempt false with
  | some t => some t
  | none => attempt true

/-- Complete every waiting request of a channel that Table 6.2 now lets complete. -/
def serveWaits (ch : Nat) : Nat → State → State
  | 0, s => s
  | k + 1, s => match serveOne ch s with
    | some t => serveWaits ch k t
    | none => s

/-- After a change of slots of a channel. -/
def afterChange (ch : Nat) (s : State) : State := serveWaits ch (s.ken.waits.length + 1) s

/-- The waiting requests that a declaration of death since state `was` lets complete (R172, R186). -/
def afterDeath (was s : State) : State :=
  if s.coh.dead = was.coh.dead then s
  else ((s.ken.waits.map fun w => w.ch).dedup).foldl (fun s ch => afterChange ch s) s

/-- A blocking operation waits (R172, R300): an agent takes one of 64 entries, a context waits by itself. -/
def beginWait (ch : Nat) (take : Bool) (p : ChParty) (s : State) : State :=
  let agents := s.ken.waits.filter fun w => match w.party with
    | .agent _ => true
    | _ => false
  match p with
  | .gone _ => s
  | .agent _ =>
    if agents.length < 64 then
      chCount p { s with ken := { s.ken with waits := s.ken.waits ++ [{ ch := ch, take := take, party := p }] } }
    else chAnswer p .nackRetry 0 0 s
  | .ctx c id =>
    setCtx c (fun x => { x with state := .wait, wait := .channel id })
      { s with ken := { s.ken with waits := s.ken.waits ++ [{ ch := ch, take := take, party := p }] } }

/-- RESERVE (Table 6.2). -/
def doReserve (ch : Nat) (blocking : Bool) (p : ChParty) (s : State) : State :=
  let s := checkSlot ch (chanOf s ch).pi (noisy s)
  let c := chanOf s ch
  if !c.en then chAnswer p .bounds 0 0 s
  else if c.muz then chAnswer p .muzzled 0 0 s
  else match tryReserve ch p s with
    | some t => afterChange ch (chCount p t)
    | none => if blocking then beginWait ch false p s else chAnswer p .slotFull 0 0 (chCount p s)

/-- TAKE (Table 6.2). -/
def doTake (ch : Nat) (blocking : Bool) (p : ChParty) (s : State) : State :=
  let s := checkSlot ch (chanOf s ch).ci (noisy s)
  let c := chanOf s ch
  if !c.en then chAnswer p .bounds 0 0 s
  else if c.muz then chAnswer p .muzzled 0 0 s
  else if c.isPush then chAnswer p .bounds 0 0 s
  else match tryTake ch p s with
    | some t => afterChange ch (chCount p t)
    | none => if blocking then beginWait ch true p s else chAnswer p .empty 0 0 (chCount p s)

/-- COMMIT (Table 6.2): on a push channel it is answered once its credits are held (R178, R179). -/
def doCommit (ch slot cls : Nat) (p : ChParty) (s : State) : State :=
  let s := checkSlot ch slot (noisy s)
  let c := chanOf s ch
  let k := slotAt s ch slot
  if !c.en then chAnswer p .bounds 0 0 s
  else if c.muz then chAnswer p .muzzled 0 0 s
  else if c.nslots.toNat ≤ slot ∨ ¬ (k.state = .resv ∧ k.holder = some p.holder) then chAnswer p .bounds 0 0 s
  else if c.isPush then
    let s := setSlot ch slot (fun k =>
      { k with state := .full, holder := none, age := 0, commit := some (p, cls), since := s.env.sc }) (chCount p s)
    match p with
    | .ctx n id => setCtx n (fun x => { x with state := .wait, wait := .channel id }) s
    | _ => s
  else afterChange ch (chAnswer p .ok 0 0
    (setSlot ch slot (fun k => { k with state := .full, holder := none, age := 0, since := s.env.sc }) (chCount p s)))

/-- FREE (Table 6.2). -/
def doFree (ch slot : Nat) (p : ChParty) (s : State) : State :=
  let s := checkSlot ch slot (noisy s)
  let c := chanOf s ch
  let k := slotAt s ch slot
  if !c.en then chAnswer p .bounds 0 0 s
  else if c.muz then chAnswer p .muzzled 0 0 s
  else if c.isPush then chAnswer p .bounds 0 0 s
  else if c.nslots.toNat ≤ slot ∨ ¬ (k.state = .taken ∧ k.holder = some p.holder) then chAnswer p .bounds 0 0 s
  else afterChange ch (chAnswer p .ok 0 0 (setSlot ch slot (fun _ => default) (chCount p s)))

/-! ### Pushes (R177 to R181, R186) -/

/-- One PushD flit of a slot to a target: the code words of one sector (Table 6.4). -/
def pushFlit (s : State) (ch k cls off : Nat) (last : Bool) (words : List CodeWord) (t : Target) : OutMsg :=
  let addr := t.base.toNat * 32 + t.next * (t.bufsz.toNat * 32) + off
  { originMsg s .rsp 0xD t.agent.toNat t.die.toNat 0 cls
      (.pushD (BitVec.ofNat 32 addr) (BitVec.ofNat 8 ch) (BitVec.ofNat 16 k) (decide (words.length = 1)) last) words
      (s.env.sc + 20) with tx := .push ch }

/-- The code words of a slot, grouped by the sector of the array that holds them, with their offsets in the slot. -/
def slotSectors (first : Nat) (words : List CodeWord) : List (Nat × List CodeWord) :=
  if first % 64 = 0 then
    (List.range (ceilDiv words.length 2)).map fun i => (64 * i, (words.drop (2 * i)).take 2)
  else
    (0, words.take 1) :: (List.range (words.length / 2)).map fun i => (64 * i + 32, (words.drop (2 * i + 1)).take 2)

/-- Every credit of the slot at CI is held (R178): the slot is read, its commit answered, its flits queued. -/
def startPush (ch : Nat) (s : State) : State :=
  let c := chanOf s ch
  let k := slotAt s ch c.ci
  let cls := match k.commit with
    | some q => q.2
    | none => 0
  let s := match k.commit with
    | some q => chAnswer q.1 .ok 0 0 s
    | none => s
  let s := setSlot ch c.ci (fun k => { k with state := .taken, holder := none, age := 0, commit := none, since := s.env.sc }) s
  let r := engineRead 5 cls (slotOffset c c.ci) c.slotBytes s
  let s := r.2
  let secs := slotSectors (slotOffset c c.ci) r.1
  let targets := c.litter.map (targetAt s)
  let flits := secs.flatMap fun q =>
    targets.map fun t => pushFlit s ch c.ci cls q.1 (decide (q.1 + 32 * q.2.length = c.slotBytes)) q.2 t
  let s := flits.foldl (fun s m => emit m s) s
  let s := passTxn s
  let s := c.litter.foldl (fun s t => setTarget t (fun t => { t with next := nextIndex t.next t.nbuf.toNat }) s) s
  setChan ch (fun c => { c with push := .pushing }) s

/-- Take credits in ascending target from the held-th on, up to the first target that has none (R179). -/
def takeCredits (ch start held : Nat) : List Nat → State → State
  | [], s => startPush ch s
  | t :: rest, s =>
    let s := checkTarget t (setChan ch (fun c => { c with push := .reserving start held }) s)
    if (chanOf s ch).muz || (targetAt s t).credits == 0 then s
    else takeCredits ch start (held + 1) rest (setTarget t (fun t => { t with credits := t.credits - 1 }) s)

/-- A push channel whose slot at CI can begin: FULL since an earlier sc, or POISON (R178, R186). -/
def pushReady (s : State) (ch : Nat) : Bool :=
  let c := chanOf s ch
  let k := slotAt s ch c.ci
  c.en && c.isPush && !c.muz && c.push == .idle
    && ((k.state == .full && decide (k.since < s.env.sc)) || k.state == .poison)

/-- The first such channel. -/
def pushNext (s : State) : Option Nat := (s.ken.ch.map Prod.fst).find? (pushReady s)

/-- PUSH_START (R178, R186): credit reservation begins; a POISON slot is passed over and reported. -/
def execPushStart (s : State) : Host.Outcome State Fault Refusal :=
  event s fun s => match pushNext s with
    | none => s
    | some ch =>
      let c := chanOf s ch
      let s := checkSlot ch c.ci s
      let k := slotAt s ch c.ci
      if (chanOf s ch).muz then s
      else if k.state = .poison then
        let s := report 0x31 2 0 (detailH ch c.ci ((k.holder.getD 0).toNat) 0 0) s
        let s := setSlot ch c.ci (fun _ => default) s
        afterChange ch (setChan ch (fun c => { c with ci := nextIndex c.ci c.nslots.toNat }) s)
      else takeCredits ch s.env.sc 0 c.litter s

/-- A push channel whose last flit has left (R178). -/
def pushOver (s : State) (ch : Nat) : Bool :=
  (chanOf s ch).push == .pushing && !(s.out.egress.any fun m => m.tx == .push ch)

def pushEnding (s : State) : Option Nat := (s.ken.ch.map Prod.fst).find? (pushOver s)

/-- PUSH_END (R178): the slot becomes EMPTY, or POISON where its entry fails its check (R187), CI advances, and the next slot
may begin in the next sc. -/
def execPushEnd (s : State) : Host.Outcome State Fault Refusal :=
  event s fun s => match pushEnding s with
    | none => s
    | some ch =>
      let s := checkSlot ch (chanOf s ch).ci s
      let c := chanOf s ch
      let s := if (slotAt s ch c.ci).state = .poison then s else setSlot ch c.ci (fun _ => default) s
      let n := nextIndex c.ci c.nslots.toNat
      let s := setChan ch (fun c => { c with ci := n, push := .idle }) s
      let s := if (slotAt s ch n).state = .full then setSlot ch n (fun k => { k with since := s.env.sc }) s else s
      afterChange ch s

/-- CREDIT (R177): a reservation that awaits the target resumes (R179). DESIGN CHOICE (entry 57): of several channels that await
the target in one sc, the lower-numbered takes its credits first. -/
def doCredit (h : Hdr) (t count : Nat) (s : State) : State :=
  let s := checkTarget t (noisy s)
  let x := targetAt s t
  if !x.valid || x.agent.toNat != h.agent || x.die.toNat != h.die || count == 0
      || decide (x.nbuf.toNat < x.credits + count) then chAnswer (.agent h) .bounds 0 0 s
  else
    let s := setTarget t (fun x => { x with credits := x.credits + count }) s
    let s := chAnswer (.agent h) .ok 0 0 (chCount (.agent h) s)
    (s.ken.ch.map Prod.fst).foldl (fun s ch =>
      let c := chanOf s ch
      match c.push with
      | .reserving start held =>
        if c.litter[held]? = some t then takeCredits ch start held (c.litter.drop held) s else s
      | _ => s) s

/-- A channel whose credit budget ends (R179). -/
def budgetOver (s : State) (ch : Nat) : Bool :=
  match (chanOf s ch).push with
  | .reserving start _ => decide (start + 2 ^ ((chanOf s ch).lb.toNat + 8) ≤ s.env.sc)
  | _ => false

def budgetEnding (s : State) : Option Nat := (s.ken.ch.map Prod.fst).find? (budgetOver s)

/-- LITTER_BUDGET_END (R179): the credits go back, the slot goes back to its producer, the commit is answered. -/
def execLitterBudgetEnd (s : State) : Host.Outcome State Fault Refusal :=
  event s fun s => match budgetEnding s with
    | none => s
    | some ch =>
      let c := chanOf s ch
      let k := slotAt s ch c.ci
      let s := returnCredits ch s
      match k.commit with
      | none => s
      | some q =>
        chAnswer q.1 .litterBusy 0 0 (setSlot ch c.ci (fun k =>
          { k with state := .resv, holder := some q.1.holder, age := 0, commit := none, since := s.env.sc }) s)

/-! ### Watchdogs and debug hold (R182 to R185) -/

/-- A slot is timed (R182). -/
def slotTimed (s : State) (key : Nat) (k : Slot) : Bool :=
  let c := chanOf s (key / 65536)
  c.en && !c.muz && decide (c.wdog ≠ 0) && (k.state == .resv || k.state == .taken) && k.holder.isSome

/-- A debug hold or the seam bridge holds the watchdog of a slot (R185, R440). -/
def slotHeld (s : State) (key : Nat) (k : Slot) : Bool :=
  let held (h : BitVec 14) : Bool := s.ken.holds.any fun p => p.2 == h
  (match k.holder with
    | some h => held h || (decide (s.env.smHold ≠ 0) && !bit h 13 && decide (h.toNat / 256 = s.env.idDie.toNat)
        && decide (h.toNat % 256 < 160) && bit s.lnk.seam (h.toNat % 256))
    | none => false) || held (chanOf s (key / 65536)).owner

/-- Slot watchdogs advance at a frame boundary, those armed in an earlier sc (R22); each is checked (R187). -/
def advanceSlots (s : State) : State :=
  let s := (s.ken.slots.filter fun p => slotTimed s p.1 p.2).foldl (fun s p => checkSlot (p.1 / 65536) (p.1 % 65536) s) s
  let slots := s.ken.slots.map fun p =>
    if slotTimed s p.1 p.2 && !slotHeld s p.1 p.2 && decide (p.2.since < s.env.sc) then (p.1, { p.2 with age := p.2.age + 1 }) else p
  { s with ken := { s.ken with slots := slots } }

/-- The slots whose watchdog has expired. -/
def expiredSlots (s : State) : List (Nat × Slot) :=
  s.ken.slots.filter fun p => slotTimed s p.1 p.2 && decide ((chanOf s (p.1 / 65536)).wdog.toNat ≤ p.2.age)

def slotExpiryDue (s : State) : Bool := !(expiredSlots s).isEmpty

/-- SLOT_WATCHDOG_EXPIRY (R183): every expiry of the boundary is applied. -/
def execSlotWatchdogExpiry (s : State) : Host.Outcome State Fault Refusal :=
  eventIf slotExpiryDue s fun s =>
    let due := expiredSlots s
    let s := due.foldl (fun s p => report 0x30 3 (0x2000 + p.1 / 65536)
      (detailH (p.1 / 65536) (p.1 % 65536) ((p.2.holder.getD 0).toNat) 0 0) s) s
    let s := due.foldl (fun s p => setSlot (p.1 / 65536) (p.1 % 65536) (Slot.spoil s.env.sc) s) s
    due.foldl (fun s p => muzzleChannel (p.1 / 65536) s) s

/-! ### Contexts that give up a wait (R259, R267, R300) -/

/-- A context gives up the wait it is in; the instruction issues again (except that a heel wait that a suspension records
stays behind PC, and that a channel operation which has completed in this sc stays completed, R259). -/
def cancelWait (c : Nat) (keepHeel : Bool) (s : State) : State :=
  let x := getCtx s c
  if x.state ≠ .wait then s
  else match x.wait with
    | .channel op =>
      if s.seq.done.any fun r => r.ctx == c && r.id == op then
        setCtx c (fun x => { x with state := .ready, wait := .nothing }) s
      else
      let mine (p : ChParty) : Bool := match p with
        | .ctx n _ => n == c
        | _ => false
      let ids := s.ken.waits.filterMap fun w => match w.party with
        | .ctx n id => if n = c then some id else none
        | _ => none
      let s := { s with ken := { s.ken with waits := s.ken.waits.filter fun w => !mine w.party } }
      let commits := s.ken.slots.filterMap fun p => match p.2.commit with
        | some (.ctx n id, _) => if n = c then some (p.1, id) else none
        | _ => none
      let s := commits.foldl (fun s q =>
        let ch := q.1 / 65536
        let s := if (chanOf s ch).ci = q.1 % 65536 then returnCredits ch s else s
        setSlot ch (q.1 % 65536) (fun k => { k with state := .resv, holder := some (ctxHolder c), age := 0, commit := none,
                                                    since := s.env.sc }) s) s
      let gone := ids ++ commits.map Prod.snd
      setCtx c (fun x => { x with state := .ready, wait := .nothing, pc := x.pc - 1,
                                  pend := x.pend.filter fun p => !gone.contains p.id }) s
    | .heel _ =>
      if keepHeel then s else setCtx c (fun x => { x with state := .ready, wait := .nothing, pc := x.pc - 1 }) s
    | _ => setCtx c (fun x => { x with state := .ready, wait := .nothing, pc := x.pc - 1 }) s

end Sys2Proof.Machine
end

