-- ==== Sys2Proof/Machine/Scent.lean ====
section
/-! DEFINITION. The scent digest (14_determinism_and_audit R384, R385). -/

namespace Sys2Proof.Machine

/-- Multiplication by x modulo p(x) = x^128 + x^7 + x^2 + x + 1 (R384). -/
def gfDouble (r : BitVec 128) : BitVec 128 := if r.getLsbD 127 then (r <<< 1) ^^^ 0x87#128 else r <<< 1

/-- The product over bits i - 1 down to 0 of b. -/
def gfMulFrom (a b r : BitVec 128) : Nat → BitVec 128
  | 0 => r
  | i + 1 => gfMulFrom a b (if b.getLsbD i then gfDouble r ^^^ a else gfDouble r) i

/-- Multiplication in GF(2^128) (R384). -/
def gfMul (a b : BitVec 128) : BitVec 128 := gfMulFrom a b 0 128

/-- The fixed key H (R384). -/
def scentKey : BitVec 128 := 0x5A3C96E10F2DB847C1E63A957D08F24B#128

/-- The accumulator after absorbing one leaf (R385). -/
def absorb (acc : BitVec 128) (w : Code) : BitVec 128 :=
  gfMul (gfMul (acc ^^^ w.extractLsb' 0 128) scentKey ^^^ w.extractLsb' 128 128) scentKey

/-- The digest of an accumulator and a leaf count (R385). -/
def digest (acc : BitVec 128) (n : Word64) : BitVec 128 :=
  gfMul (acc ^^^ (n.zeroExtend 128 ||| 0x80000000000000000000000000000000#128)) scentKey

end Sys2Proof.Machine
end

