-- ==== Sys2Proof/Machine/Integer.lean ====
section
/-! DEFINITION. Instructions that complete at issue without leaving the sequencer: control, integer operations, events, counter
and heel, label, streams (10_zellek_instruction_set R280 to R284, R301 to R304, R307 to R312). -/

namespace Sys2Proof.Machine

/-! ### Control (R270, R280 to R282) -/

/-- NOP; and an instruction whose word is a double error (R246): the context faults with cause PSTORE. -/
def execNop (c : Fin 16) (s : State) : Host.Outcome State Fault Refusal :=
  event s fun s =>
    if mayIssue s c && (fetch s c).1 == 2 then issueFault c 2 s
    else issueStep c (fun z => match z with
      | .nop => some id
      | _ => none) s

/-- ILLEGAL (R270). -/
def execIllegal (c : Fin 16) (s : State) : Host.Outcome State Fault Refusal :=
  event s fun s =>
    if mayIssue s c && (fetch s c).1 != 2 && (nextInsn s c).isNone then issueFault c 1 s else s

/-- END (R254, R282): the reply that is owed carries g0 to g3. -/
def endContext (c : Nat) (s : State) : State :=
  let x := getCtx s c
  let s := match x.call with
    | some k => if k.reply then
        sendReply k c .ok [plain (codeOf64 (x.reg 0) (x.reg 1) (x.reg 2) (x.reg 3))] (s.env.sc + 9) s
      else s
    | none => s
  becomeIdle c s

def execEndI (c : Fin 16) (s : State) : Host.Outcome State Fault Refusal :=
  issue c (fun z => match z with
    | .endI => some (endContext c)
    | _ => none) s

def execBr (c : Fin 16) (s : State) : Host.Outcome State Fault Refusal :=
  issue c (fun z => match z with
    | .br t => some (branch c t)
    | _ => none) s

/-- The conditions of R280. -/
def Cond.holds (k : Cond) (a b : Word64) : Bool :=
  match k with
  | .eq => a == b
  | .ne => a != b
  | .lt => a.slt b
  | .ge => !a.slt b
  | .ltu => a.ult b
  | .geu => !a.ult b

def execBcc (c : Fin 16) (s : State) : Host.Outcome State Fault Refusal :=
  issue c (fun z => match z with
    | .bcc k a b t => some fun s =>
      if k.holds ((getCtx s c).reg a.toNat) ((getCtx s c).reg b.toNat) then branch c t s else s
    | _ => none) s

/-- The condition of BST (R281): no reference named, success is meant. -/
def bstTaken (neg : Bool) (ref : Option (BitVec 5)) (last : BitVec 5) : Bool :=
  (last == ref.getD (BitVec.ofNat 5 (statusCode .ok))) != neg

def execBst (c : Fin 16) (s : State) : Host.Outcome State Fault Refusal :=
  issue c (fun z => match z with
    | .bst n r t => some fun s => if bstTaken n r (getCtx s c).lastSts then branch c t s else s
    | _ => none) s

/-- JAL writes the address after its own, to which PC already points (R282). -/
def execJal (c : Fin 16) (s : State) : Host.Outcome State Fault Refusal :=
  issue c (fun z => match z with
    | .jal d t => some fun s => branch c t (writeRegs c [(d.toNat, (getCtx s c).pc.zeroExtend 64)] s)
    | _ => none) s

def execJr (c : Fin 16) (s : State) : Host.Outcome State Fault Refusal :=
  issue c (fun z => match z with
    | .jr a => some fun s => branch c (((getCtx s c).reg a.toNat).extractLsb' 0 14) s
    | _ => none) s

/-- ST (Table 9.1): LAST_STS with HEEL_LATE above it. -/
def Ctx.st (x : Ctx) : BitVec 6 := BitVec.ofBool x.heelLate ++ x.lastSts

def execMovst (c : Fin 16) (s : State) : Host.Outcome State Fault Refusal :=
  issue c (fun z => match z with
    | .movst d => some fun s => writeRegs c [(d.toNat, (getCtx s c).st.zeroExtend 64)] s
    | _ => none) s

/-! ### Integer operations (R283, R284) -/

def one64 (b : Bool) : Word64 := if b then 1 else 0

/-- The operations of Table 10.4. -/
def AluOp.eval (o : AluOp) (a b : Word64) : Word64 :=
  match o with
  | .add => a + b
  | .sub => a - b
  | .mul => a * b
  | .and => a &&& b
  | .or => a ||| b
  | .xor => a ^^^ b
  | .shl => if 64 ≤ b.toNat then 0 else a <<< b.toNat
  | .shr => if 64 ≤ b.toNat then 0 else a >>> b.toNat
  | .sar => a.sshiftRight (Nat.min 63 b.toNat)
  | .slt => one64 (a.slt b)
  | .sltu => one64 (a.ult b)
  | .seq => one64 (a == b)
  | .min => if a.slt b then a else b
  | .max => if a.slt b then b else a

/-- The second operand of an ALU instruction. -/
def AluSrc.value (x : Ctx) : AluSrc → Word64
  | .reg b => x.reg b.toNat
  | .imm v => v.signExtend 64

/-- The meaning of an ALU row: the instruction computes gD where its operation is that of the row. -/
def aluRow (row : AluOp) (c : Nat) (z : Zellek) : Option (State → State) :=
  match z with
  | .alu o d a src =>
    if o = row then
      some fun s => writeRegs c [(d.toNat, o.eval ((getCtx s c).reg a.toNat) (src.value (getCtx s c)))] s
    else none
  | _ => none

def execAluAdd (c : Fin 16) (s : State) : Host.Outcome State Fault Refusal := issue c (aluRow .add c) s
def execAluSub (c : Fin 16) (s : State) : Host.Outcome State Fault Refusal := issue c (aluRow .sub c) s
def execAluMul (c : Fin 16) (s : State) : Host.Outcome State Fault Refusal := issue c (aluRow .mul c) s
def execAluAnd (c : Fin 16) (s : State) : Host.Outcome State Fault Refusal := issue c (aluRow .and c) s
def execAluOr (c : Fin 16) (s : State) : Host.Outcome State Fault Refusal := issue c (aluRow .or c) s
def execAluXor (c : Fin 16) (s : State) : Host.Outcome State Fault Refusal := issue c (aluRow .xor c) s
def execAluShl (c : Fin 16) (s : State) : Host.Outcome State Fault Refusal := issue c (aluRow .shl c) s
def execAluShr (c : Fin 16) (s : State) : Host.Outcome State Fault Refusal := issue c (aluRow .shr c) s
def execAluSar (c : Fin 16) (s : State) : Host.Outcome State Fault Refusal := issue c (aluRow .sar c) s
def execAluSlt (c : Fin 16) (s : State) : Host.Outcome State Fault Refusal := issue c (aluRow .slt c) s
def execAluSltu (c : Fin 16) (s : State) : Host.Outcome State Fault Refusal := issue c (aluRow .sltu c) s
def execAluSeq (c : Fin 16) (s : State) : Host.Outcome State Fault Refusal := issue c (aluRow .seq c) s
def execAluMin (c : Fin 16) (s : State) : Host.Outcome State Fault Refusal := issue c (aluRow .min c) s
def execAluMax (c : Fin 16) (s : State) : Host.Outcome State Fault Refusal := issue c (aluRow .max c) s

def execMovi (c : Fin 16) (s : State) : Host.Outcome State Fault Refusal :=
  issue c (fun z => match z with
    | .movi d v => some (writeRegs c [(d.toNat, v.signExtend 64)])
    | _ => none) s

def execMovhi (c : Fin 16) (s : State) : Host.Outcome State Fault Refusal :=
  issue c (fun z => match z with
    | .movhi d v => some fun s =>
      writeRegs c [(d.toNat, (v ++ ((getCtx s c).reg d.toNat).extractLsb' 0 32 : BitVec 64))] s
    | _ => none) s

/-! ### Tile moves (R293) -/

def execTzero (c : Fin 16) (s : State) : Host.Outcome State Fault Refusal :=
  issue c (fun z => match z with
    | .tzero t => some (setCtx c fun x => x.setBlocks ((List.range 4).map fun b => (t.toNat * 4 + b, TileBlock.zero)))
    | _ => none) s

def execTmov (c : Fin 16) (s : State) : Host.Outcome State Fault Refusal :=
  issue c (fun z => match z with
    | .tmov t a => some (setCtx c fun x =>
      x.setBlocks ((List.range 4).map fun b => (t.toNat * 4 + b, x.block a.toNat b)))
    | _ => none) s

/-! ### Events (R301, R302) -/

/-- EVSET: the flags arrive in step 1 of the next sc. -/
def execEvset (c : Fin 16) (s : State) : Host.Outcome State Fault Refusal :=
  issue c (fun z => match z with
    | .evset a => some fun s =>
      { s with seq := { s.seq with evNext := s.seq.evNext ||| (getCtx s c).reg a.toNat } }
    | _ => none) s

def execEvclr (c : Fin 16) (s : State) : Host.Outcome State Fault Refusal :=
  issue c (fun z => match z with
    | .evclr a => some fun s =>
      { s with seq := { s.seq with events := s.seq.events &&& ~~~((getCtx s c).reg a.toNat) } }
    | _ => none) s

/-- EVWAIT: the context waits, unless the condition holds already. -/
def execEvwait (c : Fin 16) (s : State) : Host.Outcome State Fault Refusal :=
  issue c (fun z => match z with
    | .evwait a all use => some fun s =>
      let m := (getCtx s c).reg a.toNat
      if m = 0 then placeSts c .bounds s
      else tryRelease c (setCtx c (fun x => { x with state := .wait, wait := .events m all use }) s)
    | _ => none) s

def execEvrd (c : Fin 16) (s : State) : Host.Outcome State Fault Refusal :=
  issue c (fun z => match z with
    | .evrd d => some fun s => writeRegs c [(d.toNat, s.seq.events)] s
    | _ => none) s

/-! ### Counter and heel (R303, R304, R24) -/

def execRdcnt (c : Fin 16) (s : State) : Host.Outcome State Fault Refusal :=
  issue c (fun z => match z with
    | .rdcnt d => some fun s => writeRegs c [(d.toNat, if s.tick.cntValid then s.tick.counter else 0)] s
    | _ => none) s

def execRdfrm (c : Fin 16) (s : State) : Host.Outcome State Fault Refusal :=
  issue c (fun z => match z with
    | .rdfrm d => some fun s => writeRegs c [(d.toNat, BitVec.ofNat 64 (frameNumber s))] s
    | _ => none) s

/-- A heel that is accepted (R24): later than the counter, by at most 2^36. -/
def heelOk (s : State) (h : Word64) : Bool :=
  decide (s.tick.counter.toNat < h.toNat) && decide (h.toNat ≤ s.tick.counter.toNat + 2 ^ 36)

/-- The value of a heel instruction (R304): none where a frame number is too large. -/
def heelValue (s : State) (g : Word64) (frame : Bool) : Option Word64 :=
  let l := s.tick.frameLog2.toNat
  if frame then (if g.toNat < 2 ^ (64 - l) then some (g <<< l) else none) else some g

def execHeel (c : Fin 16) (s : State) : Host.Outcome State Fault Refusal :=
  issue c (fun z => match z with
    | .heel a frame => some fun s =>
      let s := setCtx c (fun x => { x with heelLate := false }) s
      match heelValue s ((getCtx s c).reg a.toNat) frame with
      | none => placeSts c .bounds s
      | some h =>
        if s.tick.cntValid && heelOk s h then setCtx c (fun x => { x with state := .wait, wait := .heel h }) s
        else placeSts c .bounds s
    | _ => none) s

/-! ### Label and fence (R307, R312) -/

def execLabelI (c : Fin 16) (s : State) : Host.Outcome State Fault Refusal :=
  issue c (fun z => match z with
    | .labelI k => some (setCtx c fun x => { x with cls := k.toNat })
    | _ => none) s

def execFence (c : Fin 16) (s : State) : Host.Outcome State Fault Refusal :=
  issue c (fun z => match z with
    | .fence => some id
    | _ => none) s

/-! ### Streams (R308 to R311, R383, R386) -/

def getStream (s : State) (k : Nat) : Stream := tget Stream.initial s.det.streams k
def setStream (k : Nat) (f : Stream → Stream) (s : State) : State :=
  { s with det := { s.det with streams := tmod Stream.initial s.det.streams k f } }

/-- Report of a stream's parity failure (Table 15.4): part 0 seed, 1 step counter, 2 scent context. -/
def reportStream (k part : Nat) (s : State) : State := report 0x60 4 0 (pack [(0, 4, k), (4, 2, part)]) s

/-- The check of a stream's seed and step counter at their use (R383). -/
def checkStream (k : Nat) (s : State) : State :=
  let s := if (getStream s k).seedBad then
      reportStream k 0 (setStream k (fun x => { x with broken := true, seedBad := false }) s) else s
  if (getStream s k).stepBad then
    reportStream k 1 (setStream k (fun x => { x with broken := true, stepBad := false }) s) else s

/-- The check of a scent context at its use (R383): a failure marks it spoiled. -/
def checkScent (k : Nat) (s : State) : State :=
  if (getStream s k).scentBad then
    reportStream k 2 (setStream k (fun x => { x with spoiled := true, scentBad := false }) s) else s

/-- Empty a scent context (R309). -/
def clearScent (k : Nat) (s : State) : State :=
  setStream k (fun x => { x with acc := 0, leaves := 0, spoiled := false, scentBad := false }) s

def execScrd (c : Fin 16) (s : State) : Host.Outcome State Fault Refusal :=
  issue c (fun z => match z with
    | .scrd p k => some fun s =>
      let s := checkScent k.toNat s
      let x := getStream s k.toNat
      let d := digest x.acc x.leaves
      if x.spoiled then placeSts c .poison s
      else placeSts c .ok (writeRegs c [(2 * p.toNat, word64 d 0), (2 * p.toNat + 1, word64 d 1)] s)
    | _ => none) s

def execScclr (c : Fin 16) (s : State) : Host.Outcome State Fault Refusal :=
  issue c (fun z => match z with
    | .scclr k => some (clearScent k.toNat)
    | _ => none) s

def execSteprd (c : Fin 16) (s : State) : Host.Outcome State Fault Refusal :=
  issue c (fun z => match z with
    | .steprd d k => some fun s =>
      let s := checkStream k.toNat s
      writeRegs c [(d.toNat, (getStream s k.toNat).step.zeroExtend 64)] s
    | _ => none) s

def execStepadd (c : Fin 16) (s : State) : Host.Outcome State Fault Refusal :=
  issue c (fun z => match z with
    | .stepadd a k => some fun s =>
      let v := (getCtx s c).reg a.toNat
      if v.toNat < 2 ^ 48 then
        placeSts c .ok (setStream k.toNat (fun x => { x with step := x.step + v.extractLsb' 0 48 }) (checkStream k.toNat s))
      else placeSts c .bounds s
    | _ => none) s

/-- Absorb the code words of one sector up to the first that is poisoned: how many were absorbed, and whether all were. -/
def absorbWords (k : Nat) : List CodeWord → State → Bool × State
  | [], s => (true, s)
  | w :: rest, s =>
    if w.poison then (false, s)
    else absorbWords k rest (setStream k (fun x => { x with acc := absorb x.acc w.data, leaves := x.leaves + 1 }) s)

/-- Absorb n code words from a kennel offset on, sector by sector (R308, R309): the status it ends with. -/
def absorbFrom (k cls off n : Nat) : Nat → State → Status × State
  | 0, s => (.ok, s)
  | fuel + 1, s =>
    if n = 0 then (.ok, s)
    else
      let m := min n (2 - off / 32 % 2)
      let offs := (List.range m).map fun i => off + 32 * i
      let s := checkSlots offs s
      let good := (offs.takeWhile fun o => (readRefused s [o]).isNone).length
      let r := engineRead 1 cls off (32 * good) s
      let a := absorbWords k r.1 r.2
      if !a.1 then (.poison, a.2)
      else if good < m then ((readRefused a.2 [off + 32 * good]).getD .poison, a.2)
      else absorbFrom k cls (off + 32 * m) (n - m) fuel a.2

/-- The operands of SCABS (R308). -/
def scabsOk (s : State) (a b : Word64) : Bool :=
  decide (a.toNat < 2 ^ 24) && decide (a.toNat % 32 = 0) && decide (b.toNat ≤ 2048)
    && decide (a.toNat + 32 * b.toNat ≤ kennelEnd s) && (b == 0 || !inStage s a.toNat (a.toNat + 32 * b.toNat))

/-- SCABS (R308 to R310): it completes one sc for each code word after its first data, one SCABS of a stream after another
(entry 18). -/
def execScabs (c : Fin 16) (s : State) : Host.Outcome State Fault Refusal :=
  issue c (fun z => match z with
    | .scabs a b k => some fun s =>
      let off := (getCtx s c).reg a.toNat
      let n := (getCtx s c).reg b.toNat
      if !scabsOk s off n then placeSts c .bounds s
      else if n = 0 then placeSts c .ok s
      else
        let p := openPend c z false false .nothing 1 true s
        let s := checkScent k.toNat p.2
        let due := max (s.env.sc + 17) ((getStream s k.toNat).busy + 1) + n.toNat
        let r := absorbFrom k.toNat (getCtx s c).cls off.toNat n.toNat n.toNat s
        let s := setStream k.toNat (fun x => { x with busy := due, spoiled := x.spoiled || decide (r.1 ≠ .ok) }) r.2
        completeSts due c p.1 r.1 s
    | _ => none) s

end Sys2Proof.Machine
end

