-- ==== Sys2Proof/Machine/Sideband.lean ====
section
/-! DEFINITION. The sideband (16_ports_and_signals R430 to R432): when a transaction acts, and its response. -/

namespace Sys2Proof.Machine

/-- What a sideband transaction never changes: the queue, the fuse stream, the phase, the identity, the wrapper. -/
def sbSettle (s t : State) : State :=
  { t with
    pending := s.pending
    fuse := s.fuse
    env := { t.env with idSlice := s.env.idSlice, idDie := s.env.idDie, idAgent := s.env.idAgent, idSub := s.env.idSub,
                        wir := s.env.wir, boundary := s.env.boundary, wsUndefined := s.env.wsUndefined,
                        phase := s.env.phase } }

/-- The response of a transaction: it leaves 3 sc after the transaction registers (Table 16.10). -/
def sbRespond (resp : BitVec 2) (data : Word32) (s : State) : State :=
  { s with out := { s.out with sb := s.out.sb ++ [{ leaves := s.env.sc + 3, resp := resp, data := data }] } }

/-- A transaction can register in this sc: one does in an sc, before every message (R430, R446). -/
def sbTurn (s : State) : Bool :=
  s.fg.held.isEmpty && s.env.done.taken.isEmpty && s.out.sb.all fun r => r.leaves != s.env.sc + 3

/-- A sideband transaction registers: it was accepted in the last sc, in which sb_rdy was 1 (R430, R432). One that comes after a
message, or a second one, registers in a later sc (entry 24). -/
def sideband (cmd : Instr) (s : State) (body : State → State) : Host.Outcome State Fault Refusal :=
  if s.env.wsUndefined then .fault .wrapperUndefined
  else if s.env.phase = .ready ∧ s.env.sbOpen then
    .next (if sbTurn s then sbSettle s (body s) else { s with fg := { s.fg with held := s.fg.held ++ [cmd] } })
  else .next s

/-- A write that answers OK; it acts unless the slice is FATAL (R403, R431). -/
def sbWriteOk (cmd : Instr) (s : State) (body : State → State) : Host.Outcome State Fault Refusal :=
  sideband cmd s fun s => sbRespond 0 0 (if s.saf.fatal then s else body s)

/-- A read that captures a shadow: its register is sampled at the end of the sc (R446). -/
def sbReadOk (cmd : Instr) (k : SbRead) (s : State) : Host.Outcome State Fault Refusal :=
  sideband cmd s fun s =>
    { s with out := { s.out with sb := s.out.sb ++ [{ leaves := s.env.sc + 3, resp := 0, data := 0, read := some k }] } }

end Sys2Proof.Machine
end

