-- ==== Sys2Proof/Machine/Intake.lean ====
section
/-! DEFINITION. How messages register: their order in an sc, the room of the ports, what their registering leaves, and the
configuration that it uses (04_coherence_protocol R121, R122; 16_ports_and_signals R417, R422 to R424; 15_containment_and_safety
R399, R403). -/

namespace Sys2Proof.Machine

/-- The place of a class in the intake of one sc (R121). No FWD message is received. -/
def intakeRank : MsgClass → Nat
  | .wb => 0 | .rsp => 1 | .mem => 2 | .req => 3 | .fwd => 4

/-- A message with a header: NDF continuation flits follow it at a mesh port, and its code words one by one at XP (Table 16.3). -/
def headed (cls : MsgClass) (h : Hdr) (words : Nat) : Arrival :=
  let n := if h.port = .xp then words else h.ndf
  { port := h.port, cls := cls, flits := 1 + n, alone := decide (n = 0), agent := h.agent, die := h.die,
    sub := h.txn.toNat / 2 ^ 14, line := h.line, label := h.label, labelled := false }

/-- A memory message (Table 16.9): XP takes one in an sc, so it needs no key. -/
def memArrival (words : Nat) : Arrival :=
  { port := .xp, cls := .mem, flits := 1 + words, alone := decide (words = 0), agent := 0, die := 0, sub := 0, line := 0,
    label := 0, labelled := true }

/-- How a message registers (Tables 4.2, 16.3 and 16.9); the other commands are no messages. -/
def arrivalOf : Instr → Option Arrival
  | .rds h _ _ | .rdx h _ _ | .rdu h _ _ | .upg h _ | .prefetch h _ | .reqUnassigned h _ => some (headed .req h 0)
  | .reserve h _ _ | .commit h _ _ | .take h _ _ | .free h _ _ | .credit h _ _ | .chopReserved h _ => some (headed .req h 0)
  | .wrfull h d | .wrpart h _ d | .atreq h _ d | .pkctb h _ _ _ _ d => some (headed .req h d.length)
  | .callMessage h _ _ _ => some { headed .req h 1 with labelled := true }
  | .wbd h _ d => some (headed .wb h d.length)
  | .evc h | .wbUnassigned h _ => some (headed .wb h 0)
  | .snprsp h _ _ d | .atrsp h _ _ d | .callrsp h _ _ d => some (headed .rsp h d.length)
  | .cmp h | .sts h _ | .pkrsp h _ => some (headed .rsp h 0)
  | .datau h _ d => some { headed .rsp h d.length with
      flits := if h.port = .xp then 1 + d.length else max 1 (ceilDiv d.length 2), alone := false }
  | .xrsp _ _ _ words => some (memArrival words.length)
  | .xack _ _ | .memUnassigned _ _ => some (memArrival 0)
  | _ => none

/-- The keys of R121 and R422 as one number: class, source agent, source die, TXN bits 15:14, port. -/
def Arrival.key (a : Arrival) : Nat :=
  (((intakeRank a.cls * 256 + a.agent % 256) * 32 + a.die % 32) * 4 + a.sub) * 4 + portRank a.port

/-- A port has room for one more message in an sc (R121): a mesh port takes one data flit, or two headers that share an H flit, of
one class (R417); XP takes one message. -/
def portRoom (taken : List Arrival) (a : Arrival) : Bool :=
  match taken.filter fun b => b.port == a.port with
  | [] => true
  | [b] => a.port != .xp && a.alone && b.alone && b.cls == a.cls
  | _ => false

/-- A message can register in this sc (R121, R122): none waits before it, its port has room and awaits no replay, and none that
comes after it in the order of the sc has been taken. -/
def inTurn (s : State) (a : Arrival) : Bool :=
  s.fg.held.isEmpty && portOpen s a.port && portRoom s.env.done.taken a && s.env.done.taken.all fun b => decide (b.key ≤ a.key)

/-- The code words of a message that came through XP are charged to its class (Table 12.1, R350); those of an XRsp, to the class of
its entry, are charged where it is taken. -/
def chargeCrossing (a : Arrival) (s : State) : State :=
  if a.port = .xp ∧ a.cls ≠ .mem ∧ 1 < a.flits then
    chargeXp (if a.labelled then a.label % 16 else classOf s a.line a.label) (a.flits - 1) s
  else s

/-- What the registering of a message leaves beside its own effect: the credits of its flits are owed to the sender (R423), no flit
of the port is failing its check (R424), and the reclamation walk takes no set in this sc (R149). -/
def registered (a : Arrival) (s : State) : State :=
  let s := chargeCrossing a s
  { s with
    env := { s.env with done := { s.env.done with intake := true, taken := a :: s.env.done.taken } }
    lnk := { s.lnk with rxFail := terase s.lnk.rxFail (portRank a.port)
                        rxOwed := tmod 0 s.lnk.rxOwed (portRank a.port * 8 + channelOf a.cls) (· + a.flits) } }

/-- In FATAL every function is muzzled (R403, Table 15.3): active transactions end, owed replies are sent and what waits on a
channel is answered, with MUZZLED. The muzzle bits stay as they are. -/
def allMuzzled (s : State) : State :=
  let s := (List.range 16).foldl (fun s b => if bit s.coh.muzBanks b then s else endBank b s) s
  let s := (List.range 16).foldl (fun s c => owedReply c .muzzled s) s
  (s.ken.ch.map Prod.fst).foldl (fun s ch =>
    if (chanOf s ch).muz then s else answerWaiting ch .muzzled (returnCredits ch s)) s

/-- The check of configuration fields, by register offset in words, at their use (R399). -/
def useConfig (words : List Nat) (s : State) : State :=
  if s.saf.fatal then s
  else match words.find? fun w => s.saf.cfgBad.contains w with
    | some w => allMuzzled (enterFatal 3 w s)
    | none => s

/-- The configuration fields that the taking of a message uses: its routing and its class where it is a REQ, and NCLUST
(R107, R158, R337). -/
def Arrival.uses (s : State) (a : Arrival) : List Nat :=
  match a.cls with
  | .req => [0x1000, 0x1400, 0x1800] ++ if s.reg.mode && !a.labelled then [0x1809, 0x180A, 0x180B] else []
  | .wb => [0x1400]
  | _ => []

/-- The checks of configuration parity and of the monitor's own state (R399, R403). -/
def checkConfig (s : State) : State :=
  if s.saf.fatal then s
  else match s.saf.cfgBad with
    | i :: _ => allMuzzled (enterFatal 3 i s)
    | [] => if s.saf.monBad then allMuzzled (enterFatal 4 0 s) else s

/-- A message registers, and has its effect. DESIGN CHOICE (entry 24): one that cannot register in this sc does so in a later
one. -/
def receive (cmd : Instr) (s : State) (body : State → State) : Host.Outcome State Fault Refusal :=
  event s fun s =>
    match arrivalOf cmd with
    | none => s
    | some a =>
      if inTurn s a then registered a (body (useConfig (a.uses s) s))
      else { s with fg := { s.fg with held := s.fg.held ++ [cmd] } }

/-- The first of the messages and transactions that wait to register can do so in this sc (R121, R430): it, and those after it. -/
def heldNext (s : State) : Option (Instr × List Instr) :=
  match s.fg.held with
  | [] => none
  | c :: rest =>
    let s := { s with fg := { s.fg with held := [] } }
    let turn := match arrivalOf c with
      | some a => inTurn s a
      | none => sbTurn s
    if turn then some (c, rest) else none

end Sys2Proof.Machine
end

