-- ==== Sys2Proof/Machine/Requests.lean ====
section
/-! DEFINITION. The messages that the home, the kennels and the channels take, and the events of the home
(03_cache_behaviour, 04_coherence_protocol, 05_coherence_failures, 06_kennels_and_channels, 08_atomic_updates). -/

namespace Sys2Proof.Machine

/-! ### What every REQ meets -/

/-- Flits that carry n code words after a header: two per flit at MPA and MPB (R417). -/
def dataFlitCount (n : Nat) : Nat := ceilDiv n 2

/-- The status that refuses a REQ before anything else is looked at (R403, R436, R107, R145, R420). -/
def reqRefused (s : State) (h : Hdr) (parks : Bool) (framed : Bool) : Option Status :=
  if s.saf.fatal then some .muzzled
  else if parks && draining s then some .parked
  else if badSource s h.agent h.die then some .bounds
  else if !framed then some .bounds
  else none

/-- A REQ of a kind at a port: the refusals, which change nothing (R10), then its service. -/
def takeReq (h : Hdr) (parks framed : Bool) (s : State) (serve : State → State) : State :=
  match reqRefused s h parks framed with
  | some st => answerSts h st s
  | none => serve s

/-- The request of a header. -/
def mkReq (s : State) (kind : ReqKind) (h : Hdr) (mask : BitVec 4) (crit : BitVec 2) (cw : BitVec 8) (data : List CodeWord)
    (op : AtomOp) : Req :=
  { kind := kind, port := h.port, agent := h.agent, die := h.die, txn := h.txn, line := h.line, label := h.label,
    cls := classOf s h.line h.label, mask := mask, crit := crit, cwMask := cw, data := data, op := op,
    internal := false }

/-! ### Kennel requests (R158 to R162, R173, R174) -/

/-- Kennel offsets of the code words of a line that a mask names. -/
def cwOffsets (off : Nat) (cw : BitVec 8) : List Nat := (bitsOf cw).map fun k => off + 32 * k

/-- The code words of named sectors. -/
def sectorWords (mask : BitVec 4) : BitVec 8 := maskOf 8 ((bitsOf mask).flatMap fun i => [2 * i, 2 * i + 1])

/-- The status that refuses an access of a holder to code words of a line in the window (R158, R159, R162, R173, R174): off35
is the line's offset in the window. -/
def kennelRefused (s : State) (off35 : Nat) (holder : BitVec 14) (isWrite : Bool) (cw : BitVec 8) : Option Status :=
  let off := off35 % 2 ^ 24
  let offs := cwOffsets off cw
  if !kennelOk s off35 then some .bounds
  else if offs.any fun o => inStage s o (o + 32) then some .bounds
  else if isWrite then writeRefused s (some holder) offs
  else readRefused s offs

/-- A kennel access is refused: a read with POISON or MUZZLED as its data would have left (R32, R174), anything else 9 sc after
the header. -/
def refuseKennel (st : Status) (r : Req) (off : Nat) (s : State) : State :=
  if r.kind = .rdu ∧ (st = .poison ∨ st = .muzzled) then
    enqueue (readAccess (s.env.sc + 6) r.cls 0 true ((bitsOf r.mask).map fun i => kennelLoc (off + 64 * i) / 2)
      (.timed r .none 8 st [])) s
  else respondSts r st (s.env.sc + 9) .none s

/-- A kennel read or write of an agent (R160, R173, R174). -/
def kennelServe (off35 : Nat) (r : Req) (s : State) : State :=
  let off := off35 % 2 ^ 24
  let isWrite := r.kind == .wrfull || r.kind == .wrpart
  let cw := if isWrite then r.cwMask else sectorWords r.mask
  let s := if kennelOk s off35 then checkSlots (cwOffsets off cw) s else s
  match kennelRefused s off35 (agentHolder r.agent r.die) isWrite cw with
  | some st => refuseKennel st r off s
  | none =>
    let s := countReq true r s
    if isWrite then
      let words := r.words.map fun p => (kennelLoc (off + 32 * p.1), p.2)
      respond r 6 .none [] (s.env.sc + 9) .none (enqueue (writeAccess (s.env.sc + 6) r.cls 0 true words .write) s)
    else
      let secs := (bitsOf r.mask).map fun i => kennelLoc (off + 64 * i) / 2
      enqueue (readAccess (s.env.sc + 6) r.cls 0 true secs (.kennel r)) s

/-! ### Reads and ownership (rows RDS to RDU) -/

/-- A read: it is served by the kennel, where every kind is RdU, or by the home (R110, R119); its critical sector must be one of
those it names (R78). An Upg has no critical sector, and at the home may name none. -/
def serveRead (kind : ReqKind) (h : Hdr) (mask : BitVec 4) (crit : BitVec 2) (s : State) : State :=
  let r := mkReq s kind h mask crit 0 [] default
  match kennelLine s h.line with
  | some off => if bit mask crit.toNat then kennelServe off { r with kind := .rdu } s else answerSts h .bounds s
  | none =>
    if kind = .upg then (if caching s h.agent h.die then homeRequest r s else answerSts h .bounds s)
    else if bit mask crit.toNat then homeRequest r s
    else answerSts h .bounds s

def execRds (h : Hdr) (mask : BitVec 4) (crit : BitVec 2) (s : State) : Host.Outcome State Fault Refusal :=
  receive (.rds h mask crit) s fun s => takeReq h true (decide (h.ndf = 0)) s (serveRead .rds h mask crit)

def execRdx (h : Hdr) (mask : BitVec 4) (crit : BitVec 2) (s : State) : Host.Outcome State Fault Refusal :=
  receive (.rdx h mask crit) s fun s => takeReq h true (decide (h.ndf = 0)) s (serveRead .rdx h mask crit)

def execRdu (h : Hdr) (mask : BitVec 4) (crit : BitVec 2) (s : State) : Host.Outcome State Fault Refusal :=
  receive (.rdu h mask crit) s fun s => takeReq h true (decide (h.ndf = 0)) s (serveRead .rdu h mask crit)

/-- UPG names the sectors it holds; the first of them counts as critical where data is sent (R129). -/
def execUpg (h : Hdr) (mask : BitVec 4) (s : State) : Host.Outcome State Fault Refusal :=
  receive (.upg h mask) s fun s =>
    takeReq h true (decide (h.ndf = 0)) s (serveRead .upg h mask (BitVec.ofNat 2 ((bitsOf mask).headD 0)))

/-! ### Writes (rows WRFULL, WRPART) -/

/-- A write of the code words named (R131, R132). -/
def serveWrite (h : Hdr) (cw : BitVec 8) (data : List CodeWord) (s : State) : State :=
  if cw = 0 then answerSts h .bounds s
  else
    let r := mkReq s (if cw = 255 then .wrfull else .wrpart) h 0 0 cw data default
    match kennelLine s h.line with
    | some off => kennelServe off r s
    | none => homeRequest r s

def execWrfull (h : Hdr) (data : List CodeWord) (s : State) : Host.Outcome State Fault Refusal :=
  receive (.wrfull h data) s fun s =>
    takeReq h true (decide (h.ndf = 4) && decide (data.length = 8)) s (serveWrite h 255 data)

def execWrpart (h : Hdr) (cw : BitVec 8) (data : List CodeWord) (s : State) : Host.Outcome State Fault Refusal :=
  let n := (bitsOf cw).length
  receive (.wrpart h cw data) s fun s =>
    takeReq h true (decide (h.ndf = dataFlitCount n) && decide (data.length = n)) s (serveWrite h cw data)

/-! ### Prefetch (R95, R96, R123, R151) -/

/-- A prefetch is dropped and counted (R95). -/
def dropPf (s : State) : State :=
  { s with bg := { s.bg with tel := { s.bg.tel with pfDrop := satAdd 65535 s.bg.tel.pfDrop 1 } } }

/-- The fetch buffer entry that a new prefetch takes (R96), with the state that has it free. -/
def takeFb (s : State) : Option (Nat × State) :=
  match tfree s.cache.fb 32 with
  | some k => some (k, s)
  | none =>
    let old := (s.cache.fb.filter fun p => p.2.asked == p.2.got).foldl (fun (b : Option (Nat × Prefetched)) p => match b with
      | none => some p
      | some q => if p.2.order < q.2.order then some p else some q) none
    old.map fun p => (p.1, { s with cache := { s.cache with fb := terase s.cache.fb p.1 }
                                    bg := { s.bg with tel := { s.bg.tel with
                                      fbUnused := satAdd 65535 s.bg.tel.fbUnused 1 } } })

/-- A prefetch of the line need not be dropped on account of it: it is U, in no miss entry, eviction buffer entry or fetch buffer
entry, and holds no poisoned code word (R95, R123, R151). -/
def pfAllowed (s : State) (line : LineAddr) : Bool :=
  !lineActive s line && !(s.cache.miss.any fun p => p.2.line == line)
    && !leaving s line && (s.cache.fb.all fun p => p.2.line != line)
    && !bit s.coh.muzBanks (tagBank (lineSet line))
    && (match findWay s line with
      | some way =>
        let e := tagAt s (lineSet line) way
        e.dst == dirU && !namesPoison s (lineSet line) way e.sv
      | none => true)

/-- A prefetch of a line in a class (R95), which is reclaimed first (R149). DESIGN CHOICE (entry 52): a prefetch has no critical
sector; its fetch begins at the lowest-numbered sector it asks for (R86). -/
def prefetchLine (line : LineAddr) (cls : Nat) (mask : BitVec 4) (s : State) : State :=
  let s := match findWay s line with
    | some way => reclaimEntry (lineSet line) way s
    | none => s
  let valid := match findWay s line with
    | some way => (tagAt s (lineSet line) way).sv
    | none => 0
  let want := mask &&& ~~~valid
  if !s.cache.fbEn || want == 0 || (kennelLine s line).isSome || !pfAllowed s line then dropPf s
  else match takeFb s with
    | none => dropPf s
    | some (k, s) =>
      let f : Prefetched := { line := line, cls := cls, asked := want, got := 0, pois := 0, buf := [], doomed := false, into := none,
                              order := s.cache.fbOrder }
      let s := { s with cache := { s.cache with fb := tput s.cache.fb k f, fbOrder := s.cache.fbOrder + 1 } }
      xpRead (32 + k) line cls want (2 * (bitsOf want).headD 0) s

/-- PREFETCH (R95). DESIGN CHOICE (entry 54): no response is ever sent to a Pf; one that a REQ would be refused for is dropped,
and counted where the refusal is PARKED, but changes no state where it is BOUNDS (R107, R145). -/
def execPrefetch (h : Hdr) (mask : BitVec 4) (s : State) : Host.Outcome State Fault Refusal :=
  receive (.prefetch h mask) s fun s =>
    match reqRefused s h true (decide (h.ndf = 0)) with
    | some .parked => dropPf s
    | some _ => s
    | none =>
      let c := classOf s h.line h.label
      lookUp h.line (.pf h.line c mask) (countStore c false s) (prefetchLine h.line c mask)

/-! ### Unassigned opcodes (R113, R426) -/

def execReqUnassigned (h : Hdr) (op : BitVec 4) (s : State) : Host.Outcome State Fault Refusal :=
  receive (.reqUnassigned h op) s fun s => takeReq h false true s fun s => answerSts h .bounds s

/-- A source that R107 answers with BOUNDS whatever it sends. -/
def outsider (s : State) (h : Hdr) : Bool := badSource s h.agent h.die && !goneAgent s h.agent h.die

/-- A WB-class message (R107, R109, R403): sunk with WbAck in FATAL. -/
def takeWb (h : Hdr) (s : State) (act : State → State) : State :=
  if s.saf.fatal then ackNow h s else if outsider s h then answerSts h .bounds s else act s

/-- A WB-class message with an unassigned opcode is sunk (R113, R109). -/
def execWbUnassigned (h : Hdr) (op : BitVec 4) (s : State) : Host.Outcome State Fault Refusal :=
  receive (.wbUnassigned h op) s fun s =>
    takeWb h s fun s => ackNow h (protocolEvent h.line (lineTrans s h.line) h.agent false s)

/-! ### Writebacks and snoop answers -/

/-- A writeback at the home, after its lookup (R75, R346). -/
def takeWriteBack (h : Hdr) (mask : BitVec 4) (data : List CodeWord) (framed : Bool) (s : State) : State :=
  takeWb h s fun s => lookUp h.line (.wb h mask data framed) s (writeBack h mask data framed)

def execWbd (h : Hdr) (mask : BitVec 4) (data : List CodeWord) (s : State) : Host.Outcome State Fault Refusal :=
  let n := (bitsOf mask).length
  receive (.wbd h mask data) s (takeWriteBack h mask data (decide (h.ndf = n) && decide (data.length = 2 * n)))

def execEvc (h : Hdr) (s : State) : Host.Outcome State Fault Refusal :=
  receive (.evc h) s (takeWriteBack h 0 [] (decide (h.ndf = 0)))

/-- SNPRSP (R107, R114, R346). -/
def execSnprsp (h : Hdr) (outcome : BitVec 3) (mask : BitVec 4) (data : List CodeWord) (s : State) :
    Host.Outcome State Fault Refusal :=
  receive (.snprsp h outcome mask data) s fun s =>
    if s.saf.fatal then s
    else if outsider s h then answerSts h .bounds s
    else lookUp h.line (.snp h outcome.toNat mask data) s (snoopAnswer h outcome.toNat mask data)

/-! ### Tag stage 4 (R75 to R77) -/

/-- The check of a message's set in tag stage 4, and the message after it. -/
def landCheck (c : Check) (s : State) : State :=
  match c with
  | .req r fresh => checkLookup r.line (admitRequest fresh r) s
  | .wb h mask data framed => checkLookup h.line (writeBack h mask data framed) s
  | .snp h outcome mask data => checkLookup h.line (snoopAnswer h outcome mask data) s
  | .pf line cls mask => checkLookup line (prefetchLine line cls mask) s

/-- The checks of tag stage 4 in this sc. -/
def landChecks (s : State) : State :=
  let due := s.coh.checks.filter fun p => decide (p.1 ≤ s.env.sc)
  due.foldl (fun s p => landCheck p.2 s)
    { s with coh := { s.coh with checks := s.coh.checks.filter fun p => !decide (p.1 ≤ s.env.sc) } }

/-! ### XP memory messages (R426 to R429) -/

def execXrsp (txn : BitVec 16) (status : BitVec 5) (mask : BitVec 8) (words : List (BitVec 3 × CodeWord)) (s : State) :
    Host.Outcome State Fault Refusal :=
  receive (.xrsp txn status mask words) s fun s =>
    if s.saf.fatal then s else xpResponse txn.toNat status ((words.map fun p => (p.1.toNat, p.2)).filter fun p => bit mask p.1) s

def execXack (txn : BitVec 16) (status : BitVec 5) (s : State) : Host.Outcome State Fault Refusal :=
  receive (.xack txn status) s fun s => if s.saf.fatal then s else xpAck txn.toNat status s

def execMemUnassigned (op : BitVec 4) (txn : BitVec 16) (s : State) : Host.Outcome State Fault Refusal :=
  receive (.memUnassigned op txn) s fun s => if s.saf.fatal then s else unexpectedMem s

/-! ### Atomics (R470) -/

/-- AtRsp with a status and no data. -/
def atRefuse (h : Hdr) (st : Status) (s : State) : State :=
  answer h 0xB (.atRsp st 0) [] (s.env.sc + 9) .none (countNack st (if st = .poison then countAtom .poison s else s))

/-- The request of an atomic: it names the sector of its code word. -/
def atomReq (s : State) (h : Hdr) (op : AtomOp) (data : List CodeWord) : Req :=
  let cw := op.cw.toNat
  mkReq s .atom h (maskOf 4 [cw / 2]) (BitVec.ofNat 2 (cw / 2)) (maskOf 8 [cw]) data op

/-- An atomic on a kennel code word (R226): served as a hit. -/
def kennelAtom (off35 : Nat) (who : AtomParty) (holder : BitVec 14) (op : AtomOp) (opnd cmp : Code) (cls : Nat)
    (refuse : Status → State → State) (s : State) : State :=
  let off := off35 % 2 ^ 24
  let cw := maskOf 8 [op.cw.toNat]
  let s := if kennelOk s off35 then checkSlots (cwOffsets off cw) s else s
  match kennelRefused s off35 holder true cw with
  | some st => refuse st s
  | none =>
    let s := match who with
      | .agent _ => countStore cls false s
      | .ctx _ _ _ => s
    enqueue (readAccess (s.env.sc + 6) cls (match who with
      | .agent _ => 0
      | .ctx _ _ _ => 2) true [kennelLoc (off + 32 * op.cw.toNat) / 2] (.atomRead who op opnd cmp false)) s

/-- ATREQ (R223, R470): the cases in their order. -/
def execAtreq (h : Hdr) (op : AtomOp) (data : List CodeWord) (s : State) : Host.Outcome State Fault Refusal :=
  receive (.atreq h op data) s fun s =>
    if atomOff s then atRefuse h .muzzled s
    else if draining s then atRefuse h .parked s
    else if badSource s h.agent h.die || !decide (h.ndf = 1) || !atomValid op
        || !decide (data.length = atomOperands op) then atRefuse h .bounds s
    else
      let r := atomReq s h op data
      match kennelLine s h.line with
      | some off =>
        kennelAtom off (.agent r) (agentHolder h.agent h.die) op r.operand r.compare r.cls (atRefuse h) s
      | none => homeRequest r s

/-! ### Channel operations of agents (R168 to R172, R177) -/

/-- A channel REQ: it takes no coherence action and its class is its label (R337). -/
def takeChannel (h : Hdr) (parks : Bool) (s : State) (serve : State → State) : State :=
  let s := noisy s
  match reqRefused s h parks (decide (h.ndf = 0)) with
  | some st => answer h 0xC (.chRsp st 0 0) [] (s.env.sc + 9) .none s
  | none => serve s

def execReserve (h : Hdr) (blocking : Bool) (ch : BitVec 8) (s : State) : Host.Outcome State Fault Refusal :=
  receive (.reserve h blocking ch) s fun s => takeChannel h true s (doReserve ch.toNat blocking (.agent h))

def execCommit (h : Hdr) (ch : BitVec 8) (slot : BitVec 16) (s : State) : Host.Outcome State Fault Refusal :=
  receive (.commit h ch slot) s fun s => takeChannel h false s (doCommit ch.toNat slot.toNat (h.label % 16) (.agent h))

def execTake (h : Hdr) (blocking : Bool) (ch : BitVec 8) (s : State) : Host.Outcome State Fault Refusal :=
  receive (.take h blocking ch) s fun s => takeChannel h true s (doTake ch.toNat blocking (.agent h))

def execFree (h : Hdr) (ch : BitVec 8) (slot : BitVec 16) (s : State) : Host.Outcome State Fault Refusal :=
  receive (.free h ch slot) s fun s => takeChannel h false s (doFree ch.toNat slot.toNat (.agent h))

def execCredit (h : Hdr) (tgt : BitVec 10) (count : BitVec 9) (s : State) : Host.Outcome State Fault Refusal :=
  receive (.credit h tgt count) s fun s => takeChannel h false s (doCredit h tgt.toNat count.toNat)

/-- A channel REQ with a reserved CHOP (R169). -/
def execChopReserved (h : Hdr) (chop : BitVec 4) (s : State) : Host.Outcome State Fault Refusal :=
  receive (.chopReserved h chop) s fun s => takeChannel h false s (chAnswer (.agent h) .bounds 0 0)

/-! ### Events of the home -/

/-- The first tracker entry, and the first transaction without one, that has ended (R120). -/
def endedTracker (s : State) : Option Nat :=
  (s.coh.trk.find? fun p => match p.2.endsAt with
    | some e => decide (e ≤ s.env.sc)
    | none => false).map Prod.fst

def endedActive (s : State) : Option Nat :=
  (s.coh.active.find? fun a => match a.endsAt with
    | some e => decide (e ≤ s.env.sc)
    | none => false).map fun a => a.id

/-- TRANSACTION_END (R120, R126): a held WbAck leaves in this sc where its port is free. -/
def execTransactionEnd (s : State) : Host.Outcome State Fault Refusal :=
  event s fun s => match endedTracker s, endedActive s with
    | some i, _ => startPort .mpb (startPort .mpa (endTracker i s))
    | none, some k => endActive k s
    | none, none => s

/-- A reservation whose 512 sc have passed (R126). -/
def expiredResv (s : State) : Option Resv := s.coh.resv.find? fun v => v.running == some 0

/-- RESERVATION_EXPIRY (R126). -/
def execReservationExpiry (s : State) : Host.Outcome State Fault Refusal :=
  event s fun s => match expiredResv s with
    | some v => { s with coh := { s.coh with resv := s.coh.resv.erase v } }
    | none => s

def homeTimeoutDue (s : State) : Bool := s.coh.trk.any fun p => expired s p.2

/-- HOME_TIMEOUT (R139 to R142). -/
def execHomeTimeout (s : State) : Host.Outcome State Fault Refusal := eventIf homeTimeoutDue s fun s => afterDeath s (homeTimeouts s)

/-- AGENT_DOWN (R144). -/
def execAgentDown (agent : BitVec 8) (s : State) : Host.Outcome State Fault Refusal :=
  event s fun s => afterDeath s (declareDead agent.toNat 2 s)

/-- The reclamation walk takes a set in an sc in which intake presents no message (R149); it pauses while parked (R437). -/
def reclaimDue (s : State) : Bool := s.coh.reclaim.isSome && !s.env.done.intake && !s.env.done.reclaim && !s.env.pkAck

/-- RECLAIM_WALK_STEP (R148, R149, R155). -/
def execReclaimWalkStep (s : State) : Host.Outcome State Fault Refusal :=
  eventIf reclaimDue s fun s => match s.coh.reclaim with
    | none => s
    | some set =>
      let s := if bit s.coh.muzBanks (tagBank set) then s
        else (openWays s).foldl (fun s w => reclaimEntry set w s) s
      { s with coh := { s.coh with reclaim := if set + 1 < 4096 then some (set + 1) else none }
               env := { s.env with done := { s.env.done with reclaim := true } } }

/-- A waiting request can go on: its line is there for it, and what a write to XP or a stalled transaction lacked is free. -/
def canResume (s : State) (r : Req) : Bool :=
  if r.internal then (freeEvict s).isSome
  else match trackerOf s r.line with
    | some i =>
      if (getTracker s i).stalled && decide ((getTracker s i).req = some r) then (serveHome (some i) r s).isSome
      else !mustWait false s r
    | none => !mustWait false s r && !((r.str || (cacheOff s && !r.kind.isRead && r.kind != .atom))
        && (findWay s r.line).isNone && (freeEvict s).isNone)

/-- A waiting request that goes on, where a start of R346 is free: of one line the first (R122), of these the highest level,
then in order. -/
def resumable (s : State) : Option Req :=
  if s.env.done.lookup then none
  else
    let firsts := s.cache.waiters.foldl (fun (l : List Req) r =>
      if l.any fun q => q.line == r.line && !q.internal && !r.internal then l else l ++ [r]) []
    (firsts.filter (canResume s)).foldl (fun (b : Option Req) r => match b with
      | none => some r
      | some q => if level s q.cls < level s r.cls then some r else some q) none

/-- WAITED_REQUEST_RESUME (R94, R346). -/
def execWaitedRequestResume (s : State) : Host.Outcome State Fault Refusal :=
  event s fun s => match resumable s with
    | none => s
    | some r =>
      let t := { s with cache := { s.cache with waiters := s.cache.waiters.erase r }
                        env := { s.env with done := { s.env.done with lookup := true } } }
      if r.internal then writeThrough none r t else lookUp r.line (.req r false) t (admitRequest false r)

end Sys2Proof.Machine
end

