-- ==== Sys2Proof/Machine/Loads.lean ====
section
/-! DEFINITION. Loads, stores, prefetch, tiles and atomics of the contexts (10_zellek_instruction_set R275 to R279, R285 to R294,
R306). -/

namespace Sys2Proof.Machine

/-! ### Addresses and lines (R275, R276) -/

/-- The effective address. -/
def effAddr (g : Word64) (imm : BitVec 32) : Word64 := g + imm.signExtend 64

/-- An address in range and aligned to k bytes (R275, R472). -/
def addrOk (a : Word64) (k : Nat) : Bool := decide (a.toNat < 2 ^ 48) && decide (a.toNat % k = 0)

/-- The offset of a line in this slice's own kennel window (R158, R276). -/
def ownKennel (s : State) (line : LineAddr) : Option Nat :=
  match kennelLine s line with
  | some off => if off / 2 ^ 24 = s.env.idSlice.toNat then some off else none
  | none => none

/-- The line of code word k counted from an address, and the place of the code word in it. -/
def cwLine (a k : Nat) : LineAddr := BitVec.ofNat 40 ((a + 32 * k) % 2 ^ 48 / 256)
def cwPlace (a k : Nat) : Nat := (a + 32 * k) / 32 % 8

/-- Code words of an instruction that lie in one line: (place in the line, number within the instruction). -/
structure LinePart where
  line : LineAddr
  cws : List (Nat × Nat)
deriving DecidableEq, Repr

/-- The lines that code words touch, in order. -/
def lineParts (a : Nat) (ks : List Nat) : List LinePart :=
  ((ks.map (cwLine a)).dedup).map fun l =>
    { line := l, cws := (ks.filter fun k => cwLine a k = l).map fun k => (cwPlace a k, k) }

/-- The code words of the line that a part names. -/
def LinePart.mask (p : LinePart) : BitVec 8 := maskOf 8 (p.cws.map Prod.fst)

/-- Where each code word stands among the words of the sectors it needs. -/
def LinePart.want (p : LinePart) : List (Nat × Nat) :=
  let secs := bitsOf (sectorsOf p.mask)
  p.cws.map fun w => (2 * secs.idxOf (w.1 / 2) + w.1 % 2, w.2)

/-- A request that a context sends through MP egress: its H flit leaves 4 sc after issue (entry 19). -/
def ctxRequest (s : State) (c op : Nat) (line : LineAddr) (body : Body) (data : List CodeWord) : OutMsg :=
  originMsg s .req op 255 s.env.idDie.toNat line (getCtx s c).cls body data (s.env.sc + 4)

/-- The check of a local access, as of an agent's (R162, R173, R174, R286, R436), and the state after the checks of R187. -/
def localCheck (off35 : Nat) (c : Nat) (isWrite : Bool) (mask : BitVec 8) (s : State) : Option Status × State :=
  if draining s then (some .parked, s)
  else
  let s := if kennelOk s off35 then checkSlots (cwOffsets (off35 % 2 ^ 24) mask) s else s
  (kennelRefused s off35 (ctxHolder c) isWrite mask, s)

/-! ### Loads (R279, R285, R286) -/

/-- One line of a load. -/
def loadPart (c id : Nat) (p : LinePart) (s : State) : State :=
  match ownKennel s p.line with
  | some off35 =>
    let r := localCheck off35 c false p.mask s
    match r.1 with
    | some st => partDone c id [] (some st) (s.env.sc + 17) r.2
    | none =>
      let secs := (bitsOf (sectorsOf p.mask)).map fun i => kennelLoc (off35 % 2 ^ 24 + 64 * i) / 2
      enqueue (readAccess (s.env.sc + 6) (getCtx s c).cls 2 true secs (.seqRead c id p.want)) r.2
  | none =>
    let secs := sectorsOf p.mask
    originate (some (.seqRead c id p.want))
      (ctxRequest s c 3 p.line (.readReq secs (BitVec.ofNat 2 ((bitsOf secs).headD 0))) []) s

/-- Load code words for an instruction: it is long where a part of it leaves the slice (R248). -/
def startLoad (c : Nat) (z : Zellek) (a : Nat) (ks : List Nat) (gather : Gather) (s : State) : State :=
  let parts := lineParts a ks
  let long := parts.any fun p => (ownKennel s p.line).isNone
  let n := openPend c z long false gather parts.length true s
  parts.foldl (fun s p => loadPart c n.1 p s) n.2

def execLdw (c : Fin 16) (s : State) : Host.Outcome State Fault Refusal :=
  issue c (fun z => match z with
    | .ldw g a imm => some fun s =>
      let e := effAddr ((getCtx s c).reg a.toNat) imm
      if addrOk e 32 then startLoad c z e.toNat [0] (.load (4 * g.toNat) none) s else placeSts c .bounds s
    | _ => none) s

def execLdd (c : Fin 16) (s : State) : Host.Outcome State Fault Refusal :=
  issue c (fun z => match z with
    | .ldd d a imm => some fun s =>
      let e := effAddr ((getCtx s c).reg a.toNat) imm
      if addrOk e 8 then startLoad c z (e.toNat / 32 * 32) [0] (.load d.toNat (some (e.toNat / 8 % 4))) s
      else placeSts c .bounds s
    | _ => none) s

/-- The code words that the named blocks of a tile load occupy (R288). -/
def tileWords (f : TileForm) (mask : BitVec 4) : List Nat :=
  let z := f.stride
  ((bitsOf mask).flatMap fun b => (List.range ((z * b + z - 1) / 32 - z * b / 32 + 1)).map fun i => z * b / 32 + i).dedup

/-- TLD (R288, R289). -/
def execTld (c : Fin 16) (s : State) : Host.Outcome State Fault Refusal :=
  issue c (fun z => match z with
    | .tld t a mask f imm => some fun s =>
      let e := effAddr ((getCtx s c).reg a.toNat) imm
      if mask ≠ 0 ∧ addrOk e (if f = .image then 64 else 32) then
        startLoad c z e.toNat (tileWords f mask) (.tile t.toNat mask f.code.toNat) s
      else placeSts c .bounds s
    | _ => none) s

/-! ### Stores (R279, R285, R286, R290, R291) -/

/-- The words of a part of a store, by place in the line. -/
def LinePart.words (p : LinePart) (words : List Code) : Table CodeWord :=
  p.cws.foldl (fun t w => tput t w.1 (plain (words.getD w.2 0))) []

/-- One line of a store that has passed its checks. -/
def storePart (c id : Nat) (words : List Code) (p : LinePart) (s : State) : State :=
  let data := p.words words
  match ownKennel s p.line with
  | some off35 =>
    let table := data.map fun w => (kennelLoc (off35 % 2 ^ 24 + 32 * w.1), w.2)
    enqueue (writeAccess (s.env.sc + 6) (getCtx s c).cls 2 true table (.store c id)) s
  | none =>
    let full := decide (data.length = 8)
    originate (some (.seqStore c id))
      (ctxRequest s c (if full then 4 else 5) p.line (if full then .none else .cwMask p.mask) (data.map Prod.snd)) s

/-- The local parts of a store are checked first: the status of the first that is refused. -/
def storeRefused (c : Nat) : List LinePart → State → Option Status × State
  | [], s => (none, s)
  | p :: rest, s =>
    match ownKennel s p.line with
    | none => storeRefused c rest s
    | some off35 =>
      let r := localCheck off35 c true p.mask s
      match r.1 with
      | some st => (some st, r.2)
      | none => storeRefused c rest r.2

/-- Store code words for an instruction; sat is the register and the count that success writes (R291). -/
def startStore (c : Nat) (z : Zellek) (a : Nat) (words : List Code) (sat : Option (Nat × Nat)) (s : State) : State :=
  let parts := lineParts a (List.range words.length)
  let long := parts.any fun p => (ownKennel s p.line).isNone
  let r := storeRefused c parts s
  match r.1 with
  | some st =>
    let n := openPend c z false true (.store none) 1 true r.2
    completeSts (s.env.sc + 14) c n.1 st n.2
  | none =>
    let n := openPend c z long true (.store sat) parts.length true r.2
    parts.foldl (fun s p => storePart c n.1 words p s) n.2

def execStw (c : Fin 16) (s : State) : Host.Outcome State Fault Refusal :=
  issue c (fun z => match z with
    | .stw a g imm => some fun s =>
      let x := getCtx s c
      let e := effAddr (x.reg a.toNat) imm
      let r (k : Nat) : Word64 := x.reg (4 * g.toNat + k)
      if addrOk e 32 then startStore c z e.toNat [codeOf64 (r 0) (r 1) (r 2) (r 3)] none s else placeSts c .bounds s
    | _ => none) s

/-- The blocks of a tile. -/
def Ctx.tile (x : Ctx) (t : Nat) : List TileBlock := (List.range 4).map (x.block t)

/-- The 64 lanes of a tile rounded to an output format (R291): the elements, and how many saturated. -/
def tileElements (blocks : List TileBlock) (fmt : Nat) (u : Nat → Option Nat) : List Nat × Nat :=
  let vals := (blocks.flatMap TileBlock.lanes).map value32
  let out := vals.zipIdx.map fun v => roundOut (fmtOf fmt) (u v.2) v.1
  (out.map Prod.fst, (out.filter Prod.snd).length)

/-- Elements of z bytes as code words. -/
def elementWords (z : Nat) (els : List Nat) : List Code :=
  (List.range (ceilDiv (els.length * z) 32)).map fun k => codeOf (8 * z) ((els.drop (k * (32 / z))).take (32 / z))

/-- A tile stored in an output format, each lane with its generator output where rounding is stochastic. -/
def storeTile (c : Nat) (z : Zellek) (d t : Nat) (e : Word64) (fmt : Nat) (u : Nat → Option Nat) (s : State) : State :=
  let r := tileElements ((getCtx s c).tile t) fmt u
  startStore c z e.toNat (elementWords (outputBytes fmt) r.1) (some (d, r.2)) s

/-- The images of a tile's blocks (R291): none where a block cannot be encoded. -/
def tileImages (blocks : List TileBlock) : Option (List Code) :=
  let imgs := blocks.map fun b => (b.asBx).map bxImage
  if imgs.any Option.isNone then none else some (imgs.flatMap fun b => codesOf (b.getD 0) 2)

/-- TST (R290, R291). -/
def execTst (c : Fin 16) (s : State) : Host.Outcome State Fault Refusal :=
  issue c (fun z => match z with
    | .tst d t b f imm => some fun s =>
      let e := effAddr ((getCtx s c).reg b.toNat) imm
      if !addrOk e 32 then placeSts c .bounds s
      else match f with
        | .image => match tileImages ((getCtx s c).tile t.toNat) with
          | some words => startStore c z e.toNat words (some (d.toNat, 0)) s
          | none => placeSts c .poison s
        | _ => storeTile c z d.toNat t.toNat e f.format (fun _ => none) s
    | .tstSr d t b k f imm => some fun s =>
      let e := effAddr ((getCtx s c).reg b.toNat) imm
      if !addrOk e 32 then placeSts c .bounds s
      else
        let s := checkStream k.toNat s
        let x := getStream s k.toNat
        if x.broken then
          let n := openPend c z false true (.store none) 1 true s
          completeSts (s.env.sc + 14) c n.1 .poison n.2
        else storeTile c z d.toNat t.toNat e (srForm f).toNat
          (fun i => some (srBits x.seed x.step (e.extractLsb' 0 48) i)) s
    | _ => none) s

/-! ### Prefetch (R287) -/

def execPf (c : Fin 16) (s : State) : Host.Outcome State Fault Refusal :=
  issue c (fun z => match z with
    | .pf a mask imm => some fun s =>
      let e := effAddr ((getCtx s c).reg a.toNat) imm
      let line := cwLine e.toNat 0
      if 2 ^ 48 ≤ e.toNat then s
      else match ownKennel s line with
        | some _ => prefetchLine line (getCtx s c).cls mask s
        | none => originate none (ctxRequest s c 6 line (.sectors mask) []) s
    | _ => none) s

/-! ### Tile arithmetic (R292 to R294, R471) -/

/-- Take a block-add slot in the first sc from a given one on that has one of its four free (R221). -/
def takeSlotFrom (t : Nat) (s : State) : Nat → Nat × State
  | 0 => (t, s)
  | k + 1 =>
    if tget 0 s.red.slots t < 4 then (t, { s with red := { s.red with slots := tmod 0 s.red.slots t (· + 1) } })
    else takeSlotFrom (t + 1) s k

def takeSlot (t : Nat) (s : State) : Nat × State := takeSlotFrom t s 65536

/-- Take the slots of an add and of its repeats: the sc of the last. -/
def takeSlots (t : Nat) (s : State) : Nat → Nat × State
  | 0 => takeSlot t s
  | k + 1 =>
    let r := takeSlot t s
    takeSlots (r.1 + 1) r.2 k

/-- One block of TADD: the sum and its repeats. -/
def addBlock (single : Bool) (a b : TileBlock) : Option TileBlock × Nat :=
  if single then
    let sums := List.zipWith add32 a.lanes b.lanes
    if sums.any Option.isNone then (none, 0) else (some { bx := false, img := f32Image (sums.map (·.getD 0)) }, 0)
  else match a.asBx, b.asBx with
    | some x, some y => match bxAdd x y with
      | some (r, n) => (some { bx := true, img := bxImage r }, n)
      | none => (none, 255 - max x.e y.e)
    | _, _ => (none, 0)

/-- A result of tile arithmetic: all blocks, or POISON. -/
def finishTile (c id t due : Nat) (blocks : List (Option TileBlock)) (s : State) : State :=
  if blocks.any Option.isNone then completeSts due c id .poison s
  else complete (Result.mk due c id (some .ok) []
    (blocks.zipIdx.map fun b => (t * 4 + b.2, b.1.getD TileBlock.zero))) s

/-- The reduction unit answers as muzzled. -/
def redMuzzled (s : State) : Bool := s.red.muz || s.saf.fatal

/-- TADD: its blocks take their slots in this sc, ahead of the adds of packs, and repeats later ones. -/
def execTadd (c : Fin 16) (s : State) : Host.Outcome State Fault Refusal :=
  issue c (fun z => match z with
    | .tadd t a b single => some fun s =>
      let n := openPend c z false false .nothing 1 true s
      if redMuzzled s then completeSts (s.env.sc + 4) c n.1 .muzzled n.2
      else
        let x := getCtx s c
        let sums := List.zipWith (addBlock single) (x.tile a.toNat) (x.tile b.toNat)
        let slots := sums.foldl (fun (acc : Nat × State) b =>
          let r := takeSlots s.env.sc acc.2 b.2
          (max acc.1 r.1, r.2)) (s.env.sc, n.2)
        finishTile c n.1 t.toNat (slots.1 + 4) (sums.map Prod.fst) slots.2
    | _ => none) s

/-- One block of TCVT. -/
def convertBlock (single : Bool) (b : TileBlock) : Option TileBlock :=
  if single then some { bx := false, img := f32Image b.lanes }
  else (b.asBx).map fun x => { bx := true, img := bxImage x }

def execTcvt (c : Fin 16) (s : State) : Host.Outcome State Fault Refusal :=
  issue c (fun z => match z with
    | .tcvt t a single => some fun s =>
      let n := openPend c z false false .nothing 1 true s
      if redMuzzled s then completeSts (s.env.sc + 4) c n.1 .muzzled n.2
      else finishTile c n.1 t.toNat (s.env.sc + 4) (((getCtx s c).tile a.toNat).map (convertBlock single)) n.2
    | _ => none) s

/-! ### Atomics (R225, R306, R470) -/

/-- Four registers as a code word. -/
def Ctx.group (x : Ctx) (g : BitVec 2) : Code :=
  codeOf64 (x.reg (4 * g.toNat)) (x.reg (4 * g.toNat + 1)) (x.reg (4 * g.toNat + 2)) (x.reg (4 * g.toNat + 3))

/-- The fields of Table 8.1 that ATOM forms. -/
def atomFields (aop : BitVec 4) (w64 fetch : Bool) (a : Word64) (lmask : BitVec 8) : AtomOp :=
  { aop := aop, w64 := w64, fetch := fetch, cw := a.extractLsb' 5 3, lmask := lmask }

/-- An atomic of a context, its fields in range. -/
def ctxAtom (c id gd : Nat) (op : AtomOp) (a : Word64) (opnd cmp : Code) (s : State) : State :=
  let line := cwLine a.toNat 0
  match ownKennel s line with
  | some off35 =>
    let refuse (st : Status) (s : State) : State :=
      completeSts (s.env.sc + 17) c id st (if st = .poison then countAtom .poison s else s)
    if atomOff s then refuse .muzzled s
    else if draining s then refuse .parked s
    else kennelAtom off35 (.ctx c id gd) (ctxHolder c) op opnd cmp (getCtx s c).cls refuse s
  | none =>
    originate (some (.atom c id gd (returnsOld op)))
      (ctxRequest s c 0xB line (.atReq op) (plain opnd :: if op.aop = 9 then [plain cmp] else [])) s

def execAtom (c : Fin 16) (s : State) : Host.Outcome State Fault Refusal :=
  issue c (fun z => match z with
    | .atom aop w64 fetch g a x y lmask => some fun s =>
      let k := getCtx s c
      let e := k.reg a.toNat
      let op := atomFields aop w64 fetch e lmask
      if !addrOk e 32 || !atomValid op then placeSts c .bounds s
      else
        let n := openPend c z (ownKennel s (cwLine e.toNat 0)).isNone true .nothing 1 true s
        ctxAtom c n.1 (4 * g.toNat) op e (k.group x) (k.group y) n.2
    | _ => none) s

end Sys2Proof.Machine
end

