-- ==== Sys2Proof/Machine/Context.lean ====
section
/-! DEFINITION. Contexts as wholes: channel instructions, calls, context control, heels, suspension, save images, restore,
debug commands, the muzzle and the deadlock rule (09_sequencer_architecture, 10_zellek_instruction_set R298 to R300, R313,
R314). -/

namespace Sys2Proof.Machine

/-! ### Channel instructions (R298 to R300) -/

/-- An operation on a channel by a context: its pending entry is opened first. -/
def ctxChannel (c : Nat) (z : Zellek) (act : ChParty → State → State) (s : State) : State :=
  let n := openPend c z false false .nothing 1 true s
  act (.ctx c n.1) n.2

def execCrsv (c : Fin 16) (s : State) : Host.Outcome State Fault Refusal :=
  issue c (fun z => match z with
    | .crsv _ blocking ch => some (ctxChannel c z (doReserve ch.toNat blocking))
    | _ => none) s

def execCtake (c : Fin 16) (s : State) : Host.Outcome State Fault Refusal :=
  issue c (fun z => match z with
    | .ctake _ blocking ch => some (ctxChannel c z (doTake ch.toNat blocking))
    | _ => none) s

def execCcmt (c : Fin 16) (s : State) : Host.Outcome State Fault Refusal :=
  issue c (fun z => match z with
    | .ccmt a ch => some fun s =>
      let slot := ((getCtx s c).reg a.toNat).toNat
      if slot < 65536 then ctxChannel c z (doCommit ch.toNat slot (getCtx s c).cls) s else placeSts c .bounds s
    | _ => none) s

def execCfree (c : Fin 16) (s : State) : Host.Outcome State Fault Refusal :=
  issue c (fun z => match z with
    | .cfree a ch => some fun s =>
      let slot := ((getCtx s c).reg a.toNat).toNat
      if slot < 65536 then ctxChannel c z (doFree ch.toNat slot) s else placeSts c .bounds s
    | _ => none) s

/-! ### Calls (R251 to R253, R313) -/

/-- The line of the kennel window of a slice (R158, R420). -/
def sliceLine (s : State) (slice : Nat) : LineAddr := BitVec.ofNat 40 (s.ken.base.toNat * 2 ^ 27 + slice * 2 ^ 16)

/-- CALL (R313). -/
def execCall (c : Fin 16) (s : State) : Host.Outcome State Fault Refusal :=
  issue c (fun z => match z with
    | .call g a x reply entry => some fun s =>
      let k := getCtx s c
      let slice := (k.reg a.toNat).toNat
      if slice < 2048 then
        let n := openPend c z true false .nothing 1 true s
        originate (some (.call c n.1 (4 * g.toNat) reply))
          (ctxRequest s c 0xA (sliceLine s slice) (.call entry reply) [plain (k.group x)]) n.2
      else placeSts c .bounds s
    | _ => none) s

/-- The lowest-numbered context that a call to an entry may start (Table 9.4). -/
def callable (s : State) (e : Entry) : Option Nat :=
  ((List.range 16).drop 1).find? fun c =>
    decide ((getCtx s c).state = .idle) && bit s.seq.pool (c - 1) && bit e.cmask c

/-- The answer to a Call (Table 9.3). -/
def answerCall (h : Hdr) (st : Status) (c : Nat) (s : State) : State :=
  answer h 0xA (.callRsp st (BitVec.ofNat 4 c)) [] (s.env.sc + 9) .none (countNack st s)

/-- A Call whose fields are in order (Table 9.4, R253). -/
def acceptCall (h : Hdr) (entry : BitVec 8) (reply : Bool) (args : Code) (s : State) : State :=
  let e := tget default s.seq.entries entry.toNat
  if seqMuzzled s then answerCall h .muzzled 0 s
  else if !e.valid then answerCall h .bounds 0 s
  else if !s.seq.en then answerCall h .nackRetry 0 s
  else match callable s e with
    | none => answerCall h .nackRetry 0 s
    | some c =>
      let k : CallRec := { holder := agentHolder h.agent h.die, txn := h.txn, reply := reply, port := h.port,
                           line := h.line, label := h.label }
      let s := countStore (h.label % 16) false s
      let s := startCtx c e.pc (h.label % 16) ((List.range 4).map (word64 args)) (k.holder.zeroExtend 64) (some k) s
      if reply then s else answerCall h .ok c s

/-- CALL_MESSAGE (R252, R253, R436). -/
def execCallMessage (h : Hdr) (entry : BitVec 8) (reply : Bool) (args : Code) (s : State) :
    Host.Outcome State Fault Refusal :=
  receive (.callMessage h entry reply args) s fun s =>
    let s := noisy s
    match reqRefused s h true (decide (h.ndf = 1)) with
    | some st => answerCall h st 0 s
    | none => acceptCall h entry reply args s

/-! ### The save region and the save image (R258 to R260) -/

/-- The save region lies wholly in plain kennel memory. -/
def saveRegionOk (s : State) : Bool :=
  plainKennel s (s.seq.saveBase.toNat * 65536) (s.seq.saveBase.toNat * 65536 + 65536)

/-- The kennel offset of a context's image. -/
def imageOffset (s : State) (c : Nat) : Nat := s.seq.saveBase.toNat * 65536 + 4096 * c

/-- The codes of Table 9.2. -/
def CtxState.code : CtxState → Nat
  | .idle => 0 | .ready => 1 | .stall => 2 | .wait => 3 | .xfer => 4 | .susp => 5 | .halt => 6 | .fault => 7

/-- The heel of a recorded heel wait. -/
def Ctx.heelWait (x : Ctx) : Option Word64 :=
  match x.wait with
  | .heel h => some h
  | _ => none

/-- The header of Table 9.5 with CHECK taken as 0. -/
def imageHeader (s : State) (c : Nat) (dump : Bool) : BitVec 512 :=
  let x := getCtx s c
  let call := x.call.getD { holder := 0, txn := 0, reply := false, port := .mpa, line := 0, label := 0 }
  BitVec.ofNat 512 (pack [
    (64, 14, x.pc.toNat),
    (78, 3, if dump then x.state.code else 1),
    (82, 4, if dump then x.cause.toNat else 0),
    (86, 4, c),
    (90, 4, x.cls),
    (94, 5, x.lastSts.toNat),
    (99, 1, b01 x.heelLate),
    (100, 1, b01 x.heelWait.isSome),
    (101, 1, b01 call.reply),
    (102, 1, b01 dump),
    (103, 1, b01 (dump && seqMuzzled s)),
    (354, 14, call.holder.toNat),
    (368, 16, if call.reply then call.txn.toNat else 0),
    (384, 32, (List.range 32).foldl (fun a i => a + b01 (x.block (i / 4) (i % 4)).bx * 2 ^ i) 0),
    (416, 32, frameNumber s),
    (448, 64, (x.heelWait.getD 0).toNat)])

/-- The words of the image after the header: the registers, then the tile blocks (R260). -/
def imageBody (x : Ctx) : List Code :=
  ((List.range 4).map fun k => codeOf64 (x.reg (4 * k)) (x.reg (4 * k + 1)) (x.reg (4 * k + 2)) (x.reg (4 * k + 3)))
  ++ (List.range 32).flatMap fun i => codesOf (x.block (i / 4) (i % 4)).img 2

/-- XOR of the 64-bit words of code words. -/
def xorWords (l : List Code) : Word64 := l.foldl (fun a w => a ^^^ xor64 w 4) 0

/-- The 70 code words of a context's image. -/
def saveImage (s : State) (c : Nat) (dump : Bool) : List Code :=
  let h := imageHeader s c dump
  let body := imageBody (getCtx s c)
  let check := xorWords (codesOf h 2 ++ body)
  codesOf (h ||| check.zeroExtend 512) 2 ++ body

/-- Write the image of a context, with foreground array writes in its class (R259). -/
def writeImage (c : Nat) (dump : Bool) (s : State) : State :=
  engineWrite (getCtx s c).cls (imageOffset s c) ((saveImage s c dump).map plain) s

/-! ### Suspension (R258, R259) -/

/-- R258: a SUSPEND that is accepted. -/
def mayCtxSuspend (s : State) (c : Nat) : Bool :=
  let x := getCtx s c
  !seqMuzzled s && decide (c ≠ 0) && x.live && decide (x.state ≠ .susp) && decide (x.state ≠ .xfer) && saveRegionOk s

/-- Record a SUSPEND for the next frame boundary. -/
def recordSuspend (c : Nat) (s : State) : State := setCtx c (fun x => { x with suspPend := true }) s

/-- A SUSPEND takes effect at a frame boundary (R259): the wait is given up, and the context enters XFER. A parity failure
of its state faults it instead (R263). -/
def enterXfer (c : Nat) (s : State) : State :=
  let x := getCtx s c
  if !x.suspPend || decide (x.state = .halt) || !x.live then s
  else if !x.parityBad.isEmpty then ctxFault c 3 .poison s
  else setCtx c (fun x => { x with state := .xfer, suspPend := false, haltPend := false, stepping := false }) (cancelWait c true s)

/-- The last request of an XFER context has completed (R259). -/
def saveDue (s : State) (c : Nat) : Bool :=
  let x := getCtx s c
  decide (x.state = .xfer) && x.image.isNone && x.pend.isEmpty

/-- CONTEXT_SAVE (R259, R260). -/
def execContextSave (c : Fin 16) (s : State) : Host.Outcome State Fault Refusal :=
  eventIf (fun s => saveDue s c) s fun s => setCtx c (fun x => { x with state := .susp }) (writeImage c false s)

/-! ### Restore (R261, R262) -/

/-- An image read for context c that is accepted (R261): the words, none poisoned. -/
def imageOk (c : Nat) (words : List CodeWord) : Bool :=
  let ws := words.map fun w => w.data
  let h : BitVec 512 := ws.getD 1 0 ++ ws.getD 0 0
  let block (i : Nat) : BitVec 512 := ws.getD (7 + 2 * i) 0 ++ ws.getD (6 + 2 * i) 0
  decide (words.length = 70) && !(words.any fun w => w.poison)
    && decide (xorWords ws ^^^ h.extractLsb' 0 64 = h.extractLsb' 0 64)
    && decide (fld h 86 4 = c) && !bit h 102 && decide (fld h 78 3 = 1)
    && decide (fld h 104 250 = 0) && !bit h 81
    && (List.range 32).all fun i =>
      !bit h (384 + i) || (!bxImageBad (block i) && decide (fld (block i) 328 184 = 0))

/-- A context restored from an accepted image (R261): a SUSP context keeps its call record, whatever it is, an IDLE one takes that of
the image without a reply owed (R262); a heel that has passed is released with success (R26, R304). -/
def restored (counter : Word64) (x : Ctx) (ws : List Code) : Ctx :=
  let h : BitVec 512 := ws.getD 1 0 ++ ws.getD 0 0
  let heel : Word64 := h.extractLsb' 448 64
  let waits := bit h 100 && counter.ult heel
  let call : Option CallRec :=
    if (match x.image with
      | some m => m.susp
      | none => true) then x.call
    else if fld h 354 14 = 0 then none
      else some { holder := h.extractLsb' 354 14, txn := h.extractLsb' 368 16, reply := false, port := .mpa, line := 0, label := 0 }
  let past := bit h 100 && !waits
  let y : Ctx := { Ctx.idle with
    pc := h.extractLsb' 64 14, lastSts := if past then 0 else h.extractLsb' 94 5, heelLate := bit h 99 || past,
    cls := fld h 90 4, call := call, state := if waits then .wait else .ready,
    wait := if waits then .heel heel else .nothing }
  let regs := (List.range 16).map fun i => (i, word64 (ws.getD (2 + i / 4) 0) (i % 4))
  let blocks := (List.range 32).map fun i =>
    (i, { bx := bit h (384 + i), img := ws.getD (7 + 2 * i) 0 ++ ws.getD (6 + 2 * i) 0 : TileBlock })
  (y.setRegs regs).setBlocks blocks

/-- The conditions of R261 that are known before the image is read. -/
def mayRestore (s : State) (c : Nat) : Bool :=
  let x := getCtx s c
  !seqMuzzled s && decide (c ≠ 0) && (decide (x.state = .idle) || decide (x.state = .susp)) && saveRegionOk s

/-- Read the image of a context for a RESTORE (entry 20): whether it is accepted, and the state. The reads end one sector
per sc after the first. -/
def beginRestore (c cls : Nat) (asker : Option Nat) (s : State) : Bool × State :=
  let r := engineRead 1 cls (imageOffset s c) 2240 s
  if imageOk c r.1 then
    (true, setCtx c (fun x => { x with
      state := .xfer, image := some { words := r.1.map fun w => w.data, readAt := s.env.sc + 51, ready := false,
                                      asker := asker, susp := x.state == .susp } }) r.2)
  else (false, r.2)

/-- The image reads of a context's restore have ended. -/
def restoreDue (s : State) (c : Nat) : Bool :=
  let x := getCtx s c
  decide (x.state = .xfer) && match x.image with
    | some m => !m.ready && decide (m.readAt ≤ s.env.sc)
    | none => false

/-- RESTORE_READS_END (R261, R314): an instruction of context 0 that asked for it completes. -/
def execRestoreReadsEnd (c : Fin 16) (s : State) : Host.Outcome State Fault Refusal :=
  eventIf (fun s => restoreDue s c) s fun s =>
    match (getCtx s c).image with
    | none => s
    | some m =>
      let s := setCtx c (fun x => { x with image := some { m with ready := true } }) s
      match m.asker with
      | some id => completeSts s.env.sc 0 id .ok s
      | none => s

/-- A restore takes effect at the first frame boundary after its reads have ended (R261). -/
def finishRestore (c : Nat) (s : State) : State :=
  match (getCtx s c).image with
  | some m =>
    if m.ready && decide ((getCtx s c).state = .xfer) then setCtx c (fun x => restored s.tick.counter x m.words) s else s
  | none => s

/-! ### STOP (R245, R254) -/

/-- A live context other than 0 becomes IDLE at once; an owed reply is sent with POISON. The RESTORE that reads an image for it
is answered when its reads would have ended (R314). -/
def stopCtx (c : Nat) (s : State) : State :=
  let s := match (getCtx s c).image with
    | some m => match m.asker with
      | some id => if m.ready then s else completeSts (max m.readAt s.env.sc) 0 id .ok s
      | none => s
    | none => s
  let s := { s with ken := { s.ken with waits := s.ken.waits.filter fun w => match w.party with
    | .ctx n _ => n != c
    | _ => true } }
  becomeIdle c (owedReply c .poison s)

def mayStop (s : State) (c : Nat) : Bool := decide (c ≠ 0) && (getCtx s c).live

/-! ### CTXC (R314, Table 10.5) -/

/-- CTXC START (R244). -/
def execCtxcStart (c : Fin 16) (s : State) : Host.Outcome State Fault Refusal :=
  issue c (fun z => match z with
    | .ctxc (.start a g pc cls) => some fun s =>
      let x := getCtx s c
      let n := (x.reg a.toNat).toNat
      if n < 16 ∧ n ≠ 0 ∧ (getCtx s n).state = .idle ∧ bit s.seq.pool (n - 1) = false then
        placeSts c .ok (startCtx n pc cls.toNat ((List.range 4).map fun k => x.reg (4 * g.toNat + k)) 0 none s)
      else placeSts c .bounds s
    | _ => none) s

def execCtxcStop (c : Fin 16) (s : State) : Host.Outcome State Fault Refusal :=
  issue c (fun z => match z with
    | .ctxc (.stop a) => some fun s =>
      let n := ((getCtx s c).reg a.toNat).toNat
      if n < 16 ∧ mayStop s n then placeSts c .ok (stopCtx n s) else placeSts c .bounds s
    | _ => none) s

def execCtxcSuspend (c : Fin 16) (s : State) : Host.Outcome State Fault Refusal :=
  issue c (fun z => match z with
    | .ctxc (.suspend a) => some fun s =>
      let n := ((getCtx s c).reg a.toNat).toNat
      if n < 16 ∧ mayCtxSuspend s n then placeSts c .ok (recordSuspend n s) else placeSts c .bounds s
    | _ => none) s

/-- CTXC RESTORE: the status is given when the image reads have ended. -/
def execCtxcRestore (c : Fin 16) (s : State) : Host.Outcome State Fault Refusal :=
  issue c (fun z => match z with
    | .ctxc (.restore a) => some fun s =>
      let n := ((getCtx s c).reg a.toNat).toNat
      if n < 16 ∧ mayRestore s n then
        let p := openPend c z false false .nothing 1 true s
        let r := beginRestore n (getCtx s c).cls (some p.1) p.2
        if r.1 then r.2 else completeSts (s.env.sc + 51) c p.1 .bounds r.2
      else placeSts c .bounds s
    | _ => none) s

def execCtxcPool (c : Fin 16) (s : State) : Host.Outcome State Fault Refusal :=
  issue c (fun z => match z with
    | .ctxc (.pool bits) => some fun s => placeSts c .ok { s with seq := { s.seq with pool := bits } }
    | _ => none) s

/-! ### Heel release (R25) -/

/-- The contexts that wait on the present counter value. -/
def heelWaiters (s : State) : List Nat :=
  (List.range 16).filter fun c =>
    decide ((getCtx s c).state = .wait) && (getCtx s c).heelWait == some s.tick.counter

def heelDue (s : State) : Bool := s.tick.cntValid && !(heelWaiters s).isEmpty

/-- HEEL_RELEASE (R25): the released contexts take the issue slot in turn from 2 sc later on. DESIGN CHOICE (entry 50): after
the turns of an earlier heel. -/
def execHeelRelease (s : State) : Host.Outcome State Fault Refusal :=
  eventIf heelDue s fun s =>
    let cs := heelWaiters s
    let s := cs.foldl (fun s c => releaseWait c .ok s) s
    let q := cs.filter fun c => (getCtx s c).state == .ready
    let first := max (s.env.sc + 2) (match s.seq.heelQ.getLast? with
      | some p => p.2 + 1
      | none => 0)
    { s with seq := { s.seq with
      heelQ := s.seq.heelQ ++ q.zipIdx first, heelAll := s.seq.heelAll ++ q } }

/-! ### The muzzle and the deadlock rule (R264 to R266) -/

/-- SEQ_LOCKSTEP_MISMATCH (R264): a lockstep mismatch, or a parity failure of shared state. -/
def execSeqLockstepMismatch (parity : Bool) (s : State) : Host.Outcome State Fault Refusal :=
  event s (muzzleSeq (if parity then 3 else 1))

/-- The conditions of R266 that hold at one time: some context waits on flags or on a channel, none could act by itself. -/
def quietNow (s : State) : Bool :=
  let xs := (List.range 16).map (getCtx s)
  (xs.any fun x => decide (x.state = .wait) && x.heelWait.isNone)
    && xs.all fun x => match x.state with
      | .ready | .stall | .xfer | .halt => false
      | .wait => x.heelWait.isNone
      | _ => true

def deadlockDue (s : State) : Bool := s.env.done.deadlock && !s.seq.muz

/-- DEADLOCK_DECLARE (R266). -/
def execDeadlockDeclare (s : State) : Host.Outcome State Fault Refusal :=
  eventIf deadlockDue s fun s =>
    muzzleSeq 2 { s with env := { s.env with done := { s.env.done with deadlock := false } } }

/-! ### Context commands (R267, Table 9.7) -/

/-- A write is ignored and flagged (Table 9.10). -/
def seqReject (s : State) : State := { s with seq := { s.seq with cmdRej := true } }

/-- The effect of a command of SL_CTX_CMD on the selected context, where it is permitted. -/
def ctxEffect (permitted : State → Nat → Bool) (effect : Nat → State → State) : State → State := keepConfig fun s =>
  let s := noisy s
  if permitted s s.seq.ctxSel.toNat then effect s.seq.ctxSel.toNat s else seqReject s

/-- A command of SL_CTX_CMD to the selected context, where it is permitted. -/
def ctxCommand (cmd : Instr) (s : State) (permitted : State → Nat → Bool) (effect : Nat → State → State) :
    Host.Outcome State Fault Refusal :=
  sbWriteOk cmd s (ctxEffect permitted effect)

def mayHalt (s : State) (c : Nat) : Bool :=
  match (getCtx s c).state with
  | .ready | .stall | .wait => true
  | _ => false

/-- HALT: at once between instructions; a STALL first completes its request; a wait is given up. -/
def haltCtx (c : Nat) (s : State) : State :=
  if (getCtx s c).state = .stall then setCtx c (fun x => { x with haltPend := true, stepping := false }) s
  else setCtx c (fun x => { x with state := .halt, stepping := false, haltPend := false }) (cancelWait c false s)

def execHalt (s : State) : Host.Outcome State Fault Refusal := ctxCommand .halt s mayHalt haltCtx

def isHalted (s : State) (c : Nat) : Bool := decide ((getCtx s c).state = .halt)

/-- RESUME. -/
def resumeCtx (c : Nat) : State → State := setCtx c fun x => { x with state := .ready, stepping := false, haltPend := false }

def execResume (s : State) : Host.Outcome State Fault Refusal :=
  ctxCommand .resume s isHalted resumeCtx

/-- STEP: one instruction issues, then the context halts again. -/
def stepCtx (c : Nat) : State → State := setCtx c fun x => { x with state := .ready, stepping := true, haltPend := false }

def execStep (s : State) : Host.Outcome State Fault Refusal :=
  ctxCommand .step s isHalted stepCtx

def execSuspend (s : State) : Host.Outcome State Fault Refusal := ctxCommand .suspend s mayCtxSuspend recordSuspend

/-- RESTORE by SB: an image that is not accepted sets CMD_REJ. -/
def restoreSelected (c : Nat) (s : State) : State :=
  let r := beginRestore c (getCtx s c).cls none s
  if r.1 then r.2 else seqReject r.2

def execRestore (s : State) : Host.Outcome State Fault Refusal := ctxCommand .restore s mayRestore restoreSelected

def mayDump (s : State) (c : Nat) : Bool :=
  saveRegionOk s && (seqMuzzled s || match (getCtx s c).state with
    | .halt | .susp | .fault => true
    | _ => false)

/-- DUMP acts in FATAL as well (R403). -/
def dumpSelected : State → State := keepConfig fun s =>
  let s := noisy s
  let c := s.seq.ctxSel.toNat
  if mayDump s c then writeImage c true s else if s.saf.fatal then s else seqReject s

def execDump (s : State) : Host.Outcome State Fault Refusal := sideband .dump s fun s => sbRespond 0 0 (dumpSelected s)

def execStop (s : State) : Host.Outcome State Fault Refusal := ctxCommand .stop s mayStop stopCtx

/-! ### Event flags by SB (R255, Table 9.14) -/

/-- A 32-bit value at the low or the high half of the flags. -/
def flagHalf (high : Bool) (v : Word32) : Word64 := if high then v.zeroExtend 64 <<< 32 else v.zeroExtend 64

/-- A W1C write of event flags (R255): a flag set in the same sc stays 1 (R446). -/
def clearFlags (mask : Word64) (s : State) : State :=
  noisy { s with seq := { s.seq with events := s.seq.events &&& ~~~(mask &&& ~~~s.seq.evArr) } }

def execEvtClear (high : Bool) (value : Word32) (s : State) : Host.Outcome State Fault Refusal :=
  sbWriteOk (.evtClear high value) s (clearFlags (flagHalf high value))

def execEvtSet (high : Bool) (value : Word32) (s : State) : Host.Outcome State Fault Refusal :=
  sbWriteOk (.evtSet high value) s fun s => keepConfig (setFlags (flagHalf high value)) (noisy s)

/-! ### The program scent (R389) -/

/-- The program store as code words: none where a word has not been written since reset. -/
def storeWords (s : State) : Option (List Code) :=
  let w (i : Nat) : Option Word64 := (tfind s.seq.pstore i).map fun i => i.word
  if (List.range 16384).all fun i => (w i).isSome then
    some ((List.range 4096).map fun k =>
      codeOf64 ((w (4 * k)).getD 0) ((w (4 * k + 1)).getD 0) ((w (4 * k + 2)).getD 0) ((w (4 * k + 3)).getD 0))
  else none

/-- The program scent; of a store that holds unwritten words it is a free value (entry 14). -/
def programScent (s : State) : BitVec 128 :=
  match storeWords s with
  | some ws => digest (ws.foldl absorb 0) 4096
  | none => (Config.freeCode s.fresh).extractLsb' 0 128

def pscentDue (s : State) : Bool := decide (s.det.psBusy ≠ 0) && decide (s.det.psBusy ≤ s.env.sc)

/-- PSCENT_DONE (R389). -/
def execPscentDone (s : State) : Host.Outcome State Fault Refusal :=
  eventIf pscentDue s fun s =>
    { s with fresh := s.fresh + 1
             det := { s.det with psBusy := 0, psValid := true, psDigest := programScent s } }

end Sys2Proof.Machine
end

