-- ==== Sys2Proof/Machine/Pack.lean ====
section
/-! DEFINITION. Packs (07_reduction_arithmetic R189 to R221): descriptors and arming, contributions, the tree and the vector
order, staging, and how a pack ends. -/

namespace Sys2Proof.Machine

/-! ### The descriptor (Table 7.1) -/

def Pack.target (p : Pack) : Nat := fld p.desc 0 48
def Pack.epoch (p : Pack) : Nat := fld p.desc 48 16
def Pack.vcount (p : Pack) : Nat := fld p.desc 64 17
def Pack.pcount (p : Pack) : Nat := fld p.desc 81 7
def Pack.ifmt (p : Pack) : Nat := fld p.desc 88 3
def Pack.ofmt (p : Pack) : Nat := fld p.desc 91 3
def Pack.rnd (p : Pack) : Bool := bit p.desc 94
def Pack.vector (p : Pack) : Bool := bit p.desc 95
def Pack.k (p : Pack) : Nat := fld p.desc 96 3 + 1
def Pack.accum (p : Pack) : Bool := bit p.desc 99
def Pack.stream (p : Pack) : Nat := fld p.desc 100 4
def Pack.evt (p : Pack) : Nat := fld p.desc 104 7
def Pack.stg (p : Pack) : Nat := fld p.desc 112 18
def Pack.recordAt (p : Pack) : Nat := fld p.desc 130 24
def Pack.pwdog (p : Pack) : Nat := fld p.desc 154 8

/-- Integer packs (R200). -/
def Pack.isInt (p : Pack) : Bool := decide (5 ≤ p.ifmt)

/-- NB, the blocks of a vector. -/
def Pack.blocks (p : Pack) : Nat := ceilDiv p.vcount 16

/-- The output code words. -/
def Pack.outWords (p : Pack) : Nat := ceilDiv (p.vcount * outputBytes p.ofmt) 32

/-- NCHUNK (Table 7.2). -/
def Pack.chunks (p : Pack) : Nat := ceilDiv (p.vcount * inputBytes p.ifmt) 256

/-- Code words that a chunk must carry. -/
def Pack.chunkWords (p : Pack) (c : Nat) : Nat :=
  if c + 1 < p.chunks then 8 else ceilDiv (p.vcount * inputBytes p.ifmt - 256 * c) 32

/-- Bytes of a staged block. -/
def Pack.blockBytes (p : Pack) : Nat := if p.isInt then 128 else 64

/-- Bytes of the staging area. -/
def Pack.stageBytes (p : Pack) : Nat := p.pcount * p.blocks * p.blockBytes

/-- Kennel offset of a staged block (R210). -/
def Pack.slotAt (p : Pack) (s : State) (lo block : Nat) : Nat :=
  stageFirst s + p.stg * 64 + (lo * p.blocks + block) * p.blockBytes

/-- Levels of adds (R206). -/
def Pack.depth (p : Pack) : Nat := treeDepth p.pcount

/-- The lines of the output. -/
def Pack.lines (p : Pack) : Nat := ceilDiv p.outWords 8

def getPack (s : State) (e : Nat) : Pack := tget default s.red.packs e
def setPack (e : Nat) (f : Pack → Pack) (s : State) : State :=
  { s with red := { s.red with packs := tupd s.red.packs e f } }

/-- The offset of the target in this slice's kennel window; none for a cacheable target. -/
def Pack.kennelTarget (p : Pack) (s : State) : Option Nat :=
  (kennelLine s (BitVec.ofNat 40 (p.target / 256))).map fun o => o % 2 ^ 24 + p.target % 256

/-! ### Arming (R189 to R192) -/

/-- e2 is later than e1 (R191). -/
def epochLater (e2 e1 : Nat) : Bool :=
  let d := (e2 + 65536 - e1) % 65536
  decide (1 ≤ d) && decide (d ≤ 32767)

/-- Two packs' staging areas meet. -/
def stagesMeet (p q : Pack) : Bool :=
  meets (p.stg * 64) (p.stg * 64 + p.stageBytes) (q.stg * 64) (q.stg * 64 + q.stageBytes)

/-- Two packs' outputs meet. -/
def outputsMeet (p q : Pack) : Bool :=
  meets p.target (p.target + 32 * p.outWords) q.target (q.target + 32 * q.outWords)

/-- The target of a descriptor is allowed: cacheable, or wholly in this slice's plain kennel memory. -/
def targetAllowed (s : State) (p : Pack) : Bool :=
  match kennelLine s (BitVec.ofNat 40 (p.target / 256)) with
  | none => true
  | some off => decide (off / 2 ^ 24 = s.env.idSlice.toNat)
      && plainKennel s (off % 2 ^ 24) (off % 2 ^ 24 + 32 * p.outWords)

/-- The conditions under which an arm does not return BOUNDS (R191). -/
def armAllowed (s : State) (p : Pack) : Bool :=
  let armed := s.red.packs.map Prod.snd
  decide (fld p.desc 162 94 = 0) && !bit p.desc 111 && decide (p.target % 256 = 0)
    && decide (1 ≤ p.pcount) && decide (p.pcount ≤ 64) && decide (1 ≤ p.vcount) && decide (p.vcount ≤ 65536)
    && decide (p.ifmt ≠ 7) && decide (p.ofmt ≠ 7) && (decide (5 ≤ p.ifmt) == decide (5 ≤ p.ofmt))
    && !(p.vector && decide (p.ifmt ≠ 0))
    && !(p.rnd && !(decide (1 ≤ p.ofmt) && decide (p.ofmt ≤ 4)))
    && !(p.accum && !(p.ofmt == 0 || p.ofmt == 5 || p.ofmt == 6))
    && s.ken.stageEn && decide (p.stg * 64 + p.stageBytes ≤ s.ken.stageSize.toNat * 65536)
    && !(armed.any (stagesMeet p))
    && decide (p.recordAt % 32 = 0) && plainKennel s p.recordAt (p.recordAt + 32)
    && targetAllowed s p
    && !(armed.any fun q => q.target != p.target && outputsMeet p q)
    && armed.all fun q => q.target != p.target || epochLater p.epoch q.epoch

/-- A pack of a descriptor, newly armed. -/
def newPack (desc : Code) (cls : Nat) (seed : Word64) (step : BitVec 48) (order : Nat) : Pack :=
  { desc := desc, cls := cls, seed := seed, step := step, order := order, got := [], nodes := [], faults := [], sat := 0,
    repeats := 0, age := 0, phase := .gathering, stop := none, roots := [], readyAt := 0, line := 0, result := [],
    parityBad := false }

/-- The muzzle of the reduction unit (R220): kind 0 lockstep, 1 pack-table parity. Packs whose record has not been written
end with cause UNIT, except those whose entry fails its check. -/
def muzzleRed (index kind : Nat) (s : State) : State :=
  let s := if s.red.muz then s else
    { s with red := { s.red with
      muz := true, muzAt := s.env.sc
      packs := s.red.packs.map fun p => if p.2.parityBad then p
        else (p.1, { p.2 with stop := some 5, phase := .gathering, line := 0 }) } }
  report 0x40 1 0x4000 (detailN index kind) s

/-- The check of the pack table at its use (R220): each failing entry is reported. -/
def checkPacks (s : State) : State :=
  if s.red.muz then s
  else (s.red.packs.filter fun p => p.2.parityBad).foldl (fun s p => muzzleRed p.1 1 s) s

/-- Arm a pack from its descriptor word (R189): the status, the entry where it was armed, and the state. -/
def armPack (w : CodeWord) (cls : Nat) (seeds : Nat → Word64 × BitVec 48) (s : State) : Status × Option Nat × State :=
  let s := checkPacks s
  let p0 := newPack w.data cls 0 0 s.red.nextOrder
  let p := newPack w.data cls (seeds p0.stream).1 (seeds p0.stream).2 s.red.nextOrder
  if redMuzzled s then (.muzzled, none, s)
  else if w.poison then (.poison, none, s)
  else if s.red.packs.any fun q => q.2.target == p.target && q.2.epoch == p.epoch then (.packCollision, none, s)
  else if !armAllowed s p then (.bounds, none, s)
  else
    let s := if p.rnd then checkStream p.stream s else s
    if p.rnd && (getStream s p.stream).broken then (.poison, none, s)
    else match tfree s.red.packs 16 with
      | none => (.nackRetry, none, s)
      | some e => (.ok, some e, { s with red := { s.red with packs := tput s.red.packs e { p with armedAt := s.env.sc },
                                                             nextOrder := s.red.nextOrder + 1 } })

/-- Words for a contribution. -/
def Contrib.isCtb (x : Contrib) : Bool :=
  match x.use with
  | .ctb _ _ _ => true
  | _ => false

/-- Read a descriptor of n code words in plain kennel memory for a unit of the slice, as a kennel load does (R277, R279); an
address elsewhere is refused with the registers of a refusal. -/
def readDescriptor (c : Nat) (z : Zellek) (off n : Nat) (use : Handoff) (regs : List (Nat × Word64)) (s : State) : State :=
  let p := openPend c z false false (.unit use) 1 true s
  if !plainKennel s off (off + 32 * n) then complete (Result.mk (s.env.sc + 17) c p.1 (some .bounds) regs []) p.2
  else
    enqueue (readAccess (s.env.sc + 6) (getCtx s c).cls 2 true (kennelSecs off (32 * n))
      (.seqRead c p.1 ((List.range n).map fun k => (off / 32 % 2 + k, k)))) p.2

/-- PARM (R295, R213): the descriptor is read, and the pack armed when it has come. -/
def execParm (c : Fin 16) (s : State) : Host.Outcome State Fault Refusal :=
  issue c (fun z => match z with
    | .parm d a => some fun s =>
      let off := ((getCtx s c).reg a.toNat).toNat
      if 2 ^ 24 ≤ off ∨ off % 32 ≠ 0 then placeSts c .bounds (writeRegs c [(d.toNat, 16)] s)
      else
        let seeds := (List.range 16).map fun k => ((getStream s k).seed, (getStream s k).step)
        readDescriptor c z off 1 (.arm d.toNat (getCtx s c).cls seeds) [(d.toNat, 16)] s
    | _ => none) s

/-- The descriptor of a PARM has come: the pack is armed or refused, and the instruction completes. -/
def takeArm (x : Contrib) (gd cls : Nat) (seeds : List (Word64 × BitVec 48)) (s : State) : State :=
  let a := armPack (x.words.getD 0 badWord) cls (fun k => seeds.getD k (0, 0)) s
  complete (Result.mk s.env.sc x.ctx x.id (some a.1) [(gd, BitVec.ofNat 64 (a.2.1.getD 16))] []) a.2.2

/-! ### Nodes (R208 to R211, R216) -/

/-- The values of a node. -/
inductive NodeVal where
  | bx (b : Bx)
  | f32 (l : List Nat)
  | ints (l : List Int)
  | poison
deriving DecidableEq, Repr

/-- Sixteen int64 values as a 128-byte image, and back (R210). -/
def intImage (l : List Int) : BitVec 1024 :=
  BitVec.ofNat 1024 ((l.zipIdx).foldl (fun a p => a + (p.1 % 2 ^ 64).toNat * 2 ^ (64 * p.2)) 0)
def intsOfImage (x : BitVec 1024) : List Int := (List.range 16).map fun i => toSigned 64 (fld x (64 * i) 64)

/-- The bits of a node as they are staged; none for a poisoned node. -/
def NodeVal.image : NodeVal → Option (BitVec 1024)
  | .bx b => some ((bxImage b).zeroExtend 1024)
  | .f32 l => some ((f32Image l).zeroExtend 1024)
  | .ints l => some (intImage l)
  | .poison => none

/-- The node of staged bits. -/
def NodeVal.ofImage (isInt bx : Bool) (x : BitVec 1024) : NodeVal :=
  if isInt then .ints (intsOfImage x)
  else if bx then .bx (bxOfImage (x.extractLsb' 0 512))
  else .f32 (f32OfImage (x.extractLsb' 0 512))

def NodeVal.isBx : NodeVal → Bool
  | .bx _ => true
  | _ => false

/-- A node as BX20 (R203); none where the encoding fails. -/
def NodeVal.toBx : NodeVal → Option Bx
  | .bx b => some b
  | .f32 l => bxEncode (l.map value32)
  | _ => none

/-- The BX20 encoding of an operand fails (R203): that is recorded even where the other operand is poisoned, so that the faults
do not depend on the order of arrival (R197, R216). -/
def NodeVal.failsBx : NodeVal → Bool
  | .poison => false
  | v => v.toBx.isNone

/-- A node as binary32 values. -/
def NodeVal.to32 : NodeVal → List Nat
  | .bx b => bxTo32 b
  | .f32 l => l
  | _ => []

def NodeVal.toInts : NodeVal → List Int
  | .ints l => l
  | _ => []

/-- The add at a level is a binary32 add (R208). -/
def Pack.singleAt (p : Pack) (level : Nat) : Bool := p.vector || level % p.k == 0 || level == p.depth

/-- Record a fault of a pack (R216). -/
def faultAt (e block level idx cause : Nat) (s : State) : State :=
  setPack e (fun p => { p with faults := p.faults ++ [{ block := block, level := level, idx := idx, cause := cause }] }) s

/-- A block add (R204, R208, R209, R216, R471): operands with the sc from which each exists, the lowest contributors of the
operands, and the index of a fault of the add itself. The result and the sc from which it exists. -/
def addNodes (e block level lo hi own : Nat) (a b : NodeVal) (since : Nat) (s : State) : NodeVal × Nat × State :=
  let p := getPack s e
  match a, b with
  | .poison, _ | _, .poison =>
    if p.isInt || p.singleAt level then (.poison, since, s)
    else
      let s := if a.failsBx then faultAt e block level lo 2 s else s
      (.poison, since, if b.failsBx then faultAt e block level hi 2 s else s)
  | _, _ =>
    if p.isInt then
      let t := takeSlot (max since s.env.sc) s
      (.ints (List.zipWith (· + ·) a.toInts b.toInts), t.1 + 4, t.2)
    else if p.singleAt level then
      let t := takeSlot (max since s.env.sc) s
      let sums := List.zipWith add32 a.to32 b.to32
      if sums.any Option.isNone then (.poison, t.1 + 4, faultAt e block level own 2 t.2)
      else (.f32 (sums.map (·.getD 0)), t.1 + 4, t.2)
    else match a.toBx, b.toBx with
      | some x, some y =>
        let reps := match bxAdd x y with
          | some r => r.2
          | none => 255 - max x.e y.e
        let t := takeSlots (max since s.env.sc) s reps
        let s := setPack e (fun p => { p with repeats := satAdd 65535 p.repeats reps }) t.2
        match bxAdd x y with
        | some r => (.bx r.1, t.1 + 4, s)
        | none => (.poison, t.1 + 4, faultAt e block level own 2 s)
      | x, y =>
        let s := if x.isNone then faultAt e block level lo 2 s else s
        (.poison, since, if y.isNone then faultAt e block level hi 2 s else s)

/-! ### Staging (R210) -/

/-- Store a node in the slot of its lowest contributor: poison marks for a poisoned node. -/
def stageWrite (e block lo level : Nat) (v : NodeVal) (since : Nat) (s : State) : State :=
  let p := getPack s e
  let off := p.slotAt s lo block
  let s := match v.image with
    | some x => engineWrite p.cls off ((codesOf x (p.blockBytes / 32)).map plain) s
    | none => enginePoison p.cls off p.blockBytes s
  setPack e (fun p => { p with nodes := p.nodes ++ [{ block := block, level := level, lo := lo, bx := v.isBx,
                                                      since := since }] }) s

/-- The level and contributor index of a fault of a stored node (R216): in vector mode the running sum is that of the
contributor it last took in. -/
def Node.faultPlace (p : Pack) (n : Node) : Nat × Nat :=
  if p.vector && decide (0 < n.level) then (1, n.level) else (n.level, n.lo)

/-- Read a stored node for an add: an uncorrectable word is a fault with cause DATA, a mark none (R216). -/
def stageRead (e : Nat) (n : Node) (s : State) : NodeVal × State :=
  let p := getPack s e
  let off := p.slotAt s n.lo n.block
  let s := setPack e (fun p => { p with nodes := p.nodes.filter (· ≠ n) }) s
  let secs := kennelSecs off p.blockBytes
  let s := performBefore true secs (2 * s.fg.accs.length + 16) s
  let ue := secs.any fun x => (look (2 * x) s).1.cls == .ue || (look (2 * x + 1) s).1.cls == .ue
  let r := engineRead 3 p.cls off p.blockBytes s
  if r.1.any fun w => w.poison then (.poison, if ue then faultAt e n.block (n.faultPlace p).1 (n.faultPlace p).2 4 r.2 else r.2)
  else
    let x := (r.1.zipIdx).foldl (fun a w => a + w.1.data.toNat * 2 ^ (256 * w.2)) 0
    (NodeVal.ofImage p.isInt n.bx (BitVec.ofNat 1024 x), r.2)

/-- A root has been formed; it is held as binary32 or int64 (R208). -/
def setRoot (e block : Nat) (v : NodeVal) (since : Nat) (s : State) : State :=
  let img := match v with
    | .bx b => (NodeVal.f32 (bxTo32 b)).image
    | _ => v.image
  setPack e (fun p => { p with roots := tput p.roots block img, readyAt := max p.readyAt since }) s

/-- Nodes at a level of a tree of n leaves (R206). -/
def levelCount : Nat → Nat → Nat
  | 0, n => n
  | l + 1, n => levelCount l ((n + 1) / 2)

/-- The waiting node of a block that covers the contributors from lo on. -/
def waitingNode (s : State) (e block lo : Nat) : Option Node :=
  (getPack s e).nodes.find? fun n => n.block == block && n.lo == lo

/-- The level at which a node of a level takes part in its next add: an odd last node passes up. -/
def addLevel (p : Pack) (level lo : Nat) : Nat → Nat
  | 0 => level + 1
  | k + 1 =>
    let i := lo / 2 ^ level
    if i % 2 = 0 ∧ levelCount level p.pcount ≤ i + 1 then addLevel p (level + 1) lo k else level + 1

/-- A leaf is stored in the format of the add it will enter (R210); a failed encoding is a fault of that add (R216). -/
def storedLeaf (e block level lo : Nat) (v : NodeVal) (s : State) : NodeVal × State :=
  let p := getPack s e
  let l := addLevel p level lo 8
  if level ≠ 0 ∨ p.isInt ∨ p.singleAt l then (v, s)
  else match v with
    | .poison => (v, s)
    | _ => match v.toBx with
      | some b => (.bx b, s)
      | none => (.poison, faultAt e block l lo 2 s)

/-- A node will exist from an sc on. -/
def formLater (e block level lo : Nat) (v : NodeVal) (since : Nat) (s : State) : State :=
  { s with red := { s.red with forming := s.red.forming ++
    [{ entry := e, block := block, level := level, lo := lo, bx := v.isBx, img := v.image, since := since }] } }

/-- A node of the tree exists: it meets its partner, or waits in staging (R206, R210). -/
def treeNode (e block level lo : Nat) (v : NodeVal) (since : Nat) (s : State) : State :=
  let l := addLevel (getPack s e) level lo 8
  let i := lo / 2 ^ (l - 1)
  let other := (if i % 2 = 0 then i + 1 else i - 1) * 2 ^ (l - 1)
  match (waitingNode s e block other).filter fun n => addLevel (getPack s e) n.level n.lo 8 == l with
  | some n =>
    let r := stageRead e n s
    let left := min lo other
    let right := max lo other
    let a := if lo < other then v else r.1
    let b := if lo < other then r.1 else v
    let t := addNodes e block l left right left a b (max since n.since) r.2
    formLater e block l left t.1 t.2.1 t.2.2
  | none =>
    let w := storedLeaf e block level lo v s
    stageWrite e block lo level w.1 since w.2

/-- A node of a vector-mode block exists (R211): the running sum, which has taken in the contributors up to level, or the leaf
of contributor lo. -/
def vectorNode (e block level lo : Nat) (v : NodeVal) (since : Nat) (s : State) : State :=
  if lo = 0 then
    match waitingNode s e block (level + 1) with
    | some n =>
      let r := stageRead e n s
      let t := addNodes e block 1 0 (level + 1) (level + 1) v r.1 (max since n.since) r.2
      formLater e block (level + 1) 0 t.1 t.2.1 t.2.2
    | none => stageWrite e block 0 level v since s
  else match (waitingNode s e block 0).filter fun n => n.level + 1 == lo with
    | some n =>
      let r := stageRead e n s
      let t := addNodes e block 1 0 lo lo r.1 v (max n.since since) r.2
      formLater e block lo 0 t.1 t.2.1 t.2.2
    | none => stageWrite e block lo 0 v since s

/-- A node is the root of its block. -/
def Pack.isRoot (p : Pack) (level lo : Nat) : Bool :=
  if p.vector then lo == 0 && level + 1 == p.pcount else level == p.depth

/-- The value of a node that has formed. -/
def Forming.value (s : State) (f : Forming) : NodeVal :=
  match f.img with
  | none => .poison
  | some x => NodeVal.ofImage (getPack s f.entry).isInt f.bx x

/-- A node exists. -/
def nodeFormed (e block level lo : Nat) (v : NodeVal) (since : Nat) (s : State) : State :=
  if (getPack s e).isRoot level lo then setRoot e block v since s
  else if (getPack s e).vector then vectorNode e block level lo v since s
  else treeNode e block level lo v since s

/-- Take the nodes further that exist by this sc, roots only or all, the first first. -/
def formNodes (rootsOnly : Bool) : Nat → State → State
  | 0, s => s
  | k + 1, s =>
    match s.red.forming.find? fun f => decide (f.since ≤ s.env.sc) && (!rootsOnly || (getPack s f.entry).isRoot f.level f.lo) with
    | none => s
    | some f => formNodes rootsOnly k (nodeFormed f.entry f.block f.level f.lo (f.value s) f.since
        { s with red := { s.red with forming := s.red.forming.erase f } })

/-- The roots that have formed by this sc. -/
def landRoots (s : State) : State := formNodes true s.red.forming.length s

/-- The adds that are ready in this sc, after those of TADD (R221, R294). -/
def formAdds (s : State) : State := formNodes false (64 * s.red.forming.length) s

/-! ### Contributions (R195, R196) -/

/-- The leaf of a block: its values, or the cause of its poison (R198, R216). The bytes of the chunk are one number. -/
def leafOf (p : Pack) (words : List CodeWord) (block : Nat) : NodeVal × Nat :=
  let z := inputBytes p.ifmt
  let first := block * 16 * z % 256
  let used := (List.range 16).filter fun i => block * 16 + i < p.vcount
  let cws := (used.map fun i => (first + i * z) / 32).dedup
  let all := (words.zipIdx).foldl (fun a w => a + w.1.data.toNat * 2 ^ (256 * w.2)) 0
  let el (i : Nat) : Nat := if block * 16 + i < p.vcount then all / 2 ^ (8 * (first + i * z)) % 2 ^ (8 * z) else 0
  if cws.any fun k => (words.getD k { data := 0, poison := false }).poison then (.poison, 4)
  else if p.isInt then (.ints ((List.range 16).map fun i => toSigned (8 * z) (el i)), 0)
  else
    let vals := (List.range 16).map fun i => decodeFloat (fmtOf p.ifmt) (el i)
    if vals.any Option.isNone then (.poison, 1)
    else (.f32 (vals.map fun v => (round32 (v.getD Dy.zero)).getD 0), 0)

/-- Take in the leaf of a block: a block of one contributor has its root at once. -/
def insertLeaf (e idx block : Nat) (words : List CodeWord) (s : State) : State :=
  let p := getPack s e
  let v := leafOf p words block
  let s := if v.2 = 0 then s else faultAt e block 0 idx v.2 s
  if p.pcount = 1 then setRoot e block v.1 s.env.sc s else formLater e block 0 idx v.1 s.env.sc s

/-- The blocks of a chunk. -/
def Pack.chunkBlocks (p : Pack) (c : Nat) : List Nat :=
  let per := 16 / inputBytes p.ifmt
  ((List.range per).map (c * per + ·)).filter fun b => decide (b < p.blocks)

/-- A contribution to a target (R196): its status, and the state. DESIGN CHOICE (entry 58): a line of the window that lies in
another slice's part or above the locked ways meets no armed pack, and is answered by case 2. -/
def contribute (target epoch idx chunk : Nat) (words : List CodeWord) (s : State) : Status × State :=
  let s := checkPacks s
  if redMuzzled s then (.muzzled, s)
  else match s.red.packs.find? fun p => p.2.target == target && p.2.epoch == epoch && p.2.stop != some 3 with
    | none => (.nackRetry, s)
    | some (e, p) =>
      if p.pcount ≤ idx ∨ p.chunks ≤ chunk ∨ words.length ≠ p.chunkWords chunk then (.bounds, s)
      else if p.got.contains (idx * 1024 + chunk) then (.packCollision, s)
      else
        let s := setPack e (fun p => { p with got := p.got ++ [idx * 1024 + chunk] }) s
        (.ok, (p.chunkBlocks chunk).foldl (fun s b => insertLeaf e idx b words s) s)

/-- PkRsp (R196). -/
def answerPack (h : Hdr) (st : Status) (s : State) : State :=
  answer h 9 (.status st) [] (s.env.sc + 9) .none (countNack st s)

/-- PKCTB (R195, R196, R98). -/
def execPkctb (h : Hdr) (epoch : BitVec 16) (idx : BitVec 6) (chunk : BitVec 10) (ncw : BitVec 3) (data : List CodeWord)
    (s : State) : Host.Outcome State Fault Refusal :=
  receive (.pkctb h epoch idx chunk ncw data) s fun s =>
    let framed := decide (data.length = ncw.toNat + 1) && decide (h.ndf = dataFlitCount data.length)
    match reqRefused s h false framed with
    | some st => answerPack h st s
    | none =>
      let r := contribute (h.line.toNat * 256) epoch.toNat idx.toNat chunk.toNat data s
      answerPack h r.1 (if r.1 = .ok then dropLineFb h.line (countStore (classOf s h.line h.label) false r.2) else r.2)

/-- A contribution of PCTB registers at its pack of this slice, or leaves for its target's home in the class of its issue (R276,
R296, R307): its data was at hand in the sc before. From then on it is a long request (R248). -/
def sendContribution (x : Contrib) (a b : Word64) (cls : Nat) (s : State) : State :=
  let line := cwLine a.toNat 0
  match ownKennel s line with
  | some _ =>
    let r := contribute a.toNat (fld b 0 16) (fld b 16 6) (fld b 22 10) x.words s
    completeSts (s.env.sc + 1) x.ctx x.id r.1 r.2
  | none =>
    originate (some (.pctb x.ctx x.id)) { ctxRequest s x.ctx 9 line
      (.pkCtb (BitVec.ofNat 16 (fld b 0 16)) (BitVec.ofNat 6 (fld b 16 6)) (BitVec.ofNat 10 (fld b 22 10))
        (BitVec.ofNat 3 (fld b 32 3))) x.words with ready := s.env.sc + 2, label := cls }
      (setPend x.ctx x.id (fun p => { p with long := true }) s)

/-- The contributions of this sc. -/
def landContribs (s : State) : State :=
  let due := s.red.contribs.filter fun x => decide (x.due ≤ s.env.sc) && x.isCtb
  due.foldl (fun s x => match x.use with
      | .ctb a b cls => sendContribution x a b cls s
      | _ => s)
    { s with red := { s.red with contribs := s.red.contribs.filter fun x => !(decide (x.due ≤ s.env.sc) && x.isCtb) } }

/-- The data of a tile source: lanes as binary32, eight to a code word. -/
def tileData (x : Ctx) (t n : Nat) : List CodeWord :=
  ((elementWords 4 ((x.tile t).flatMap TileBlock.lanes)).take n).map plain

/-- The status that refuses a kennel source (R162, R174). -/
def sourceRefused (s : State) (off n : Nat) : Option Status :=
  if kennelEnd s < off + 32 * n ∨ inStage s off (off + 32 * n) then some .bounds
  else readRefused s ((List.range n).map fun i => off + 32 * i)

/-- PCTB (R296). -/
def execPctb (c : Fin 16) (s : State) : Host.Outcome State Fault Refusal :=
  issue c (fun z => match z with
    | .pctb ra rb src => some fun s =>
      let x := getCtx s c
      let a := x.reg ra.toNat
      let b := x.reg rb.toNat
      let n := fld b 32 3 + 1
      let bad := !addrOk a 256 || decide (fld b 35 29 ≠ 0) || (match src with
        | .kennel k => decide (2 ^ 24 ≤ (x.reg k.toNat).toNat) || decide ((x.reg k.toNat).toNat % 32 ≠ 0)
        | .tile _ => false)
      if bad then placeSts c .bounds s
      else
        let use : Handoff := .ctb a b x.cls
        match src with
        | .tile t =>
          let p := openPend c z false false .nothing 1 true s
          handOver c p.1 use (tileData x t.toNat n) (s.env.sc + 2) p.2
        | .kennel k =>
          let off := (x.reg k.toNat).toNat
          let parts := lineParts off (List.range n)
          let p := openPend c z false false (.unit use) parts.length true s
          let s := checkSlots ((List.range n).map fun i => off + 32 * i) p.2
          match sourceRefused s off n with
          | some st => completeSts (s.env.sc + 17) c p.1 st s
          | none => parts.foldl (fun s l =>
            let secs := (bitsOf (sectorsOf l.mask)).map fun i => kennelLoc (l.line.toNat * 256 + 64 * i) / 2
            enqueue (readAccess (s.env.sc + 6) x.cls 2 true secs (.seqRead c p.1 l.want)) s) s
    | _ => none) s

end Sys2Proof.Machine
end

