-- ==== Sys2Proof/Machine/PackEnd.lean ====
section
/-! DEFINITION. How a pack ends (07_reduction_arithmetic R212 to R220): the result, the accumulation, the poisoned target, the
lines of a cacheable target (R473), the record, the watchdog and the muzzle. -/

namespace Sys2Proof.Machine

/-! ### The result (R199, R212, R219) -/

/-- Values of the roots in element order: binary32 patterns, or integers. -/
def rootVals (p : Pack) : List Int :=
  (List.range p.blocks).flatMap fun b =>
    match tget none p.roots b with
    | some x => if p.isInt then intsOfImage x else (f32OfImage (x.extractLsb' 0 512)).map fun (n : Nat) => (n : Int)
    | none => List.replicate 16 0

/-- Element i of target words of z bytes each. -/
def targetElement (words : List CodeWord) (z i : Nat) : Nat :=
  let k := i * z / 32
  fld (words.getD k default).data (8 * (i * z % 32)) (8 * z)

/-- The accumulate step for element i (R219): the sum, or the cause of its failure. -/
def accumulate (p : Pack) (old : List CodeWord) (i : Nat) (v : Int) : Int × Nat :=
  if !p.accum then (v, 0)
  else
    let z := outputBytes p.ofmt
    let t := targetElement old z i
    if (old.getD (i * z / 32) default).poison then (v, 6)
    else if p.isInt then (v + toSigned (8 * z) t, 0)
    else if (decodeFloat binary32 t).isNone then (v, 1)
    else match add32 v.toNat (signed binary32 (decide ((value32 t).m < 0)) (if (value32 t).m = 0 then 0 else t % 2 ^ 31)) with
      | some r => ((r : Int), 0)
      | none => (v, 2)

/-- One output element and whether it saturated (R212). -/
def outputElement (p : Pack) (i : Nat) (v : Int) : Nat × Bool :=
  if p.isInt then
    let w := 8 * outputBytes p.ofmt
    let r := satInt w v
    ((r.1 % 2 ^ w).toNat, r.2)
  else if p.ofmt = 0 then (v.toNat, false)
  else roundOut (fmtOf p.ofmt)
    (if p.rnd then some (srBits p.seed p.step (BitVec.ofNat 48 p.target) i) else none) (value32 v.toNat)

/-- The result words of a pack, the elements that saturated, and the faults of the accumulate step. -/
def packResult (p : Pack) (old : List CodeWord) : List Code × Nat × List PackFault :=
  let vals := ((rootVals p).take p.vcount).zipIdx.map fun v => accumulate p old v.2 v.1
  let faults := (vals.zipIdx.filter fun v => v.1.2 ≠ 0).map fun v =>
    ({ block := v.2 / 16, level := 7, idx := 0, cause := v.1.2 } : PackFault)
  let out := vals.zipIdx.map fun v => outputElement p v.2 v.1.1
  (elementWords (outputBytes p.ofmt) (out.map Prod.fst), (out.filter Prod.snd).length, faults)

/-! ### Faults, status, record (R215, R216) -/

/-- The fault that comes first in the order of block, level and index (R216). -/
def firstFault (l : List PackFault) : Option PackFault :=
  l.foldl (fun b f => match b with
    | none => some f
    | some g => if f.block < g.block ∨ (f.block = g.block ∧ (f.level < g.level ∨ (f.level = g.level ∧ f.idx < g.idx)))
        then some f else b) none

/-- A contributor has sent every chunk. -/
def Pack.sentAll (p : Pack) (idx : Nat) : Bool :=
  decide ((p.got.filter fun g => g / 1024 == idx).length = p.chunks)

/-- The lowest contributor with a missing chunk (Table 7.8). -/
def Pack.missingIdx (p : Pack) : Nat := ((List.range p.pcount).find? fun i => !p.sentAll i).getD 0

/-- The pack ends with POISON (R216, R218, R220). -/
def Pack.failed (p : Pack) : Bool := p.stop.isSome || !p.faults.isEmpty || p.roots.any fun r => r.2.isNone

/-- The fault that the record names. -/
def Pack.recorded (p : Pack) : PackFault :=
  match p.stop with
  | some 3 => { block := 0, level := 0, idx := p.missingIdx, cause := 3 }
  | some 6 => { block := 0, level := 7, idx := 0, cause := 6 }
  | some k => { block := 0, level := 0, idx := 0, cause := k }
  | none => (firstFault p.faults).getD { block := 0, level := 0, idx := 0, cause := 0 }

/-- The completion record (Table 7.8). -/
def packRecord (s : State) (e : Nat) (p : Pack) : Code :=
  let f := p.recorded
  BitVec.ofNat 256 (pack [
    (0, 5, statusCode (if p.failed then .poison else .ok)), (5, 3, f.cause), (8, 4, e), (16, 16, p.epoch),
    (32, 48, p.target), (80, 6, f.idx), (86, 3, f.level), (90, 12, f.block), (128, 16, p.repeats), (144, 16, p.sat),
    (160, 17, p.got.length), (192, 32, frameNumber s)])

/-- Detail P (Table 15.6). -/
def packDetail (e : Nat) (p : Pack) : Nat :=
  let f := p.recorded
  pack [(0, 48, p.target), (48, 16, p.epoch), (64, 4, e), (68, 3, f.cause), (71, 3, f.level), (74, 6, f.idx),
    (80, 12, f.block), (92, 5, statusCode (if p.failed then .poison else .ok))]

/-- Write the record, set the flag, free the entry, count (R214, R220, R222). -/
def closePack (e : Nat) (s : State) : State :=
  let p := getPack s e
  let s := engineWrite p.cls p.recordAt [plain (packRecord s e p)] s
  let s := if p.failed then report 0x41 2 0 (packDetail e p) s else s
  let s := { s with red := { s.red with
    packs := terase s.red.packs e
    forming := s.red.forming.filter fun f => f.entry != e
    poisonPacks := if p.failed then satAdd 65535 s.red.poisonPacks 1 else s.red.poisonPacks
    donePacks := if p.failed then s.red.donePacks else satAdd 65535 s.red.donePacks 1 } }
  flagNext p.evt s

/-! ### PACK_COMPLETE (R193, R214, R217, R219) -/

/-- Every chunk has been accepted and every root formed. -/
def Pack.formed (p : Pack) : Bool := decide (p.got.length = p.pcount * p.chunks) && decide (p.roots.length = p.blocks)

/-- Every earlier-armed pack with the same target has completed; a pack with cause UNIT does not wait (R193, R220). -/
def packTurn (s : State) (p : Pack) : Bool :=
  p.stop == some 5 || s.red.packs.all fun q => q.2.target != p.target || decide (p.order ≤ q.2.order)

/-- The address of line n of a pack's target. -/
def Pack.lineAddr (p : Pack) (n : Nat) : LineAddr := BitVec.ofNat 40 (p.target / 256 + n)

/-- What step 2 of R214 writes has been written: no write of a target line is queued or awaits its fetch. -/
def targetSettled (s : State) (p : Pack) : Bool :=
  (p.kennelTarget s).isSome || (List.range p.lines).all fun n =>
    let line := p.lineAddr n
    !(s.cache.miss.any fun m => m.2.line == line) && match findWay s line with
      | some way =>
        let secs := lineSecs (lineSet line) way
        !(s.fg.accs.any fun a => a.isWrite && a.secs.any fun x => secs.contains x)
      | none => true

/-- The pack has its next step to take here. -/
def packReady (s : State) (p : Pack) : Bool :=
  !p.parityBad && match p.phase with
    | .gathering => (p.stop.isSome || (p.formed && decide (p.readyAt ≤ s.env.sc))) && packTurn s p
    | .closing => targetSettled s p
    | _ => false

/-- The first such pack. -/
def packDue (s : State) : Option Nat :=
  if s.saf.fatal then none else (s.red.packs.find? fun p => packReady s p.2).map Prod.fst

/-- Apply the result to a pack: what it writes, its saturations, and the faults of the accumulate step. DESIGN CHOICE (entry
59): elements that saturated count in SAT also where the accumulate step fails and nothing is written. -/
def applyPackResult (e : Nat) (old : List CodeWord) (s : State) : State :=
  let r := packResult (getPack s e) old
  setPack e (fun p => { p with result := r.1.map plain, sat := min 65535 r.2.1, faults := p.faults ++ r.2.2 }) s

/-- A kennel target is read, written or poisoned directly (R214, R217, R219). -/
def kennelTargetEnd (e off : Nat) (s : State) : State :=
  let p := getPack s e
  let n := 32 * p.outWords
  let s := if p.failed then s
    else if p.accum then
      let r := engineRead 3 p.cls off n s
      applyPackResult e r.1 r.2
    else applyPackResult e [] s
  let p := getPack s e
  let s := if p.failed then
      (List.range p.outWords).foldl (fun s k =>
        let loc := kennelLoc (off + 32 * k)
        queueMarks (loc / 2) (setBit 0 (loc % 2) true) s) s
    else engineWrite p.cls off p.result s
  closePack e s

/-- PACK_COMPLETE (R214): a kennel target is finished here; the lines of a cacheable target take internal lookups (entry
21), and the record follows them. -/
def execPackComplete (s : State) : Host.Outcome State Fault Refusal :=
  event s fun s => match packDue s with
    | none => s
    | some e =>
      let p := getPack s e
      if p.phase = .closing then closePack e s
      else match p.kennelTarget s with
        | some off => kennelTargetEnd e off s
        | none =>
          if p.failed then setPack e (fun p => { p with phase := .poisoning, line := 0 }) s
          else if p.accum then setPack e (fun p => { p with phase := .reading, line := 0, result := [] }) s
          else setPack e (fun p => { p with phase := .writing, line := 0 }) (applyPackResult e [] s)

/-! ### The lines of a cacheable target (R214, R217, R219, R473) -/

/-- A request of a pack for a line. -/
def packReq (s : State) (p : Pack) (line : LineAddr) (kind : ReqKind) (mask : BitVec 4) (cw : BitVec 8)
    (data : List CodeWord) : Req :=
  { kind := kind, port := .mpa, agent := s.env.idAgent.toNat, die := s.env.idDie.toNat, txn := 0, line := line,
    label := p.cls, cls := p.cls, mask := mask, crit := BitVec.ofNat 2 ((bitsOf mask).headD 0), cwMask := cw, data := data,
    op := default, internal := true }

/-- The line is free for an internal lookup: no transaction is active on it and it is not on its way out. -/
def lineFree (s : State) (line : LineAddr) : Bool :=
  !leaving s line && !filling s line && !lineActive s line && (missOf s line).isNone

/-- Copies of the line are recalled first, as for WrPart (R214): none where nothing need be recalled; otherwise the state in
which the snoops are under way, where a tracker entry is free. -/
def packSnoop (s : State) (r : Req) : Option (Option State) :=
  match findWay s r.line with
  | some way => if needsSnoop s r (tagAt s (lineSet r.line) way) then some (startSnoop r (lineSet r.line) way s) else none
  | none => none

/-- The code words of line n of a pack's output. -/
def Pack.lineWords (p : Pack) (n : Nat) : Nat := min 8 (p.outWords - 8 * n)

/-- The next line of the pack has been dealt with; after the last, the next phase begins. -/
def lineDone (e : Nat) (s : State) : State :=
  let s := setPack e (fun p => { p with line := p.line + 1 }) s
  let p := getPack s e
  if p.line < p.lines then s
  else match p.phase with
    | .reading =>
      let s := applyPackResult e p.result s
      if (getPack s e).failed then setPack e (fun p => { p with phase := .poisoning, line := 0 }) s
      else setPack e (fun p => { p with phase := .writing, line := 0 }) s
    | _ => setPack e (fun p => { p with phase := .closing }) s

/-- The pack ends with cause TARGET, its tag bank being muzzled (entry 21). -/
def endTarget (e : Nat) (s : State) : State :=
  setPack e (fun p => { p with stop := some 6, phase := .poisoning, line := 0 }) s

/-- Words of an accumulate read have come; what a poisoned one means is decided with the result (R216, R219). -/
def packRead (e : Nat) (words : List CodeWord) (s : State) : State :=
  lineDone e (setPack e (fun p => { p with result := p.result ++ words }) s)

/-- Read the words of a present line, all its sectors valid, after every access ordered before. -/
def readPresent (e set way n : Nat) (s : State) : State :=
  let p := getPack s e
  let secs := maskSecs set way (sectorsOf (BitVec.ofNat 8 (ones n)))
  let s := setTag set way (fun e => { e with age := 0 }) s
  let s := performBefore true secs (2 * s.fg.accs.length + 16) s
  let r := readSectors 3 false secs s
  let s := secs.foldl (fun s x => chargeSector p.cls (secBank x) s) r.2
  if r.1.any fun g => g.refetch then s else packRead e ((r.1.map fun g => g.word).take n) s

/-- Poison a line of the target (R150, R217): one that is absent takes a way, and is poisoned there once that is free of its
victim; where no line can be allocated, the poison goes to XP (R103). -/
def poisonTarget (e : Nat) (line : LineAddr) (s : State) : Option State :=
  let set := lineSet line
  let p := getPack s e
  match findWay s line with
  | some way =>
    some (lineDone e (markLine set way (setTag set way (fun t => { t with tv := true, sv := 15, sd := 15 }) s)))
  | none =>
    if cacheOff s then
      let r := packReq s p line .wrpart 0 255 (List.replicate 8 badWord)
      if (freeEvict s).isSome then some (lineDone e (writeThrough none r s)) else none
    else
      let i := promoteIndex s
      (makeWay line p.cls p.cls i 0 s).map fun q =>
        let s := { q.2 with cache := { q.2.cache with
          tags := tput q.2.cache.tags (set * 16 + q.1) ({ newEntry line with dst := dirU } : TagEntry).sealed } }
        let m : Miss := { (default : Miss) with
          line := line, way := q.1, cls := p.cls, granted := true, held := true, marks := true }
        lineDone e (if victimIn s i then { s with cache := { s.cache with miss := tput s.cache.miss i m } }
          else markLine set q.1 (setTag set q.1 (fun t => { t with sv := 15, sd := 15 }) s))

/-- A pack's write, where no entry or way is lacking (R473). -/
def packWrite (e : Nat) (r : Req) (s : State) : Option State :=
  if cacheOff s && (findWay s r.line).isNone && (freeEvict s).isNone then none
  else (serveHome none r s).map (lineDone e)

/-- One internal lookup of a pack (R473): none where it waits. -/
def packLine (e : Nat) (s0 : State) : Option State :=
  let p := getPack s0 e
  let n := p.lineWords p.line
  let line := p.lineAddr p.line
  let set := lineSet line
  let s := checkSet set s0
  let cw : BitVec 8 := BitVec.ofNat 8 (ones n)
  let write := packReq s p line .wrpart 0 cw ((p.result.drop (8 * p.line)).take n)
  if bit s.coh.muzBanks (tagBank set) then
    some (if p.phase = .poisoning then lineDone e s else endTarget e s)
  else if !lineFree s line then none
  else
    let s := match findWay s line with
      | some way => reclaimEntry set way s
      | none => s
    match s.red.fetched.find? fun f => f.1 == line with
    | some f =>
      some (packRead e ((List.range n).map fun k => tget badWord f.2 k)
        { s with red := { s.red with fetched := s.red.fetched.filter fun g => g.1 != line } })
    | none =>
      let spoiled := s.red.spoiled.contains line
      let s := { s with red := { s.red with spoiled := s.red.spoiled.filter fun l => l != line } }
      if spoiled && p.phase == .writing then some (lineDone e s)
      else match packSnoop s write with
      | some r => r
      | none =>
        let s := dropLineFb line s
        match p.phase with
        | .poisoning => poisonTarget e line s
        | .reading =>
          let read := packReq s p line .rdu (sectorsOf cw) 0 []
          let here := (findWay s line).filter fun way => read.missing (tagAt s set way).sv = 0
          match here with
          | some way => some (readPresent e set way n s)
          | none => serveHome none read s
        | _ => packWrite e write s

/-- Packs that have a line to deal with. -/
def lookupPacks (s : State) : List Nat :=
  if s.saf.fatal then []
  else (s.red.packs.filter fun p => !p.2.parityBad && match p.2.phase with
    | .reading | .writing | .poisoning => true
    | _ => false).map Prod.fst

/-! ### Watchdog and muzzle (R218, R220) -/

/-- Pack watchdogs advance at a frame boundary (R22), not while the seam bridge holds traffic (R440). -/
def advancePacks (s : State) : State :=
  if s.env.smHold ≠ 0 then s
  else { s with red := { s.red with packs := s.red.packs.map fun p =>
      if p.2.armedAt < s.env.sc then (p.1, { p.2 with age := p.2.age + 1 }) else p } }

/-- A pack whose watchdog has expired before every chunk was accepted. -/
def packExpired (s : State) (p : Pack) : Bool :=
  !s.red.muz && p.stop.isNone && decide (p.pwdog ≠ 0) && decide (p.pwdog ≤ p.age)
    && decide (p.got.length < p.pcount * p.chunks)

def packExpiryDue (s : State) : Bool := s.red.packs.any fun p => packExpired s p.2

/-- PACK_WATCHDOG_EXPIRY (R218): every expiry of the boundary. -/
def execPackWatchdogExpiry (s : State) : Host.Outcome State Fault Refusal :=
  eventIf packExpiryDue s fun s =>
    let packs := s.red.packs.map fun p => if packExpired s p.2 then (p.1, { p.2 with stop := some 3 }) else p
    { s with red := { s.red with packs := packs } }

/-- RED_LOCKSTEP_MISMATCH (R220): a mismatch, or a parity failure of an entry of the pack table, in which nothing is written for
that entry. Causes of one sc impose one muzzle, and each is reported (R402). -/
def execRedLockstepMismatch (entry : Option (Fin 16)) (s : State) : Host.Outcome State Fault Refusal :=
  event s fun s => match entry with
    | none => if s.red.muz && s.red.muzAt != s.env.sc then s else muzzleRed 0 0 s
    | some e =>
      if (getPack s e.val).parityBad && s.red.muz then s
      else muzzleRed e.val 1 (setPack e.val (fun p => { p with parityBad := true }) s)

end Sys2Proof.Machine
end

