-- ==== Sys2Proof/Machine/Mover.lean ====
section
/-! DEFINITION. The bulk mover (11_bulk_mover R315 to R335): acceptance, requests, the end of a move, watchdog and muzzle. -/

namespace Sys2Proof.Machine

/-! ### Range checks (R319) -/

/-- A byte address lies in the kennel window (R158). -/
def inWindow (s : State) (a : Nat) : Bool := s.ken.en && decide (a / 2 ^ 35 = s.ken.base.toNat)

/-- A byte address lies in this slice's part of the window. -/
def inOwnPart (s : State) (a : Nat) : Bool := inWindow s a && decide (a / 2 ^ 24 % 2048 = s.env.idSlice.toNat)

/-- Cases 3, 5 and 6 of R319 for one range. -/
def rangeBad (s : State) (a len : Nat) : Bool :=
  let last := a + len - 1
  decide (2 ^ 48 < a + len) ||
    (decide (len ≠ 0) &&
      (inWindow s a != inWindow s last
        || (inWindow s a && decide (a / 2 ^ 24 ≠ last / 2 ^ 24))
        || (inOwnPart s a && decide (kennelEnd s < a % 2 ^ 24 + len))))

/-- A range in this slice's part of the window touches offsets lo to hi - 1. -/
def rangeMeets (s : State) (a len lo hi : Nat) : Bool :=
  decide (len ≠ 0) && inOwnPart s a && meets (a % 2 ^ 24) (a % 2 ^ 24 + len) lo hi

/-- A range in this slice's part of the window touches the staging region. -/
def rangeInStage (s : State) (a len : Nat) : Bool :=
  s.ken.stageEn && rangeMeets s a len (stageFirst s) (stageLast s)

/-- A range touches the staging area of an armed pack (R191). -/
def rangeInPack (s : State) (a len : Nat) : Bool :=
  s.red.packs.any fun p =>
    let lo := stageFirst s + p.2.stg * 64
    rangeMeets s a len lo (lo + p.2.stageBytes)

/-- A descriptor passes the range checks. -/
def moveAllowed (s : State) (g : Engine) : Bool :=
  let unit := if g.kind = 2 then 64 else 32
  decide (fld g.desc 176 80 = 0) && decide (fld g.desc 130 6 = 0) && decide (g.kind ≠ 3)
    && (g.kind == 1 || g.pattern == 0) && (g.kind == 0 || g.src == 0)
    && decide (g.len % unit = 0) && decide (g.dst % unit = 0) && decide (g.src % 32 = 0)
    && !rangeBad s g.dst g.len && !(g.kind == 0 && rangeBad s g.src g.len)
    && !(g.kind == 0 && meets g.src (g.src + g.len) g.dst (g.dst + g.len))
    && !(g.kind == 0 && (rangeInStage s g.src g.len || rangeInStage s g.dst g.len))
    && !(g.kind == 1 && rangeInPack s g.dst g.len)
    && !(g.kind == 2 && decide (g.len ≠ 0) && inWindow s g.dst)
    && (g.norec || (decide (g.recordAt % 32 = 0) && plainKennel s g.recordAt (g.recordAt + 32)
      && !rangeMeets s g.dst g.len g.recordAt (g.recordAt + 32)))

/-! ### Records (R324, R325) -/

/-- The completion record (Table 11.4): eng is none for EMPTY-MOVE. -/
def moveRecord (s : State) (eng : Option Nat) (g : Engine) (r : MoveEnd) (done : Nat) : Code :=
  BitVec.ofNat 256 (pack [
    (0, 5, statusCode r.status), (5, 1, b01 eng.isNone), (8, 3, eng.getD 0), (11, 2, g.kind), (13, 3, r.cause),
    (16, 4, g.cls), (87, 1, b01 g.sb), (88, 24, g.descOff), (112, 32, done), (144, 32, g.len),
    (176, 48, r.line.toNat * 256), (224, 32, frameNumber s)])

/-- Detail M of a record (Table 15.6). -/
def moveDetail (record : Code) : Nat :=
  pack [(0, 48, fld record 176 48), (48, 32, fld record 112 32), (80, 24, fld record 88 24), (104, 3, fld record 8 3),
    (107, 3, fld record 13 3), (110, 5, fld record 0 5), (115, 1, fld record 87 1)]

/-- Write the record and set the flag, as the descriptor says. -/
def signalMove (g : Engine) (record : Code) (s : State) : State :=
  let s := if g.norec then s else engineWrite g.cls g.recordAt [plain record] s
  flagNext g.evt s

/-! ### Acceptance (R316 to R318) -/

/-- The lowest-numbered engine that is free and not muzzled. -/
def freeEngine (s : State) : Option Nat :=
  (List.range 8).find? fun e => !(engineOf s e).busy && !engineMuzzled s (engineOf s e)

/-- Cases 3 to 7 of Table 11.2 for a descriptor: the answer, the engine on success, and the state. -/
def acceptMove (g : Engine) (s : State) : Status × Option Nat × State :=
  if (List.range 8).all fun e => engineMuzzled s (engineOf s e) then (.muzzled, none, s)
  else if !moveAllowed s g then (.bounds, none, s)
  else if g.len = 0 then
    (.emptyMove, none, signalMove g (moveRecord s none g { status := .emptyMove, cause := 0, line := 0 } 0) s)
  else match freeEngine s with
    | none => (.nackRetry, none, s)
    | some e =>
      let s := { s with mov := { s.mov with serial := s.mov.serial + 1 } }
      (.ok, some e, setEngine e (fun _ => { g with busy := true, serial := s.mov.serial, next := s.env.sc + 1, takenAt := s.env.sc }) s)

/-- A descriptor with what its acceptance gives the move (R317, R323). -/
def moveOf (desc : BitVec 512) (off : Nat) (sb : Bool) (cls : Nat) (holder : Option (BitVec 14)) : Engine :=
  { (default : Engine) with desc := desc, descOff := off, sb := sb, cls := cls, holder := holder }

/-- MOVE (R305, R316, R317): the descriptor is read, and handed to the engines when it has come. -/
def execMoveI (c : Fin 16) (s : State) : Host.Outcome State Fault Refusal :=
  issue c (fun z => match z with
    | .moveI d a => some fun s =>
      let off := ((getCtx s c).reg a.toNat).toNat
      if 2 ^ 24 ≤ off ∨ off % 64 ≠ 0 then placeSts c .bounds (writeRegs c [(d.toNat, 8)] s)
      else readDescriptor c z off 2 (.move d.toNat off (getCtx s c).cls) [(d.toNat, 8)] s
    | _ => none) s

/-- The descriptor words of a MOVE have come: it is accepted or refused, and completes (R305, R318). -/
def takeMove (x : Contrib) (gd off cls : Nat) (s : State) : State :=
  let w (i : Nat) : CodeWord := x.words.getD i default
  let a : Status × Option Nat × State :=
    if x.words.any fun w => w.poison then (.poison, none, s)
    else acceptMove (moveOf ((w 1).data ++ (w 0).data) off false cls (some (ctxHolder x.ctx))) s
  complete (Result.mk s.env.sc x.ctx x.id (some a.1) [(gd, BitVec.ofNat 64 (a.2.1.getD 8))] []) a.2.2

/-- The descriptors of PARM and MOVE that have come by this sc, after everything else that the sc decides (R318). -/
def takeDescriptors (s : State) : State :=
  let due := s.red.contribs.filter fun x => decide (x.due ≤ s.env.sc) && !x.isCtb
  due.foldl (fun s x => match x.use with
      | .ctb _ _ _ => s
      | .arm gd cls seeds => takeArm x gd cls seeds s
      | .move gd off cls => takeMove x gd off cls s)
    { s with red := { s.red with contribs := s.red.contribs.filter fun x => !(decide (x.due ≤ s.env.sc) && !x.isCtb) } }

/-- A write of SL_MV_GO (R316, R317, Tables 11.7 and 11.8). -/
def writeMvGo (value : Word32) : State → State := keepConfig fun s =>
  if bit value 31 then
    let a := acceptMove (moveOf s.mov.desc 0 true (fld value 0 4) none) s
    let t := a.2.2
    { t with mov := { t.mov with resValid := true, resEngine := BitVec.ofNat 3 (a.2.1.getD 0), resStatus := a.1 } }
  else s

/-- MV_GO (R316). -/
def execMvGo (value : Word32) (s : State) : Host.Outcome State Fault Refusal := sbWriteOk (.mvGo value) s (writeMvGo value)

/-! ### Requests (R320 to R323) -/

/-- The next position of an engine's range that is to be requested. -/
def Engine.nextPos (g : Engine) : Option (Nat × Nat) :=
  nextLine (if g.kind = 0 then g.src else g.dst) g.len 32 g.pos

/-- The first destination line all of whose code words have been read (R322): the offset and length in the range. -/
def Engine.readyWrite (g : Engine) : Option (Nat × Nat) :=
  (((g.buf.map fun w => (g.dst + 32 * w.1) / 256).dedup).map (linePart g.dst g.len)).find? fun p =>
    (List.range (p.2 / 32)).all fun i => (tfind g.buf (p.1 / 32 + i)).isSome

/-- The engine can issue a request: after the answer that ends the move only what completes those it has issued, a request to
be sent again and the write of a line that has been read (R324, R327 and the example of R331). -/
def moveCanIssue (s : State) (e : Nat) : Bool :=
  let g := engineOf s e
  g.busy && !engineMuzzled s g && (g.parityBad
    || (decide (g.next ≤ s.env.sc) && !g.timedOut
      && (!g.again.isEmpty
        || (decide (g.flight.length < 16) && (g.readyWrite.isSome || (g.ended.isNone && g.nextPos.isSome))))))

/-- Issue one request of a line: within this slice's part of the window as a kennel access, otherwise through MP egress. -/
def moveIssue (e : Nat) (r : MoveReq) (s : State) : State :=
  let g := engineOf s e
  let a := (if r.write then g.dst else g.src) + r.off
  let line := BitVec.ofNat 40 (a / 256)
  let first := a % 256 / 32
  let cw : BitVec 8 := BitVec.ofNat 8 ((2 ^ (r.len / 32) - 1) * 2 ^ first)
  if inOwnPart s a then
    let off := a % 2 ^ 24
    let offs := (List.range (r.len / 32)).map fun i => off + 32 * i
    let s := checkSlots offs s
    match if r.write then writeRefused s g.holder offs else readRefused s offs with
    | some st => moveFailed e g.serial r.off r.write st s
    | none =>
      if r.write then
        let table := (r.data.zipIdx).foldl (fun t w => tput t (kennelLoc (off + 32 * w.2)) w.1) []
        enqueue (writeAccess (s.env.sc + 1) g.cls (4 + e) true table (.moveWrite e g.serial r.off)) s
      else
        enqueue (readAccess (s.env.sc + 1) g.cls (4 + e) true (kennelSecs off r.len)
          (.moveRead e g.serial r.off (off / 32 % 2) (r.len / 32))) s
  else
    let req (op : Nat) (body : Body) (data : List CodeWord) : OutMsg :=
      originMsg s .req op 255 s.env.idDie.toNat line g.cls body data (s.env.sc + 4)
    let who := some (Origin.move e g.serial r.off r.write)
    if r.write then
      originate who (if cw = 255 then req 4 .none r.data else req 5 (.cwMask cw) r.data) s
    else
      let secs := sectorsOf cw
      originate who (req 3 (.readReq secs (BitVec.ofNat 2 (first / 2))) []) s

/-- Issue a new request and hold it as incomplete. -/
def moveStart (e : Nat) (r : MoveReq) (s : State) : State :=
  let r := { r with num := (engineOf s e).issued }
  moveIssue e r (setEngine e (fun g => { g with flight := g.flight ++ [r], issued := g.issued + 1 }) s)

/-- One prefetch of a move (R95, R322): it completes as it is sent. -/
def movePrefetch (e line : Nat) (s : State) : State :=
  let g := engineOf s e
  let p := linePart g.dst g.len line
  let first := (g.dst + p.1) % 256 / 64
  let secs : BitVec 4 := BitVec.ofNat 4 ((2 ^ (p.2 / 64) - 1) * 2 ^ first)
  let s := originate none
    (originMsg s .req 6 255 s.env.idDie.toNat (BitVec.ofNat 40 line) g.cls (.sectors secs) [] (s.env.sc + 4)) s
  setEngine e (fun g => g.complete p.1 p.2) s

/-- The next request of an engine: one to send again, a write whose data has been read, the next line of the range. -/
def moveNext (e : Nat) (s : State) : State :=
  let g := engineOf s e
  let s := setEngine e (fun g => { g with next := s.env.sc + 1 }) s
  match g.again with
  | r :: rest => moveIssue e r (setEngine e (fun g => { g with again := rest }) s)
  | [] => match g.readyWrite with
    | some p =>
      let words := (List.range (p.2 / 32)).map fun i => tget default g.buf (p.1 / 32 + i)
      let kept := g.buf.filter fun w => !(decide (p.1 / 32 ≤ w.1) && decide (w.1 < (p.1 + p.2) / 32))
      moveStart e { off := p.1, len := p.2, write := true, data := words } (setEngine e (fun g => { g with buf := kept }) s)
    | none => match g.nextPos with
      | none => s
      | some q =>
        let s := setEngine e (fun g => { g with pos := q.1 + 1 }) s
        let p := linePart (if g.kind = 0 then g.src else g.dst) g.len q.2
        if g.kind = 2 then movePrefetch e q.2 s
        else if g.kind = 1 then
          moveStart e { off := p.1, len := p.2, write := true, data := List.replicate (p.2 / 32) (plain g.pattern) } s
        else moveStart e { off := p.1, len := p.2, write := false, data := [] } s

/-- MOVE_REQUEST_ISSUE (R321, R330): a parity failure muzzles the engine instead. -/
def execMoveRequestIssue (engine : Fin 8) (s : State) : Host.Outcome State Fault Refusal :=
  eventIf (fun s => moveCanIssue s engine) s fun s =>
    let s := checkEngine engine s
    if (engineOf s engine).muz then s else moveNext engine s

/-! ### The end of a move (R324 to R329) -/

/-- Nothing of the range is left to issue or to wait for. -/
def Engine.finished (g : Engine) : Bool :=
  g.flight.isEmpty && g.again.isEmpty && g.buf.isEmpty && g.nextPos.isNone

/-- The move ends in this sc: all its requests have completed, or its watchdog has expired. -/
def moveEndDue (s : State) (e : Nat) : Bool :=
  let g := engineOf s e
  g.busy && !engineMuzzled s g && (g.timedOut || (match g.ended with
    | some _ => g.flight.isEmpty && g.readyWrite.isNone
    | none => g.finished))

/-- MOVE_END (R324 to R326, R329): the record, the flag, the report of a move that did not succeed; the engine is free. An
engine whose state fails its check is muzzled instead (R330). -/
def execMoveEnd (engine : Fin 8) (s : State) : Host.Outcome State Fault Refusal :=
  eventIf (fun s => moveEndDue s engine) s fun s =>
    let s := checkEngine engine s
    if (engineOf s engine).muz then s
    else
    let g := engineOf s engine
    let r := g.ended.getD { status := .ok, cause := 0, line := 0 }
    let record := moveRecord s (some engine) g r g.done
    let s := signalMove g record s
    let s := if r.status = .ok then s else report 0x58 0 0 (moveDetail record) s
    let s := { s with out := { s.out with orig := s.out.orig.filter fun o => match o.who with
      | .move e _ _ _ => e != engine.val
      | _ => true } }
    setEngine engine (fun _ => default) s

/-- Move watchdogs advance at a frame boundary (R22, R328), not while the seam bridge holds traffic (R440). -/
def advanceMoves (s : State) : State :=
  if s.env.smHold ≠ 0 then s
  else
    let eng := s.mov.eng.map fun g => if g.2.busy && decide (g.2.takenAt < s.env.sc) then (g.1, { g.2 with age := g.2.age + 1 }) else g
    { s with mov := { s.mov with eng := eng } }

/-- The watchdog of an engine's move has expired, and the move has not completed. -/
def moveExpired (s : State) (e : Nat) : Bool :=
  let g := engineOf s e
  g.busy && !engineMuzzled s g && !g.timedOut && decide (g.mwdog ≠ 0) && decide (g.mwdog ≤ g.age)
    && !(g.ended.isNone && g.finished)

/-- MOVE_WATCHDOG_EXPIRY (R328): the move ends without its incomplete requests; an earlier fault keeps its status. -/
def execMoveWatchdogExpiry (engine : Fin 8) (s : State) : Host.Outcome State Fault Refusal :=
  eventIf (fun s => moveExpired s engine) s fun s =>
    let s := checkEngine engine s
    if (engineOf s engine).muz then s
    else setEngine engine (fun g =>
      { g with timedOut := true, ended := g.ended.or (some { status := .poison, cause := 3, line := 0 }) }) s

end Sys2Proof.Machine
end

