-- ==== Sys2Proof/Machine/Background.lean ====
section
/-! DEFINITION. Background work and the boundaries of frames and windows (13_background_work R355 to R373; 12_regulation R340,
R351; 01_frame_and_timing_contract R17 to R23, R27 to R29; 15_containment_and_safety R399, R407 to R410). -/

namespace Sys2Proof.Machine

/-! ### Scrub steps (R358, R359) -/

/-- A scrub step of a bank falls due in this sc. -/
def scrubStepDue (s : State) (b : Nat) : Bool :=
  s.tick.cntValid && s.bg.scrubEn && !s.env.pkAck && !s.saf.fatal && !bit s.env.done.scrub b
    && decide ((s.tick.counter.toNat + 2 ^ (s.bg.scrubLog2.toNat + 4) - 32 * b) % 2 ^ (s.bg.scrubLog2.toNat + 4) = 0)

/-- A scrub read of a bank is queued. -/
def scrubQueued (s : State) (b : Nat) : Bool := s.bg.work.any fun w => secBank w.sec == b && w.kind == .scrubRead

/-- SCRUB_STEP_DUE (R358): the scrub read is queued and the pointer advances, or the step is dropped. -/
def execScrubStepDue (bank : Fin 16) (s : State) : Host.Outcome State Fault Refusal :=
  eventIf (fun s => scrubStepDue s bank) s fun s =>
    let s := { s with env := { s.env with done := { s.env.done with scrub := setBit s.env.done.scrub bank true } } }
    if scrubQueued s bank then s
    else
      let p := tget 0 s.bg.scrubPtr bank
      { s with bg := { s.bg with
        work := s.bg.work ++ [{ sec := bank.val * 16384 + p, kind := .scrubRead }]
        scrubPtr := tset 0 s.bg.scrubPtr bank ((p + 1) % 16384) } }

/-- A sector may be read by background work (R58, R359). -/
def eligible (s : State) (sec : Nat) : Bool :=
  let loc := 2 * sec
  let w := locWay loc
  !wayGated s w && (if wayLocked s w then bit s.arr.wayInit w else bit (tagAt s (locSet loc) w).sv (locSect loc))

/-! ### Background reads (R360, R367) -/

/-- A transaction is active on the line of a set and way, or its exit cannot begin now. -/
def cannotLeave (s : State) (set way : Nat) : Bool :=
  let e := tagAt s set way
  decide (e.dst = dirT) || (needsTb s set way && (freeTracker s).isNone) || (missOf s (lineOf e.tag set)).isSome

/-- The reading function that a report of background work names. R62, R360 and R398 give none: a free value below 7 (entry 14). -/
def freeSource (s : State) : Nat := (Config.freeCode s.fresh).toNat % 7

/-- Uncorrectable errors found by background work in a sector (R360), each in one word and reported (entry 51): the line of a
clean sector is evicted, any other sector is poisoned, or, of words never written, those words alone (R57). The marks written: 0
where the sector leaves. -/
def backgroundUe (sec : Nat) (locs : List Nat) (s : State) : BitVec 2 × State :=
  let clean := inCleanLine s (2 * sec)
  let s := locs.foldl (fun s l => reportUe (freeSource s) l (!clean) { s with fresh := s.fresh + 1 }) s
  if clean then
    let set := locSet (2 * sec)
    let way := locWay (2 * sec)
    let cls := s.cache.cleanClass.toNat
    if cannotLeave s set way then (0, setTag set way (fun e => { e with sv := setBit e.sv (locSect (2 * sec)) false }) s)
    else (0, expel set way cls cls none s)
  else
    let marks : BitVec 2 := if locs.any (isWritten s) then 3 else maskOf 2 (locs.map (· % 2))
    (marks, queueMarks sec marks s)

/-- A sector as background work reads it through the corrector: the outcomes of its two words, those whose uncorrectable error is
noted, whether a word failed the post-check (R398), and the state after that. -/
structure BgRead where
  lo : Corrected
  hi : Corrected
  ues : List Nat
  failed : Bool
  after : State

def bgRead (sec : Nat) (s : State) : BgRead :=
  let a := look (2 * sec) s
  let b := look (2 * sec + 1) a.2.2
  let p := postCheck (freeSource s) (2 * sec) a.1 b.2.2
  let q := postCheck (freeSource s) (2 * sec + 1) b.1 p.2
  { lo := a.1, hi := b.1
    ues := (if a.1.cls = .ue ∧ a.2.1 = true then [2 * sec] else []) ++ (if b.1.cls = .ue ∧ b.2.1 = true then [2 * sec + 1] else [])
    failed := p.1 || q.1
    after := if p.1 || q.1 then { q.2 with fresh := q.2.fresh + 1 } else q.2 }

/-- A correction found by background work is counted (Table 13.8). -/
def countBackground (s : State) : State :=
  { s with bg := { s.bg with ceBg := satAdd (2 ^ 32 - 1) s.bg.ceBg 1
                             tel := { s.bg.tel with ceBg := satAdd (2 ^ 32 - 1) s.bg.tel.ceBg 1 } } }

def Corrected.isCe (c : Corrected) : Bool := c.cls == .ceBit || c.cls == .ceBurst

/-- A correction of a written code word, which a write-back repairs (R61). -/
def Corrected.repairs (c : Corrected) (s : State) (loc : Nat) : Bool := c.isCe && isWritten s loc

/-- Queue the write-back of the corrected words of a sector (R61). -/
def queueWriteback (sec : Nat) (a b : Corrected) (s : State) : State :=
  let mask : BitVec 2 := BitVec.ofNat 2 (b01 (a.repairs s (2 * sec)) + 2 * b01 (b.repairs s (2 * sec + 1)))
  if mask = 0 then s
  else { s with bg := { s.bg with work := s.bg.work ++ [{ sec := sec, kind := .writeback mask a.data b.data }] } }

/-- The corrections of one code word that a scrub read found (R61, R364). -/
def scrubWord (loc : Nat) (c : Corrected) (s : State) : State :=
  if c.repairs s loc then trackRow (locBank loc) (locRow loc) (countBackground s)
  else if c.isCe then countBackground s else s

/-- SCRUB_READ (R360). Words that fail the post-check are not written back. -/
def scrubRead (sec : Nat) (s : State) : State :=
  let s := { s with bg := { s.bg with tel := { s.bg.tel with scrubbed := satAdd (2 ^ 32 - 1) s.bg.tel.scrubbed 1 } } }
  let r := bgRead sec s
  let s := scrubWord (2 * sec + 1) r.hi (scrubWord (2 * sec) r.lo r.after)
  let s := if r.failed then s else queueWriteback sec r.lo r.hi s
  if r.ues = [] then s else (backgroundUe sec r.ues s).2

/-! ### Retirement copies (R366, R367) -/

/-- The code word that a copy writes for a corrector outcome. -/
def copyWord (c : Corrected) : CodeWord :=
  if c.cls = .pmark ∨ c.cls = .ue then { data := 0, poison := true } else { data := c.data, poison := false }

/-- The present copy with its next sector passed. -/
def Copy.advance (c : Copy) : Copy := { c with next := c.next + 1, moved := setBit c.moved c.next true, buf := none }

/-- Replace the running copy of a bank; a copy that has passed its last sector ends. -/
def setCopy (b : Nat) (f : Copy → Copy) (s : State) : State :=
  let go (done : Bool × List Copy) (c : Copy) : Bool × List Copy :=
    if !done.1 && c.bank == b then (true, if (f c).next < 32 then done.2 ++ [f c] else done.2) else (done.1, done.2 ++ [c])
  { s with bg := { s.bg with copies := (s.bg.copies.foldl go (false, [])).2 } }

/-- The running copy of a bank: the first queued. -/
def copyOf (s : State) (b : Nat) : Option Copy := s.bg.copies.find? fun c => c.bank == b

/-- The sector that a copy handles next. -/
def Copy.sec (c : Copy) : Nat := c.bank * 16384 + c.row * 32 + c.next

/-- Pass over the ineligible sectors of a bank's copies, which take no step. -/
def skipCopies (b : Nat) : Nat → State → State
  | 0, s => s
  | k + 1, s => match copyOf s b with
    | none => s
    | some c => if c.buf.isSome || eligible s c.sec then s else skipCopies b k (setCopy b Copy.advance s)

/-- The read step of a copy. One that fails the post-check is taken again in the bank's next slot (R398). -/
def copyRead (c : Copy) (s : State) : State :=
  let sec := c.sec
  let r := bgRead sec s
  let s := if r.lo.isCe then countBackground r.after else r.after
  let s := if r.hi.isCe then countBackground s else s
  let words (m : BitVec 2) := (if bit m 0 then badWord else copyWord r.lo, if bit m 1 then badWord else copyWord r.hi)
  let keep (m : BitVec 2) (s : State) : State := setCopy c.bank (fun c => { c with buf := some (words m) }) s
  if r.failed then s
  else if r.ues = [] then keep 0 s
  else
    let u := backgroundUe sec r.ues s
    if u.1 = 0 then setCopy c.bank Copy.advance u.2 else keep u.1 u.2

/-- The write step of a copy: the sector now lies in the spare row. -/
def copyWrite (c : Copy) (p : CodeWord × CodeWord) (s : State) : State :=
  let sec := c.sec
  let put (loc : Nat) (w : CodeWord) (s : State) : State := storeCells loc (520 + c.entry) (wordCells s loc w) s
  setCopy c.bank Copy.advance (put (2 * sec + 1) p.2 (put (2 * sec) p.1 s))

def copyStep (c : Copy) (s : State) : State :=
  match c.buf with
  | none => copyRead c s
  | some p => copyWrite c p s

/-! ### Calibration (R368, R369) -/

/-- The trial code of a step: code c moved by d_k and clamped. -/
def trialCode (c k : Nat) : Nat := min 31 (if k < 3 then c - (3 - k) else c + (k - 2))

/-- The code after the six steps, or none where the step at c - 1 or at c + 1 failed. -/
def newCode (c : Nat) (passes : List Bool) : Option Nat :=
  let ok (k : Nat) : Bool := passes.getD k false
  if !ok 2 || !ok 3 then none
  else
    let lo := if ok 1 then (if ok 0 then trialCode c 0 else trialCode c 1) else trialCode c 2
    let hi := if ok 4 then (if ok 5 then trialCode c 5 else trialCode c 4) else trialCode c 3
    some ((lo + hi) / 2)

/-- One calibration step: whether the replica row reads its pattern is a free value (entry 13). -/
def calStep (b : Nat) (k : Cal) (s : State) : State :=
  let passes := k.passes ++ [Config.freeReplica s.fresh]
  let s := { s with fresh := s.fresh + 1 }
  if passes.length < 6 then
    { s with bg := { s.bg with cals := s.bg.cals.map fun c => if c.bank = b then { c with passes := passes } else c } }
  else
    let s := { s with bg := { s.bg with cals := s.bg.cals.filter fun c => c.bank != b } }
    let code := tget 0 s.bg.codes b
    match newCode code passes with
    | some n => { s with bg := { s.bg with codes := tset 0 s.bg.codes b n } }
    | none => report 0x14 0 0 (detailW b 0 0 code)
        { s with bg := { s.bg with calFail := setBit s.bg.calFail b true, tel := { s.bg.tel with calIn := true } } }

/-- A calibration of every bank is queued, except where the bank's previous one is unfinished (R368). -/
def queueCalibrations (s : State) : State :=
  (List.range 16).foldl (fun s b =>
    if s.bg.cals.any fun c => c.bank == b then s
    else { s with bg := { s.bg with cals := s.bg.cals ++ [{ bank := b, passes := [] }] } }) s

/-! ### The calendar slot (R27 to R29, R355 to R357) -/

/-- The bank's calendar slot begins in this sc (R28). -/
def slotDue (s : State) (b : Nat) : Bool :=
  !s.env.pkAck && withheld s b && decide (tget 0 s.fg.bankFree b ≤ s.env.sc)

/-- Work of a bank of a given order of Table 13.1, the oldest first. -/
def BgKind.order : BgKind → Nat
  | .writeback _ _ _ => 1 | .telemetry _ _ => 2 | .marks _ => 3 | .rewrite _ _ _ => 4 | .scrubRead => 7

def workOf (s : State) (b order : Nat) : Option BgWork :=
  s.bg.work.find? fun w => secBank w.sec == b && w.kind.order == order

def dropWork (w : BgWork) (s : State) : State := { s with bg := { s.bg with work := s.bg.work.erase w } }

/-- Write the named code words of a sector, leaving the other alone (R356). -/
def writeNamed (sec : Nat) (mask : BitVec 2) (lo hi : CodeWord) (s : State) : State :=
  let s := if bit mask 0 then putCells (2 * sec) (wordCells s (2 * sec) lo) s else s
  if bit mask 1 then putCells (2 * sec + 1) (wordCells s (2 * sec + 1) hi) s else s

/-- Write the marks of a sector; a corrected write owed to the same sector is dropped (R64). -/
def writeMarks (w : BgWork) (mask : BitVec 2) (s : State) : State :=
  let s := dropWork w s
  let kept := s.bg.work.filter fun v => !(v.sec == w.sec && (v.kind.order == 1 || v.kind.order == 4))
  writeNamed w.sec mask { data := 0, poison := true } { data := 0, poison := true } { s with bg := { s.bg with work := kept } }

/-- The poison marks queued for a sector. -/
def marksOf (s : State) (sec : Nat) : Option BgWork := s.bg.work.find? fun w => w.sec == sec && w.kind.order == 3

/-- Do one piece of queued work of orders 1 to 4 and 7. -/
def doWork (w : BgWork) (s : State) : State :=
  match w.kind with
  | .writeback mask lo hi => match marksOf s w.sec with
    | some m => match m.kind with
      | .marks k => writeMarks m k s
      | _ => s
    | none => writeNamed w.sec mask (plain lo) (plain hi) (dropWork w s)
  | .telemetry lo hi => writeWord (2 * w.sec + 1) (plain hi) (writeWord (2 * w.sec) (plain lo) (dropWork w s))
  | .marks mask => writeMarks w mask s
  | .rewrite mask lo hi => writeNamed w.sec mask (plain lo) (plain hi) (dropWork w s)
  | .scrubRead => scrubRead w.sec (dropWork w s)

/-- An ineligible scrub read is skipped without the slot (R359). -/
def skipScrub (b : Nat) (s : State) : State :=
  match workOf s b 7 with
  | some w => if eligible s w.sec then s else dropWork w s
  | none => s

/-- Choose and do the work of a slot (Table 13.1). -/
def fillSlot (b : Nat) (s : State) : State :=
  let first := ((workOf s b 1).or (workOf s b 2)).or ((workOf s b 3).or (workOf s b 4))
  match first with
  | some w => doWork w s
  | none =>
    let s := skipCopies b 64 s
    match copyOf s b with
    | some c => copyStep c s
    | none => match s.bg.cals.find? fun c => c.bank == b with
      | some k => calStep b k s
      | none =>
        let s := skipScrub b s
        match workOf s b 7 with
        | some w => doWork w s
        | none => { s with bg := { s.bg with tel := { s.bg.tel with idle := satAdd (2 ^ 32 - 1) s.bg.tel.idle 1 } } }

/-- CALENDAR_SLOT (R28, R355): the bank is taken for one bank cycle; in FATAL background work stops (R403). -/
def execCalendarSlot (bank : Fin 16) (s : State) : Host.Outcome State Fault Refusal :=
  eventIf (fun s => slotDue s bank) s fun s =>
    let s := { s with
      fg := { s.fg with bankFree := tset 0 s.fg.bankFree bank (s.env.sc + 8) }
      bg := { s.bg with slotPeriod := tset 0 s.bg.slotPeriod bank (bankPeriod s bank + 1) } }
    if s.saf.fatal then s else fillSlot bank s

/-! ### Windows (R340, R351) -/

/-- A window boundary falls in this sc and has not been performed. -/
def windowDue (s : State) : Bool :=
  onMultiple s s.reg.winLog2.toNat && !s.env.done.window && !s.env.pkAck

/-- A pending length takes effect where the counter is a multiple of both (R18, R340). -/
def takePending {w : Nat} (s : State) (now : BitVec w) (next : Option (BitVec w)) : BitVec w × Option (BitVec w) :=
  match next with
  | some n => if onMultiple s n.toNat then (n, none) else (now, some n)
  | none => (now, none)

/-- REG_WINDOW_END (R351, R340). -/
def execRegWindowEnd (s : State) : Host.Outcome State Fault Refusal :=
  inService s fun s =>
    if windowDue s then
      let words := fun c => resWords s c
      let t := settlePeriods s (allClasses (fun c k => endWindow (words c) k) s)
      let l := takePending s s.reg.winLog2 s.reg.winPend
      { t with env := { t.env with done := { t.env.done with window := true } }
               reg := { t.reg with winLog2 := l.1, winPend := l.2 } }
    else s

/-! ### Telemetry (R371 to R373) -/

/-- The ring of telemetry records lies in plain kennel memory. -/
def telRingOk (s : State) : Bool :=
  let first := s.bg.telBase.toNat * 256
  plainKennel s first (first + 2 ^ s.bg.telRing.toNat * 256)

/-- The FLAGS field of Table 13.2. -/
def telFlags (s : State) : Nat :=
  let t := s.bg.tel
  b01 s.tick.cntFault + 2 * b01 t.parkIn + 4 * b01 t.ovfIn + 8 * b01 t.rtIn + 16 * b01 t.calIn + 32 * b01 t.missIn

/-- The telemetry record (Table 13.2) of the frame with number f, without CHECK. -/
def telBody (s : State) (f log2 : Nat) : Nat :=
  let t := s.bg.tel
  let cls := (List.range 16).map fun c =>
    let p := tget (0, 0) t.cls c
    (0x400 + 32 * c, 32, p.1 * 65536 + p.2)
  let codes := (List.range 16).map fun b => (0x200 + 5 * b, 5, tget 0 s.bg.codes b)
  pack ([(0x00, 64, f), (0x40, 16, t.span), (0x50, 16, sliceField s), (0x60, 8, log2), (0x68, 8, telFlags s),
    (0x80, 32, t.ceFg), (0xA0, 32, t.ceBg), (0xC0, 16, t.ue), (0xD0, 16, t.rwFull), (0xE0, 16, t.retired),
    (0xF0, 16, t.trkDrop), (0x100, 32, t.scrubbed), (0x120, 32, t.idle), (0x140, 32, t.skipped), (0x160, 16, t.pfDrop),
    (0x170, 16, t.fbUnused), (0x180, 16, t.pstoreCe), (0x190, 16, t.snoopTmo), (0x1A0, 16, t.poisonLines),
    (0x1B0, 8, t.deadDecl), (0x1C0, 32, muzField s), (0x250, 16, t.susp.toNat)] ++ codes ++ cls)

/-- The record with CHECK, the exclusive or of its other 63 words. -/
def telRecord (s : State) (f log2 : Nat) : BitVec 2048 :=
  let body : BitVec 2048 := BitVec.ofNat 2048 (telBody s f log2)
  body ||| ((xor32 body 63).zeroExtend 2048 <<< 2016)

/-- Queue the four sectors of the record of frame f, or note that it is not written. -/
def telemetry (f log2 : Nat) (s : State) : State :=
  if s.bg.telEn && telRingOk s then
    let off := (s.bg.telBase.toNat + f % 2 ^ s.bg.telRing.toNat) * 256
    let words := codesOf (telRecord s f log2) 8
    let work := (List.range 4).map fun i =>
      ({ sec := kennelLoc (off + 64 * i) / 2, kind := .telemetry (words.getD (2 * i) 0) (words.getD (2 * i + 1) 0) } : BgWork)
    { s with bg := { s.bg with work := s.bg.work ++ work, tel := Tel.zero } }
  else { s with bg := { s.bg with telMiss := true, tel := { s.bg.tel with missIn := true } } }

/-! ### Heartbeats and report writes (R407, R409) -/

/-- The line of a physical address given without its low five bits, and the place of the code word in it. -/
def lineOf43 (a : BitVec 43) : LineAddr := a.extractLsb' 3 40
def placeOf43 (a : BitVec 43) : Nat := a.toNat % 8

/-- The heartbeat record (Table 15.7) of the frame that begins. -/
def heartbeatRecord (s : State) : Code :=
  let flags := b01 s.tick.cntValid + 2 * b01 s.tick.cntFault + 4 * b01 s.saf.fatal + 8 * b01 s.saf.hbFirst
    + 16 * b01 s.saf.pend + 32 * b01 s.saf.rptFail
  let body : Code := BitVec.ofNat 256 (pack [
    (0, 64, frameNumber s), (64, 16, sliceField s), (80, 8, flags), (96, 32, s.saf.seq.toNat),
    (128, 32, muzField s + b01 s.saf.fatal * 2 ^ 28), (160, 16, (liveMask s).toNat),
    (176, 16, if s.saf.hbFirst then s.tick.parkFrames else 0), (192, 32, s.saf.lost)])
  body ||| ((xor32 body 7).zeroExtend 256 <<< 224)

/-- A write of one code word to an address, as the request of a non-caching agent with label SCLASS. -/
def monitorWrite (s : State) (a : BitVec 43) (w : Code) : OutMsg :=
  originMsg s .req 5 255 s.env.idDie.toNat (lineOf43 a) s.saf.sclass.toNat
    (.cwMask (BitVec.ofNat 8 (2 ^ placeOf43 a))) [plain w] s.env.sc

/-- Send the heartbeat write. -/
def sendHeartbeat (s : State) : State :=
  let m := monitorWrite s s.saf.hbAddr s.saf.hbRecord
  originate (some .heartbeat) m { s with saf := { s.saf with hbFlight := some m.txn } }

/-- A heartbeat write has failed. -/
def heartbeatFailed (s : State) : State :=
  report 0x70 0 0 (detailN 0 0) <| raise 4 { s with saf := { s.saf with hbFail := true } }

/-- The heartbeat of a frame boundary (R409): it supersedes an earlier one. -/
def heartbeat (s : State) : State :=
  if s.saf.hbEn then
    let s := { s with saf := { s.saf with hbRecord := heartbeatRecord s, hbFirst := false, hbFlight := none } }
    if (ownKennel s (lineOf43 s.saf.hbAddr)).isSome then heartbeatFailed s else sendHeartbeat s
  else s

/-- A record of the queue may be written (R407): one of this sc is not numbered yet (R404). -/
def reportDue (s : State) : Bool :=
  s.saf.rptEn && s.saf.rptFlight.isNone && !s.env.pkAck && (match s.saf.queue with
    | [] => false
    | r :: _ => !(s.saf.formed.any fun p => p.1 == r))

/-- The address of the record with sequence number seq. -/
def ringAddr (s : State) (seq : Nat) : BitVec 43 :=
  let n := 2 ^ s.saf.ringLog2.toNat
  BitVec.ofNat 43 (s.saf.rptBase.toNat / n * n + seq % n)

/-- A report write has failed: the record is discarded (R407). -/
def reportFailed (s : State) : State :=
  match s.saf.queue with
  | [] => s
  | r :: rest =>
    reportUnqueued 0x71 0 0 (detailN (fld r 0 16) 0) <| raise 3
      { s with saf := { s.saf with queue := rest, rptFail := true, rptFlight := none } }

/-- Send the write of the oldest queued record. -/
def sendReport (s : State) : State :=
  match s.saf.queue with
  | [] => s
  | r :: _ =>
    let m := monitorWrite s (ringAddr s (fld r 0 32)) r
    originate (some .report) m { s with saf := { s.saf with rptFlight := some m.txn } }

/-- REPORT_WRITE (R407). -/
def execReportWrite (s : State) : Host.Outcome State Fault Refusal :=
  eventIf reportDue s fun s =>
    let r := s.saf.queue.headD 0
    if (ownKennel s (lineOf43 (ringAddr s (fld r 0 32)))).isSome then reportFailed s else sendReport s

/-! ### The frame boundary (R17 to R23) -/

/-- A frame boundary falls in this sc and has not been performed. The window that ends with the frame ends first (R351). -/
def frameDue (s : State) : Bool :=
  onMultiple s s.tick.frameLog2.toNat && !s.env.done.frame && !s.env.pkAck && !windowDue s

/-- Tracker entries 1,024 or more frames old are freed (R364). -/
def ageTracker (s : State) : State :=
  { s with bg := { s.bg with tracker := s.bg.tracker.filter fun t => decide (frameNumber s < t.first + 1024) } }

/-- The contexts at a boundary (R259, R261): restores end, suspensions take effect, in ascending number. -/
def contextsAtBoundary (s : State) : State :=
  if seqMuzzled s then s
  else
    let s := (List.range 16).foldl (fun s c => finishRestore c s) s
    (List.range 16).foldl (fun s c => enterXfer c s) s

/-- What a frame boundary does while the length in force stays (step 3 of R20). -/
def boundaryActions (s : State) : State :=
  let log2 := s.tick.frameLog2.toNat
  let ended := (s.tick.counter.toNat / 2 ^ log2 + 2 ^ (64 - log2) - 1) % 2 ^ (64 - log2)
  let s := advanceMoves (advancePacks (advanceSlots s))
  let s := checkConfig s
  let s := ageTracker (coverFrame (rollCounts s))
  let s := if s.saf.fatal then s else telemetry ended log2 s
  contextsAtBoundary s

/-- FRAME_BOUNDARY (R20): the watchdogs advance, the counts restart, telemetry is queued, suspensions and restores take
effect, a pending length is taken up, and the heartbeat is sent. -/
def execFrameBoundary (s : State) : Host.Outcome State Fault Refusal :=
  inService s fun s =>
    if frameDue s then
      let l := takePending s s.tick.frameLog2 s.tick.framePend
      let t := settlePeriods s (boundaryActions s)
      let t := { t with env := { t.env with done := { t.env.done with frame := true } }
                        tick := { t.tick with frameLog2 := l.1, framePend := l.2 } }
      settlePeriods t (heartbeat t)
    else s

/-- A calibration falls due: at the boundary of a frame whose number is a multiple of CAL_FRAMES, or at the first boundary
after a park in which one was missed (R368, R370). -/
def calibrationDue (s : State) : Bool :=
  onMultiple s s.tick.frameLog2.toNat && s.env.done.frame && !s.env.done.calib && !s.env.pkAck && !s.saf.fatal
    && (calFrame s (frameNumber s) || s.bg.calDeferred)

/-- CALIBRATION_DUE (R368). -/
def execCalibrationDue (s : State) : Host.Outcome State Fault Refusal :=
  eventIf calibrationDue s fun s =>
    let s := queueCalibrations s
    { s with bg := { s.bg with calDeferred := false }
             env := { s.env with done := { s.env.done with calib := true } } }

end Sys2Proof.Machine
end

