-- ==== Sys2Proof/Machine/Answers.lean ====
section
/-! DEFINITION. Answers to the requests that the slice originates: loads, stores, atomics, contributions and calls of contexts,
moves, report writes and heartbeats (10_zellek_instruction_set R278, R286, R296, R306, R313; 11_bulk_mover R322, R327;
15_containment_and_safety R403, R407, R409). -/

namespace Sys2Proof.Machine

/-- The request that an answer names by its transaction. -/
def awaiting (s : State) (txn : BitVec 16) : Option Originated := s.out.orig.find? fun o => o.txn == txn

/-- The request has been answered. -/
def answered (o : Originated) (s : State) : State :=
  { s with out := { s.out with orig := s.out.orig.filter fun p => p.txn != o.txn } }

/-- In FATAL only the answers of report and heartbeat writes are taken (R403). -/
def takes (s : State) (o : Originated) : Bool :=
  !s.saf.fatal || (match o.who with
    | .report => true
    | .heartbeat => true
    | _ => false)

/-- An answer registers; one that names no awaited request has no effect. -/
def onAnswer (txn : BitVec 16) (s : State) (act : Originated → State → State) : State :=
  match awaiting s txn with
  | none => s
  | some o => if takes s o then act o s else s

/-- The code words of a line that an answer brings: two for each sector of its mask, in ascending order. -/
def answerWords (mask : BitVec 4) (data : List CodeWord) : Table CodeWord :=
  ((bitsOf mask).flatMap fun i => [2 * i, 2 * i + 1]).zip data

/-- The words of the sectors that a read request named, in order; one that is missing reads as poisoned. -/
def requestedWords (o : Originated) (t : Table CodeWord) : List CodeWord :=
  let secs := match o.msg.body with
    | .readReq m _ => bitsOf m
    | _ => []
  (secs.flatMap fun i => [2 * i, 2 * i + 1]).map fun k => (tfind t k).getD { data := 0, poison := true }

/-- The status that poisoned words give a read (R286). -/
def poisonOf (words : List CodeWord) : Option Status := if words.any fun w => w.poison then some .poison else none

/-- The code words that a move's read covers, out of those of its sectors. -/
def moveWords (s : State) (e off : Nat) (words : List CodeWord) : List CodeWord :=
  let g := engineOf s e
  let a := g.src + off
  ((words.drop (a / 32 % 2)).take ((linePart g.src g.len (a / 256)).2 / 32))

/-- DATAU (R286, R322). -/
def execDatau (h : Hdr) (mask : BitVec 4) (data : List CodeWord) (s : State) : Host.Outcome State Fault Refusal :=
  receive (.datau h mask data) s fun s =>
    onAnswer h.txn s fun o s =>
      let words := requestedWords o (answerWords mask data)
      match o.who with
      | .seqRead c id want =>
        let got := pickWords want words
        partDone c id got (poisonOf (got.map Prod.snd)) s.env.sc (answered o s)
      | .move e serial off false => moveData e serial off (moveWords s e off words) (answered o s)
      | _ => s

/-- CMP (R278, R322, R407, R409). -/
def execCmp (h : Hdr) (s : State) : Host.Outcome State Fault Refusal :=
  receive (.cmp h) s fun s =>
    onAnswer h.txn s fun o s =>
      match o.who with
      | .seqStore c id => partDone c id [] none s.env.sc (answered o s)
      | .move e serial off true => moveWritten e serial off (answered o s)
      | .report =>
        let t := answered o s
        { t with saf := { t.saf with queue := t.saf.queue.drop 1, rptFlight := none } }
      | .heartbeat =>
        let t := answered o s
        if t.saf.hbFlight = some h.txn then { t with saf := { t.saf with hbFlight := none } } else t
      | _ => s

/-- A write of the monitor is answered with a status other than success: it is sent again, or has failed (R407, R409). -/
def monitorAnswer (o : Originated) (st : Status) (s : State) : State :=
  let again := st == .nackRetry || st == .parked
  let t := answered o s
  match o.who with
  | .report => if again then sendReport t else reportFailed t
  | .heartbeat =>
    if again then (if t.saf.hbFlight = some o.txn then sendHeartbeat t else t)
    else heartbeatFailed (if t.saf.hbFlight = some o.txn then { t with saf := { t.saf with hbFlight := none } } else t)
  | _ => t

/-- A status that ends a request of the slice without success. -/
def refusedRequest (o : Originated) (st : Status) (s : State) : State :=
  let t := answered o s
  match o.who with
  | .seqRead c id _ => partDone c id [] (some st) s.env.sc t
  | .seqStore c id => partDone c id [] (some st) s.env.sc t
  | .atom c id _ _ => completeSts s.env.sc c id st t
  | .pctb c id => completeSts s.env.sc c id st t
  | .call c id _ _ => completeSts s.env.sc c id st t
  | .move e serial off write =>
    if st = .nackRetry ∨ st = .parked then moveAgain e serial off write t else moveFailed e serial off write st t
  | .report => monitorAnswer o st s
  | .heartbeat => monitorAnswer o st s

/-- STS (R286, R322, R327, R407, R409): success is not a status that Sts brings to a request of the slice. -/
def execSts (h : Hdr) (status : BitVec 5) (s : State) : Host.Outcome State Fault Refusal :=
  receive (.sts h status) s fun s =>
    onAnswer h.txn s fun o s =>
      let st := statusOf status.toNat
      if st = .ok then s else refusedRequest o st s

/-- ATRSP (R278, R306): the old values are written on success. -/
def execAtrsp (h : Hdr) (status : BitVec 5) (succ : BitVec 8) (data : List CodeWord) (s : State) :
    Host.Outcome State Fault Refusal :=
  receive (.atrsp h status succ data) s fun s =>
    onAnswer h.txn s fun o s =>
      match o.who with
      | .atom c id gd writes =>
        let st := statusOf status.toNat
        let w := data.headD { data := 0, poison := true }
        let st : Status := if st = .ok ∧ writes ∧ w.poison then .poison else st
        let regs := if st = .ok ∧ writes then regsOf gd w.data else []
        complete (Result.mk s.env.sc c id (some st) regs []) (answered o s)
      | _ => s

/-- PKRSP (R296). -/
def execPkrsp (h : Hdr) (status : BitVec 5) (s : State) : Host.Outcome State Fault Refusal :=
  receive (.pkrsp h status) s fun s =>
    onAnswer h.txn s fun o s =>
      match o.who with
      | .pctb c id => completeSts s.env.sc c id (statusOf status.toNat) (answered o s)
      | _ => s

/-- CALLRSP (R313, Table 9.3). -/
def execCallrsp (h : Hdr) (status : BitVec 5) (ctx : BitVec 4) (data : List CodeWord) (s : State) :
    Host.Outcome State Fault Refusal :=
  receive (.callrsp h status ctx data) s fun s =>
    onAnswer h.txn s fun o s =>
      match o.who with
      | .call c id gd reply =>
        let st := statusOf status.toNat
        let w := data.headD { data := 0, poison := true }
        let st : Status := if st = .ok ∧ reply ∧ w.poison then .poison else st
        let regs := if reply then (if st = .ok then regsOf gd w.data else []) else [(gd, ctx.zeroExtend 64)]
        complete (Result.mk s.env.sc c id (some st) regs []) (answered o s)
      | _ => s

end Sys2Proof.Machine
end

