-- ==== Sys2Proof/Machine/Ways.lean ====
section
/-! DEFINITION. Locked and gated ways, the walks that empty them, and internal lookups (03_cache_behaviour R99 to R106;
06_kennels_and_channels R163; 12_regulation R346; 04_coherence_protocol R473). -/

namespace Sys2Proof.Machine

/-! ### Commands (R99, R102, R104 to R106, R163) -/

/-- SL_WAY_STATUS.BUSY. -/
def waysBusy (s : State) : Bool := s.cache.walk.isSome || s.cache.unlocking.isSome || decide (s.cache.powering ≠ 0)

/-- The write is ignored (R106, R163). -/
def rejectWay (s : State) : State := { s with cache := { s.cache with cmdRej := true } }

/-- A move of a busy engine uses offsets lo to hi - 1 of this slice's kennel. -/
def moveUses (s : State) (lo hi : Nat) (g : Engine) : Bool :=
  g.busy && ((g.kind == 0 && rangeMeets s g.src g.len lo hi) || rangeMeets s g.dst g.len lo hi
    || (!g.norec && meets g.recordAt (g.recordAt + 32) lo hi))

/-- An armed pack uses offsets lo to hi - 1: its output code words or its record. -/
def packUses (s : State) (lo hi : Nat) (p : Pack) : Bool :=
  meets p.recordAt (p.recordAt + 32) lo hi || (match p.kennelTarget s with
    | some off => meets off (off + 32 * p.outWords) lo hi
    | none => false)

/-- The kennel manager forbids unlocking the ways that hold offsets lo to hi - 1 (R163). -/
def kennelInUse (s : State) (lo hi : Nat) : Bool :=
  inSlots s lo hi || inStage s lo hi || s.red.packs.any (fun p => packUses s lo hi p.2)
    || s.mov.eng.any (fun g => moveUses s lo hi g.2)
    || (List.range 16).any (fun c => ((getCtx s c).state == .susp || (getCtx s c).state == .xfer)
        && meets (imageOffset s c) (imageOffset s c + 2240) lo hi)
    || (s.bg.telEn && meets (s.bg.telBase.toNat * 256) (s.bg.telBase.toNat * 256 + 2 ^ s.bg.telRing.toNat * 256) lo hi)

/-- The ways that become locked when the count goes from c to k. -/
def waysBetween (c k : Nat) : List Nat := (List.range (k - c)).map fun i => 16 - k + i

/-- A write of SL_WAY_LOCK. -/
def writeWayLock (value : Word32) (s : State) : State :=
  let k := fld value 0 5
  let c := s.cache.locked
  if waysBusy s || decide (16 < k) then rejectWay s
  else if c < k then
    let ways := waysBetween c k
    if ways.any (wayGated s) then rejectWay s
    else { s with cache := { s.cache with
      kways := BitVec.ofNat 5 k, walk := some { lock := true, ways := ways, set := 0, all := ways, target := k } } }
  else if k < c then
    if kennelInUse s (k * 2 ^ 20) (c * 2 ^ 20) then rejectWay s
    else { s with cache := { s.cache with
      kways := BitVec.ofNat 5 k, locked := k
      unlocking := some (s.env.sc + 4096, maskOf 16 (waysBetween k c)) } }
  else s

/-- A write of SL_WAY_GATE. -/
def writeWayGate (value : Word32) (s : State) : State :=
  let g : BitVec 16 := value.extractLsb' 0 16
  let set := bitsOf (g &&& ~~~s.cache.gate)
  let off := g ^^^ (g ||| s.cache.gate)
  if waysBusy s || (bitsOf g).any (wayLocked s) then rejectWay s
  else
    let s := { s with cache := { s.cache with gate := g } }
    let s := if set.isEmpty then s
      else { s with cache := { s.cache with walk := some { lock := false, ways := set, set := 0, all := set, target := 0 } } }
    if off &&& s.cache.gated = 0 then s
    else { s with cache := { s.cache with powering := off &&& s.cache.gated, powerAt := s.env.sc + 4096 } }

/-- WAY_LOCK (R99). -/
def execWayLock (value : Word32) (s : State) : Host.Outcome State Fault Refusal := sbWriteOk (.wayLock value) s (writeWayLock value)

/-- WAY_UNLOCK (R102, R163). -/
def execWayUnlock (value : Word32) (s : State) : Host.Outcome State Fault Refusal := sbWriteOk (.wayUnlock value) s (writeWayLock value)

/-- WAY_GATE (R104). -/
def execWayGate (value : Word32) (s : State) : Host.Outcome State Fault Refusal := sbWriteOk (.wayGate value) s (writeWayGate value)

/-- WAY_POWER (R105). -/
def execWayPower (value : Word32) (s : State) : Host.Outcome State Fault Refusal := sbWriteOk (.wayPower value) s (writeWayGate value)

/-! ### Walks (R99, R100, R104, R473) -/

/-- The ways that the walk empties in one pass over the sets: a lock walk all of its ways (R99), a gate walk one (R104). -/
def Walk.here (w : Walk) : List Nat := if w.lock then w.ways else w.ways.take 1

/-- The walk has passed a set. -/
def Walk.advance (w : Walk) : Walk := { w with set := w.set + 1 }

/-- Every set has been passed. -/
def Walk.passed (w : Walk) : Bool := decide (4096 ≤ w.set)

/-- The walk may not pass the line of a set and way yet (R99), or lacks an entry that the line needs (R473). -/
def walkWaits (s : State) (set way : Nat) : Bool :=
  let e := tagAt s set way
  let line := lineOf e.tag set
  (s.cache.victims.any fun v => v.set == set && v.way == way)
    || (s.cache.miss.any fun p => lineSet p.2.line == set && p.2.way == way && !p.2.uncached)
    || (e.tv && (lineActive s line || decide (e.dst = dirT)
      || (needsTb s set way && (freeTracker s).isNone)
      || (!needsTb s set way && decide (e.sd ≠ 0) && decide (16 ≤ s.cache.ev.length))))

/-- One way of a set in a step of the walk. The flags: a line waits; a line has been taken. -/
def walkWay (set : Nat) (r : State × Bool × Bool) (way : Nat) : State × Bool × Bool :=
  let s := reclaimEntry set way r.1
  if s.cache.victims.any (fun v => v.set == set && v.way == way && v.miss.isNone) then r
  else if walkWaits s set way then (s, true, r.2.2)
  else if (tagAt s set way).tv then
    let cls := s.cache.cleanClass.toNat
    (expel set way cls cls none s, r.2.1, true)
  else r

/-- One step of a walk, on one set: none where every line of it waits. A set of a muzzled tag bank is passed over. -/
def walkStep (s0 : State) : Option State :=
  match s0.cache.walk with
  | none => none
  | some w =>
    if w.passed then none
    else
      let s := checkSet w.set s0
      let next (s : State) : State := { s with cache := { s.cache with walk := some w.advance } }
      if bit s.coh.muzBanks (tagBank w.set) then some (next s)
      else
        let r := w.here.foldl (walkWay w.set) (s, false, false)
        if r.2.1 then (if r.2.2 then some r.1 else none) else some (next r.1)

/-- What takes an internal lookup start: the walk, or a pack. -/
inductive Lookup where
  | walk
  | pack (entry : Nat)
deriving DecidableEq, Repr

/-- The internal lookups that can be served, with their level and the state they lead to; packs come before walks (R336). -/
def lookups (s : State) : List (Nat × State) :=
  ((lookupPacks s).filterMap fun e => (packLine e s).map fun t => (level s (getPack s e).cls, t))
    ++ (if s.saf.fatal then [] else (walkStep s).toList.map fun t => (level s s.cache.cleanClass.toNat, t))

/-- The one of the highest level, the first among equals. -/
def firstLookup : List (Nat × State) → Option (Nat × State)
  | [] => none
  | a :: r => match firstLookup r with
    | none => some a
    | some b => if b.1 ≤ a.1 then some a else some b

/-- The internal lookup that starts in this sc: a request that resumes comes first at its level (R346). -/
def lookupNext (s : State) : Option State :=
  if s.env.done.lookup then none
  else match firstLookup (lookups s) with
    | none => none
    | some p => match resumable s with
      | some r => if p.1 ≤ level s r.cls then none else some p.2
      | none => some p.2

/-- INTERNAL_LOOKUP (R346, R473). -/
def execInternalLookup (s : State) : Host.Outcome State Fault Refusal :=
  event s fun s => match lookupNext s with
    | none => s
    | some t => { t with env := { t.env with done := { t.env.done with lookup := true } } }

/-! ### The ends of walks, unlocking and power-up -/

/-- The logical row whose code words a physical row of a bank holds. -/
def logicalRow (s : State) (bank prow : Nat) : Option Nat :=
  if prow < 512 then some prow
  else if prow < 520 then staticRow s bank (prow - 512)
  else
    let e := spareOf s bank (prow - 520)
    if e.valid then some e.row.toNat else none

/-- Every code word of the ways is undefined from now on (R71, R101): nothing of it is listed, and no background work
remains for it. -/
def dropWays (ways : List Nat) (s : State) : State :=
  let gone (key : Nat) : Bool := match logicalRow s (key / 64 / 528) (key / 64 % 528) with
    | some r => ways.contains (r / 32)
    | none => false
  { s with
    arr := { s.arr with cells := s.arr.cells.filter fun c => !gone c.1 }
    bg := { s.bg with work := s.bg.work.filter fun w => !ways.contains (secRow w.sec / 32) } }

/-- The tag entries of the ways are cleared. -/
def clearTags (ways : List Nat) (s : State) : State :=
  { s with cache := { s.cache with tags := s.cache.tags.filter fun t => !ways.contains (t.1 % 16) } }

/-- An array access to a way is queued, or its read is in the corrector. -/
def wayBusy (s : State) (way : Nat) : Bool :=
  let mine (a : Access) : Bool := !a.kennel && a.secs.any fun x => locWay (2 * x) == way
  s.fg.accs.any mine || s.fg.reads.any fun r => mine r.acc

/-- The walk has passed every set, and every writeback has been acknowledged (R99). DESIGN CHOICE (entry 28): what was accepted
before the walk reached its line reads the array first (R100). -/
def walkOver (s : State) (lock : Bool) : Bool :=
  match s.cache.walk with
  | some w => w.lock == lock && w.passed && !(s.cache.victims.any fun v => v.miss.isNone)
      && !(s.cache.ev.any fun e => e.walked) && !(w.here.any (wayBusy s))
  | none => false

/-- LOCK_WALK_END (R99, R101). -/
def execLockWalkEnd (s : State) : Host.Outcome State Fault Refusal :=
  eventIf (fun s => walkOver s true) s fun s => match s.cache.walk with
    | none => s
    | some w =>
      let s := dropWays w.all (clearTags w.all s)
      { s with cache := { s.cache with locked := w.target, walk := none } }

/-- GATE_WALK_END (R104): one way is gated, and the walk of the next begins. -/
def execGateWalkEnd (s : State) : Host.Outcome State Fault Refusal :=
  eventIf (fun s => walkOver s false) s fun s => match s.cache.walk with
    | none => s
    | some w =>
      let s := dropWays w.here (clearTags w.here s)
      let rest := w.ways.drop 1
      { s with
        cache := { s.cache with gated := s.cache.gated ||| maskOf 16 w.here
                                walk := if rest.isEmpty then none else some { w with ways := rest, set := 0 } }
        arr := { s.arr with wayInit := s.arr.wayInit &&& ~~~(maskOf 16 w.here) } }

def powerUpDue (s : State) : Bool := decide (s.cache.powering ≠ 0) && decide (s.cache.powerAt ≤ s.env.sc)

/-- WAY_POWER_UP_END (R105). -/
def execWayPowerUpEnd (s : State) : Host.Outcome State Fault Refusal :=
  eventIf powerUpDue s fun s =>
    let t := clearTags (bitsOf s.cache.powering) s
    { t with cache := { t.cache with gated := s.cache.gated &&& ~~~s.cache.powering, powering := 0 } }

def unlockDue (s : State) : Bool := match s.cache.unlocking with
  | some u => decide (u.1 ≤ s.env.sc)
  | none => false

/-- WAY_UNLOCK_END (R102). -/
def execWayUnlockEnd (s : State) : Host.Outcome State Fault Refusal :=
  eventIf unlockDue s fun s => match s.cache.unlocking with
    | none => s
    | some u =>
      let t := dropWays (bitsOf u.2) (clearTags (bitsOf u.2) s)
      { t with cache := { t.cache with unlocking := none }, arr := { t.arr with wayInit := t.arr.wayInit &&& ~~~u.2 } }

end Sys2Proof.Machine
end

