-- ==== Sys2Proof/Machine/RegRead.lean ====
section
/-! DEFINITION. What each register reads (17_register_map Table 17.1 and the tables it names; R445 to R455). A register is
named by its page of 4 KiB and its word in the page. -/

namespace Sys2Proof.Machine

/-- A bit field of the fuse stream as loaded; 0 before fuse load (R453). -/
def fuseField (s : State) (lo w : Nat) : Nat := if s.fuse.loaded then fld s.fuse.stream lo w else 0

/-- SL_DET_SIG: 0 where the stream check failed (R435). -/
def detSig (s : State) : Nat := if s.fuse.bad then 0 else fuseField s 2064 32

/-- Agents that count as dead: those below NCLUST (Tables 5.3, 5.5). -/
def deadAgents (s : State) : List Nat := (bitsOf s.coh.dead).filter fun a => decide (a < s.coh.nclust.toNat)

/-- Tables 17.4 to 17.6 and 14.2. -/
def readIdentity (s : State) (w : Nat) : Option Nat :=
  match w with
  | 0 => some 0x0E440401
  | 1 => some (pack [(0, 11, s.env.idSlice.toNat), (11, 5, s.env.idDie.toNat), (16, 8, s.env.idAgent.toNat),
      (24, 2, s.env.idSub.toNat)])
  | 2 => some (fuseField s 2096 32)
  | 3 => some (fuseField s 2128 32)
  | 4 => some (detSig s)
  | _ => none

/-- The counter as SB shows it (R14, R452). -/
def shownCounter (s : State) : Word64 := if s.tick.cntValid then s.tick.counter else 0

/-- Tables 1.2, 1.7 and 17.7. -/
def readTick (s : State) (w : Nat) : Option Nat :=
  match w with
  | 0 => some ((s.tick.framePend.getD s.tick.frameLog2).toNat + b01 s.tick.lock * 2 ^ 31)
  | 1 => some (pack [(0, 1, b01 s.tick.cntValid), (1, 1, b01 s.tick.cntFault), (2, 1, b01 s.tick.strobeLate),
      (3, 1, b01 s.tick.cfgRej), (4, 1, b01 s.tick.framePend.isSome), (16, 16, s.tick.parkFrames)])
  | 2 => some (word32 (shownCounter s) 0).toNat
  | 3 => some s.det.shadows.counter.toNat
  | _ => none

/-- The runtime spare entry that SL_SPARE_RT_SEL names. -/
def selectedSpare (s : State) : Spare := spareOf s s.arr.spareBank.toNat s.arr.spareEntry.toNat

/-- Tables 2.5 and 2.7 to 2.9. -/
def readArray (s : State) (w : Nat) : Option Nat :=
  match w with
  | 0 => some s.arr.wayInit.toNat
  | 1 => some (b01 s.arr.spareRej + b01 s.arr.rtExhaust * 2 + s.arr.written.toNat * 2 ^ 16)
  | 2 => some (s.arr.spareEntry.toNat + s.arr.spareBank.toNat * 8)
  | 3 =>
    let e := selectedSpare s
    some (pack [(0, 9, e.row.toNat), (30, 1, b01 e.hw), (31, 1, b01 e.valid)])
  | _ => none

/-- Tables 3.3 to 3.6. -/
def readCache (s : State) (w : Nat) : Option Nat :=
  match w with
  | 0 => some (pack [(0, 1, b01 s.cache.sdEn), (1, 1, b01 s.cache.fbEn), (4, 4, s.cache.cleanClass.toNat)])
  | 1 => some s.cache.kways.toNat
  | 2 => some s.cache.gate.toNat
  | 3 => some (pack [(0, 1, b01 (waysBusy s)), (1, 1, b01 s.cache.cmdRej), (8, 5, s.cache.locked),
      (16, 16, s.cache.gated.toNat)])
  | _ => none

/-- Agents' waiting requests (R172, Table 6.16). -/
def agentWaits (s : State) : Nat :=
  (s.ken.waits.filter fun w => match w.party with
    | .agent _ => true
    | _ => false).length

/-- The sum of NSLOTS over the enabled channels other than one (R165). -/
def slotsUsed (s : State) (but : Option Nat) : Nat :=
  s.ken.ch.foldl (fun a c => if c.2.en ∧ but ≠ some c.1 then a + c.2.nslots.toNat else a) 0

/-- SL_CH_CFG0 of a channel (Table 6.8). -/
def Channel.cfg0 (c : Channel) : Nat :=
  pack [(1, 4, c.lb.toNat), (5, 8, c.wdog.toNat), (13, 10, c.litFirst.toNat), (23, 7, c.litCnt.toNat),
    (30, 1, b01 c.muz), (31, 1, b01 c.en)]

/-- Tables 6.5 to 6.18. -/
def readKennel (s : State) (w : Nat) : Option Nat :=
  let c := chanOf s s.ken.chSel.toNat
  let t := targetAt s s.ken.tgtSel.toNat
  match w with
  | 0 => some (pack [(0, 13, s.ken.base.toNat), (30, 1, b01 s.ken.en), (31, 1, b01 s.ken.lock)])
  | 1 => some (pack [(0, 8, s.ken.stageBase.toNat), (8, 9, s.ken.stageSize.toNat), (31, 1, b01 s.ken.stageEn)])
  | 2 => some s.ken.chSel.toNat
  | 3 => some c.cfg0
  | 4 => some (pack [(0, 12, c.slotsz.toNat), (12, 19, c.base.toNat)])
  | 5 => some (pack [(0, 17, c.nslots.toNat), (17, 14, c.owner.toNat)])
  | 6 => some (pack [(0, 16, c.pi), (16, 16, c.ci)])
  | 7 => some (pack [(0, 17, slotsUsed s none), (24, 7, agentWaits s), (31, 1, b01 s.ken.chRej)])
  | 8 => some s.ken.tgtSel.toNat
  | 9 => some (pack [(0, 8, t.agent.toNat), (8, 5, t.die.toNat), (13, 12, t.bufsz.toNat), (31, 1, b01 t.valid)])
  | 10 => some (t.base.toNat * 32)
  | 11 => some (pack [(0, 9, t.credits), (9, 8, t.next), (17, 9, t.nbuf.toNat)])
  | _ =>
    if 16 ≤ w ∧ w < 24 then
      some ((List.range 32).foldl (fun a i => a + b01 (chanOf s (32 * (w - 16) + i)).muz * 2 ^ i) 0)
    else if 24 ≤ w ∧ w < 32 then
      some (match tfind s.ken.holds (w - 24) with
        | some h => h.toNat + 2 ^ 31
        | none => 0)
    else none

/-- Tables 4.8, 4.9 and 5.3 to 5.6. -/
def readCoherence (s : State) (w : Nat) : Option Nat :=
  match w with
  | 0 => some (pack [(0, 20, s.coh.homeTmo.toNat), (20, 8, s.coh.nclust.toNat), (31, 1, b01 s.coh.lock)])
  | 1 => some (pack [(0, 1, b01 s.coh.protoErr), (1, 1, b01 s.coh.cfgRej), (16, 10, s.coh.nackPrev),
      (26, 6, s.coh.trk.length)])
  | 2 => some (pack [(0, 8, (deadAgents s).length), (8, 8, s.coh.lastDead.toNat), (16, 2, s.coh.lastCause.toNat),
      (30, 1, b01 s.coh.adRej), (31, 1, b01 s.coh.reclaim.isSome)])
  | 3 => some (pack [(0, 16, s.coh.snoopTmo), (16, 16, s.coh.poisonLines)])
  | 4 => some 0
  | _ =>
    if 8 ≤ w ∧ w < 13 then
      some ((deadAgents s).foldl (fun a d => if d / 32 = w - 8 then a + 2 ^ (d % 32) else a) 0)
    else none

/-- The sums of R348 and Table 12.3. -/
def resSum (s : State) : Nat := (List.range 16).foldl (fun a c => a + (getClass s c).res.toNat) 0
def xresSum (s : State) : Nat := (List.range 16).foldl (fun a c => a + (getClass s c).xres.toNat) 0

/-- The address range that SL_RANGE_SEL names. -/
def selectedRange (s : State) : Range := tget default s.reg.range s.reg.rangeSel.toNat

/-- Tables 12.2 to 12.6. -/
def readRegulator (s : State) (w : Nat) : Option Nat :=
  let k := getClass s s.reg.clsSel.toNat
  let r := selectedRange s
  match w with
  | 0 => some (pack [(0, 5, (s.reg.winPend.getD s.reg.winLog2).toNat), (5, 4, s.reg.defclass.toNat),
      (9, 1, b01 s.reg.mode), (31, 1, b01 s.reg.lock)])
  | 1 => some s.reg.grant.toNat
  | 2 => some (pack [(0, 8, resSum s), (8, 9, xresSum s), (29, 1, b01 s.reg.winPend.isSome), (30, 1, b01 s.reg.regRej),
      (31, 1, b01 s.reg.admRej)])
  | 3 => some s.reg.suspPrev.toNat
  | 4 => some s.reg.clsSel.toNat
  | 5 => some (pack [(0, 22, k.leash.toNat), (22, 8, k.res.toNat), (30, 2, k.prio.toNat)])
  | 6 => some k.xres.toNat
  | 7 => some (pack [(0, 16, k.overPrev), (16, 16, k.shortPrev)])
  | 8 => some s.reg.rangeSel.toNat
  | 9 => some (pack [(0, 4, r.cls.toNat), (31, 1, b01 r.valid)])
  | 10 => some r.base.toNat
  | 11 => some r.limit.toNat
  | _ => none

/-- The words of the log entry that SL_CEL_SEL names (Table 13.7). -/
def celData (s : State) (second : Bool) : Nat :=
  match s.bg.cel[s.bg.celSel.toNat]? with
  | none => 0
  | some e =>
    if second then pack [(0, 9, e.pos.toNat), (9, 4, e.pmask.toNat), (16, 16, e.frame.toNat)]
    else pack [(0, 19, e.loc.toNat), (27, 3, e.src.toNat), (30, 1, b01 e.burst), (31, 1, 1)]

/-- Tables 13.3 to 13.9. -/
def readBackground (s : State) (w : Nat) : Option Nat :=
  match w with
  | 0 => some (pack [(0, 5, s.bg.scrubLog2.toNat), (16, 8, s.bg.calFrames.toNat), (31, 1, b01 s.bg.scrubEn)])
  | 1 => some (pack [(0, 16, s.bg.telBase.toNat), (16, 4, s.bg.telRing.toNat), (31, 1, b01 s.bg.telEn)])
  | 2 => some (pack [(0, 16, s.bg.calFail.toNat), (30, 1, b01 s.bg.telMiss), (31, 1, b01 s.bg.cfgRej)])
  | 3 => some (pack [(16, 5, s.bg.cel.length), (31, 1, b01 s.bg.celOvf)])
  | 4 => some s.bg.celSel.toNat
  | 5 => some (celData s false)
  | 6 => some (celData s true)
  | 7 => some s.bg.ceFg
  | 8 => some s.bg.ceBg
  | 9 => some (pack [(0, 16, s.bg.retiredCnt), (16, 16, s.bg.ueCnt)])
  | _ => none

/-- The engines for which a condition holds. -/
def engineMask (s : State) (f : Engine → Bool) : Nat :=
  (List.range 8).foldl (fun a e => a + (match tfind s.mov.eng e with
    | some g => b01 (f g) * 2 ^ e
    | none => 0)) 0

/-- Tables 7.9, 7.10, 8.5, 8.6 and 11.6 to 11.9. -/
def readUnits (s : State) (w : Nat) : Option Nat :=
  match w with
  | 0 => some (s.red.packs.foldl (fun a p => a + 2 ^ (p.1 % 16)) (b01 s.red.muz * 2 ^ 31))
  | 1 => some (pack [(0, 16, s.red.donePacks), (16, 16, s.red.poisonPacks)])
  | 4 => some (pack [(0, 16, (atomBanks s).toNat), (16, 4, s.atom.fbank.toNat),
      (31, 1, b01 s.atom.muz)])
  | 5 => some (pack [(0, 16, min 65535 (s.atom.donePrev / 64)), (16, 16, s.atom.poisPrev)])
  | 32 => some 0
  | 33 => some (pack [(0, 5, statusCode s.mov.resStatus), (5, 3, s.mov.resEngine.toNat), (31, 1, b01 s.mov.resValid)])
  | 34 => some (engineMask s (fun g => g.busy) + engineMask s (fun g => g.muz) * 2 ^ 8)
  | _ => if 16 ≤ w ∧ w < 32 then some (word32 s.mov.desc (w - 16)).toNat else none

/-- The call entry that SL_ENTRY_SEL names. -/
def selectedEntry (s : State) : Entry := tget default s.seq.entries s.seq.entrySel.toNat

/-- Tables 9.8 to 9.14. -/
def readSequencer (s : State) (w : Nat) : Option Nat :=
  let e := selectedEntry s
  let x := getCtx s s.seq.ctxSel.toNat
  let owed := match x.call with
    | some k => k.reply
    | none => false
  match w with
  | 0 => some (pack [(0, 14, s.seq.m0pc.toNat), (16, 4, s.seq.mclass.toNat), (31, 1, b01 s.seq.en)])
  | 1 => some (pack [(0, 8, s.seq.saveBase.toNat), (17, 15, s.seq.pool.toNat)])
  | 2 => some (pack [(0, 16, (liveMask s).toNat), (28, 1, b01 s.seq.cmdRej), (29, 2, s.seq.mcause.toNat),
      (31, 1, b01 s.seq.muz)])
  | 3 => some s.seq.entrySel.toNat
  | 4 => some (pack [(0, 14, e.pc.toNat), (15, 16, e.cmask.toNat), (31, 1, b01 e.valid)])
  | 5 => some s.seq.ctxSel.toNat
  | 6 => some 0
  | 7 => some (pack [(0, 14, x.pc.toNat), (14, 5, x.lastSts.toNat), (19, 1, b01 x.suspPend), (20, 1, b01 owed),
      (21, 4, x.cls), (25, 4, x.cause.toNat), (29, 3, x.state.code)])
  | 8 => some (word32 s.seq.events 0).toNat
  | 9 => some (word32 s.seq.events 1).toNat
  | 10 => some 0
  | 11 => some 0
  | _ => none

/-- PS_BUSY: 1 in the 4,096 sc after the write that set EN (R389). -/
def psBusyNow (s : State) : Bool := decide (s.env.sc < s.det.psBusy) && decide (s.det.psBusy < s.env.sc + 4097)

/-- The stream that SL_STR_SEL names, and its digest as shown: 0 while SPOILED is 1 (Table 14.6). -/
def selectedStream (s : State) : Stream := getStream s s.det.strSel.toNat
def shownDigest (x : Stream) : BitVec 128 := if x.spoiled then 0 else digest x.acc x.leaves

/-- The program scent as shown: 0 while PS_VALID is 0 (Table 14.6). -/
def shownProgramScent (s : State) : BitVec 128 := if s.det.psValid then s.det.psDigest else 0

/-- Tables 14.4 to 14.6. -/
def readDeterminism (s : State) (w : Nat) : Option Nat :=
  let x := selectedStream s
  match w with
  | 0 => some (b01 s.det.lock * 2 ^ 31)
  | 1 => some ((List.range 16).foldl (fun a k => a + b01 (getStream s k).broken * 2 ^ k) 0
      + pack [(29, 1, b01 (psBusyNow s)), (30, 1, b01 s.det.psValid), (31, 1, b01 s.det.cmdRej)])
  | 2 => some s.det.strSel.toNat
  | 3 => some 0
  | 4 => some (pack [(30, 1, b01 (streamBusy s s.det.strSel.toNat)), (31, 1, b01 x.spoiled)])
  | 5 => some (word32 x.seed 0).toNat
  | 6 => some s.det.shadows.seed.toNat
  | 7 => some (word32 x.step 0).toNat
  | 8 => some s.det.shadows.step.toNat
  | 12 => some (word32 (shownDigest x) 0).toNat
  | 16 => some (word32 (shownProgramScent s) 0).toNat
  | _ =>
    if 12 < w ∧ w < 16 then some (word32 s.det.shadows.scent (w - 13)).toNat
    else if 16 < w ∧ w < 20 then some (word32 s.det.shadows.pscent (w - 17)).toNat
    else none

/-- Tables 15.9 to 15.11. -/
def readContainment (s : State) (w : Nat) : Option Nat :=
  match w with
  | 0 => some (pack [(0, 4, s.saf.ringLog2.toNat), (4, 4, s.saf.sclass.toNat), (29, 1, b01 s.saf.hbEn),
      (30, 1, b01 s.saf.rptEn), (31, 1, b01 s.saf.lock)])
  | 1 => some (pack [(0, 16, s.saf.lost), (27, 1, b01 s.saf.cfgRej), (28, 1, b01 s.saf.hbFail), (29, 1, b01 s.saf.rptFail),
      (30, 1, b01 s.saf.fatal), (31, 1, b01 s.saf.pend)])
  | 2 => some (muzField s + b01 s.saf.fatal * 2 ^ 28)
  | 3 => some s.saf.seq.toNat
  | 4 => some (s.saf.rptBase.toNat % 2 ^ 27 * 32)
  | 5 => some (s.saf.rptBase.toNat / 2 ^ 27)
  | 6 => some (s.saf.hbAddr.toNat % 2 ^ 27 * 32)
  | 7 => some (s.saf.hbAddr.toNat / 2 ^ 27)
  | 8 => some s.saf.logSel.toNat
  | _ => if 16 ≤ w ∧ w < 24 then some (word32 (s.saf.log.getD s.saf.logSel.toNat 0) (w - 16)).toNat else none

/-- Tables 16.15 and 16.16. -/
def readLinks (s : State) (w : Nat) : Option Nat :=
  match w with
  | 0 => some (pack [(0, 8, s.lnk.replays), (8, 8, s.lnk.xpUnex), (16, 8, s.lnk.xpWerr), (24, 6, s.lnk.stuck.toNat)])
  | _ => if 4 ≤ w ∧ w < 9 then some (word32 s.lnk.seam (w - 4)).toNat else none

/-- The 84 bits that a debug read samples (R454). -/
def tagSample (s : State) : BitVec 84 :=
  let way := s.cache.tagSelWay.toNat
  if wayLocked s way || wayGated s way then BitVec.ofNat 84 (2 ^ 83)
  else
    let e := tagAt s s.cache.tagSelSet.toNat way
    BitVec.ofNat 84 (pack [(0, 1, b01 e.pt), (1, 1, b01 e.ps), (2, 2, e.age.toNat), (4, 1, b01 e.dsum0), (5, 1, b01 e.dsum1),
      (6, 4, e.sd.toNat), (10, 4, e.sv.toNat), (14, 1, b01 e.tv), (15, 28, e.tag.toNat), (43, 8, e.ptr0.toNat),
      (51, 8, e.ptr1.toNat), (59, 8, e.ptr2.toNat), (67, 8, e.ptr3.toNat), (75, 4, e.pv.toNat), (79, 3, e.dst.toNat),
      (82, 1, b01 e.pd)])

/-- Tables 17.9 and 17.10: the shadow holds bits 83:32 of the sample. -/
def readTags (s : State) (w : Nat) : Option Nat :=
  match w with
  | 0 => some (s.cache.tagSelSet.toNat + s.cache.tagSelWay.toNat * 2 ^ 12)
  | 1 => some (word32 (tagSample s) 0).toNat
  | 2 => some (fld s.det.shadows.tag 0 11 + fld s.det.shadows.tag 51 1 * 2 ^ 31)
  | 3 => some (fld s.det.shadows.tag 11 32)
  | 4 => some (fld s.det.shadows.tag 43 8)
  | _ => none

/-- The 64 stored data bits of an instruction; of one never written, a free value (R455; entry 6). -/
def storedInsn (s : State) (i : Nat) : Word64 :=
  match tfind s.seq.pstore i with
  | some x => x.word ^^^ x.flips.extractLsb' 0 64
  | none => Config.freeInsn s.fresh

/-- The program store window: low words, and the shadow (R455). -/
def readWindow (s : State) (w : Nat) : Nat :=
  if psBusyNow s then 0
  else if w % 2 = 0 then (word32 (storedInsn s (w / 2)) 0).toNat
  else s.det.shadows.pstore.toNat

/-- The register at a word address as it stands; none where Table 17.1 lists none. -/
def readReg (s : State) (addr : Nat) : Option Nat :=
  let w := addr % 1024
  if 0x20000 ≤ addr ∧ addr < 0x28000 then some (readWindow s (addr - 0x20000))
  else match addr / 1024 with
    | 0 => readIdentity s w
    | 1 => readTick s w
    | 2 => readArray s w
    | 3 => readCache s w
    | 4 => readKennel s w
    | 5 => readCoherence s w
    | 6 => readRegulator s w
    | 7 => readBackground s w
    | 8 => readUnits s w
    | 9 => readSequencer s w
    | 10 => readDeterminism s w
    | 11 => readContainment s w
    | 12 => readLinks s w
    | 13 => if w < 94 then some (fuseField s (32 * w) 32) else none
    | 14 => readTags s w
    | _ => none

/-- The value of an SB READ; 0 where there is no register (R431). -/
def readValue (s : State) (addr : Nat) : Word32 := BitVec.ofNat 32 ((readReg s addr).getD 0)

end Sys2Proof.Machine
end

