-- ==== Sys2Proof/Machine/RegWrite.lean ====
section
/-! DEFINITION. What a write of each register does (17_register_map R445 to R450 and the tables that Table 17.1 names): every
field acts by its access type, except where a rule ignores the whole write. -/

namespace Sys2Proof.Machine

/-- The bits lo + w - 1 : lo of a written value. -/
def part (value : Word32) (lo w : Nat) : BitVec w := value.extractLsb' lo w

/-- W1C: a one written to the bit clears the flag (Table 0.6). -/
def w1c (flag : Bool) (value : Word32) (i : Nat) : Bool := flag && !bit value i

/-- W1C of a flag that the slice sets: one set in the sc of the write stays 1 (R446); k numbers it as `Done.raised` says. -/
def w1cKept (s : State) (k : Nat) (flag : Bool) (value : Word32) (i : Nat) : Bool :=
  w1c flag value i || (flag && bit s.env.done.raised k)

/-- An accepted write recomputes the parity of a register's RWL fields (R399); word is the register's word address. -/
def remadeParity (word : Nat) (s : State) : State :=
  { s with saf := { s.saf with cfgBad := s.saf.cfgBad.filter fun w => w != word } }

/-! ### Tick unit, array, cache -/

/-- FRAME_LOG2 and WIN_LOG2: a value in range takes effect at once before the first strobe; later it is pending until its
boundary, unless it equals the value in force (R18, R340). -/
def periodWrite (valid : Bool) (now new : BitVec 5) : BitVec 5 × Option (BitVec 5) :=
  if !valid then (new, none) else if new = now then (now, none) else (now, some new)

/-- SL_FRAME_CFG (R18, Table 1.2). -/
def writeFrameCfg (value : Word32) (s : State) : State :=
  if s.tick.lock then s
  else
    let new := part value 0 5
    let s := remadeParity 0x400 s
    if new.toNat < 15 ∨ 25 < new.toNat then
      { s with tick := { s.tick with cfgRej := true, lock := bit value 31 } }
    else
      let p := periodWrite s.tick.cntValid s.tick.frameLog2 new
      { s with tick := { s.tick with frameLog2 := p.1, framePend := p.2, lock := bit value 31 } }

def writeTick (w : Nat) (value : Word32) (s : State) : State :=
  match w with
  | 0 => writeFrameCfg value s
  | 1 => { s with tick := { s.tick with cfgRej := w1c s.tick.cfgRej value 3, strobeLate := w1c s.tick.strobeLate value 2 } }
  | _ => s

/-- SL_SPARE_RT_DATA (R69, Table 2.9). -/
def writeSpare (value : Word32) (s : State) : State :=
  let b := s.arr.spareBank.toNat
  let k := s.arr.spareEntry.toNat
  let row : BitVec 9 := part value 0 9
  let valid := bit value 31
  let named := (List.range 8).any fun j => decide (j ≠ k) && (spareOf s b j).valid && (spareOf s b j).row == row
  if bit s.arr.written b || (spareOf s b k).hw || (valid && named) then { s with arr := { s.arr with spareRej := true } }
  else
    { s with arr := { s.arr with spares := tset default s.arr.spares (b * 8 + k) { valid := valid, hw := false, row := row } } }

def writeArray (w : Nat) (value : Word32) (s : State) : State :=
  match w with
  | 0 => { s with arr := { s.arr with wayInit := part value 0 16 } }
  | 1 => { s with arr := { s.arr with spareRej := w1c s.arr.spareRej value 0, rtExhaust := w1cKept s 0 s.arr.rtExhaust value 1 } }
  | 2 => { s with arr := { s.arr with spareBank := part value 3 4, spareEntry := part value 0 3 } }
  | 3 => writeSpare value s
  | _ => s

/-- SL_CACHE_CFG (R83, R95, Table 3.3). -/
def writeCacheCfg (value : Word32) (s : State) : State :=
  let fb := bit value 1
  let sd := bit value 0
  let s := { s with cache := { s.cache with
    cleanClass := part value 4 4, fbEn := fb, sdEn := sd, streamCnt := if sd then s.cache.streamCnt else [] } }
  if fb then s else keepConfig (fun s => (s.cache.fb.map Prod.fst).foldl (fun s k => dropFb k s) s) s

def writeCache (w : Nat) (value : Word32) (s : State) : State :=
  match w with
  | 0 => writeCacheCfg value s
  | 1 => writeWayLock value s
  | 2 => writeWayGate value s
  | 3 => { s with cache := { s.cache with cmdRej := w1c s.cache.cmdRej value 1 } }
  | _ => s

/-! ### Kennels and channels -/

/-- A descriptor, target or staging write is ignored or rejected (Table 6.16). -/
def chReject (s : State) : State := { s with ken := { s.ken with chRej := true } }

/-- SL_KENNEL_BASE (Table 6.5). -/
def writeKennelBase (value : Word32) (s : State) : State :=
  if s.ken.lock then s
  else remadeParity 0x1000
    { s with ken := { s.ken with lock := bit value 31, en := bit value 30, base := part value 0 13 } }

/-- SL_STAGE_CFG (Table 6.6). -/
def writeStageCfg (value : Word32) (s : State) : State :=
  let en := bit value 31
  let size : BitVec 9 := part value 8 9
  let base : BitVec 8 := part value 0 8
  let lo := base.toNat * 65536
  let hi := (base.toNat + size.toNat) * 65536
  if s.ken.stageEn then
    if size ≠ s.ken.stageSize ∨ base ≠ s.ken.stageBase then chReject s
    else if !en && !s.red.packs.isEmpty then chReject s
    else { s with ken := { s.ken with stageEn := en } }
  else if en && (decide (size.toNat < 8) || decide (256 < size.toNat) || decide (kennelEnd s < hi) || inSlots s lo hi) then
    chReject s
  else { s with ken := { s.ken with stageEn := en, stageSize := size, stageBase := base } }

/-- The conditions of R165 on a channel as it would be enabled. -/
def mayEnable (s : State) (ch : Nat) (c : Channel) : Bool :=
  decide (1 ≤ c.slotsz.toNat) && decide (c.slotsz.toNat ≤ 2048) && decide (1 ≤ c.nslots.toNat)
    && decide (c.nslots.toNat ≤ 65536) && decide (c.last ≤ kennelEnd s)
    && !inSlots s c.first c.last && !inStage s c.first c.last
    && decide (slotsUsed s (some ch) + c.nslots.toNat ≤ 65536)
    && decide (c.litCnt.toNat ≤ 64) && decide (c.litFirst.toNat + c.litCnt.toNat ≤ 1024)
    && c.litter.all fun t => (targetAt s t).valid && decide (c.slotsz.toNat ≤ (targetAt s t).bufsz.toNat)

/-- Forget every slot of a channel: each is EMPTY with no holder and no watchdog. -/
def emptySlots (ch : Nat) (s : State) : State :=
  { s with ken := { s.ken with slots := s.ken.slots.filter fun p => p.1 / 65536 != ch } }

/-- A slot of the channel is TAKEN or being pushed, or a credit reservation is in progress (R166). -/
def channelBusy (s : State) (ch : Nat) : Bool :=
  (s.ken.slots.any fun p => p.1 / 65536 == ch && p.2.state == .taken) || (chanOf s ch).push != .idle

/-- SL_CH_CFG0 of the selected channel (R165, R166, Table 6.8). -/
def writeChCfg0 (value : Word32) (s : State) : State :=
  let ch := s.ken.chSel.toNat
  let c := chanOf s ch
  let new : Channel := { c with litCnt := part value 23 7, litFirst := part value 13 10, wdog := part value 5 8, lb := part value 1 4 }
  if c.muz then chReject s
  else if c.en then
    let s := if new = c then s else chReject s
    if bit value 31 then s
    else if channelBusy s ch then chReject s
    else emptySlots ch (keepConfig (answerWaiting ch .bounds) (setChan ch (fun c => { c with en := false }) s))
  else if bit value 31 then
    if mayEnable s ch new then
      emptySlots ch (setChan ch (fun _ => { new with en := true, pi := 0, ci := 0, push := .idle }) s)
    else chReject (setChan ch (fun _ => new) s)
  else setChan ch (fun _ => new) s

/-- SL_CH_CFG1 and SL_CH_CFG2 (R166, Tables 6.9 and 6.10). -/
def writeChannel (f : Channel → Channel) (s : State) : State :=
  let c := chanOf s s.ken.chSel.toNat
  if c.muz || c.en then chReject s else setChan s.ken.chSel.toNat f s

/-- The litter of an enabled channel covers a target entry (R176). -/
def covered (s : State) (t : Nat) : Bool := s.ken.ch.any fun c => c.2.en && c.2.litter.contains t

/-- The fields of a target entry are in range (R176, Tables 6.13 and 6.15). -/
def Target.inRange (t : Target) : Bool :=
  decide (1 ≤ t.nbuf.toNat) && decide (t.nbuf.toNat ≤ 256) && decide (1 ≤ t.bufsz.toNat) && decide (t.bufsz.toNat ≤ 2048)
    && decide (t.agent.toNat ≤ 191)

/-- A write of the selected target entry (R176): making it valid fills its credits. DESIGN CHOICE (entry 56): where the ring of an
entry that stays valid is made smaller, CREDITS and NEXT stay as they are. -/
def writeTarget (f : Target → Target) (s : State) : State :=
  let i := s.ken.tgtSel.toNat
  let old := targetAt s i
  let new := f old
  if covered s i || (new.valid && !new.inRange) then chReject s
  else if new.valid && !old.valid then setTarget i (fun _ => { new with credits := new.nbuf.toNat, next := 0 }) s
  else setTarget i (fun _ => new) s

/-- SL_TGT_CFG0 (Table 6.13). -/
def writeTgtCfg0 (value : Word32) : State → State :=
  writeTarget fun t => { t with valid := bit value 31, bufsz := part value 13 12, die := part value 8 5, agent := part value 0 8 }

def writeKennel (w : Nat) (value : Word32) (s : State) : State :=
  match w with
  | 0 => writeKennelBase value s
  | 1 => writeStageCfg value s
  | 2 => { s with ken := { s.ken with chSel := part value 0 8 } }
  | 3 => writeChCfg0 value s
  | 4 => writeChannel (fun c => { c with base := part value 12 19, slotsz := part value 0 12 }) s
  | 5 => writeChannel (fun c => { c with owner := part value 17 14, nslots := part value 0 17 }) s
  | 7 => { s with ken := { s.ken with chRej := w1c s.ken.chRej value 31 } }
  | 8 => { s with ken := { s.ken with tgtSel := part value 0 10 } }
  | 9 => writeTgtCfg0 value s
  | 10 => writeTarget (fun t => { t with base := part value 5 27 }) s
  | 11 => writeTarget (fun t => { t with nbuf := part value 17 9 }) s
  | _ => s

/-! ### Coherence and regulation -/

/-- SL_COH_CFG (R137, R450): a write out of range is rejected as a whole. -/
def writeCohCfg (value : Word32) (s : State) : State :=
  let n : BitVec 8 := part value 20 8
  let tmo : BitVec 20 := part value 0 20
  if s.coh.lock then s
  else if n.toNat < 1 ∨ 160 < n.toNat ∨ tmo.toNat < 256 then { s with coh := { s.coh with cfgRej := true } }
  else remadeParity 0x1400 { s with coh := { s.coh with nclust := n, homeTmo := tmo, lock := bit value 31 } }

/-- SL_AGENT_DOWN (R144, Table 5.6). -/
def writeAgentDown (value : Word32) : State → State := keepConfig fun s => afterDeath s (declareDead (fld value 0 8) 3 s)

def writeCoherence (w : Nat) (value : Word32) (s : State) : State :=
  match w with
  | 0 => writeCohCfg value s
  | 1 => { s with coh := { s.coh with cfgRej := w1c s.coh.cfgRej value 1, protoErr := w1cKept s 1 s.coh.protoErr value 0 } }
  | 2 => { s with coh := { s.coh with adRej := w1cKept s 2 s.coh.adRej value 30 } }
  | 4 => writeAgentDown value s
  | _ => s

/-- SL_REG_CFG (R340, Table 12.2): a window length out of range leaves that field unchanged. -/
def writeRegCfg (value : Word32) (s : State) : State :=
  if s.reg.lock then s
  else
    let new := part value 0 5
    let s := remadeParity 0x1800 { s with reg := { s.reg with
      lock := bit value 31, mode := bit value 9, defclass := part value 5 4 } }
    if new.toNat < 8 ∨ 20 < new.toNat then { s with reg := { s.reg with regRej := true } }
    else
      let p := periodWrite s.tick.cntValid s.reg.winLog2 new
      { s with reg := { s.reg with winLog2 := p.1, winPend := p.2 } }

/-- SL_XP_GRANT (R348, Table 12.2). -/
def writeGrant (value : Word32) (s : State) : State :=
  let g : BitVec 9 := part value 0 9
  if s.reg.lock then s
  else if 256 < g.toNat then { s with reg := { s.reg with regRej := true } }
  else if g = 0 ∧ xresSum s ≠ 0 then { s with reg := { s.reg with admRej := true } }
  else remadeParity 0x1801 { s with reg := { s.reg with grant := g } }

/-- Admission of a class configuration (R348). -/
def admitted (s : State) : Bool :=
  decide (resSum s ≤ 224) && decide (xresSum s ≤ 256) && !(s.reg.grant == 0 && decide (xresSum s ≠ 0))

/-- SL_CLS_CFG0 or SL_CLS_CFG1 of the selected class (R348, Table 12.4): refused as a whole where the sums forbid it. -/
def writeClass (second : Bool) (value : Word32) (s : State) : State :=
  if s.reg.lock then s
  else
    let t := setClass s s.reg.clsSel.toNat fun k =>
      if second then { k with xres := part value 0 9 }
      else { k with prio := part value 30 2, res := part value 22 8, leash := part value 0 22
                    leftLeash := k.leftLeash || (s.tick.cntValid && k.within k.leash.toNat && !k.within (fld value 0 22)) }
    if admitted t then remadeParity (if second then 0x1806 else 0x1805) t
    else { s with reg := { s.reg with admRej := true } }

/-- SL_RANGE_CFG0 to SL_RANGE_CFG2 of the selected entry (Table 12.6). -/
def writeRange (word : Nat) (f : Range → Range) (s : State) : State :=
  if s.reg.lock then s
  else remadeParity word { s with reg := { s.reg with range := tmod default s.reg.range s.reg.rangeSel.toNat f } }

def writeRegulator (w : Nat) (value : Word32) (s : State) : State :=
  match w with
  | 0 => writeRegCfg value s
  | 1 => writeGrant value s
  | 2 => { s with reg := { s.reg with admRej := w1c s.reg.admRej value 31, regRej := w1c s.reg.regRej value 30 } }
  | 4 => { s with reg := { s.reg with clsSel := part value 0 4 } }
  | 5 => writeClass false value s
  | 6 => writeClass true value s
  | 8 => { s with reg := { s.reg with rangeSel := part value 0 4 } }
  | 9 => writeRange 0x1809 (fun r => { r with valid := bit value 31, cls := part value 0 4 }) s
  | 10 => writeRange 0x180A (fun r => { r with base := part value 0 28 }) s
  | 11 => writeRange 0x180B (fun r => { r with limit := part value 0 28 }) s
  | _ => s

/-! ### Background work, mover -/

/-- SL_BG_CFG (R374, Table 13.3): a scrub interval out of range leaves that field unchanged. -/
def writeBgCfg (value : Word32) (s : State) : State :=
  let log2 : BitVec 5 := part value 0 5
  let bad := decide (log2.toNat < 5) || decide (25 < log2.toNat)
  { s with bg := { s.bg with
    scrubEn := bit value 31, calFrames := part value 16 8
    scrubLog2 := if bad then s.bg.scrubLog2 else log2, cfgRej := s.bg.cfgRej || bad } }

/-- SL_TEL_CFG (R374, Table 13.4): a ring length out of range leaves that field unchanged. -/
def writeTelCfg (value : Word32) (s : State) : State :=
  let log2 : BitVec 4 := part value 16 4
  let bad := decide (8 < log2.toNat)
  { s with bg := { s.bg with
    telEn := bit value 31, telBase := part value 0 16
    telRing := if bad then s.bg.telRing else log2, cfgRej := s.bg.cfgRej || bad } }

/-- SL_CEL_STATUS.CLR (R362): the corrections of this sc are logged after it. -/
def clearCel (s : State) : State :=
  { s with bg := { s.bg with cel := s.bg.celNow.take 16, celOvf := decide (16 < s.bg.celNow.length) } }

def writeBackground (w : Nat) (value : Word32) (s : State) : State :=
  match w with
  | 0 => writeBgCfg value s
  | 1 => writeTelCfg value s
  | 2 => { s with bg := { s.bg with cfgRej := w1c s.bg.cfgRej value 31, telMiss := w1c s.bg.telMiss value 30,
                                    calFail := s.bg.calFail &&& ~~~(part value 0 16) } }
  | 3 => if bit value 30 then clearCel s else s
  | 4 => { s with bg := { s.bg with celSel := part value 0 4 } }
  | _ => s

/-- SL_MV_DESC_n and SL_MV_GO (Tables 11.6 and 11.7). -/
def writeUnits (w : Nat) (value : Word32) (s : State) : State :=
  if w = 32 then writeMvGo value s
  else if 16 ≤ w ∧ w < 32 then { s with mov := { s.mov with desc := setFld s.mov.desc (32 * (w - 16)) 32 value.toNat } }
  else s

/-! ### Sequencer, determinism, containment, links -/

/-- Every context is IDLE or FAULT (Table 9.8). -/
def noneLive (s : State) : Bool := (List.range 16).all fun c => !(getCtx s c).live

/-- SL_SEQ_CTL (R7, R243, R265, R389, R445, R462, Table 9.8): MCLASS and M0PC take every write, also one whose EN is ignored. -/
def writeSeqCtl (value : Word32) (s : State) : State :=
  let s := noisy s
  let s := { s with seq := { s.seq with mclass := part value 16 4, m0pc := part value 0 14 } }
  let en := bit value 31
  if (en && s.seq.muz) || (!en && !noneLive s) then seqReject s
  else
    let det := if en && !s.seq.en then { s.det with psBusy := s.env.sc + 4097 }
      else if !en then { s.det with psValid := false } else s.det
    let s := { s with det := det, seq := { s.seq with en := en } }
    if en && (getCtx s 0).state == .idle then
      setCtx 0 (fun x => { x with after := s.env.sc + 2 }) (startCtx 0 s.seq.m0pc s.seq.mclass.toNat [] 0 none s)
    else s

/-- SL_CTX_CMD other than DUMP (Table 9.7). -/
def writeCtxCmd (value : Word32) (s : State) : State :=
  match fld value 0 3 with
  | 1 => ctxEffect mayHalt haltCtx s
  | 2 => ctxEffect isHalted resumeCtx s
  | 3 => ctxEffect isHalted stepCtx s
  | 4 => ctxEffect mayCtxSuspend recordSuspend s
  | 5 => ctxEffect mayRestore restoreSelected s
  | 6 => dumpSelected s
  | 7 => ctxEffect mayStop stopCtx s
  | _ => noisy s

def writeSequencer (w : Nat) (value : Word32) (s : State) : State :=
  let s := noisy s
  match w with
  | 0 => writeSeqCtl value s
  | 1 => { s with seq := { s.seq with pool := part value 17 15, saveBase := part value 0 8 } }
  | 2 => { s with seq := { s.seq with cmdRej := w1c s.seq.cmdRej value 28 } }
  | 3 => { s with seq := { s.seq with entrySel := part value 0 8 } }
  | 4 => { s with seq := { s.seq with entries := tset default s.seq.entries s.seq.entrySel.toNat
                                        { valid := bit value 31, cmask := part value 15 16, pc := part value 0 14 } } }
  | 5 => { s with seq := { s.seq with ctxSel := part value 0 4 } }
  | 6 => writeCtxCmd value s
  | 8 => clearFlags (flagHalf false value) s
  | 9 => clearFlags (flagHalf true value) s
  | 10 => keepConfig (setFlags (flagHalf false value)) s
  | 11 => keepConfig (setFlags (flagHalf true value)) s
  | _ => s

/-- SL_PSTORE_LO_i (R455, R247). -/
def writePstoreLo (value : Word32) (s : State) : State :=
  if s.seq.en then seqReject s else { s with seq := { s.seq with psPending := value } }

/-- SL_PSTORE_HI_i (R455, R247). -/
def writePstoreHi (i : Nat) (value : Word32) (s : State) : State :=
  if s.seq.en then seqReject s
  else { s with seq := { s.seq with pstore := tput s.seq.pstore i { word := value ++ s.seq.psPending, flips := 0 } } }

/-- A write of the seed or step pair of the selected stream (R381); ignored while SL_DET_CFG.LOCK is 1. -/
def writeStream (f : Stream → Stream) (s : State) : State := if s.det.lock then s else setStream s.det.strSel.toNat f s

def writeSeedLo (value : Word32) : State → State := writeStream fun x => { x with seedPend := value }
def writeSeedHi (value : Word32) : State → State :=
  writeStream fun x => { x with seed := value ++ x.seedPend, seedBad := false }
def writeStepLo (value : Word32) : State → State := writeStream fun x => { x with stepPend := value }
def writeStepHi (value : Word32) : State → State :=
  writeStream fun x => { x with step := part value 0 16 ++ x.stepPend, stepBad := false }

/-- SL_STR_CMD.CLR (R386). -/
def clearStream (s : State) : State :=
  if streamBusy s s.det.strSel.toNat then { s with det := { s.det with cmdRej := true } }
  else clearScent s.det.strSel.toNat s

def writeDeterminism (w : Nat) (value : Word32) (s : State) : State :=
  match w with
  | 0 => if s.det.lock then s else remadeParity 0x2800 { s with det := { s.det with lock := bit value 31 } }
  | 1 => { s with det := { s.det with cmdRej := w1c s.det.cmdRej value 31 } }
  | 2 => { s with det := { s.det with strSel := part value 0 4 } }
  | 3 => if bit value 0 then clearStream s else s
  | 5 => writeSeedLo value s
  | 6 => writeSeedHi value s
  | 7 => writeStepLo value s
  | 8 => writeStepHi value s
  | _ => s

/-- SL_SAFE_CFG (Table 15.9): a ring length out of range leaves that field unchanged. -/
def writeSafeCfg (value : Word32) (s : State) : State :=
  let log2 : BitVec 4 := part value 0 4
  let bad := decide (12 < log2.toNat)
  if s.saf.lock then s
  else remadeParity 0x2C00 { s with saf := { s.saf with
    lock := bit value 31, rptEn := bit value 30, hbEn := bit value 29, sclass := part value 4 4
    ringLog2 := if bad then s.saf.ringLog2 else log2, cfgRej := s.saf.cfgRej || bad } }

/-- An address register of the containment monitor. -/
def writeSafAddr (word : Nat) (f : Saf → Saf) (s : State) : State :=
  if s.saf.lock then s else remadeParity word { s with saf := f s.saf }

/-- PA[31:5] or PA[47:32] of an address of 43 bits. -/
def addrLow (a : BitVec 43) (value : Word32) : BitVec 43 := setFld a 0 27 (fld value 5 27)
def addrHigh (a : BitVec 43) (value : Word32) : BitVec 43 := setFld a 27 16 (fld value 0 16)

def writeContainment (w : Nat) (value : Word32) (s : State) : State :=
  match w with
  | 0 => writeSafeCfg value s
  | 1 => { s with saf := { s.saf with pend := w1c s.saf.pend value 31 || !s.saf.formed.isEmpty
                                      rptFail := w1cKept s 3 s.saf.rptFail value 29
                                      hbFail := w1cKept s 4 s.saf.hbFail value 28, cfgRej := w1c s.saf.cfgRej value 27 } }
  | 4 => writeSafAddr 0x2C04 (fun m => { m with rptBase := addrLow m.rptBase value }) s
  | 5 => writeSafAddr 0x2C05 (fun m => { m with rptBase := addrHigh m.rptBase value }) s
  | 6 => writeSafAddr 0x2C06 (fun m => { m with hbAddr := addrLow m.hbAddr value }) s
  | 7 => writeSafAddr 0x2C07 (fun m => { m with hbAddr := addrHigh m.hbAddr value }) s
  | 8 => { s with saf := { s.saf with logSel := part value 0 4 } }
  | _ => s

def writeLinks (w : Nat) (value : Word32) (s : State) : State :=
  if w = 0 then { s with lnk := { s.lnk with stuck := s.lnk.stuck &&& (~~~(part value 24 6) ||| s.env.done.raised.extractLsb' 8 6) } }
  else if 4 ≤ w ∧ w < 9 then { s with lnk := { s.lnk with seam := setFld s.lnk.seam (32 * (w - 4)) 32 value.toNat } }
  else s

def writeTags (w : Nat) (value : Word32) (s : State) : State :=
  if w = 0 then { s with cache := { s.cache with tagSelWay := part value 12 4, tagSelSet := part value 0 12 } } else s

/-- A write of the register at a word address (Table 17.1). -/
def writeReg (addr : Nat) (value : Word32) (s : State) : State :=
  let w := addr % 1024
  if 0x20000 ≤ addr ∧ addr < 0x28000 then
    if addr % 2 = 0 then writePstoreLo value s else writePstoreHi ((addr - 0x20000) / 2) value s
  else match addr / 1024 with
    | 1 => writeTick w value s
    | 2 => writeArray w value s
    | 3 => writeCache w value s
    | 4 => writeKennel w value s
    | 5 => writeCoherence w value s
    | 6 => writeRegulator w value s
    | 7 => writeBackground w value s
    | 8 => writeUnits w value s
    | 9 => writeSequencer w value s
    | 10 => writeDeterminism w value s
    | 11 => writeContainment w value s
    | 12 => writeLinks w value s
    | 14 => writeTags w value s
    | _ => s

/-- SL_CTX_CMD with CMD = DUMP, the one write that acts in FATAL (R403). -/
def isDump (addr : Nat) (value : Word32) : Bool := addr == 0x2406 && fld value 0 3 == 6

end Sys2Proof.Machine
end

