-- ==== Sys2Proof/Machine/Regs.lean ====
section
/-! DEFINITION. The sideband commands (16_ports_and_signals R430, R431; 17_register_map): writes and reads of registers, debug
holds, and the configuration instrument. -/

namespace Sys2Proof.Machine

/-! ### Writes -/

/-- SB_WRITE (R430, R431, R445): a register with a row of its own acts as that row. -/
def execSbWrite (addr : BitVec 18) (value : Word32) (s : State) : Host.Outcome State Fault Refusal :=
  if (readReg s addr.toNat).isNone then sideband (.sbWrite addr value) s (sbRespond 2 0)
  else if isDump addr.toNat value then sideband (.sbWrite addr value) s fun s => sbRespond 0 0 (dumpSelected s)
  else sbWriteOk (.sbWrite addr value) s (writeReg addr.toNat value)

/-- FRAME_CFG_WRITE (R18). -/
def execFrameCfgWrite (value : Word32) (s : State) : Host.Outcome State Fault Refusal := sbWriteOk (.frameCfgWrite value) s (writeFrameCfg value)

/-- COH_CFG_WRITE (R137). -/
def execCohCfgWrite (value : Word32) (s : State) : Host.Outcome State Fault Refusal := sbWriteOk (.cohCfgWrite value) s (writeCohCfg value)

/-- AGENT_DOWN_WRITE (R144). -/
def execAgentDownWrite (value : Word32) (s : State) : Host.Outcome State Fault Refusal := sbWriteOk (.agentDownWrite value) s (writeAgentDown value)

/-- CACHE_CFG_WRITE (R83, R95). -/
def execCacheCfgWrite (value : Word32) (s : State) : Host.Outcome State Fault Refusal := sbWriteOk (.cacheCfgWrite value) s (writeCacheCfg value)

/-- SPARE_RT_WRITE (R69). -/
def execSpareRtWrite (value : Word32) (s : State) : Host.Outcome State Fault Refusal := sbWriteOk (.spareRtWrite value) s (writeSpare value)

/-- STAGE_CFG_WRITE (R162, Table 6.6). -/
def execStageCfgWrite (value : Word32) (s : State) : Host.Outcome State Fault Refusal := sbWriteOk (.stageCfgWrite value) s (writeStageCfg value)

/-- CHANNEL_ENABLE (R165): a write of SL_CH_CFG0. -/
def execChannelEnable (value : Word32) (s : State) : Host.Outcome State Fault Refusal := sbWriteOk (.channelEnable value) s (writeChCfg0 value)

/-- CHANNEL_DISABLE (R166): a write of SL_CH_CFG0. -/
def execChannelDisable (value : Word32) (s : State) : Host.Outcome State Fault Refusal := sbWriteOk (.channelDisable value) s (writeChCfg0 value)

/-- TARGET_VALID (R176): a write of SL_TGT_CFG0. -/
def execTargetValid (value : Word32) (s : State) : Host.Outcome State Fault Refusal := sbWriteOk (.targetValid value) s (writeTgtCfg0 value)

/-- SEQ_ENABLE (R243, R389): a write of SL_SEQ_CTL. -/
def execSeqEnable (value : Word32) (s : State) : Host.Outcome State Fault Refusal := sbWriteOk (.seqEnable value) s (writeSeqCtl value)

/-- SEQ_DISABLE (R462): a write of SL_SEQ_CTL. -/
def execSeqDisable (value : Word32) (s : State) : Host.Outcome State Fault Refusal := sbWriteOk (.seqDisable value) s (writeSeqCtl value)

/-- REG_CFG_WRITE (R340). -/
def execRegCfgWrite (value : Word32) (s : State) : Host.Outcome State Fault Refusal := sbWriteOk (.regCfgWrite value) s (writeRegCfg value)

/-- CLS_CFG_WRITE (R348). -/
def execClsCfgWrite (second : Bool) (value : Word32) (s : State) : Host.Outcome State Fault Refusal :=
  sbWriteOk (.clsCfgWrite second value) s (writeClass second value)

/-- XP_GRANT_WRITE (R348). -/
def execXpGrantWrite (value : Word32) (s : State) : Host.Outcome State Fault Refusal := sbWriteOk (.xpGrantWrite value) s (writeGrant value)

/-- SEED_LO_WRITE, SEED_HI_WRITE, STEP_LO_WRITE, STEP_HI_WRITE (R381). -/
def execSeedLoWrite (value : Word32) (s : State) : Host.Outcome State Fault Refusal := sbWriteOk (.seedLoWrite value) s (writeSeedLo value)
def execSeedHiWrite (value : Word32) (s : State) : Host.Outcome State Fault Refusal := sbWriteOk (.seedHiWrite value) s (writeSeedHi value)
def execStepLoWrite (value : Word32) (s : State) : Host.Outcome State Fault Refusal := sbWriteOk (.stepLoWrite value) s (writeStepLo value)
def execStepHiWrite (value : Word32) (s : State) : Host.Outcome State Fault Refusal := sbWriteOk (.stepHiWrite value) s (writeStepHi value)

/-- STR_CLR (R386). -/
def execStrClr (s : State) : Host.Outcome State Fault Refusal := sbWriteOk .strClr s clearStream

/-- CEL_CLR (R362). -/
def execCelClr (s : State) : Host.Outcome State Fault Refusal := sbWriteOk .celClr s clearCel

/-- PSTORE_LO_WRITE (R455): the index of the register does not matter. -/
def execPstoreLoWrite (index : BitVec 14) (value : Word32) (s : State) : Host.Outcome State Fault Refusal :=
  sbWriteOk (.pstoreLoWrite index value) s (writePstoreLo value)

/-- PSTORE_HI_WRITE (R455). -/
def execPstoreHiWrite (index : BitVec 14) (value : Word32) (s : State) : Host.Outcome State Fault Refusal :=
  sbWriteOk (.pstoreHiWrite index value) s (writePstoreHi index.toNat value)

/-- BG_CFG_WRITE (R374). -/
def execBgCfgWrite (value : Word32) (s : State) : Host.Outcome State Fault Refusal := sbWriteOk (.bgCfgWrite value) s (writeBgCfg value)

/-- TEL_CFG_WRITE (R374). -/
def execTelCfgWrite (value : Word32) (s : State) : Host.Outcome State Fault Refusal := sbWriteOk (.telCfgWrite value) s (writeTelCfg value)

/-! ### Debug holds (R185, R431) -/

/-- The entry that holds a holder. -/
def holdOf (s : State) (h : BitVec 14) : Option Nat := (s.ken.holds.find? fun p => p.2 == h).map Prod.fst

/-- HOLD (R431): a holder already held is held on; else the lowest free entry takes it. -/
def execHold (value : Word32) (s : State) : Host.Outcome State Fault Refusal :=
  sideband (.hold value) s fun s =>
    let h : BitVec 14 := part value 0 14
    if fld value 14 18 ≠ 0 ∨ s.saf.fatal then sbRespond 1 0 s
    else if (holdOf s h).isSome then sbRespond 0 0 s
    else match tfree s.ken.holds 8 with
      | none => sbRespond 1 0 s
      | some n => sbRespond 0 0 { s with ken := { s.ken with holds := tput s.ken.holds n h } }

/-- RELEASE (R431). -/
def execRelease (value : Word32) (s : State) : Host.Outcome State Fault Refusal :=
  sideband (.release value) s fun s =>
    if fld value 14 18 ≠ 0 then sbRespond 1 0 s
    else match holdOf s (part value 0 14) with
      | none => sbRespond 1 0 s
      | some n => sbRespond 0 0 { s with ken := { s.ken with holds := terase s.ken.holds n } }

/-! ### Reads that capture a shadow (R448) -/

/-- Replace shadows. -/
def capture (f : Shadows → Shadows) (s : State) : State := { s with det := { s.det with shadows := f s.det.shadows } }

/-- What an SB read returns and captures, sampled after step 4 of its sc (R16, R393, R446, R448, R454, R455). While PS_BUSY is 1 a read
of the program store returns 0, captures 0 and sets CMD_REJ. -/
def sampleRead (k : SbRead) (s : State) : Word32 × State :=
  match k with
  | .counterLo => (readValue s 0x402, capture (fun h => { h with counter := word32 (shownCounter s) 1 }) s)
  | .seedLo => (readValue s 0x2805, capture (fun h => { h with seed := word32 (selectedStream s).seed 1 }) s)
  | .stepLo => (readValue s 0x2807, capture (fun h => { h with step := (selectedStream s).step.extractLsb' 32 16 }) s)
  | .scent0 => (readValue s 0x280C, capture (fun h => { h with scent := (shownDigest (selectedStream s)).extractLsb' 32 96 }) s)
  | .pscent0 => (readValue s 0x2810, capture (fun h => { h with pscent := (shownProgramScent s).extractLsb' 32 96 }) s)
  | .tagData0 => (readValue s 0x3801, capture (fun h => { h with tag := (tagSample s).extractLsb' 32 52 }) s)
  | .pstoreLo i =>
    (readValue s (0x20000 + 2 * i.toNat),
      if psBusyNow s then seqReject (capture (fun h => { h with pstore := 0 }) s)
      else
        let s := capture (fun h => { h with pstore := word32 (storedInsn s i.toNat) 1 }) s
        if (tfind s.seq.pstore i.toNat).isSome then s else { s with fresh := s.fresh + 1 })

/-- A response whose read is due is given its data. -/
def sampleResponse (s : State) (p : SbResp × Nat) : State :=
  match p.1.read with
  | none => s
  | some k =>
    let r := sampleRead k s
    { r.2 with out := { r.2.out with sb := r.2.out.sb.set p.2 { p.1 with data := r.1, read := none } } }

/-- The reads of this sc are sampled (R446). -/
def sampleReads (s : State) : State := s.out.sb.zipIdx.foldl sampleResponse s

/-- COUNTER_LO_READ (R16). -/
def execCounterLoRead (s : State) : Host.Outcome State Fault Refusal := sbReadOk .counterLoRead .counterLo s

/-- SEED_LO_READ (R448). -/
def execSeedLoRead (s : State) : Host.Outcome State Fault Refusal := sbReadOk .seedLoRead .seedLo s

/-- STEP_LO_READ (R448). -/
def execStepLoRead (s : State) : Host.Outcome State Fault Refusal := sbReadOk .stepLoRead .stepLo s

/-- SCENT_0_READ (R393). -/
def execScent0Read (s : State) : Host.Outcome State Fault Refusal := sbReadOk .scent0Read .scent0 s

/-- PSCENT_0_READ (R393). -/
def execPscent0Read (s : State) : Host.Outcome State Fault Refusal := sbReadOk .pscent0Read .pscent0 s

/-- TAG_DATA_0_READ (R454). -/
def execTagData0Read (s : State) : Host.Outcome State Fault Refusal := sbReadOk .tagData0Read .tagData0 s

/-- PSTORE_LO_READ (R455). -/
def execPstoreLoRead (index : BitVec 14) (s : State) : Host.Outcome State Fault Refusal :=
  sbReadOk (.pstoreLoRead index) (.pstoreLo index) s

/-- CFG_READ (R443, Table 16.14): the word as an SB READ would show it; no shadow is captured. -/
def execCfgRead (addr : BitVec 18) (s : State) : Host.Outcome State Fault Refusal :=
  instrument (fun s => [readValue s addr.toNat]) s

end Sys2Proof.Machine
end

