-- ==== Sys2Proof/Machine/Dispatch.lean ====
section
/-! DEFINITION. exec: one arm per command, each one call of its meaning. -/

namespace Sys2Proof.Machine

def exec (i : Instr) (s : State) : Host.Outcome State Fault Refusal :=
  match i with
  | .resetAssert => Sys2Proof.Machine.execResetAssert s
  | .resetRelease slice die agent sub => Sys2Proof.Machine.execResetRelease slice die agent sub s
  | .powerLoss => Sys2Proof.Machine.execPowerLoss s
  | .fuseLoadEnd stream stray => Sys2Proof.Machine.execFuseLoadEnd stream stray s
  | .rsReady => Sys2Proof.Machine.execRsReady s
  | .tkStrobe value => Sys2Proof.Machine.execTkStrobe value s
  | .strobeLate => Sys2Proof.Machine.execStrobeLate s
  | .aonTick => Sys2Proof.Machine.execAonTick s
  | .frameBoundary => Sys2Proof.Machine.execFrameBoundary s
  | .calibrationDue => Sys2Proof.Machine.execCalibrationDue s
  | .deadlockDeclare => Sys2Proof.Machine.execDeadlockDeclare s
  | .regWindowEnd => Sys2Proof.Machine.execRegWindowEnd s
  | .calendarSlot bank => Sys2Proof.Machine.execCalendarSlot bank s
  | .scrubStepDue bank => Sys2Proof.Machine.execScrubStepDue bank s
  | .bankAccessStart => Sys2Proof.Machine.execBankAccessStart s
  | .xpEgressStart => Sys2Proof.Machine.execXpEgressStart s
  | .internalLookup => Sys2Proof.Machine.execInternalLookup s
  | .waitedRequestResume => Sys2Proof.Machine.execWaitedRequestResume s
  | .reclaimWalkStep => Sys2Proof.Machine.execReclaimWalkStep s
  | .transactionEnd => Sys2Proof.Machine.execTransactionEnd s
  | .reservationExpiry => Sys2Proof.Machine.execReservationExpiry s
  | .homeTimeout => Sys2Proof.Machine.execHomeTimeout s
  | .agentDown agent => Sys2Proof.Machine.execAgentDown agent s
  | .smHold bits => Sys2Proof.Machine.execSmHold bits s
  | .parkRequest => Sys2Proof.Machine.execParkRequest s
  | .drainComplete => Sys2Proof.Machine.execDrainComplete s
  | .parkRelease => Sys2Proof.Machine.execParkRelease s
  | .linkCheckFail port => Sys2Proof.Machine.execLinkCheckFail port s
  | .linkReplayRequest port => Sys2Proof.Machine.execLinkReplayRequest port s
  | .linkCredit port channel => Sys2Proof.Machine.execLinkCredit port channel s
  | .rds h mask crit => Sys2Proof.Machine.execRds h mask crit s
  | .rdx h mask crit => Sys2Proof.Machine.execRdx h mask crit s
  | .upg h mask => Sys2Proof.Machine.execUpg h mask s
  | .rdu h mask crit => Sys2Proof.Machine.execRdu h mask crit s
  | .wrfull h data => Sys2Proof.Machine.execWrfull h data s
  | .wrpart h cwMask data => Sys2Proof.Machine.execWrpart h cwMask data s
  | .prefetch h mask => Sys2Proof.Machine.execPrefetch h mask s
  | .reqUnassigned h op => Sys2Proof.Machine.execReqUnassigned h op s
  | .wbd h mask data => Sys2Proof.Machine.execWbd h mask data s
  | .evc h => Sys2Proof.Machine.execEvc h s
  | .snprsp h outcome mask data => Sys2Proof.Machine.execSnprsp h outcome mask data s
  | .atreq h op data => Sys2Proof.Machine.execAtreq h op data s
  | .pkctb h epoch idx chunk ncw data => Sys2Proof.Machine.execPkctb h epoch idx chunk ncw data s
  | .callMessage h entry reply args => Sys2Proof.Machine.execCallMessage h entry reply args s
  | .reserve h blocking ch => Sys2Proof.Machine.execReserve h blocking ch s
  | .commit h ch slot => Sys2Proof.Machine.execCommit h ch slot s
  | .take h blocking ch => Sys2Proof.Machine.execTake h blocking ch s
  | .free h ch slot => Sys2Proof.Machine.execFree h ch slot s
  | .credit h tgt count => Sys2Proof.Machine.execCredit h tgt count s
  | .litterBudgetEnd => Sys2Proof.Machine.execLitterBudgetEnd s
  | .pushStart => Sys2Proof.Machine.execPushStart s
  | .pushEnd => Sys2Proof.Machine.execPushEnd s
  | .slotWatchdogExpiry => Sys2Proof.Machine.execSlotWatchdogExpiry s
  | .packComplete => Sys2Proof.Machine.execPackComplete s
  | .packWatchdogExpiry => Sys2Proof.Machine.execPackWatchdogExpiry s
  | .redLockstepMismatch entry => Sys2Proof.Machine.execRedLockstepMismatch entry s
  | .seqLockstepMismatch parity => Sys2Proof.Machine.execSeqLockstepMismatch parity s
  | .moveRequestIssue engine => Sys2Proof.Machine.execMoveRequestIssue engine s
  | .moveEnd engine => Sys2Proof.Machine.execMoveEnd engine s
  | .moveWatchdogExpiry engine => Sys2Proof.Machine.execMoveWatchdogExpiry engine s
  | .xrsp txn status cwMask data => Sys2Proof.Machine.execXrsp txn status cwMask data s
  | .xack txn status => Sys2Proof.Machine.execXack txn status s
  | .datau h mask data => Sys2Proof.Machine.execDatau h mask data s
  | .cmp h => Sys2Proof.Machine.execCmp h s
  | .sts h status => Sys2Proof.Machine.execSts h status s
  | .atrsp h status succ data => Sys2Proof.Machine.execAtrsp h status succ data s
  | .pkrsp h status => Sys2Proof.Machine.execPkrsp h status s
  | .callrsp h status ctx data => Sys2Proof.Machine.execCallrsp h status ctx data s
  | .heelRelease => Sys2Proof.Machine.execHeelRelease s
  | .contextSave c => Sys2Proof.Machine.execContextSave c s
  | .restoreReadsEnd c => Sys2Proof.Machine.execRestoreReadsEnd c s
  | .pscentDone => Sys2Proof.Machine.execPscentDone s
  | .lockWalkEnd => Sys2Proof.Machine.execLockWalkEnd s
  | .gateWalkEnd => Sys2Proof.Machine.execGateWalkEnd s
  | .wayPowerUpEnd => Sys2Proof.Machine.execWayPowerUpEnd s
  | .reportWrite => Sys2Proof.Machine.execReportWrite s
  | .nop c => Sys2Proof.Machine.execNop c s
  | .illegal c => Sys2Proof.Machine.execIllegal c s
  | .endI c => Sys2Proof.Machine.execEndI c s
  | .br c => Sys2Proof.Machine.execBr c s
  | .bcc c => Sys2Proof.Machine.execBcc c s
  | .bst c => Sys2Proof.Machine.execBst c s
  | .jal c => Sys2Proof.Machine.execJal c s
  | .jr c => Sys2Proof.Machine.execJr c s
  | .movst c => Sys2Proof.Machine.execMovst c s
  | .aluAdd c => Sys2Proof.Machine.execAluAdd c s
  | .aluSub c => Sys2Proof.Machine.execAluSub c s
  | .aluMul c => Sys2Proof.Machine.execAluMul c s
  | .aluAnd c => Sys2Proof.Machine.execAluAnd c s
  | .aluOr c => Sys2Proof.Machine.execAluOr c s
  | .aluXor c => Sys2Proof.Machine.execAluXor c s
  | .aluShl c => Sys2Proof.Machine.execAluShl c s
  | .aluShr c => Sys2Proof.Machine.execAluShr c s
  | .aluSar c => Sys2Proof.Machine.execAluSar c s
  | .aluSlt c => Sys2Proof.Machine.execAluSlt c s
  | .aluSltu c => Sys2Proof.Machine.execAluSltu c s
  | .aluSeq c => Sys2Proof.Machine.execAluSeq c s
  | .aluMin c => Sys2Proof.Machine.execAluMin c s
  | .aluMax c => Sys2Proof.Machine.execAluMax c s
  | .movi c => Sys2Proof.Machine.execMovi c s
  | .movhi c => Sys2Proof.Machine.execMovhi c s
  | .ldw c => Sys2Proof.Machine.execLdw c s
  | .ldd c => Sys2Proof.Machine.execLdd c s
  | .stw c => Sys2Proof.Machine.execStw c s
  | .pf c => Sys2Proof.Machine.execPf c s
  | .tld c => Sys2Proof.Machine.execTld c s
  | .tst c => Sys2Proof.Machine.execTst c s
  | .tadd c => Sys2Proof.Machine.execTadd c s
  | .tcvt c => Sys2Proof.Machine.execTcvt c s
  | .tzero c => Sys2Proof.Machine.execTzero c s
  | .tmov c => Sys2Proof.Machine.execTmov c s
  | .parm c => Sys2Proof.Machine.execParm c s
  | .pctb c => Sys2Proof.Machine.execPctb c s
  | .crsv c => Sys2Proof.Machine.execCrsv c s
  | .ccmt c => Sys2Proof.Machine.execCcmt c s
  | .ctake c => Sys2Proof.Machine.execCtake c s
  | .cfree c => Sys2Proof.Machine.execCfree c s
  | .evset c => Sys2Proof.Machine.execEvset c s
  | .evclr c => Sys2Proof.Machine.execEvclr c s
  | .evwait c => Sys2Proof.Machine.execEvwait c s
  | .evrd c => Sys2Proof.Machine.execEvrd c s
  | .rdcnt c => Sys2Proof.Machine.execRdcnt c s
  | .rdfrm c => Sys2Proof.Machine.execRdfrm c s
  | .heel c => Sys2Proof.Machine.execHeel c s
  | .moveI c => Sys2Proof.Machine.execMoveI c s
  | .atom c => Sys2Proof.Machine.execAtom c s
  | .labelI c => Sys2Proof.Machine.execLabelI c s
  | .scabs c => Sys2Proof.Machine.execScabs c s
  | .scrd c => Sys2Proof.Machine.execScrd c s
  | .scclr c => Sys2Proof.Machine.execScclr c s
  | .steprd c => Sys2Proof.Machine.execSteprd c s
  | .stepadd c => Sys2Proof.Machine.execStepadd c s
  | .fence c => Sys2Proof.Machine.execFence c s
  | .call c => Sys2Proof.Machine.execCall c s
  | .ctxcStart c => Sys2Proof.Machine.execCtxcStart c s
  | .ctxcStop c => Sys2Proof.Machine.execCtxcStop c s
  | .ctxcSuspend c => Sys2Proof.Machine.execCtxcSuspend c s
  | .ctxcRestore c => Sys2Proof.Machine.execCtxcRestore c s
  | .ctxcPool c => Sys2Proof.Machine.execCtxcPool c s
  | .sbWrite addr value => Sys2Proof.Machine.execSbWrite addr value s
  | .hold value => Sys2Proof.Machine.execHold value s
  | .release value => Sys2Proof.Machine.execRelease value s
  | .counterLoRead => Sys2Proof.Machine.execCounterLoRead s
  | .seedLoRead => Sys2Proof.Machine.execSeedLoRead s
  | .stepLoRead => Sys2Proof.Machine.execStepLoRead s
  | .scent0Read => Sys2Proof.Machine.execScent0Read s
  | .pscent0Read => Sys2Proof.Machine.execPscent0Read s
  | .tagData0Read => Sys2Proof.Machine.execTagData0Read s
  | .pstoreLoRead index => Sys2Proof.Machine.execPstoreLoRead index s
  | .frameCfgWrite value => Sys2Proof.Machine.execFrameCfgWrite value s
  | .cohCfgWrite value => Sys2Proof.Machine.execCohCfgWrite value s
  | .agentDownWrite value => Sys2Proof.Machine.execAgentDownWrite value s
  | .wayLock value => Sys2Proof.Machine.execWayLock value s
  | .wayUnlock value => Sys2Proof.Machine.execWayUnlock value s
  | .wayGate value => Sys2Proof.Machine.execWayGate value s
  | .wayPower value => Sys2Proof.Machine.execWayPower value s
  | .cacheCfgWrite value => Sys2Proof.Machine.execCacheCfgWrite value s
  | .spareRtWrite value => Sys2Proof.Machine.execSpareRtWrite value s
  | .stageCfgWrite value => Sys2Proof.Machine.execStageCfgWrite value s
  | .channelEnable value => Sys2Proof.Machine.execChannelEnable value s
  | .channelDisable value => Sys2Proof.Machine.execChannelDisable value s
  | .targetValid value => Sys2Proof.Machine.execTargetValid value s
  | .seqEnable value => Sys2Proof.Machine.execSeqEnable value s
  | .seqDisable value => Sys2Proof.Machine.execSeqDisable value s
  | .halt => Sys2Proof.Machine.execHalt s
  | .resume => Sys2Proof.Machine.execResume s
  | .step => Sys2Proof.Machine.execStep s
  | .suspend => Sys2Proof.Machine.execSuspend s
  | .restore => Sys2Proof.Machine.execRestore s
  | .dump => Sys2Proof.Machine.execDump s
  | .stop => Sys2Proof.Machine.execStop s
  | .evtClear high value => Sys2Proof.Machine.execEvtClear high value s
  | .evtSet high value => Sys2Proof.Machine.execEvtSet high value s
  | .mvGo value => Sys2Proof.Machine.execMvGo value s
  | .regCfgWrite value => Sys2Proof.Machine.execRegCfgWrite value s
  | .clsCfgWrite second value => Sys2Proof.Machine.execClsCfgWrite second value s
  | .xpGrantWrite value => Sys2Proof.Machine.execXpGrantWrite value s
  | .seedLoWrite value => Sys2Proof.Machine.execSeedLoWrite value s
  | .seedHiWrite value => Sys2Proof.Machine.execSeedHiWrite value s
  | .stepLoWrite value => Sys2Proof.Machine.execStepLoWrite value s
  | .stepHiWrite value => Sys2Proof.Machine.execStepHiWrite value s
  | .strClr => Sys2Proof.Machine.execStrClr s
  | .celClr => Sys2Proof.Machine.execCelClr s
  | .pstoreLoWrite index value => Sys2Proof.Machine.execPstoreLoWrite index value s
  | .pstoreHiWrite index value => Sys2Proof.Machine.execPstoreHiWrite index value s
  | .bgCfgWrite value => Sys2Proof.Machine.execBgCfgWrite value s
  | .telCfgWrite value => Sys2Proof.Machine.execTelCfgWrite value s
  | .wsBypass => Sys2Proof.Machine.execWsBypass s
  | .wsExtest => Sys2Proof.Machine.execWsExtest s
  | .wsIntest => Sys2Proof.Machine.execWsIntest s
  | .wsPreload cells => Sys2Proof.Machine.execWsPreload cells s
  | .wsClamp => Sys2Proof.Machine.execWsClamp s
  | .wsSafe => Sys2Proof.Machine.execWsSafe s
  | .wxIjtag => Sys2Proof.Machine.execWxIjtag s
  | .cfgRead addr => Sys2Proof.Machine.execCfgRead addr s
  | .fuseImage => Sys2Proof.Machine.execFuseImage s
  | .rptLog => Sys2Proof.Machine.execRptLog s
  | .wbUnassigned h op => Sys2Proof.Machine.execWbUnassigned h op s
  | .memUnassigned op txn => Sys2Proof.Machine.execMemUnassigned op txn s
  | .chopReserved h chop => Sys2Proof.Machine.execChopReserved h chop s
  | .wayUnlockEnd => Sys2Proof.Machine.execWayUnlockEnd s

end Sys2Proof.Machine
end

