-- ==== Sys2Proof/Machine/Due.lean ====
section
/-! DEFINITION. The event that the slice performs next in the present sc by itself (01_frame_and_timing_contract R20): entry 1. -/

namespace Sys2Proof.Machine

/-- The row of ALU (Table 10.4). -/
def AluOp.row (c : Fin 16) : AluOp → Instr
  | .add => .aluAdd c | .sub => .aluSub c | .mul => .aluMul c | .and => .aluAnd c | .or => .aluOr c | .xor => .aluXor c
  | .shl => .aluShl c | .shr => .aluShr c | .sar => .aluSar c | .slt => .aluSlt c | .sltu => .aluSltu c | .seq => .aluSeq c
  | .min => .aluMin c | .max => .aluMax c

/-- The row of Table 10.2 that an instruction belongs to. -/
def Zellek.row (c : Fin 16) : Zellek → Instr
  | .nop => .nop c
  | .endI => .endI c
  | .br _ => .br c
  | .bcc _ _ _ _ => .bcc c
  | .bst _ _ _ => .bst c
  | .jal _ _ => .jal c
  | .jr _ => .jr c
  | .movst _ => .movst c
  | .alu op _ _ _ => op.row c
  | .movi _ _ => .movi c
  | .movhi _ _ => .movhi c
  | .ldw _ _ _ => .ldw c
  | .ldd _ _ _ => .ldd c
  | .stw _ _ _ => .stw c
  | .pf _ _ _ => .pf c
  | .tld _ _ _ _ _ => .tld c
  | .tst _ _ _ _ _ => .tst c
  | .tstSr _ _ _ _ _ _ => .tst c
  | .tadd _ _ _ _ => .tadd c
  | .tcvt _ _ _ => .tcvt c
  | .tzero _ => .tzero c
  | .tmov _ _ => .tmov c
  | .parm _ _ => .parm c
  | .pctb _ _ _ => .pctb c
  | .crsv _ _ _ => .crsv c
  | .ccmt _ _ => .ccmt c
  | .ctake _ _ _ => .ctake c
  | .cfree _ _ => .cfree c
  | .evset _ => .evset c
  | .evclr _ => .evclr c
  | .evwait _ _ _ => .evwait c
  | .evrd _ => .evrd c
  | .rdcnt _ => .rdcnt c
  | .rdfrm _ => .rdfrm c
  | .heel _ _ => .heel c
  | .moveI _ _ => .moveI c
  | .atom _ _ _ _ _ _ _ _ => .atom c
  | .labelI _ => .labelI c
  | .scabs _ _ _ => .scabs c
  | .scrd _ _ => .scrd c
  | .scclr _ => .scclr c
  | .steprd _ _ => .steprd c
  | .stepadd _ _ => .stepadd c
  | .fence => .fence c
  | .call _ _ _ _ _ => .call c
  | .ctxc (.start _ _ _ _) => .ctxcStart c
  | .ctxc (.stop _) => .ctxcStop c
  | .ctxc (.suspend _) => .ctxcSuspend c
  | .ctxc (.restore _) => .ctxcRestore c
  | .ctxc (.pool _) => .ctxcPool c

/-- The row that the next instruction of a context belongs to; of a double error NOP, of an illegal word ILLEGAL. -/
def nextRow (s : State) (c : Fin 16) : Instr :=
  if (fetch s c).1 = 2 then .nop c
  else match nextInsn s c with
    | none => .illegal c
    | some z => z.row c

/-- The first of the rows of an index for which a condition holds. -/
def firstRow {n : Nat} (due : Fin n → Bool) (row : Fin n → Instr) : Option Instr :=
  ((List.finRange n).find? due).map row

/-- A row where its condition holds. -/
def rowIf (due : Bool) (row : Instr) : Option Instr := if due then some row else none

/-- The first of several. -/
def firstOf : List (Option Instr) → Option Instr
  | [] => none
  | some c :: _ => some c
  | none :: r => firstOf r

/-- Steps 1 and 2 of R20: completions and timers. -/
def timerEvent (s : State) : Option Instr :=
  firstOf [
    rowIf (strobeLateDue s) .strobeLate,
    rowIf ((endedTracker s).isSome || (endedActive s).isSome) .transactionEnd,
    rowIf (expiredResv s).isSome .reservationExpiry,
    rowIf (homeTimeoutDue s) .homeTimeout,
    rowIf (budgetEnding s).isSome .litterBudgetEnd,
    rowIf (pushEnding s).isSome .pushEnd,
    rowIf (unlockDue s) .wayUnlockEnd,
    rowIf (powerUpDue s) .wayPowerUpEnd,
    rowIf (walkOver s true) .lockWalkEnd,
    rowIf (walkOver s false) .gateWalkEnd,
    rowIf (pscentDue s) .pscentDone,
    firstRow (fun c : Fin 16 => restoreDue s c) .restoreReadsEnd,
    rowIf (heelDue s) .heelRelease,
    rowIf (drainDue s) .drainComplete]

/-- Step 3 of R20: the boundaries, and what they bring about. -/
def boundaryEvent (s : State) : Option Instr :=
  firstOf [
    rowIf (windowDue s) .regWindowEnd,
    rowIf (frameDue s) .frameBoundary,
    rowIf (calibrationDue s) .calibrationDue,
    rowIf (slotExpiryDue s) .slotWatchdogExpiry,
    rowIf (packExpiryDue s) .packWatchdogExpiry,
    firstRow (fun e : Fin 8 => moveExpired s e) .moveWatchdogExpiry,
    rowIf (deadlockDue s) .deadlockDeclare,
    firstRow (fun c : Fin 16 => saveDue s c) .contextSave]

/-- Step 4 of R20: what starts in this sc; the accesses of the sequencer come before those of the reduction unit and of the mover
(R336, R343). -/
def startEvent (s : State) : Option Instr :=
  firstOf [
    firstRow (fun b : Fin 16 => scrubStepDue s b) .scrubStepDue,
    firstRow (fun b : Fin 16 => slotDue s b) .calendarSlot,
    rowIf (reportDue s) .reportWrite,
    firstRow (fun c : Fin 16 => mayIssue s c) (nextRow s),
    rowIf (packDue s).isSome .packComplete,
    firstRow (fun e : Fin 8 => moveEndDue s e) .moveEnd,
    firstRow (fun e : Fin 8 => moveCanIssue s e) .moveRequestIssue,
    rowIf (pushNext s).isSome .pushStart,
    rowIf (reclaimDue s) .reclaimWalkStep,
    rowIf (lookupNext s).isSome .internalLookup,
    rowIf (resumable s).isSome .waitedRequestResume,
    rowIf (nextAccess s).isSome .bankAccessStart,
    rowIf (xpNext s).isSome .xpEgressStart]

/-- The event that the slice performs next in this sc by itself; none when the sc is over. -/
def dueEvent (s : State) : Option Instr :=
  match s.env.phase with
  | .tagClear => rowIf (decide (16096 ≤ s.env.sc)) .rsReady
  | .ready => firstOf [timerEvent s, boundaryEvent s, startEvent s]
  | _ => none

end Sys2Proof.Machine
end

