-- ==== Sys2Proof/Machine/Tick.lean ====
section
/-! DEFINITION. The passing of one sc (entry 1): what the end of an sc settles, and what the next one begins with. -/

namespace Sys2Proof.Machine

/-! ### The issue slot (R248 to R250, R25) -/

/-- A stalled context whose long request has come back runs again. -/
def endStalls (s : State) : State :=
  (List.range 16).foldl (fun s c =>
    if (getCtx s c).state = .stall ∧ longStall s c = false then setCtx c (fun x => x.wakeUp) s else s) s

/-- A context released by a heel that could not use its sc has had its turn (R25). -/
def endHeelTurn (s : State) : State :=
  match heelNow s with
  | some c => if s.seq.lastIssue ≠ s.env.sc then heelIssued c s else s
  | none => s

/-- Make a context current (R249). -/
def setCurrent (c : Option Nat) (notBefore : Nat) (s : State) : State :=
  { s with seq := { s.seq with cur := c, notBefore := notBefore } }

/-- The choice of the current context at the end of an sc (R249, R250). -/
def chooseCurrent (s : State) : State :=
  if heelTurn s || seqMuzzled s then s
  else match s.seq.cur with
    | some c =>
      let x := getCtx s c
      if x.state = .ready ∧ longStall s c = false then s
      else
        let s := if x.state = .ready then setCtx c (fun x => { x with state := .stall }) s else s
        setCurrent (nextReady s c) (max (s.seq.lastIssue + 2) (s.env.sc + 1)) { s with seq := { s.seq with departed := c } }
    | none => match nextReady s s.seq.departed with
      | some k => setCurrent (some k) (s.env.sc + 2) s
      | none => s

/-- What the end of an sc means for the sequencer: results are written (R272), and the slot goes on. -/
def endIssueSlot (s : State) : State := chooseCurrent (endHeelTurn (endStalls (applyDue s)))

/-! ### Regulation, home and link counts -/

/-- A class has an XP request waiting at egress, or sent and not fully answered (R351). -/
def xpAsking (s : State) (c : Nat) : Bool :=
  (s.fg.xpq.any fun m => m.cls == .mem && xpClass s m == c)
    || (s.cache.miss.any fun m => m.2.cls == c && m.2.asked != m.2.got)
    || (s.cache.fb.any fun f => f.2.cls == c && f.2.asked != f.2.got)
    || s.cache.ev.any fun e => e.cls == c && e.sent

/-- The conditions of R351 and R353 are kept sc by sc. -/
def endRegulation (s : State) : State :=
  if s.tick.cntValid then
    let s := allClasses (fun c k => { k with asking := k.asking && xpAsking s c }) s
    { s with reg := { s.reg with suspNow := s.reg.suspNow ||| s.env.smHold } }
  else s

/-- Home timers and reservations advance by one sc (R126, R134). -/
def advanceHome (s : State) : State :=
  let trk := s.coh.trk.map fun p => if timerRuns s p.2 then (p.1, { p.2 with elapsed := p.2.elapsed + 1 }) else p
  let resv := s.coh.resv.map fun v => { v with running := v.running.map fun n => n - 1 }
  { s with coh := { s.coh with trk := trk, resv := resv } }

/-- One credit pulse per channel and sc goes back to the sender (R423). -/
def returnPulses (s : State) : State :=
  if s.lnk.initPulses ≠ 0 then { s with lnk := { s.lnk with initPulses := s.lnk.initPulses - 1 } }
  else
    let owed := s.lnk.rxOwed.filterMap fun p => if p.2 ≤ 1 then none else some (p.1, p.2 - 1)
    { s with lnk := { s.lnk with rxOwed := owed } }

/-- The end of an sc. -/
def closeSc (s : State) : State :=
  sampleReads (returnPulses (advanceHome (endRegulation (endIssueSlot (orderReports (takeDescriptors (formAdds s)))))))

/-! ### The next sc -/

/-- The counter in the next sc (R11, R35; Table 1.1): the first strobe's value is taken up with one added. -/
def nextCounter (s : State) : Tick :=
  match s.tick.load with
  | some v => { s.tick with counter := v + 1, cntValid := true, load := none }
  | none => if s.tick.cntValid && (!s.env.pkAck || s.env.scRun) then { s.tick with counter := s.tick.counter + 1 } else s.tick

/-- The tick unit counts the sc since the last strobe, that of the load first, in which the slice is not parked (R13). -/
def ageStrobe (s : State) : State :=
  if (s.tick.cntValid || s.tick.load.isSome) && !s.env.ackNext && decide (s.tick.strobeAge < 32768) then
    { s with tick := { s.tick with strobeAge := s.tick.strobeAge + 1 } }
  else s

/-- sb_rdy is 1 but from the sc after pk_ack rises until the sc in which pk_req falls (R432, Table 16.12). -/
def driveSbRdy (was s : State) : State :=
  { s with env := { s.env with sbRdy := !(was.env.pkAck && s.env.pkAck) } }

/-- pk_ack takes its new value (R437), and what its edges mean: park begins, or the calendar starts again. The calendar starts
too where the counter has just become valid. `was` is the state of the last sc. -/
def parkEdge (was s : State) : State :=
  if s.env.ackNext && !s.env.pkAck then park s
  else if (s.env.pkAck && !s.env.ackNext) || (s.tick.cntValid && !was.tick.cntValid) then
    startCalendar { s with env := { s.env with pkAck := s.env.ackNext } }
  else s

/-- The present sc passes while the slice is parked, on sc_clk: its first, or after the restart of the clock (R37, R370,
R438). -/
def passParked (was s : State) : State :=
  if s.env.pkAck && (!was.env.pkAck || s.env.scRun) && s.tick.cntValid then
    let n := s.tick.counter.toNat + 2 ^ 64
    passWhileParked (n - 1) n s
  else s

/-- The next sc begins: nothing has been performed in it yet. -/
def openSc (was : State) : State :=
  let quiet := was.seq.quiet && quietNow was
  let s := ageStrobe was
  let t := nextCounter s
  let begins := t.cntValid && decide (t.counter.toNat % 2 ^ t.frameLog2.toNat = 0)
  let s := { s with
    tick := t
    env := { s.env with sc := s.env.sc + 1, sbOpen := s.env.sbRdy, done := { Done.none with deadlock := begins && quiet } }
    seq := { s.seq with quiet := begins || quiet, evArr := 0 }
    saf := { s.saf with alert := s.saf.pend, formed := [] }
    coh := { s.coh with declared := 0 }
    bg := { s.bg with celNow := [] }
    red := { s.red with slots := s.red.slots.filter fun p => decide (s.env.sc < p.1) }
    out := { s.out with wire := [], sb := s.out.sb.filter fun r => decide (s.env.sc < r.leaves) } }
  passParked was (driveSbRdy was (parkEdge was s))

/-- Flags set by EVSET, a pack or a move in the last sc (R301, R214, R324). -/
def raiseEvents (s : State) : State :=
  setFlags s.seq.evNext { s with seq := { s.seq with evNext := 0 } }

/-- What reaches its place in the sc: data from XP, array reads, writes of moves, roots, contributions, and tag checks. -/
def landings (s : State) : State := landChecks (landContribs (landRoots (landMoves (landReads (landXp s)))))

/-- An instruction that a context issues in this sc forms an address. -/
def addressing (s : State) : Bool :=
  (List.range 16).any fun c => mayIssue s c && (match nextInsn s c with
    | some z => z.isRequest
    | none => false)

/-- The configuration fields that an sc uses by itself (R399): the lengths of frames and windows, the kennel window where requests of
the slice are formed, the timeout that a home timer runs to, what orders the accesses and messages that wait, and where records
are written. -/
def scUses (s : State) : List Nat :=
  (if s.tick.cntValid then [0x400, 0x1800] else [])
    ++ (if addressing s || (List.range 8).any (moveCanIssue s) then [0x1000] else [])
    ++ (if s.coh.trk.any fun p => timerRuns s p.2 then [0x1400] else [])
    ++ (if s.fg.accs.isEmpty then [] else [0x1805])
    ++ (if s.fg.xpq.isEmpty then [] else [0x1801, 0x1805, 0x1806])
    ++ (if s.saf.queue.isEmpty then [] else [0x2C00, 0x2C04, 0x2C05])

/-- The check of those fields, and of the monitor's muzzle and FATAL state, which drive its outputs in every sc (R399, R403,
R408, Table 15.2). -/
def checkUses (s : State) : State :=
  let s := useConfig (scUses s) s
  if s.saf.monBad && !s.saf.fatal then allMuzzled (enterFatal 4 0 s) else s

/-- From one sc to the next, in service. -/
def passSc (s : State) : State :=
  startPort .mpb (startPort .mpa (checkUses (landings (raiseEvents (openSc (closeSc s))))))

/-- One sc passes. In service no register that only software writes changes; before, only time passes; while rs_n is 0, or
after a failed fuse load, nothing happens. -/
def tick (s : State) : State :=
  match s.env.phase with
  | .ready => settle s (settlePassed s (passSc s))
  | .fuseLoad => { s with env := { s.env with sc := s.env.sc + 1 } }
  | .tagClear => { s with env := { s.env with sc := s.env.sc + 1 } }
  | _ => s

end Sys2Proof.Machine
end

