-- ==== Sys2Proof/Machine/Step.lean ====
section
/-! DEFINITION. One step: the command at the front of the queue, or, on an empty queue, what the slice does by itself. -/

namespace Sys2Proof.Machine

/-- A message that has waited registers; those after it wait on. -/
def execHeld (c : Instr) (rest : List Instr) (s : State) : Host.Outcome State Fault Refusal :=
  match exec c { s with fg := { s.fg with held := [] } } with
  | .next t => .next { t with fg := { t.fg with held := rest } }
  | r => r

/-- On an empty queue (entry 1): a message that has waited to register, the compare of the flags that the arrivals of the present
sc have set (R257), the next event of the sc, or else the next sc. -/
def idle (s : State) : Host.Outcome State Fault Refusal :=
  if s.env.wsUndefined then .fault .wrapperUndefined
  else match heldNext s with
    | some (c, rest) => execHeld c rest s
    | none =>
      if s.env.done.compare then .next (compareFlags s)
      else match dueEvent s with
        | some c => exec c s
        | none => .next (tick s)

/-- Take the command at the front of the queue and run it on the state with the rest of the queue. -/
def step (s : State) : Host.Outcome State Fault Refusal :=
  match s.pending with
  | c :: rest => exec c { s with pending := rest }
  | [] => idle s

/-- s with the command that a table word spells at the front of its queue; no word spells one, so s itself. -/
def State.withFetchWord (s : State) (nbits w : Nat) : State :=
  match decodeTableWord nbits w with
  | some c => { s with pending := c :: s.pending }
  | none => s

end Sys2Proof.Machine
end

