-- ==== Sys2Proof/Safety.lean ====
section
/-! DEFINITION. What counts as a safe run, and the terms in which the statements are made: when commands act, what no step may
break, and which commands are of which kind. -/

namespace Sys2Proof.Safety

open Sys2Proof.Machine

/-- k steps from s, each answering a next state, lead to t. -/
inductive Reaches : Nat → State → State → Prop
  | here (s : State) : Reaches 0 s s
  | step {k : Nat} {s t u : State} (h : Machine.step s = .next t) (r : Reaches k t u) : Reaches (k + 1) s u

/-- Every state reached from s has a next state. -/
def Runs (s : State) : Prop :=
  ∀ k t, Reaches k s t → ∃ u, Machine.step t = .next u

/-- The slice is in service: rs_ready has risen, and no wrapper instruction of R442 has been in effect since reset. -/
def inUse (s : State) : Prop := s.env.wsUndefined = false ∧ s.env.phase = .ready

/-- A sideband transaction registers: in service, accepted in the last sc with sb_rdy at 1 (R430, R432), and the first of its sc,
before every message (R446). -/
def sbReads (s : State) : Prop := inUse s ∧ s.env.sbOpen = true ∧ sbTurn s = true

/-- A sideband write has its effect: it registers, and the slice is not FATAL (R403). -/
def sbActs (s : State) : Prop := sbReads s ∧ s.saf.fatal = false

/-- In service, nothing is under way but sideband responses, and nothing is left for the end of the sc to settle but them (R437). -/
structure Quiet (s : State) : Prop where
  ready : s.env.phase = .ready
  drained : drained { s with out := { s.out with sb := [] } } = true
  flags : s.seq.evNext = 0
  results : s.seq.done = []
  words : s.red.contribs = [] ∧ s.red.forming = []
  writes : s.mov.written = []
  formed : s.saf.formed = []
  sound : s.saf.cfgBad = [] ∧ s.saf.monBad = false

/-- No foreground array access waits, and no read is in the corrector. -/
def idleArray (s : State) : Prop := s.fg.accs = [] ∧ s.fg.reads = []

/-- The 280 stored cells of the code word at a location, where it has been written since reset. -/
def cellsOf (s : State) (loc : Nat) : Option Cells := delivered s loc (physRow s (loc / 2))

/-- A message can register in this sc: it comes next in the order of R121, at a port with room (R417) that awaits no replay
(R424); and no configuration field fails its parity, or the slice is FATAL already (R399). -/
def hears (s : State) (c : Instr) : Prop :=
  (s.saf.fatal = true ∨ s.saf.cfgBad = []) ∧ ∀ a ∈ arrivalOf c, inTurn s a = true

/-- What the registering of a message leaves beside its own effect (R423, R424, R149, R350). -/
def arrived (c : Instr) (t : State) : State :=
  match arrivalOf c with
  | some a => registered a t
  | none => t

/-- The requests that Sts answers when they are refused: the header, whether it writes a whole line, whether it is answered with
PARKED while the slice drains (R436), whether it has the continuation flits and code words that its fields call for (R420). -/
def reqForm : Instr → Option (Hdr × Bool × Bool × Bool)
  | .rds h _ _ | .rdx h _ _ | .rdu h _ _ | .upg h _ => some (h, false, true, decide (h.ndf = 0))
  | .wrfull h d => some (h, true, true, decide (h.ndf = 4 ∧ d.length = 8))
  | .wrpart h cw d => some (h, decide (cw = 255), true,
      decide (h.ndf = ((bitsOf cw).length + 1) / 2 ∧ d.length = (bitsOf cw).length))
  | .reqUnassigned h _ => some (h, false, false, true)
  | _ => none

/-- The channel requests, which ChRsp answers (R169): the header, and whether it is answered with PARKED. -/
def chForm : Instr → Option (Hdr × Bool)
  | .reserve h _ _ | .take h _ _ => some (h, true)
  | .commit h _ _ | .free h _ _ | .credit h _ _ | .chopReserved h _ => some (h, false)
  | _ => none

/-- The reads of Table 4.2: kind, header, sector mask, critical sector; an upgrade's is the first sector it names. -/
def readForm : Instr → Option (ReqKind × Hdr × BitVec 4 × BitVec 2)
  | .rds h mask crit => some (.rds, h, mask, crit)
  | .rdx h mask crit => some (.rdx, h, mask, crit)
  | .rdu h mask crit => some (.rdu, h, mask, crit)
  | .upg h mask => some (.upg, h, mask, BitVec.ofNat 2 ((bitsOf mask).headD 0))
  | _ => none

/-- The writes of Table 4.2: header, code-word mask, code words. -/
def writeForm : Instr → Option (Hdr × BitVec 8 × List CodeWord)
  | .wrfull h data => some (h, 255, data)
  | .wrpart h cw data => some (h, cw, data)
  | _ => none

/-- A request is taken for service: in service, not FATAL, not draining, from an agent that may send it (R107, R145). -/
structure Admitted (s : State) (h : Hdr) : Prop where
  use : inUse s
  fatal : s.saf.fatal = false
  drain : draining s = false
  source : badSource s h.agent h.die = false

/-- No check of a channel descriptor, a slot entry or a target entry fails (R187). -/
structure ChannelsSound (s : State) : Prop where
  chan : ∀ c, (chanOf s c).parityBad = false
  slot : ∀ c k, (slotAt s c k).parityBad = false
  target : ∀ t, (targetAt s t).parityBad = false

/-- A line of ordinary memory is at rest: the home function of its set serves, its tags pass their check, and nothing is under way on
it: no transaction, reservation, waiting request, miss, eviction or prefetch; no agent is dead. -/
structure AtRest (s : State) (line : LineAddr) : Prop where
  memory : kennelLine s line = none
  bank : s.coh.muzBanks.getLsbD (tagBank (lineSet line)) = false
  tags : ∀ w ∈ openWays s, (tagAt s (lineSet line) w).passes = true
  dir : ∀ w, findWay s line = some w → (tagAt s (lineSet line) w).dst ≠ dirT
  resv : ∀ v ∈ s.coh.resv, v.line ≠ line
  waits : ∀ r ∈ s.cache.waiters, r.line ≠ line
  stay : leaving s line = false ∧ filling s line = false
  free : trackerOf s line = none ∧ (∀ a ∈ s.coh.active, a.line ≠ line)
  miss : missOf s line = none
  fetch : ∀ f ∈ s.cache.fb, f.2.line ≠ line
  alive : s.coh.dead = 0

/-- The code words of a sector that a piece of work of orders 1 to 4 writes, and what it writes over each (Table 13.1). -/
def bgWords : BgKind → Option (BitVec 2 × CodeWord × CodeWord)
  | .writeback mask lo hi | .rewrite mask lo hi => some (mask, plain lo, plain hi)
  | .telemetry lo hi => some (3, plain lo, plain hi)
  | .marks mask => some (mask, { data := 0, poison := true }, { data := 0, poison := true })
  | .scrubRead => none

/-- What a context waits for on event flags (R256, R302): the mask, whether all of it, whether its flags are used up. -/
def flagWait (x : Ctx) : Option (Word64 × Bool × Bool) :=
  if x.state = .wait then (match x.wait with
    | .events m all use => some (m, all, use)
    | _ => none) else none

/-- The wait of a context is fulfilled by flags e. -/
def fulfilled (s : State) (e : Word64) (c : Nat) : Bool :=
  match flagWait (getCtx s c) with
  | some (m, true, _) => decide (e &&& m = m)
  | some (m, false, _) => decide (e &&& m ≠ 0)
  | none => false

/-- The flags as context c finds them in the compare of R257, begun with flags e: each released context below it has cleared
those it uses up. -/
def flagsSeen (s : State) (e : Word64) : Nat → Word64
  | 0 => e
  | c + 1 => match fulfilled s (flagsSeen s e c) c, flagWait (getCtx s c) with
    | true, some (m, _, true) => flagsSeen s e c &&& ~~~m
    | _, _ => flagsSeen s e c

/-- A context that a wait releases with OK, as the status of instruction id (R256, R267, R302). -/
def released (id : Nat) (x : Ctx) : Ctx :=
  { x with lastSts := 0, stsId := id, parityBad := x.parityBad.filter (· ≠ 48), wait := .nothing
           state := if x.haltPend then .halt else .ready, haltPend := false, stepping := x.stepping && !x.haltPend }

/-- Context c issues instruction z in this sc: it holds the issue slot and waits for nothing (R246 to R250, R271 to R273), the word
at its PC decodes to z, and nothing that z reads fails its parity (R263). -/
structure Issues (s : State) (c : Nat) (z : Zellek) : Prop where
  use : inUse s
  may : mayIssue s c = true
  insn : nextInsn s c = some z
  sound : readsBad (getCtx s c) z = false

/-- A context past the word of its instruction. -/
def fetched (x : Ctx) : Ctx := { x with pc := x.pc + 1, after := 0 }

/-- A context after its instruction: one that steps halts at its next boundary (R267). -/
def stepped (x : Ctx) : Ctx :=
  if x.stepping = false then x
  else if x.state = .ready then { x with state := .halt, stepping := false }
  else { x with stepping := false, haltPend := decide (x.state = .wait) }

/-- A context with the pending entry of an instruction that returns a status later (R272 to R274). -/
def opened (x : Ctx) (p : Pending) : Ctx := { x with pend := x.pend ++ [p], stsId := p.id }

/-- The entry of instruction z, of a number: what it will write, whether it is long, a store, what it gathers and from how many
parts (R272, R278, R248). -/
def entryOf (z : Zellek) (id : Nat) (long store : Bool) (gather : Gather) (parts : Nat) : Pending :=
  { id := id, regs := z.writes.filter (· < 16), tile := (z.writes.find? (16 ≤ ·)).map (· - 16), sts := true,
    request := z.isRequest, store := store, long := long, gather := gather, words := [], left := parts, bad := none }

/-- t is u after an instruction of context c has issued: what every issue does beside the instruction's own effect. The other contexts
stay, a corrected fetch is counted (R246), and the turn of a heel passes (R25). -/
structure Issued (c : Nat) (u t : State) : Prop where
  others : ∀ d, d ≠ c → getCtx t d = getCtx u d
  counted : t.bg.tel.pstoreCe = if (fetch u c).1 = 1 then min 65535 (u.bg.tel.pstoreCe + 1) else u.bg.tel.pstoreCe
  turn : t.seq.heelQ = if heelTurn u = true then u.seq.heelQ.tail else u.seq.heelQ
  rest : t = { u with
    fresh := u.fresh + 1
    bg := { u.bg with tel := { u.bg.tel with pstoreCe := t.bg.tel.pstoreCe } }
    seq := { u.seq with ctx := t.seq.ctx, lastIssue := u.env.sc, nextId := t.seq.nextId, heelQ := t.seq.heelQ,
                        heelAll := t.seq.heelAll, cur := t.seq.cur, notBefore := t.seq.notBefore } }

/-- The code word at a location holds a value, without error, and no mark over it is pending. -/
def holdsWord (s : State) (loc : Nat) (d : Code) : Prop :=
  cellsOf s loc = some (wordCells s loc (plain d)) ∧ markPending s loc = false

/-- The code words of kennel space from offset off on hold the values ws, whole sectors, and no access is under way before them. -/
structure HoldsWords (s : State) (off : Nat) (ws : List Code) : Prop where
  idle : idleArray s
  sector : off % 64 = 0 ∧ ws.length % 2 = 0
  words : ∀ i w, ws[i]? = some w → holdsWord s (kennelLoc (off + 32 * i)) w

/-- The outputs with one more sideband response: it leaves 3 sc after the transaction registers (Table 16.10). -/
def responded (s : State) (resp : BitVec 2) (data : Word32) : Out :=
  { s.out with sb := s.out.sb ++ [{ leaves := s.env.sc + 3, resp := resp, data := data }] }

/-- The containment monitor after an accepted write of the RWL fields of the register at a word address: its configuration
parity is computed anew (R399). -/
def resealed (s : State) (word : Nat) : Saf := { s.saf with cfgBad := s.saf.cfgBad.filter fun w => w != word }

/-- Every configuration field holds a value that its rule allows (R18, R137, R340, R348, R374, Table 15.9). -/
structure ConfigLegal (s : State) : Prop where
  frame : 15 ≤ s.tick.frameLog2.toNat ∧ s.tick.frameLog2.toNat ≤ 25
  framePend : ∀ n, s.tick.framePend = some n → 15 ≤ n.toNat ∧ n.toNat ≤ 25
  window : 8 ≤ s.reg.winLog2.toNat ∧ s.reg.winLog2.toNat ≤ 20
  winPend : ∀ n, s.reg.winPend = some n → 8 ≤ n.toNat ∧ n.toNat ≤ 20
  clusters : 1 ≤ s.coh.nclust.toNat ∧ s.coh.nclust.toNat ≤ 160
  homeTmo : 256 ≤ s.coh.homeTmo.toNat
  grant : s.reg.grant.toNat ≤ 256
  ring : s.saf.ringLog2.toNat ≤ 12
  scrub : 5 ≤ s.bg.scrubLog2.toNat ∧ s.bg.scrubLog2.toNat ≤ 25
  telRing : s.bg.telRing.toNat ≤ 8

/-- The commands that end all state: a reset and a loss of power. -/
def isReset : Instr → Bool
  | .resetAssert | .powerLoss => true
  | _ => false

/-- Kinds of commands: bring-up pins; the test wrapper and its instruments; the sideband; the ends of a frame and of a window;
and everything else, a message, an event or an instruction. -/
inductive Kind where
  | bringUp | wrapper | instrument | sideband | boundary | event
deriving DecidableEq, Repr

def kindOf : Instr → Kind
  | .resetAssert | .resetRelease _ _ _ _ | .powerLoss | .fuseLoadEnd _ _ | .rsReady => .bringUp
  | .wsBypass | .wsExtest | .wsIntest | .wsPreload _ | .wsClamp | .wsSafe | .wxIjtag => .wrapper
  | .cfgRead _ | .fuseImage | .rptLog => .instrument
  | .frameBoundary | .regWindowEnd | .aonTick | .tkStrobe _ => .boundary
  | .sbWrite _ _ | .hold _ | .release _ | .counterLoRead | .seedLoRead | .stepLoRead | .scent0Read | .pscent0Read
  | .tagData0Read | .pstoreLoRead _ | .frameCfgWrite _ | .cohCfgWrite _ | .agentDownWrite _ | .wayLock _ | .wayUnlock _
  | .wayGate _ | .wayPower _ | .cacheCfgWrite _ | .spareRtWrite _ | .stageCfgWrite _ | .channelEnable _
  | .channelDisable _ | .targetValid _ | .seqEnable _ | .seqDisable _ | .halt | .resume | .step | .suspend | .restore
  | .dump | .stop | .evtClear _ _ | .evtSet _ _ | .mvGo _ | .regCfgWrite _ | .clsCfgWrite _ _ | .xpGrantWrite _
  | .seedLoWrite _ | .seedHiWrite _ | .stepLoWrite _ | .stepHiWrite _ | .strClr | .celClr | .pstoreLoWrite _ _
  | .pstoreHiWrite _ _ | .bgCfgWrite _ | .telCfgWrite _ => .sideband
  | _ => .event

end Sys2Proof.Safety
end

