-- ==== Sys2Proof/Certificates/Slice0/Obligations.lean ====
section
/-! DEFINITION. The statements for the provers. -/

open Sys2Proof Sys2Proof.Machine Sys2Proof.Safety

/-! ### The machine -/

/-- A command at the front of the queue is what a step runs, on the state with the rest of the queue. -/
def Obligations.StepRunsFrontCommand : Prop :=
  ∀ (c : Instr) (s : State) (rest : List Instr), s.pending = c :: rest → step s = exec c { s with pending := rest }

/-- A step takes exactly one command from the queue and adds none; on an empty queue it adds none (entry 1). -/
def Obligations.StepTakesOneCommand : Prop :=
  ∀ s t : State, step s = .next t → t.pending = s.pending.tail

/-- On an empty queue (entry 1) a message that waits and can register now does so, as if it came in this sc, and the others wait on
(entry 24); then the flags set by the arrivals of the sc are compared (R257); then the slice performs its next due event, or, where
none is due, time passes: while it is held in reset nothing happens, while it comes up the sc is counted, and in service the next sc
begins and the counter, once valid, advances by one. A message that cannot register yet, or an SB transaction, waits, and changes
nothing else (R121, R430). -/
def Obligations.EmptyQueueLetsTimePass : Prop :=
  (∀ s : State, s.pending = [] → s.env.wsUndefined = false →
    let still := heldNext s = none ∧ s.env.done.compare = false ∧ dueEvent s = none
    (∀ c rest t, heldNext s = some (c, rest) → exec c { s with fg := { s.fg with held := [] } } = .next t →
        s.fg.held = c :: rest ∧ step s = .next { t with fg := { t.fg with held := rest } })
    ∧ (heldNext s = none → s.env.done.compare = true → step s = .next (compareFlags s))
    ∧ (∀ c, heldNext s = none → s.env.done.compare = false → dueEvent s = some c → step s = exec c s)
    ∧ (still → s.env.phase = .held ∨ s.env.phase = .stuck → step s = .next s)
    ∧ (still → s.env.phase = .fuseLoad ∨ s.env.phase = .tagClear →
        step s = .next { s with env := { s.env with sc := s.env.sc + 1 } })
    ∧ (still → Quiet s → s.out.sb = [] → s.env.pkAck = false → s.env.ackNext = false → ∃ t, step s = .next t
        ∧ t.env.sc = s.env.sc + 1
        ∧ t.tick.counter = (match s.tick.load with
          | some v => v + 1
          | none => if s.tick.cntValid then s.tick.counter + 1 else s.tick.counter)
        ∧ t.tick.cntValid = (s.tick.load.isSome || s.tick.cntValid) ∧ t.tick.load = none
        ∧ t.arr = s.arr ∧ t.cache = s.cache ∧ t.ken = s.ken ∧ t.mov = s.mov ∧ t.det = s.det ∧ t.seq.ctx = s.seq.ctx
        ∧ t.seq.events = s.seq.events ∧ t.red.packs = s.red.packs ∧ t.coh.trk = s.coh.trk ∧ t.out.egress = []))
  ∧ ∀ (c : Instr) (s : State), inUse s →
    (∀ a, arrivalOf c = some a → inTurn s a = false → exec c s = .next { s with fg := { s.fg with held := s.fg.held ++ [c] } })
    ∧ (kindOf c = .sideband → s.env.sbOpen = true → sbTurn s = false →
        exec c s = .next { s with fg := { s.fg with held := s.fg.held ++ [c] } })
    ∧ (kindOf c = .sideband → s.env.sbOpen = false → exec c s = .next s)

/-- After reset every configuration field holds a legal value. -/
def Obligations.ResetConfigurationIsLegal : Prop := ConfigLegal State.reset

/-- No step of any command, nor the passing of an sc, gives a configuration field a value that its rule forbids. -/
def Obligations.EveryStepKeepsConfigurationLegal : Prop :=
  ∀ s t : State, ConfigLegal s → step s = .next t → ConfigLegal t

/-- Once a lock bit is 1, no step but a reset or a loss of power clears it or changes the fields it governs (R8, R450;
Table 17.3 but for the class registers, whose counts share their table). -/
def Obligations.LockedFieldsStay : Prop :=
  ∀ s t : State, (∀ c ∈ s.pending.head?, isReset c = false) → step s = .next t →
    (s.tick.lock = true → t.tick.lock = true)
    ∧ (s.ken.lock = true → t.ken.lock = true ∧ t.ken.en = s.ken.en ∧ t.ken.base = s.ken.base)
    ∧ (s.coh.lock = true → t.coh.lock = true ∧ t.coh.nclust = s.coh.nclust ∧ t.coh.homeTmo = s.coh.homeTmo)
    ∧ (s.reg.lock = true → t.reg.lock = true ∧ t.reg.mode = s.reg.mode ∧ t.reg.defclass = s.reg.defclass
        ∧ t.reg.grant = s.reg.grant ∧ t.reg.range = s.reg.range)
    ∧ (s.det.lock = true → t.det.lock = true)
    ∧ (s.saf.lock = true → t.saf.lock = true ∧ t.saf.rptEn = s.saf.rptEn ∧ t.saf.hbEn = s.saf.hbEn
        ∧ t.saf.sclass = s.saf.sclass ∧ t.saf.ringLog2 = s.saf.ringLog2 ∧ t.saf.rptBase = s.saf.rptBase
        ∧ t.saf.hbAddr = s.saf.hbAddr)

/-- A message, an event or an instruction changes no register that only software writes, nor the queue, the identity, the
fuse stream, the program store, or the lengths of frame and window: the frame of every command of that kind. The end of a frame
or of a window, and what moves a parked counter, changes none of them but a length that was pending (R18, R340). -/
def Obligations.EventsKeepSoftwareRegisters : Prop :=
  ∀ (c : Instr) (s t : State), kindOf c = .event ∨ kindOf c = .boundary → exec c s = .next t →
    t.pending = s.pending ∧ t.fuse = s.fuse ∧ t.env.phase = s.env.phase ∧ t.env.idSlice = s.env.idSlice
    ∧ t.env.idDie = s.env.idDie ∧ t.env.idAgent = s.env.idAgent ∧ t.env.idSub = s.env.idSub ∧ t.env.wir = s.env.wir
    ∧ t.env.boundary = s.env.boundary
    ∧ ((t.tick.frameLog2 = s.tick.frameLog2 ∧ t.tick.framePend = s.tick.framePend)
      ∨ (kindOf c = .boundary ∧ s.tick.framePend = some t.tick.frameLog2 ∧ t.tick.framePend = none))
    ∧ ((t.reg.winLog2 = s.reg.winLog2 ∧ t.reg.winPend = s.reg.winPend)
      ∨ (kindOf c = .boundary ∧ s.reg.winPend = some t.reg.winLog2 ∧ t.reg.winPend = none))
    ∧ t.reg.mode = s.reg.mode
    ∧ t.reg.defclass = s.reg.defclass ∧ t.reg.grant = s.reg.grant ∧ t.reg.range = s.reg.range
    ∧ t.coh.nclust = s.coh.nclust ∧ t.coh.homeTmo = s.coh.homeTmo
    ∧ t.ken.en = s.ken.en ∧ t.ken.base = s.ken.base ∧ t.ken.stageEn = s.ken.stageEn ∧ t.ken.stageSize = s.ken.stageSize
    ∧ t.ken.stageBase = s.ken.stageBase
    ∧ t.cache.cleanClass = s.cache.cleanClass ∧ t.cache.fbEn = s.cache.fbEn ∧ t.cache.sdEn = s.cache.sdEn
    ∧ t.cache.kways = s.cache.kways ∧ t.cache.gate = s.cache.gate
    ∧ t.seq.en = s.seq.en ∧ t.seq.mclass = s.seq.mclass ∧ t.seq.m0pc = s.seq.m0pc ∧ t.seq.saveBase = s.seq.saveBase
    ∧ t.seq.entries = s.seq.entries ∧ t.seq.pstore = s.seq.pstore
    ∧ t.bg.scrubEn = s.bg.scrubEn ∧ t.bg.calFrames = s.bg.calFrames ∧ t.bg.scrubLog2 = s.bg.scrubLog2
    ∧ t.bg.telEn = s.bg.telEn ∧ t.bg.telRing = s.bg.telRing ∧ t.bg.telBase = s.bg.telBase
    ∧ t.saf.rptEn = s.saf.rptEn ∧ t.saf.hbEn = s.saf.hbEn ∧ t.saf.sclass = s.saf.sclass
    ∧ t.saf.ringLog2 = s.saf.ringLog2 ∧ t.saf.rptBase = s.saf.rptBase ∧ t.saf.hbAddr = s.saf.hbAddr
    ∧ t.lnk.seam = s.lnk.seam

/-! ### Reset, bring-up, the test wrapper -/

/-- RESET_ASSERT and POWER_LOSS lose every state (R457, R458): what is left is the state after reset; a reset leaves the wrapper
alone. RESET_RELEASE: sc 0 begins, with the identity of the pins; the slice loads its fuses where its agent ID is 160 to 191, and
otherwise does not leave reset (R415, R416). FUSE_LOAD_END (R435): a stream that fails its check, or a fu_vld out of place, keeps
the slice in reset with fu_bad; otherwise the stream is kept, every bank takes its fused sense code, and the tags are cleared.
RS_READY: rs_ready rises in sc 16,096 with clear tags, and 16 credit pulses begin (R423). -/
def Obligations.BringUpCommandsAnswer : Prop :=
  ((∀ s : State, exec .resetAssert s = .next { State.reset with
       pending := s.pending, fresh := s.fresh
       env := { Env.reset with wir := s.env.wir, boundary := s.env.boundary
                               wsUndefined := s.env.wir = 1 ∨ s.env.wir = 2 ∨ s.env.wir = 4 ∨ s.env.wir = 5 } })
   ∧ (∀ s : State, exec .powerLoss s = .next { State.reset with pending := s.pending, fresh := s.fresh })
   ∧ (∀ (s : State) (slice : BitVec 11) (die : BitVec 5) (agent : BitVec 8) (sub : BitVec 2), s.env.phase = .held →
       exec (.resetRelease slice die agent sub) s = .next { s with env := { s.env with
         phase := if 160 ≤ agent.toNat ∧ agent.toNat ≤ 191 then .fuseLoad else .stuck
         sc := 0, idSlice := slice, idDie := die, idAgent := agent, idSub := sub } }))
  ∧ ((∀ (s : State) (stream : BitVec 3000) (stray : Bool), s.env.phase = .fuseLoad →
       (fuseCheck stream = false ∨ stray = true → ∃ t, exec (.fuseLoadEnd stream stray) s = .next t ∧ t.env.phase = .stuck
         ∧ t.fuse.bad = true ∧ t.fuse.loaded = false)
       ∧ (fuseCheck stream = true → stray = false → ∃ t, exec (.fuseLoadEnd stream stray) s = .next t
         ∧ t.env.phase = .tagClear ∧ t.fuse = { stream := stream, loaded := true, bad := false }
         ∧ (∀ b, b < 16 → tget 0 t.bg.codes b = stream.toNat / 2 ^ (1984 + 5 * b) % 32)
         ∧ t = { s with env := t.env, fuse := t.fuse, bg := { s.bg with codes := t.bg.codes } }))
     ∧ (∀ s : State, s.env.phase = .tagClear → exec .rsReady s = .next { s with
         env := { s.env with phase := .ready, sc := 16096, sbRdy := true }, cache := { s.cache with tags := [] }
         lnk := { s.lnk with initPulses := 16 } }))

/-- The wrapper instructions (Table 16.13): each is held in the instruction register and changes nothing else of the slice, but
that WS_EXTEST, WS_INTEST, WS_CLAMP and WS_SAFE leave its state undefined until the next reset (R442), and WS_PRELOAD loads the
boundary cells. After such an instruction (R442), every command of the functional interface stops by name (entry 12), until the next reset. -/
def Obligations.WrapperCommandsAnswer : Prop :=
  (∀ (s : State) (cells : BitVec 3772),
     exec .wsBypass s = .next { s with env := { s.env with wir := 0 } }
     ∧ exec .wsExtest s = .next { s with env := { s.env with wir := 1, wsUndefined := true } }
     ∧ exec .wsIntest s = .next { s with env := { s.env with wir := 2, wsUndefined := true } }
     ∧ exec (.wsPreload cells) s = .next { s with env := { s.env with wir := 3, boundary := cells } }
     ∧ exec .wsClamp s = .next { s with env := { s.env with wir := 4, wsUndefined := true } }
     ∧ exec .wsSafe s = .next { s with env := { s.env with wir := 5, wsUndefined := true } }
     ∧ exec .wxIjtag s = .next { s with env := { s.env with wir := 8 } })
  ∧ (∀ (c : Instr) (s : State), kindOf c ≠ .bringUp → kindOf c ≠ .wrapper → s.env.wsUndefined = true →
       exec c s = .fault .wrapperUndefined)
  ∧ (∀ (c : Instr) (s : State), s.env.wsUndefined = false → ∃ t, exec c s = .next t)

/-- Before rs_ready rises nothing but bring-up and the wrapper acts: a message is not accepted, SB is closed (R432), and an
event does not come about (entry 2). -/
def Obligations.NothingActsBeforeReady : Prop :=
  ∀ (c : Instr) (s : State), kindOf c = .event ∨ kindOf c = .boundary ∨ kindOf c = .sideband →
    s.env.wsUndefined = false → s.env.phase ≠ .ready → exec c s = .next s

/-- An instrument, selected by WX_IJTAG outside reset, shows its content in the scan chain (Table 16.14) and changes no
state of the slice: no shadow is captured and no flag cleared (R443). -/
def Obligations.InstrumentsChangeNoState : Prop :=
  ∀ s : State, s.env.wsUndefined = false → s.env.phase ≠ .held → s.env.wir = 8 →
    (∀ addr : BitVec 18, exec (.cfgRead addr) s =
      .next { s with out := { s.out with scan := [BitVec.ofNat 32 ((readReg s addr.toNat).getD 0)] } })
    ∧ (∃ words, exec .fuseImage s = .next { s with out := { s.out with scan := words } } ∧ words.length = 94
        ∧ ∀ n w, words[n]? = some w → w = s.fuse.stream.extractLsb' (32 * n) 32)
    ∧ (∃ words, exec .rptLog s = .next { s with out := { s.out with scan := words } } ∧ words.length = 128
        ∧ ∀ n k w, n < 16 → k < 8 → words[8 * n + k]? = some w → w = (s.saf.log.getD n 0).extractLsb' (32 * k) 32)

/-! ### Sideband writes -/

/-- SL_FRAME_CFG and SL_REG_CFG (R18, R340): a length in range takes effect at once while CNT_VALID is 0, is pending after
that unless it equals the one in force, and a length out of range leaves the field unchanged and flags the rejection. The other
fields and the lock bit take the written bits; under the lock nothing changes. The response is OK (R431). -/
def Obligations.PeriodWritesAnswer : Prop :=
  ∀ (s : State) (v : Word32), sbActs s →
    let n : BitVec 5 := v.extractLsb' 0 5
    (s.tick.lock = true → exec (.frameCfgWrite v) s = .next { s with out := responded s 0 0 })
    ∧ (s.tick.lock = false → 15 ≤ n.toNat ∧ n.toNat ≤ 25 → exec (.frameCfgWrite v) s = .next { s with
        tick := { s.tick with
          frameLog2 := if s.tick.cntValid then s.tick.frameLog2 else n
          framePend := if s.tick.cntValid ∧ n ≠ s.tick.frameLog2 then some n else none
          lock := v.getLsbD 31 }
        saf := resealed s 0x400, out := responded s 0 0 })
    ∧ (s.tick.lock = false → n.toNat < 15 ∨ 25 < n.toNat → exec (.frameCfgWrite v) s = .next { s with
        tick := { s.tick with cfgRej := true, lock := v.getLsbD 31 }
        saf := resealed s 0x400, out := responded s 0 0 })
    ∧ (s.reg.lock = true → exec (.regCfgWrite v) s = .next { s with out := responded s 0 0 })
    ∧ (s.reg.lock = false → 8 ≤ n.toNat ∧ n.toNat ≤ 20 → exec (.regCfgWrite v) s = .next { s with
        reg := { s.reg with
          winLog2 := if s.tick.cntValid then s.reg.winLog2 else n
          winPend := if s.tick.cntValid ∧ n ≠ s.reg.winLog2 then some n else none
          lock := v.getLsbD 31, mode := v.getLsbD 9, defclass := v.extractLsb' 5 4 }
        saf := resealed s 0x1800, out := responded s 0 0 })
    ∧ (s.reg.lock = false → n.toNat < 8 ∨ 20 < n.toNat → exec (.regCfgWrite v) s = .next { s with
        reg := { s.reg with regRej := true, lock := v.getLsbD 31, mode := v.getLsbD 9, defclass := v.extractLsb' 5 4 }
        saf := resealed s 0x1800, out := responded s 0 0 })

/-- SL_COH_CFG (R137): a write with NCLUST outside 1 to 160 or HOME_TMO below 256 leaves every field unchanged, the lock too,
and sets CFG_REJ; otherwise all fields are taken. -/
def Obligations.CohCfgWriteAnswers : Prop :=
  ∀ (s : State) (v : Word32), sbActs s →
    let n : BitVec 8 := v.extractLsb' 20 8
    let tmo : BitVec 20 := v.extractLsb' 0 20
    (s.coh.lock = true → exec (.cohCfgWrite v) s = .next { s with out := responded s 0 0 })
    ∧ (s.coh.lock = false → n.toNat < 1 ∨ 160 < n.toNat ∨ tmo.toNat < 256 →
        exec (.cohCfgWrite v) s = .next { s with coh := { s.coh with cfgRej := true }, out := responded s 0 0 })
    ∧ (s.coh.lock = false → 1 ≤ n.toNat → n.toNat ≤ 160 → 256 ≤ tmo.toNat →
        exec (.cohCfgWrite v) s = .next { s with
          coh := { s.coh with nclust := n, homeTmo := tmo, lock := v.getLsbD 31 }
          saf := resealed s 0x1400, out := responded s 0 0 })

/-- SL_CLS_CFG0, SL_CLS_CFG1 and SL_XP_GRANT (R348): a write under which RES would sum to more than 224, XRES to more than 256,
or some XRES be other than 0 with GRANT 0, is ignored and sets ADM_REJ; a GRANT above 256 sets REG_REJ. A class whose new LEASH it
has passed already leaves its leash in this window (entry 62). -/
def Obligations.AdmissionWritesAnswer : Prop :=
  ∀ (s : State) (v : Word32), sbActs s → s.reg.lock = false →
    (∀ second : Bool,
      let t := setClass s s.reg.clsSel.toNat fun k =>
        if second then { k with xres := v.extractLsb' 0 9 }
        else { k with prio := v.extractLsb' 30 2, res := v.extractLsb' 22 8, leash := v.extractLsb' 0 22
                      leftLeash := k.leftLeash || (s.tick.cntValid && k.bytes < 64 * k.leash.toNat
                        && 64 * (v.toNat % 2 ^ 22) ≤ k.bytes) }
      (224 < resSum t ∨ 256 < xresSum t ∨ (s.reg.grant = 0 ∧ xresSum t ≠ 0) → exec (.clsCfgWrite second v) s =
        .next { s with reg := { s.reg with admRej := true }, out := responded s 0 0 })
      ∧ (resSum t ≤ 224 → xresSum t ≤ 256 → (s.reg.grant = 0 → xresSum t = 0) → exec (.clsCfgWrite second v) s =
        .next { s with reg := t.reg, saf := resealed s (if second then 0x1806 else 0x1805), out := responded s 0 0 }))
    ∧ (let g : BitVec 9 := v.extractLsb' 0 9
      (256 < g.toNat → exec (.xpGrantWrite v) s =
        .next { s with reg := { s.reg with regRej := true }, out := responded s 0 0 })
      ∧ (g = 0 → xresSum s ≠ 0 → exec (.xpGrantWrite v) s =
        .next { s with reg := { s.reg with admRej := true }, out := responded s 0 0 })
      ∧ (g.toNat ≤ 256 → (g = 0 → xresSum s = 0) → exec (.xpGrantWrite v) s =
        .next { s with reg := { s.reg with grant := g }, saf := resealed s 0x1801, out := responded s 0 0 }))

/-- SL_BG_CFG, SL_TEL_CFG and SL_CEL_STATUS.CLR (R374, R362): an interval or a ring length out of range leaves that field
unchanged and sets CFG_REJ; CLR empties the log and clears OVF, but for the corrections of the same sc. Seed and step counter of the selected stream (R381): a low word is
held pending; a high word sets the whole value from it; under SL_DET_CFG.LOCK nothing changes. STR_CLR empties the stream's scent
context, or, while a SCABS of the stream is incomplete, is ignored and sets CMD_REJ (R386). No other stream changes. -/
def Obligations.BackgroundAndStreamWritesAnswer : Prop :=
  (∀ (s : State) (v : Word32), sbActs s →
     (let n : BitVec 5 := v.extractLsb' 0 5
      let ok := 5 ≤ n.toNat ∧ n.toNat ≤ 25
      exec (.bgCfgWrite v) s = .next { s with
       bg := { s.bg with scrubEn := v.getLsbD 31, calFrames := v.extractLsb' 16 8
                         scrubLog2 := if ok then n else s.bg.scrubLog2
                         cfgRej := if ok then s.bg.cfgRej else true }
       out := responded s 0 0 })
     ∧ (let n : BitVec 4 := v.extractLsb' 16 4
       exec (.telCfgWrite v) s = .next { s with
         bg := { s.bg with telEn := v.getLsbD 31, telBase := v.extractLsb' 0 16
                           telRing := if n.toNat ≤ 8 then n else s.bg.telRing
                           cfgRej := if n.toNat ≤ 8 then s.bg.cfgRej else true }
         out := responded s 0 0 })
     ∧ exec .celClr s = .next { s with bg := { s.bg with
         cel := s.bg.celNow.take 16, celOvf := decide (16 < s.bg.celNow.length) }, out := responded s 0 0 })
  ∧ (∀ (s : State) (v : Word32), sbActs s →
       let k := s.det.strSel.toNat
       let x := getStream s k
       let only (c : Instr) (y : Stream) : Prop := ∃ t, exec c s = .next t ∧ getStream t k = y
         ∧ (∀ j, j ≠ k → getStream t j = getStream s j)
         ∧ t = { s with det := { s.det with streams := t.det.streams }, out := responded s 0 0 }
       (s.det.lock = true →
         exec (.seedLoWrite v) s = .next { s with out := responded s 0 0 }
         ∧ exec (.seedHiWrite v) s = .next { s with out := responded s 0 0 }
         ∧ exec (.stepLoWrite v) s = .next { s with out := responded s 0 0 }
         ∧ exec (.stepHiWrite v) s = .next { s with out := responded s 0 0 })
       ∧ (s.det.lock = false →
         only (.seedLoWrite v) { x with seedPend := v }
         ∧ only (.seedHiWrite v) { x with seed := v ++ x.seedPend, seedBad := false }
         ∧ only (.stepLoWrite v) { x with stepPend := v }
         ∧ only (.stepHiWrite v) { x with step := v.extractLsb' 0 16 ++ x.stepPend, stepBad := false })
       ∧ (streamBusy s k = true →
         exec .strClr s = .next { s with det := { s.det with cmdRej := true }, out := responded s 0 0 })
       ∧ (streamBusy s k = false → only .strClr { x with acc := 0, leaves := 0, spoiled := false, scentBad := false }))

/-- The program store window (R455, R247): while EN is 0 a write of a low word is pending, whatever its index, and a write of
a high word stores the instruction with the pending low word; while EN is 1 both are ignored and set CMD_REJ. -/
def Obligations.ProgramStoreWritesAnswer : Prop :=
  ∀ (s : State) (i : BitVec 14) (v : Word32), sbActs s →
    (s.seq.en = true →
      exec (.pstoreLoWrite i v) s = .next { s with seq := { s.seq with cmdRej := true }, out := responded s 0 0 }
      ∧ exec (.pstoreHiWrite i v) s = .next { s with seq := { s.seq with cmdRej := true }, out := responded s 0 0 })
    ∧ (s.seq.en = false →
      exec (.pstoreLoWrite i v) s = .next { s with seq := { s.seq with psPending := v }, out := responded s 0 0 }
      ∧ ∃ t, exec (.pstoreHiWrite i v) s = .next t
        ∧ tfind t.seq.pstore i.toNat = some { word := v ++ s.seq.psPending, flips := 0 }
        ∧ (∀ j, j ≠ i.toNat → tfind t.seq.pstore j = tfind s.seq.pstore j)
        ∧ t = { s with seq := { s.seq with pstore := t.seq.pstore }, out := responded s 0 0 })

/-- SL_WAY_LOCK (R99, R102, R106, R163): while the ways are busy, or with more than 16 ways, the write is ignored and sets
CMD_REJ. More ways start a lock walk of ways 16 - k to 15 - c, unless one of them is gated; fewer unlock ways 16 - c to 15 - k,
which takes 4,096 sc, unless the kennel manager forbids it. SL_WAY_GATE (R104, R105, R106): while the ways are busy, or where a
locked way is named, the write is ignored and sets CMD_REJ. Otherwise bits newly set start a gate walk of those ways in ascending
order, and bits cleared of gated ways power them up, which takes 4,096 sc. -/
def Obligations.WayWritesAnswer : Prop :=
  (∀ (s : State) (v : Word32), sbActs s →
     let k := v.toNat % 32
     let c := s.cache.locked
     let rejected : State := { s with cache := { s.cache with cmdRej := true }, out := responded s 0 0 }
     (waysBusy s = true ∨ 16 < k → exec (.wayLock v) s = .next rejected ∧ exec (.wayUnlock v) s = .next rejected)
     ∧ (waysBusy s = false → c < k → k ≤ 16 →
         let ways := (List.range (k - c)).map fun i => 16 - k + i
         ((∃ w ∈ ways, s.cache.gated.getLsbD w = true) → exec (.wayLock v) s = .next rejected)
         ∧ ((∀ w ∈ ways, s.cache.gated.getLsbD w = false) → exec (.wayLock v) s = .next { s with
             cache := { s.cache with
               kways := BitVec.ofNat 5 k
               walk := some { lock := true, ways := ways, set := 0, all := ways, target := k } }
             out := responded s 0 0 }))
     ∧ (waysBusy s = false → k < c → k ≤ 16 →
         let ways := (List.range (c - k)).map fun i => 16 - c + i
         (kennelInUse s (k * 2 ^ 20) (c * 2 ^ 20) = true → exec (.wayUnlock v) s = .next rejected)
         ∧ (kennelInUse s (k * 2 ^ 20) (c * 2 ^ 20) = false → exec (.wayUnlock v) s = .next { s with
             cache := { s.cache with
               kways := BitVec.ofNat 5 k, locked := k, unlocking := some (s.env.sc + 4096, maskOf 16 ways) }
             out := responded s 0 0 })))
  ∧ (∀ (s : State) (v : Word32), sbActs s →
       let g : BitVec 16 := v.extractLsb' 0 16
       let rejected : State := { s with cache := { s.cache with cmdRej := true }, out := responded s 0 0 }
       let new := (List.range 16).filter fun w => g.getLsbD w && !s.cache.gate.getLsbD w
       (waysBusy s = true ∨ (∃ w, w < 16 ∧ g.getLsbD w = true ∧ 16 ≤ w + s.cache.locked) →
         exec (.wayGate v) s = .next rejected ∧ exec (.wayPower v) s = .next rejected)
       ∧ (waysBusy s = false → (∀ w, w < 16 → g.getLsbD w = true → w + s.cache.locked < 16) →
         (s.cache.gate &&& ~~~g &&& s.cache.gated = 0 → new ≠ [] → exec (.wayGate v) s = .next { s with
           cache := { s.cache with
             gate := g, walk := some { lock := false, ways := new, set := 0, all := new, target := 0 } }
           out := responded s 0 0 })
         ∧ (s.cache.gate &&& ~~~g &&& s.cache.gated ≠ 0 → new = [] → exec (.wayPower v) s = .next { s with
           cache := { s.cache with
             gate := g, powering := s.cache.gate &&& ~~~g &&& s.cache.gated, powerAt := s.env.sc + 4096 }
           out := responded s 0 0 })))

/-- SL_CACHE_CFG (R83, R95, Table 3.3): its fields are taken; the streaming counts stay 0 while SD_EN is 0; clearing FB_EN
discards every fetch buffer entry, one that awaits data when it arrives. A runtime spare entry (R69) is installed unless its bank
has been written, the entry was installed by hardware, or another valid entry of the bank names the row that a valid entry is to
take (entry 23): then the write is ignored and sets SPARE_REJ. The staging region (R162, Table 6.6) is enabled where its size is
512 KiB to 16 MiB and it lies in kennel space outside every channel; while it is enabled its place may not change, and it is not
disabled while a pack is armed: such a write sets CH_REJ. -/
def Obligations.ArrayConfigurationWritesAnswer : Prop :=
  (∀ (s : State) (v : Word32), sbActs s → ∃ t, exec (.cacheCfgWrite v) s = .next t
     ∧ t = { s with
         cache := { s.cache with
           cleanClass := v.extractLsb' 4 4, fbEn := v.getLsbD 1, sdEn := v.getLsbD 0
           streamCnt := if v.getLsbD 0 then s.cache.streamCnt else []
           fb := t.cache.fb }
         out := responded s 0 0 }
     ∧ (v.getLsbD 1 = true → t.cache.fb = s.cache.fb)
     ∧ (v.getLsbD 1 = false → ∀ k, tfind t.cache.fb k = match tfind s.cache.fb k with
         | none => none
         | some f => if f.asked = f.got then none else some { f with doomed := true }))
  ∧ (∀ (s : State) (v : Word32), sbActs s →
       (let b := s.arr.spareBank.toNat
        let e := s.arr.spareEntry.toNat
        let row : BitVec 9 := v.extractLsb' 0 9
        let taken := v.getLsbD 31 = true ∧ ∃ j, j < 8 ∧ j ≠ e ∧ (spareOf s b j).valid = true ∧ (spareOf s b j).row = row
        (s.arr.written.getLsbD b = true ∨ (spareOf s b e).hw = true ∨ taken → exec (.spareRtWrite v) s =
           .next { s with arr := { s.arr with spareRej := true }, out := responded s 0 0 })
        ∧ (s.arr.written.getLsbD b = false → (spareOf s b e).hw = false → ¬ taken → ∃ t, exec (.spareRtWrite v) s = .next t
           ∧ spareOf t b e = { valid := v.getLsbD 31, hw := false, row := row }
           ∧ (∀ k, k ≠ b * 8 + e → tget default t.arr.spares k = tget default s.arr.spares k)
           ∧ t = { s with arr := { s.arr with spares := t.arr.spares }, out := responded s 0 0 }))
       ∧ (let en := v.getLsbD 31
         let size : BitVec 9 := v.extractLsb' 8 9
         let base : BitVec 8 := v.extractLsb' 0 8
         let lo := base.toNat * 65536
         let hi := (base.toNat + size.toNat) * 65536
         let rejected : State := { s with ken := { s.ken with chRej := true }, out := responded s 0 0 }
         (s.ken.stageEn = true →
           (size ≠ s.ken.stageSize ∨ base ≠ s.ken.stageBase ∨ (en = false ∧ s.red.packs ≠ []) →
             exec (.stageCfgWrite v) s = .next rejected)
           ∧ (size = s.ken.stageSize → base = s.ken.stageBase → en = true ∨ s.red.packs = [] →
             exec (.stageCfgWrite v) s = .next { s with ken := { s.ken with stageEn := en }, out := responded s 0 0 }))
         ∧ (s.ken.stageEn = false →
           (en = true → size.toNat < 8 ∨ 256 < size.toNat ∨ s.cache.locked * 2 ^ 20 < hi ∨ inSlots s lo hi = true →
             exec (.stageCfgWrite v) s = .next rejected)
           ∧ (en = false ∨ (8 ≤ size.toNat ∧ size.toNat ≤ 256 ∧ hi ≤ s.cache.locked * 2 ^ 20 ∧ inSlots s lo hi = false) →
             exec (.stageCfgWrite v) s = .next { s with
               ken := { s.ken with stageEn := en, stageSize := size, stageBase := base }, out := responded s 0 0 }))))

/-- SL_CH_CFG0 of the selected channel (R165, R166) and SL_TGT_CFG0 of the selected target entry (R176). A write that sets EN
enables the channel, its slots EMPTY and its indices 0, where every condition of R165 holds; else CH_REJ is set and EN stays 0. A
write that clears EN disables it, its waiting requests answered with BOUNDS, unless a slot is TAKEN or a push is in progress. A
target entry that becomes valid gets NBUF credits and NEXT 0; the write is rejected where a field is out of range or the litter
of an enabled channel covers the entry. No other channel or entry changes. -/
def Obligations.ChannelAndTargetWritesAnswer : Prop :=
  ∀ (s : State) (v : Word32), sbActs s →
    (let ch := s.ken.chSel.toNat
     let c := chanOf s ch
     let new : Channel := { c with litCnt := v.extractLsb' 23 7, litFirst := v.extractLsb' 13 10, wdog := v.extractLsb' 5 8
                                   lb := v.extractLsb' 1 4 }
     (c.muz = true → exec (.channelEnable v) s =
        .next { s with ken := { s.ken with chRej := true }, out := responded s 0 0 })
     ∧ (c.muz = false → c.en = false → v.getLsbD 31 = true → mayEnable s ch new = true →
        ∃ t, exec (.channelEnable v) s = .next t
          ∧ chanOf t ch = { new with en := true, pi := 0, ci := 0, push := .idle }
          ∧ (∀ k, k < 65536 → slotAt t ch k = default)
          ∧ (∀ j, j ≠ ch → chanOf t j = chanOf s j)
          ∧ t = { s with ken := { s.ken with ch := t.ken.ch, slots := t.ken.slots }, out := responded s 0 0 })
     ∧ (c.muz = false → c.en = false → v.getLsbD 31 = true → mayEnable s ch new = false →
        ∃ t, exec (.channelEnable v) s = .next t ∧ (chanOf t ch).en = false ∧ t.ken.chRej = true)
     ∧ (c.muz = false → c.en = true → v.getLsbD 31 = false → channelBusy s ch = true →
        ∃ t, exec (.channelDisable v) s = .next t ∧ chanOf t ch = c ∧ t.ken.chRej = true)
     ∧ (c.muz = false → c.en = true → v.getLsbD 31 = false → channelBusy s ch = false → new = c →
        ∃ t, exec (.channelDisable v) s = .next t ∧ chanOf t ch = { c with en := false }
          ∧ (∀ k, k < 65536 → slotAt t ch k = default)
          ∧ (∀ j, j ≠ ch → chanOf t j = chanOf s j)
          ∧ t.ken.waits = s.ken.waits.filter (fun w => w.ch != ch)
          ∧ ((∀ w ∈ s.ken.waits, w.ch ≠ ch) → (∀ p ∈ s.ken.slots, p.1 / 65536 = ch → p.2.commit = none) →
            t = { s with ken := { s.ken with ch := t.ken.ch, slots := t.ken.slots }, out := responded s 0 0 })))
    ∧ (let i := s.ken.tgtSel.toNat
      let old := targetAt s i
      let new : Target := { old with valid := v.getLsbD 31, bufsz := v.extractLsb' 13 12, die := v.extractLsb' 8 5
                                     agent := v.extractLsb' 0 8 }
      (covered s i = true ∨ (new.valid = true ∧ new.inRange = false) → exec (.targetValid v) s =
        .next { s with ken := { s.ken with chRej := true }, out := responded s 0 0 })
      ∧ (covered s i = false → new.valid = true → new.inRange = true →
        ∃ t, exec (.targetValid v) s = .next t
          ∧ targetAt t i = (if old.valid = true then new else { new with credits := new.nbuf.toNat, next := 0 })
          ∧ (∀ j, j ≠ i → targetAt t j = targetAt s j)
          ∧ t = { s with ken := { s.ken with tgt := t.ken.tgt }, out := responded s 0 0 }))

/-- SL_SEQ_CTL (R243, R265, R389, R462). EN written to 1 with context 0 IDLE starts the master: READY at M0PC in MCLASS, every
register and tile 0, no call record, its first instruction no earlier than 2 sc later; if EN was 0 the program scent is computed
in the 4,096 sc that follow. While the sequencer is muzzled a 1 written to EN is ignored and sets CMD_REJ. EN written to 0 is
accepted only while every context is IDLE or FAULT, and clears PS_VALID. MCLASS and M0PC take every write (R7, R445). -/
def Obligations.SequencerControlWritesAnswer : Prop :=
  ∀ (s : State) (v : Word32), sbActs s →
    let ignored : State := { s with
      seq := { s.seq with quiet := false, cmdRej := true, mclass := v.extractLsb' 16 4, m0pc := v.extractLsb' 0 14 }
      out := responded s 0 0 }
    (v.getLsbD 31 = true → s.seq.muz = true → exec (.seqEnable v) s = .next ignored)
    ∧ (v.getLsbD 31 = true → s.seq.muz = false → (getCtx s 0).state = .idle → ∃ t, exec (.seqEnable v) s = .next t
        ∧ t.seq.en = true ∧ t.seq.mclass = v.extractLsb' 16 4 ∧ t.seq.m0pc = v.extractLsb' 0 14
        ∧ getCtx t 0 = { Ctx.idle with pc := v.extractLsb' 0 14, cls := v.toNat / 2 ^ 16 % 16, state := .ready
                                       after := s.env.sc + 2 }
        ∧ (∀ c, c ≠ 0 → getCtx t c = getCtx s c)
        ∧ (s.seq.en = false → t.det = { s.det with psBusy := s.env.sc + 4097 })
        ∧ (s.seq.en = true → t.det = s.det)
        ∧ t = { s with det := t.det, out := responded s 0 0
                       seq := { s.seq with en := true, mclass := t.seq.mclass, m0pc := t.seq.m0pc, ctx := t.seq.ctx
                                           quiet := false } })
    ∧ (v.getLsbD 31 = false → (∃ c, c < 16 ∧ (getCtx s c).live = true) → exec (.seqDisable v) s = .next ignored)
    ∧ (v.getLsbD 31 = false → (∀ c, c < 16 → (getCtx s c).live = false) → exec (.seqDisable v) s = .next { s with
        det := { s.det with psValid := false }
        seq := { s.seq with en := false, mclass := v.extractLsb' 16 4, m0pc := v.extractLsb' 0 14, quiet := false }
        out := responded s 0 0 })

/-- The commands of SL_CTX_CMD on the selected context (R267, R258, R245, Table 9.7). HALT stops a READY context at once, a
waiting one with its instruction to be issued again, unless that is a channel instruction that has completed (R259), a STALL one
when its request has come back; RESUME and STEP take a halted
one; SUSPEND records; STOP makes a live context other than 0 IDLE. A command that is not permitted is ignored and sets CMD_REJ. -/
def Obligations.ContextCommandsAnswer : Prop :=
  ∀ s : State, sbActs s →
    let c := s.seq.ctxSel.toNat
    let x := getCtx s c
    let rejected : State := { s with seq := { s.seq with quiet := false, cmdRej := true }, out := responded s 0 0 }
    let only (i : Instr) (y : Ctx) : Prop := ∃ t, exec i s = .next t ∧ getCtx t c = y
      ∧ (∀ j, j ≠ c → getCtx t j = getCtx s j)
      ∧ t = { s with seq := { s.seq with ctx := t.seq.ctx, quiet := false }, out := responded s 0 0 }
    (x.state = .ready → only .halt { x with state := .halt, stepping := false, haltPend := false })
    ∧ (x.state = .stall → only .halt { x with haltPend := true, stepping := false })
    ∧ (x.state = .wait → (∀ id, x.wait ≠ .channel id) →
        only .halt { x with state := .halt, stepping := false, haltPend := false, wait := .nothing, pc := x.pc - 1 })
    ∧ (∀ id, x.state = .wait → x.wait = .channel id →
        let ended := ∃ r ∈ s.seq.done, r.ctx = c ∧ r.id = id
        (ended → only .halt { x with state := .halt, stepping := false, haltPend := false, wait := .nothing })
        ∧ (¬ ended → ∃ t, exec .halt s = .next t ∧ (getCtx t c).state = .halt ∧ (getCtx t c).stepping = false
          ∧ (getCtx t c).haltPend = false ∧ (getCtx t c).pc = x.pc - 1 ∧ (∀ j, j ≠ c → getCtx t j = getCtx s j)
          ∧ (∀ w ∈ t.ken.waits, ∀ j, w.party ≠ .ctx c j)
          ∧ ∀ p ∈ t.ken.slots, ∀ j k, p.2.commit ≠ some (.ctx c j, k)))
    ∧ (x.state ≠ .ready → x.state ≠ .stall → x.state ≠ .wait → exec .halt s = .next rejected)
    ∧ (x.state = .halt → only .resume { x with state := .ready, stepping := false, haltPend := false }
        ∧ only .step { x with state := .ready, stepping := true, haltPend := false })
    ∧ (x.state ≠ .halt → exec .resume s = .next rejected ∧ exec .step s = .next rejected)
    ∧ (let may := s.seq.muz = false ∧ c ≠ 0 ∧ x.live = true ∧ x.state ≠ .susp ∧ x.state ≠ .xfer ∧ saveRegionOk s = true
      (may → only .suspend { x with suspPend := true }) ∧ (¬ may → exec .suspend s = .next rejected))
    ∧ (c ≠ 0 → x.live = true → ∃ t, exec .stop s = .next t ∧ (getCtx t c).state = .idle ∧ (getCtx t c).pend = []
        ∧ (getCtx t c).call = none ∧ (∀ j, j ≠ c → j ≠ 0 → getCtx t j = getCtx s j)
        ∧ ∀ w ∈ t.ken.waits, ∀ id, w.party ≠ .ctx c id)
    ∧ (c = 0 ∨ x.live = false → exec .stop s = .next rejected)

/-- DUMP (R267, R403): of a halted, suspended or faulted context, or of any while the sequencer is muzzled or the slice FATAL, the
image with DUMP = 1 is written at once (entry 18) and no context changes; it acts in FATAL. RESTORE (R261): of an idle or
suspended context other than 0, an accepted image is taken up in XFER, its reads ending 51 sc later (entry 20); else CMD_REJ. -/
def Obligations.ImageCommandsAnswer : Prop :=
  ∀ s : State, sbReads s →
    let c := s.seq.ctxSel.toNat
    let x := getCtx s c
    let rejected : State := { s with seq := { s.seq with quiet := false, cmdRej := true }, out := responded s 0 0 }
    (let may := saveRegionOk s = true ∧ (s.seq.muz = true ∨ s.saf.fatal = true ∨ x.state = .halt ∨ x.state = .susp ∨ x.state = .fault)
     (may → idleArray s → ∃ t, exec .dump s = .next t ∧ t.seq = { s.seq with quiet := false }
       ∧ t.out = responded s 0 0
       ∧ (∀ i w, (saveImage s c true)[i]? = some w →
           cellsOf t (kennelLoc (imageOffset s c + 32 * i)) = some (wordCells s (kennelLoc (imageOffset s c + 32 * i)) (plain w)))
       ∧ (∀ loc, loc < 2 ^ 19 → (∀ i, i < 70 → loc ≠ kennelLoc (imageOffset s c + 32 * i)) → cellsOf t loc = cellsOf s loc))
     ∧ (¬ may → s.saf.fatal = false → exec .dump s = .next rejected))
    ∧ (s.saf.fatal = false →
      let may := s.seq.muz = false ∧ c ≠ 0 ∧ (x.state = .idle ∨ x.state = .susp) ∧ saveRegionOk s = true
      let q : State := { s with seq := { s.seq with quiet := false } }
      let r := engineRead 1 x.cls (imageOffset s c) 2240 q
      (may → imageOk c r.1 = true → ∃ t, exec .restore s = .next t ∧ getCtx t c = { getCtx r.2 c with
          state := .xfer, image := some { words := r.1.map fun w => w.data, readAt := s.env.sc + 51, ready := false
                                          asker := none, susp := decide (x.state = .susp) } })
      ∧ (may → imageOk c r.1 = false → ∃ t, exec .restore s = .next t ∧ getCtx t c = getCtx r.2 c ∧ t.seq.cmdRej = true)
      ∧ (¬ may → exec .restore s = .next rejected))

/-- Writes of event flags (R255, R257, R446). A W1C write clears the flags named, but for those set in the same sc. Flags that are
set make a compare due, which takes place once the arrivals of the sc have registered: contexts in ascending number, each that
waits and finds its condition fulfilled is released with OK, and one that uses its flags up clears them before the next is
examined. -/
def Obligations.EventFlagWritesAnswer : Prop :=
  (∀ (s : State) (high : Bool) (v : Word32), sbActs s →
    let mask : Word64 := if high then v.zeroExtend 64 <<< 32 else v.zeroExtend 64
    exec (.evtClear high v) s = .next { s with
        seq := { s.seq with quiet := false, events := s.seq.events &&& ~~~(mask &&& ~~~s.seq.evArr) }, out := responded s 0 0 }
    ∧ (mask = 0 → exec (.evtSet high v) s = .next { s with seq := { s.seq with quiet := false }, out := responded s 0 0 })
    ∧ (mask ≠ 0 → exec (.evtSet high v) s = .next { s with
        seq := { s.seq with quiet := false, events := s.seq.events ||| mask, evArr := s.seq.evArr ||| mask }
        env := { s.env with done := { s.env.done with compare := true } }, out := responded s 0 0 }))
  ∧ (∀ s : State, s.pending = [] → s.env.wsUndefined = false → heldNext s = none → s.env.done.compare = true →
    let e := s.seq.events
    ∃ t, step s = .next t ∧ t.seq.events = flagsSeen s e 16
      ∧ (∀ c, c < 16 → fulfilled s (flagsSeen s e c) c = true → ∃ id, getCtx t c = released id (getCtx s c))
      ∧ (∀ c, c < 16 → fulfilled s (flagsSeen s e c) c = false → getCtx t c = getCtx s c)
      ∧ t = { s with seq := { s.seq with events := t.seq.events, ctx := t.seq.ctx, nextId := t.seq.nextId }
                     env := { s.env with done := { s.env.done with compare := false } } })

/-- SL_MV_GO with GO = 1 (R316, Table 11.2): the status of the first case that applies goes to SL_MV_RES, and only OK starts a
move, in the lowest engine that is free and not muzzled. -/
def Obligations.MoveGoAnswers : Prop :=
  ∀ (s : State) (v : Word32), sbActs s →
    let g := moveOf s.mov.desc 0 true (v.toNat % 16) none
    let answered (st : Status) (e : BitVec 3) : Mov := { s.mov with resValid := true, resStatus := st, resEngine := e }
    (v.getLsbD 31 = false → exec (.mvGo v) s = .next { s with out := responded s 0 0 })
    ∧ (v.getLsbD 31 = true →
      ((∀ e, e < 8 → (engineOf s e).muz = true) →
        exec (.mvGo v) s = .next { s with mov := answered .muzzled 0, out := responded s 0 0 })
      ∧ ((∃ e, e < 8 ∧ (engineOf s e).muz = false) →
        (moveAllowed s g = false → exec (.mvGo v) s = .next { s with mov := answered .bounds 0, out := responded s 0 0 })
        ∧ (moveAllowed s g = true → g.len = 0 → ∃ t, exec (.mvGo v) s = .next t ∧ t.mov.resValid = true
            ∧ t.mov.resStatus = .emptyMove ∧ t.mov.resEngine = 0)
        ∧ (moveAllowed s g = true → g.len ≠ 0 → (∀ e, e < 8 → (engineOf s e).busy = true ∨ (engineOf s e).muz = true) →
            exec (.mvGo v) s = .next { s with mov := answered .nackRetry 0, out := responded s 0 0 })
        ∧ (∀ e, moveAllowed s g = true → g.len ≠ 0 → e < 8 → (engineOf s e).busy = false → (engineOf s e).muz = false →
            (∀ f, f < e → (engineOf s f).busy = true ∨ (engineOf s f).muz = true) →
            ∃ t, exec (.mvGo v) s = .next t
              ∧ engineOf t e = { g with busy := true, serial := s.mov.serial + 1, next := s.env.sc + 1, takenAt := s.env.sc }
              ∧ (∀ f, f ≠ e → engineOf t f = engineOf s f)
              ∧ t = { s with
                  mov := { answered .ok (BitVec.ofNat 3 e) with eng := t.mov.eng, serial := s.mov.serial + 1 }
                  out := responded s 0 0 })))

/-- Reads that capture a shadow (R446, R448, R16, R393, R454, R455). A read is sampled when the sc of its registering ends, after
everything else in it: then its response takes the low word of its value, and the rest is held in the shadow. A read of the program
store while PS_BUSY is 1 returns 0, captures 0 and sets CMD_REJ. -/
def Obligations.ShadowReadsAnswer : Prop :=
  (∀ s : State, sbReads s →
    let asks (c : Instr) (k : SbRead) : Prop := exec c s = .next { s with out := { s.out with
      sb := s.out.sb ++ [{ leaves := s.env.sc + 3, resp := 0, data := 0, read := some k }] } }
    asks .counterLoRead .counterLo ∧ asks .seedLoRead .seedLo ∧ asks .stepLoRead .stepLo ∧ asks .scent0Read .scent0
    ∧ asks .pscent0Read .pscent0 ∧ asks .tagData0Read .tagData0 ∧ ∀ i : BitVec 14, asks (.pstoreLoRead i) (.pstoreLo i))
  ∧ (∀ (s : State) (k : SbRead) (r : SbResp), s.out.sb = [{ r with read := some k }] →
    let low (x : Nat) : Word32 := BitVec.ofNat 32 x
    let captured (h : Shadows) (data : Word32) : Prop := sampleReads s = { s with
      det := { s.det with shadows := h }, out := { s.out with sb := [{ r with data := data, read := none }] } }
    let counter : Nat := if s.tick.cntValid then s.tick.counter.toNat else 0
    let x := getStream s s.det.strSel.toNat
    let scent : Nat := if x.spoiled then 0 else (digest x.acc x.leaves).toNat
    let pscent : Nat := if s.det.psValid then s.det.psDigest.toNat else 0
    (k = .counterLo → captured { s.det.shadows with counter := low (counter / 2 ^ 32) } (low counter))
    ∧ (k = .seedLo → captured { s.det.shadows with seed := low (x.seed.toNat / 2 ^ 32) } (low x.seed.toNat))
    ∧ (k = .stepLo → captured { s.det.shadows with step := BitVec.ofNat 16 (x.step.toNat / 2 ^ 32) } (low x.step.toNat))
    ∧ (k = .scent0 → captured { s.det.shadows with scent := BitVec.ofNat 96 (scent / 2 ^ 32) } (low scent))
    ∧ (k = .pscent0 → captured { s.det.shadows with pscent := BitVec.ofNat 96 (pscent / 2 ^ 32) } (low pscent))
    ∧ (k = .tagData0 → captured { s.det.shadows with tag := BitVec.ofNat 52 ((tagSample s).toNat / 2 ^ 32) }
        (low (tagSample s).toNat))
    ∧ (∀ i : BitVec 14, k = .pstoreLo i →
      (psBusyNow s = true → sampleReads s = { s with
        seq := { s.seq with cmdRej := true }, det := { s.det with shadows := { s.det.shadows with pstore := 0 } }
        out := { s.out with sb := [{ r with data := 0, read := none }] } })
      ∧ (∀ w, psBusyNow s = false → tfind s.seq.pstore i.toNat = some { word := w, flips := 0 } →
        captured { s.det.shadows with pstore := low (w.toNat / 2 ^ 32) } (low w.toNat))))
  ∧ (∀ s : State, Quiet s → s.env.pkAck = false → s.env.ackNext = false → (∀ r ∈ s.out.sb, s.env.sc < r.leaves) →
      (tick s).det.shadows = (sampleReads s).det.shadows ∧ (tick s).out.sb = (sampleReads s).out.sb)

/-- SB_WRITE, HOLD and RELEASE (R430, R431, R185). A write where no register is answers NOREG; in FATAL a write answers OK and
changes nothing (R403), but for DUMP. A selector takes the written bits; a W1C flag is cleared by a one. HOLD takes the lowest
free entry, once for a holder, and fails when none is free, when a reserved bit is set, or in FATAL; RELEASE frees it. -/
def Obligations.RegisterAndHoldWritesAnswer : Prop :=
  ∀ (s : State) (v : Word32), sbReads s →
    (∀ addr : BitVec 18, readReg s addr.toNat = none → exec (.sbWrite addr v) s = .next { s with out := responded s 2 0 })
    ∧ (∀ addr : BitVec 18, (readReg s addr.toNat).isSome = true → s.saf.fatal = true → isDump addr.toNat v = false →
        exec (.sbWrite addr v) s = .next { s with out := responded s 0 0 })
    ∧ (s.saf.fatal = false →
      exec (.sbWrite 0x800 v) s = .next { s with arr := { s.arr with wayInit := v.extractLsb' 0 16 }, out := responded s 0 0 }
      ∧ exec (.sbWrite 0x802 v) s = .next { s with
          arr := { s.arr with spareBank := v.extractLsb' 3 4, spareEntry := v.extractLsb' 0 3 }, out := responded s 0 0 }
      ∧ exec (.sbWrite 0x1002 v) s = .next { s with ken := { s.ken with chSel := v.extractLsb' 0 8 }, out := responded s 0 0 }
      ∧ exec (.sbWrite 0x1008 v) s = .next { s with ken := { s.ken with tgtSel := v.extractLsb' 0 10 }, out := responded s 0 0 }
      ∧ exec (.sbWrite 0x1804 v) s = .next { s with reg := { s.reg with clsSel := v.extractLsb' 0 4 }, out := responded s 0 0 }
      ∧ exec (.sbWrite 0x1808 v) s = .next { s with reg := { s.reg with rangeSel := v.extractLsb' 0 4 }, out := responded s 0 0 }
      ∧ exec (.sbWrite 0x2405 v) s = .next { s with
          seq := { s.seq with ctxSel := v.extractLsb' 0 4, quiet := false }, out := responded s 0 0 }
      ∧ exec (.sbWrite 0x2802 v) s = .next { s with det := { s.det with strSel := v.extractLsb' 0 4 }, out := responded s 0 0 }
      ∧ exec (.sbWrite 0x2C08 v) s = .next { s with saf := { s.saf with logSel := v.extractLsb' 0 4 }, out := responded s 0 0 }
      ∧ exec (.sbWrite 0x401 v) s = .next { s with
          tick := { s.tick with cfgRej := s.tick.cfgRej && !v.getLsbD 3, strobeLate := s.tick.strobeLate && !v.getLsbD 2 }
          out := responded s 0 0 })
    ∧ (let h : BitVec 14 := v.extractLsb' 0 14
      let ok := v.toNat < 2 ^ 14
      (¬ ok ∨ s.saf.fatal = true → exec (.hold v) s = .next { s with out := responded s 1 0 })
      ∧ (ok → s.saf.fatal = false → (∃ p ∈ s.ken.holds, p.2 = h) → exec (.hold v) s = .next { s with out := responded s 0 0 })
      ∧ (ok → s.saf.fatal = false → (∀ p ∈ s.ken.holds, p.2 ≠ h) →
        ((∀ n, n < 8 → (tfind s.ken.holds n).isSome = true) → exec (.hold v) s = .next { s with out := responded s 1 0 })
        ∧ (∀ n, n < 8 → tfind s.ken.holds n = none → (∀ m, m < n → (tfind s.ken.holds m).isSome = true) →
          exec (.hold v) s = .next { s with ken := { s.ken with holds := tput s.ken.holds n h }, out := responded s 0 0 }))
      ∧ (¬ ok ∨ (∀ p ∈ s.ken.holds, p.2 ≠ h) → exec (.release v) s = .next { s with out := responded s 1 0 })
      ∧ (ok → (∃ p ∈ s.ken.holds, p.2 = h) → ∃ t n, exec (.release v) s = .next t
        ∧ (n, h) ∈ s.ken.holds ∧ tfind t.ken.holds n = none ∧ (∀ m, m ≠ n → tfind t.ken.holds m = tfind s.ken.holds m)
        ∧ t = { s with ken := { s.ken with holds := t.ken.holds }, out := responded s 0 0 }))

/-- AGENT_DOWN and a write of SL_AGENT_DOWN (R144, R149): an agent at or above NCLUST is not declared and sets AD_REJ; one already
dead changes nothing; otherwise its bit of SL_DEAD is set for good, the cause and the agent are shown, and the reclamation walk
begins at set 0. Where no transaction awaits the agent, the other effects are: its slots become POISON, its waiting requests go
(R186), a waiting COMMIT with them, its reservations end, and one report is formed; a request of another agent that waits on one of
its slots completes, with POISON (R172). -/
def Obligations.AgentDownAnswers : Prop :=
  ∀ (s : State) (d : BitVec 8) (v : Word32), v.extractLsb' 0 8 = d →
    let die := s.env.idDie.toNat
    let me := agentHolder d.toNat die
    let down (c : Instr) (out : Out) (cause : BitVec 2) : Prop :=
      (s.coh.nclust.toNat ≤ d.toNat → exec c s = .next { s with
        coh := { s.coh with adRej := true }, out := out
        env := { s.env with done := { s.env.done with raised := setBit s.env.done.raised 2 true } } })
      ∧ (d.toNat < s.coh.nclust.toNat → s.coh.dead.getLsbD d.toNat = true → exec c s = .next { s with out := out })
      ∧ (d.toNat < s.coh.nclust.toNat → s.coh.nclust.toNat ≤ 160 → s.coh.dead.getLsbD d.toNat = false →
        (∃ t, exec c s = .next t
          ∧ (∀ a, a < 160 → t.coh.dead.getLsbD a = (s.coh.dead.getLsbD a || decide (a = d.toNat)))
          ∧ t.coh.lastCause = cause ∧ t.coh.lastDead = d ∧ t.coh.reclaim = some 0)
        ∧ ((∀ x ∈ s.coh.trk, x.2.owner ≠ some d.toNat ∧ d.toNat ∉ x.2.await) → s.coh.trk.Pairwise (fun a b => a.1 < b.1) →
          (∀ w ∈ s.ken.waits, ∃ h, w.party = .agent h ∧ h.agent = d.toNat ∧ h.die = die) → ∃ t, exec c s = .next t
          ∧ t.coh = { s.coh with dead := t.coh.dead, declared := t.coh.declared, lastCause := cause, lastDead := d
                                 reclaim := some 0, resv := t.coh.resv }
          ∧ (∀ a, a < 160 → t.coh.dead.getLsbD a = (s.coh.dead.getLsbD a || decide (a = d.toNat)))
          ∧ (∀ r, r ∈ t.coh.resv ↔ r ∈ s.coh.resv ∧ ¬ (r.agent = d.toNat ∧ r.die = die))
          ∧ t.ken.waits = []
          ∧ (∀ n k, tfind s.ken.slots n = some k →
            (k.holder = some me → tfind t.ken.slots n = some { k with state := .poison, holder := none, age := 0
                                                                      since := s.env.sc })
            ∧ (k.holder ≠ some me → ∃ q, tfind t.ken.slots n = some { k with commit := q }
              ∧ (∀ h cls, k.commit = some (.agent h, cls) → h.agent = d.toNat → h.die = die → q = some (.gone me, cls))
              ∧ ((∀ h cls, k.commit = some (.agent h, cls) → ¬ (h.agent = d.toNat ∧ h.die = die)) → q = k.commit)))
          ∧ t.saf.seq = nextSeq s.saf.seq ∧ t.saf.pend = true
          ∧ t = { s with coh := t.coh, ken := { s.ken with slots := t.ken.slots, waits := [] }, saf := t.saf
                         bg := { s.bg with tel := { s.bg.tel with deadDecl := min 255 (s.bg.tel.deadDecl + 1) } }
                         out := out })
        ∧ (∀ ch g, s.coh.trk = [] → ChannelsSound s → ch < 256 → s.ken.waits = [{ ch := ch, take := false, party := .agent g }] →
          ¬ (g.agent = d.toNat ∧ g.die = die) → (chanOf s ch).muz = false → (slotAt s ch (chanOf s ch).pi).holder = some me →
          ∃ t, exec c s = .next t ∧ t.ken.waits = []
            ∧ (slotAt t ch (chanOf s ch).pi).state = .resv
            ∧ (slotAt t ch (chanOf s ch).pi).holder = some (agentHolder g.agent g.die)
            ∧ (g.port ≠ .xp → ∃ m ∈ t.out.egress, m.op = 0xC ∧ m.txn = g.txn ∧ m.dstAgent = g.agent ∧ m.ready = s.env.sc + 9
                ∧ ∃ slot off, m.body = .chRsp .poison slot off)))
    (inUse s → down (.agentDown d) s.out 2) ∧ (sbActs s → down (.agentDownWrite v) (responded s 0 0) 3)

/-! ### The data array -/

/-- A written code word is stored in the cells of its own location and no other changes (R54, R66); what is stored is its Boleri
code word under the location's fold, or a poison mark (R46, R52), and the corrector delivers it as written, or as poisoned (R50,
Table 2.3). Different code words of kennel space have different locations (R159). -/
def Obligations.ArrayWordsReadBack : Prop :=
  (∀ (s : State) (loc : Nat) (w : CodeWord), loc < 2 ^ 19 → cellsOf (writeWord loc w s) loc = some (wordCells s loc w)
    ∧ ∀ other, other < 2 ^ 19 → other ≠ loc → cellsOf (writeWord loc w s) other = cellsOf s other)
  ∧ (∀ (s : State) (loc : Nat) (d : Code), correct (foldOf s loc) (wordCells s loc { data := d, poison := false })
      = { cls := .clean, data := d, pos := 0, pmask := 0 })
  ∧ (∀ (s : State) (loc : Nat) (d : Code), correct (foldOf s loc) (wordCells s loc { data := d, poison := true })
      = { cls := .pmark, data := 0, pos := 0, pmask := 0 })
  ∧ ∀ a b, a < 2 ^ 24 → b < 2 ^ 24 → a % 32 = 0 → b % 32 = 0 → kennelLoc a < 2 ^ 19 ∧ (kennelLoc a = kennelLoc b → a = b)

/-- The promises of R51 on the Boleri code, as the order of Table 2.3 makes them (R49, R50). Every pattern of inverted positions
that lies within four adjacent ones is corrected, with its position and its mask, but for two, {5, 8} and {33, 36}: each has a
syndrome that row 2 of Table 2.3 takes first, as a poison mark (entry 22). Two inverted positions four or more apart are never
taken for CLEAN nor corrected. A word read at another location of the slice than its own is UE or PMARK. -/
def Obligations.BoleriCorrectsErrors : Prop :=
  (∀ (f : BitVec 24) (d : Code) (i m : Nat), m % 2 = 1 → m < 16 → i + Nat.log2 m ≤ 279 →
    correct f (boleriEncode f d ^^^ (BitVec.ofNat 280 m <<< i))
      = if m = 9 ∧ (i = 5 ∨ i = 33) then { cls := .pmark, data := 0, pos := 0, pmask := 0 }
        else { cls := if m = 1 then .ceBit else .ceBurst, data := d, pos := i, pmask := m })
  ∧ (∀ (f : BitVec 24) (d : Code) (i j : Nat), i + 4 ≤ j → j < 280 →
    (correct f (boleriEncode f d ^^^ (BitVec.ofNat 280 1 <<< i) ^^^ (BitVec.ofNat 280 1 <<< j))).cls = .ue
    ∨ (correct f (boleriEncode f d ^^^ (BitVec.ofNat 280 1 <<< i) ^^^ (BitVec.ofNat 280 1 <<< j))).cls = .pmark)
  ∧ (∀ (slice a b : Nat) (d : Code), a < 2 ^ 19 → b < 2 ^ 19 → a ≠ b →
    (correct (boleriFold slice a) (boleriEncode (boleriFold slice b) d)).cls = .ue
    ∨ (correct (boleriFold slice a) (boleriEncode (boleriFold slice b) d)).cls = .pmark)

/-! ### The tick inputs, park, the links -/

/-- The tick inputs (R11, R12, R13, R35 to R38, R370). The first strobe after reset is taken up with one added; the first after
unpark reloads the counter, which runs on again, with a fault where the two values are more than 16 apart, and what the reload of a
parked counter passes over counts as passed (entry 49); every other strobe is a check. A lapse of 32,768 sc is flagged and reported,
once (entry 31). An always-on edge advances a parked counter by 17, and counts the calendar slots, the window boundary and the frame
boundary it passes. -/
def Obligations.TickCommandsAnswer : Prop :=
  ∀ s : State, inUse s →
    (∀ v : Word64,
      let u : State := { s with tick := { s.tick with strobeAge := 0 }
                                env := { s.env with scRun := s.env.scRun || s.env.reload, reload := false } }
      let n := s.tick.counter
      let fault (own : Word64) (u : State) : State :=
        report 1 4 0 (detailT own v) { u with tick := { u.tick with cntFault := true } }
      (s.tick.cntValid = false → s.tick.load = none → exec (.tkStrobe v) s =
        .next { u with tick := { u.tick with load := some v } })
      ∧ (∀ w, s.tick.cntValid = false → s.tick.load = some w → exec (.tkStrobe v) s =
        .next (if w = v then u else fault w u))
      ∧ (s.tick.cntValid = true → s.env.reload = false → exec (.tkStrobe v) s =
        .next (if n = v then u else fault n u))
      ∧ (s.tick.cntValid = true → s.env.reload = true →
        let w : State := { u with tick := { u.tick with counter := v } }
        let d := (v - n).toNat
        let passed : State := if s.env.pkAck = true ∧ d < 2 ^ 63 then passWhileParked n.toNat (n.toNat + d) w else w
        exec (.tkStrobe v) s = .next (if 16 < (n - v).toNat ∧ 16 < (v - n).toNat then fault n passed else passed)))
    ∧ (s.tick.cntValid = true → s.env.pkAck = false → s.tick.strobeAge = 32768 → exec .strobeLate s =
      .next (report 2 0 0 (detailT s.tick.counter 0)
        { s with tick := { s.tick with strobeLate := true, strobeAge := 32769 } }))
    ∧ (s.tick.cntValid = true → s.env.pkAck = true → s.env.scRun = false →
      let a := s.tick.counter.toNat
      let f := 2 ^ s.tick.frameLog2.toNat
      let w := 2 ^ s.reg.winLog2.toNat
      let tel := { s.bg.tel with skipped := min (2 ^ 32 - 1) (s.bg.tel.skipped + ((a + 17) / 32 - a / 32)) }
      ((a + 17) / f = a / f → (a + 17) / w = a / w → exec .aonTick s = .next { s with
        tick := { s.tick with counter := s.tick.counter + 17 }, bg := { s.bg with tel := tel } })
      ∧ (5 ≤ s.tick.frameLog2.toNat → s.tick.framePend = none → (a + 17) / f ≠ a / f → ∃ t, exec .aonTick s = .next t
        ∧ t.tick = { s.tick with counter := s.tick.counter + 17, parkFrames := min 65535 (s.tick.parkFrames + 1) }
        ∧ t.bg.tel.skipped = tel.skipped ∧ t.bg.tel.missIn = true
        ∧ t.coh = { s.coh with nackPrev := s.coh.nackNow, nackNow := 0 }
        ∧ t.bg.calDeferred = (s.bg.calDeferred || (s.bg.calFrames ≠ 0
            && (a + 17) / f % 2 ^ (64 - s.tick.frameLog2.toNat) % s.bg.calFrames.toNat = 0))
        ∧ t = { s with tick := t.tick, bg := t.bg, coh := t.coh, atom := t.atom, reg := t.reg })
      ∧ (5 ≤ s.reg.winLog2.toNat → s.reg.winPend = none → (a + 17) / w ≠ a / w → ∃ t, exec .aonTick s = .next t
        ∧ t.tick.counter = s.tick.counter + 17
        ∧ ∀ c, c < 16 → (getClass t c).bytes = 0 ∧ (getClass t c).xpWords = 0 ∧ (getClass t c).starts = []
          ∧ (getClass t c).leftLeash = false ∧ (getClass t c).asking = false))

/-- Park (R436 to R439). pk_req at 1 is remembered with its sc; when every drain condition of R437 holds, pk_ack is to rise with the
next sc, with which the boundaries of the park are counted from 0; pk_req at 0 ends draining or the park with the next sc, and
requests are accepted again 2 sc later. The hold bits register. A request for park is granted only when nothing is under way (R437):
no transaction, miss, eviction, wait or pack, no busy engine and no push, no live context, no walk, no answer awaited, no report due
while reports are sent, and nothing on the way in or out. -/
def Obligations.ParkCommandsAnswer : Prop :=
  (∀ s : State, inUse s →
     (s.env.pkReq = false → exec .parkRequest s =
       .next { s with env := { s.env with pkReq := true, drainAt := s.env.sc } })
     ∧ (s.env.pkReq = true → s.env.drainAt < s.env.sc → s.env.pkAck = false → s.env.ackNext = false → drained s = true →
       exec .drainComplete s = .next { s with env := { s.env with ackNext := true } })
     ∧ (s.env.pkReq = true → exec .parkRelease s = .next { s with
         env := { s.env with pkReq := false, ackNext := false, scRun := true, reopenAt := s.env.sc + 2 } })
     ∧ (∀ bits : BitVec 16, exec (.smHold bits) s = .next { s with env := { s.env with smHold := bits } }))
  ∧ (∀ s : State, Quiet s → s.out.sb = [] →
       (tick s).env.pkAck = s.env.ackNext ∧ (tick s).env.sbRdy = !(s.env.pkAck && s.env.ackNext)
       ∧ (s.env.ackNext = true → s.env.pkAck = false → s.tick.cntValid = false → s.tick.load = none →
           (tick s).env.scRun = false ∧ (tick s).env.reload = true ∧ (tick s).tick.parkFrames = 0
           ∧ (tick s).saf.hbFirst = true ∧ (tick s).bg.tel.parkIn = true))
  ∧ (∀ s t : State, exec .drainComplete s = .next t → t.env.ackNext = true → s.env.ackNext = false →
       s.env.pkReq = true ∧ s.env.drainAt < s.env.sc ∧ s.env.pkAck = false
       ∧ s.coh.trk = [] ∧ s.coh.active = [] ∧ s.cache.miss = [] ∧ s.cache.ev = [] ∧ s.cache.victims = [] ∧ s.cache.waiters = []
       ∧ s.ken.waits = [] ∧ s.coh.checks = []
       ∧ s.atom.pend = [] ∧ s.red.packs = [] ∧ s.cache.walk = none ∧ s.out.orig = []
       ∧ (∀ e, (engineOf s e).busy = false) ∧ (∀ c, (chanOf s c).push = .idle)
       ∧ (∀ c, (getCtx s c).state = .idle ∨ (getCtx s c).state = .susp ∨ (getCtx s c).state = .fault)
       ∧ (∀ n f, tfind s.cache.fb n = some f → f.asked = f.got)
       ∧ (s.saf.rptEn = true → s.saf.queue = [])
       ∧ s.out.egress = [] ∧ s.out.wire = [] ∧ s.out.sb = [] ∧ s.fg.xpq = [] ∧ s.fg.xpIn = [] ∧ s.fg.accs = [] ∧ s.fg.reads = []
       ∧ s.fg.held = [] ∧ ∀ p, tget 0 s.lnk.txFree p ≤ s.env.sc)

/-- The links (R417 to R419, R423, R424, R426, Tables 16.4, 16.5 and 16.7). A failed check or a replay request counts a replay, and
the sixteenth in a row of one port sets its STUCK bit; after a failed check nothing is presented for 3 sc; a replay holds the port for
the flits sent again, three at most. A credit pulse returns one credit of its channel. A message of an unassigned MEM opcode is
discarded and counted. Every header and every side field holds its fields where the tables place them. -/
def Obligations.LinkCommandsAnswer : Prop :=
  (∀ (s : State) (p : Port), inUse s →
    let k := portRank p
    let replays := min 255 (s.lnk.replays + 1)
    let stuck (n bit : Nat) (u : State) : State := if n = 16 then { u with
        lnk := { u.lnk with stuck := setBit u.lnk.stuck bit true }
        env := { u.env with done := { u.env.done with raised := setBit u.env.done.raised (8 + bit) true } } } else u
    (let n := tget 0 s.lnk.rxFail k + 1
     (tget 0 s.lnk.rxOpen k ≤ s.env.sc → exec (.linkCheckFail p) s = .next (stuck n k { s with lnk := { s.lnk with
       rxFail := tset 0 s.lnk.rxFail k (min 16 n), replays := replays, rxOpen := tput s.lnk.rxOpen k (s.env.sc + 3) } }))
     ∧ (s.env.sc < tget 0 s.lnk.rxOpen k → exec (.linkCheckFail p) s = .next s))
    ∧ (let n := tget 0 s.lnk.txFail k + 1
      let again := (s.lnk.last4.filter fun f => f.port == p).length
      exec (.linkReplayRequest p) s = .next (stuck n (3 + k) { s with lnk := { s.lnk with
        txFail := tset 0 s.lnk.txFail k (min 16 n), replays := replays
        txFree := tset 0 s.lnk.txFree k (max (tget 0 s.lnk.txFree k) (s.env.sc + 1) + min 3 again) } }))
    ∧ (∀ ch : Nat, ch < (if p = .xp then 5 else 4) → exec (.linkCredit p ch) s =
      .next { s with lnk := { s.lnk with txCrd := tmod 0 s.lnk.txCrd (8 * k + ch) (· + 1) } })
    ∧ (∀ (op : BitVec 4) (txn : BitVec 16), s.saf.fatal = false → hears s (.memUnassigned op txn) →
      ∃ t, exec (.memUnassigned op txn) s = .next t
      ∧ t.lnk = { s.lnk with xpUnex := min 255 (s.lnk.xpUnex + 1), rxFail := terase s.lnk.rxFail 2, rxOwed := t.lnk.rxOwed }
      ∧ tget 0 t.lnk.rxOwed 20 = tget 0 s.lnk.rxOwed 20 + 1
      ∧ (∀ j, j ≠ 20 → tget 0 t.lnk.rxOwed j = tget 0 s.lnk.rxOwed j)
      ∧ t.env.done.intake = true ∧ t = { s with lnk := t.lnk, env := { s.env with done := t.env.done } }))
  ∧ (∀ (s : State) (m : OutMsg) (i : Nat),
    let f := flitOf s m i
    let h (lo n : Nat) : Nat := f.payload.toNat / 2 ^ lo % 2 ^ n
    let d (lo n : Nat) : Nat := f.side.toNat / 2 ^ lo % 2 ^ n
    f.port = m.port ∧ d 2 3 = channelOf m.cls ∧ d 9 8 = m.dstAgent % 256 ∧ d 17 5 = m.dstDie % 32
    ∧ (i < m.heads → d 0 2 = 1 ∧ d 5 4 = 0 ∧ d 22 106 = 0
      ∧ h 0 3 = channelOf m.cls ∧ h 3 4 = m.op.toNat ∧ h 7 8 = s.env.idAgent.toNat ∧ h 15 5 = s.env.idDie.toNat
      ∧ h 20 8 = m.dstAgent % 256 ∧ h 28 5 = m.dstDie % 32 ∧ h 33 16 = m.txn.toNat ∧ h 49 40 = m.line.toNat
      ∧ h 89 4 = m.label % 16 ∧ h 93 3 = (m.data.length + 1) / 2 % 8)
    ∧ (m.heads ≤ i → d 0 2 = 3 ∧ d 5 4 = m.op.toNat ∧ d 22 8 = s.env.idAgent.toNat ∧ d 30 5 = s.env.idDie.toNat
      ∧ d 35 16 = m.txn.toNat ∧ d 51 4 = m.label % 16
      ∧ d 57 1 = (if m.port ≠ .xp ∧ (m.words i).length = 1 then 1 else 0)
      ∧ (∀ j, j < 2 → d (58 + j) 1 = if ((m.words i).getD j default).poison then 1 else 0)
      ∧ d 60 1 = (if m.isLast i then 1 else 0)
      ∧ ∀ j w, (m.words i)[j]? = some w → j < 2 → f.payload.extractLsb' (256 * j) 256 = w.data))

/-! ### Boundaries and the calendar -/

/-- REG_WINDOW_END (R340, R351): for every class the shortfall of XP code words and a leash left are counted, and the counts of
the window restart; a pending length is taken up where the counter is a multiple of it. -/
def Obligations.WindowEndAnswers : Prop :=
  ∀ s : State, inUse s → s.tick.cntValid = true → s.env.pkAck = false → s.env.done.window = false →
    s.tick.counter.toNat % 2 ^ s.reg.winLog2.toNat = 0 →
    ∃ t, exec .regWindowEnd s = .next t
      ∧ (∀ c, c < 16 →
        let k := getClass s c
        let short := if k.asking = true ∧ k.xpWords < resWords s c then resWords s c - k.xpWords else 0
        getClass t c = { k with
          shortNow := min 65535 (k.shortNow + short), overNow := min 65535 (k.overNow + if k.leftLeash then 1 else 0)
          bytes := 0, starts := [], xpWords := 0, leftLeash := false, asking := true })
      ∧ t = { s with
          env := { s.env with done := { s.env.done with window := true } }
          reg := { s.reg with
            cls := t.reg.cls
            winLog2 := match s.reg.winPend with
              | some n => if s.tick.counter.toNat % 2 ^ n.toNat = 0 then n else s.reg.winLog2
              | none => s.reg.winLog2
            winPend := match s.reg.winPend with
              | some n => if s.tick.counter.toNat % 2 ^ n.toNat = 0 then none else some n
              | none => none } }

/-- FRAME_BOUNDARY (R18, R20, R22, R353, R364, R371, R409), where no parity failure is found and no context is to be suspended
or restored: watchdogs advance, unless held; the counts of the frame are shown and restart; tracker entries of 1,024 frames go; a
telemetry record is queued; a pending frame length is taken up; the heartbeat goes out ahead of all else (entry 15). A watchdog
armed in the sc of the boundary does not advance at it (R22). In every other state too the boundary is taken, with the length. -/
def Obligations.FrameBoundaryAnswers : Prop :=
  ∀ s : State, inUse s → s.tick.cntValid = true → s.env.pkAck = false → s.env.done.frame = false → windowDue s = false →
    s.tick.counter.toNat % 2 ^ s.tick.frameLog2.toNat = 0 →
    let length : BitVec 5 := match s.tick.framePend with
      | some n => if s.tick.counter.toNat % 2 ^ n.toNat = 0 then n else s.tick.frameLog2
      | none => s.tick.frameLog2
    let waiting : Option (BitVec 5) := match s.tick.framePend with
      | some n => if s.tick.counter.toNat % 2 ^ n.toNat = 0 then none else some n
      | none => none
    (∃ t, exec .frameBoundary s = .next t ∧ t.env.done.frame = true ∧ t.tick.frameLog2 = length ∧ t.tick.framePend = waiting
      ∧ t.tick.counter = s.tick.counter)
    ∧ (s.saf.fatal = false → s.saf.cfgBad = [] → s.saf.monBad = false → ChannelsSound s →
    (∀ c, c < 16 → (getCtx s c).suspPend = false ∧ (getCtx s c).image = none) →
    ∃ t, exec .frameBoundary s = .next t
      ∧ (s.saf.hbEn = false ∨ ownKennel s (lineOf43 s.saf.hbAddr) = none → t.env.done = { s.env.done with frame := true })
      ∧ t.tick = { s.tick with frameLog2 := length, framePend := waiting }
      ∧ (∀ p, tfind t.red.packs p = (tfind s.red.packs p).map fun k =>
          { k with age := if s.env.smHold = 0 ∧ k.armedAt < s.env.sc then k.age + 1 else k.age })
      ∧ (∀ e, engineOf t e = { engineOf s e with
          age := if s.env.smHold = 0 ∧ (engineOf s e).busy = true ∧ (engineOf s e).takenAt < s.env.sc
            then (engineOf s e).age + 1 else (engineOf s e).age })
      ∧ (∀ n, tfind t.ken.slots n = (tfind s.ken.slots n).map fun k =>
          { k with age := if slotTimed s n k = true ∧ slotHeld s n k = false ∧ k.since < s.env.sc then k.age + 1 else k.age })
      ∧ (∀ c, c < 16 → getClass t c = { getClass s c with
          shortPrev := if s.reg.suspNow.getLsbD c then 0 else (getClass s c).shortNow, shortNow := 0
          overPrev := (getClass s c).overNow, overNow := 0 })
      ∧ t.reg = { s.reg with cls := t.reg.cls, suspPrev := s.reg.suspNow, suspNow := 0 }
      ∧ t.coh = { s.coh with nackPrev := s.coh.nackNow, nackNow := 0 }
      ∧ t.atom = { s.atom with donePrev := s.atom.doneNow, doneNow := 0, poisPrev := s.atom.poisNow, poisNow := 0 }
      ∧ t.bg.tracker = s.bg.tracker.filter (fun k => decide (frameNumber s < k.first + 1024))
      ∧ (s.bg.telEn = true → telRingOk s = true → ∃ w, t.bg.work = s.bg.work ++ w ∧ w.length = 4 ∧ t.bg.tel = Tel.zero)
      ∧ (s.bg.telEn = false ∨ telRingOk s = false → t.bg.work = s.bg.work ∧ t.bg.telMiss = true)
      ∧ (s.saf.hbEn = false → t.out = s.out ∧ t.saf = s.saf)
      ∧ (s.saf.hbEn = true → ownKennel s (lineOf43 s.saf.hbAddr) ≠ none → t.out = s.out ∧ t.saf.hbFail = true
          ∧ t.saf.hbFirst = false ∧ t.saf.hbFlight = none ∧ t.saf.pend = true)
      ∧ (s.saf.hbEn = true → ownKennel s (lineOf43 s.saf.hbAddr) = none → ∃ m w, t.out.egress = s.out.egress ++ [m]
          ∧ m.op = 5 ∧ m.cls = .req ∧ m.line = lineOf43 s.saf.hbAddr ∧ m.label = s.saf.sclass.toNat ∧ m.data = [plain w]
          ∧ m.body = .cwMask (BitVec.ofNat 8 (2 ^ (s.saf.hbAddr.toNat % 8))) ∧ fld w 0 64 = frameNumber t
          ∧ t.saf.hbFirst = false ∧ t.saf.hbFlight = some m.txn))

/-- Background events of a bank. SCRUB_STEP_DUE (R358): the scrub read of the pointed sector is queued and the pointer moves on,
or, with one still queued, the step is dropped. CALENDAR_SLOT (R28, R355, R356, Table 13.1): the bank is taken for 8 sc; of the
first row of orders 1 to 4 that has work, the oldest is done, and writes the code words it names; where nothing is queued the slot
is idle. CALIBRATION_DUE (R368): every bank without one gets a calibration. -/
def Obligations.CalendarCommandsAnswer : Prop :=
  ∀ (s : State) (b : Fin 16), inUse s → s.tick.cntValid = true → s.env.pkAck = false →
    (scrubStepDue s b = true →
      let done : Env := { s.env with done := { s.env.done with scrub := setBit s.env.done.scrub b true } }
      let p := tget 0 s.bg.scrubPtr b
      (scrubQueued s b = true → exec (.scrubStepDue b) s = .next { s with env := done })
      ∧ (scrubQueued s b = false → exec (.scrubStepDue b) s = .next { s with
          env := done
          bg := { s.bg with work := s.bg.work ++ [{ sec := b * 16384 + p, kind := .scrubRead }]
                            scrubPtr := tset 0 s.bg.scrubPtr b ((p + 1) % 16384) } }))
    ∧ (withheld s b = true → tget 0 s.fg.bankFree b ≤ s.env.sc →
      let period := (s.tick.counter.toNat + 512 - 32 * b) / 512
      let fg := { s.fg with bankFree := tset 0 s.fg.bankFree b (s.env.sc + 8) }
      let bg := { s.bg with slotPeriod := tset 0 s.bg.slotPeriod b (period + 1) }
      let row (n : Nat) : List BgWork := s.bg.work.filter fun w => secBank w.sec == b && w.kind.order == n
      (s.saf.fatal = true → exec (.calendarSlot b) s = .next { s with fg := fg, bg := bg })
      ∧ (s.saf.fatal = false → (∀ w ∈ s.bg.work, secBank w.sec ≠ b) → (∀ c ∈ s.bg.copies, c.bank ≠ b) →
          (∀ c ∈ s.bg.cals, c.bank ≠ b) → exec (.calendarSlot b) s =
            .next { s with fg := fg, bg := { bg with tel := { bg.tel with idle := min (2 ^ 32 - 1) (bg.tel.idle + 1) } } })
      ∧ (∀ n w rest mask lo hi, s.saf.fatal = false → 1 ≤ n → n ≤ 4 → row n = w :: rest →
          (∀ m, 1 ≤ m → m < n → row m = []) → bgWords w.kind = some (mask, lo, hi) → w.sec < 2 ^ 18 →
          (n = 1 → marksOf s w.sec = none) →
          ∃ t, exec (.calendarSlot b) s = .next t
            ∧ (mask.getLsbD 0 = true → cellsOf t (2 * w.sec) = some (wordCells s (2 * w.sec) lo))
            ∧ (mask.getLsbD 1 = true → cellsOf t (2 * w.sec + 1) = some (wordCells s (2 * w.sec + 1) hi))
            ∧ (∀ loc, loc < 2 ^ 19 → (∀ i, i < 2 → mask.getLsbD i = true → loc ≠ 2 * w.sec + i) →
                cellsOf t loc = cellsOf s loc)
            ∧ t.fg.bankFree = fg.bankFree))
    ∧ (s.tick.counter.toNat % 2 ^ s.tick.frameLog2.toNat = 0 → s.env.done.frame = true → s.env.done.calib = false →
      s.saf.fatal = false →
      s.bg.calDeferred = true ∨ (s.bg.calFrames ≠ 0 ∧ frameNumber s % s.bg.calFrames.toNat = 0) →
      ∃ t, exec .calibrationDue s = .next t
        ∧ (∀ k, k ∈ t.bg.cals ↔ k ∈ s.bg.cals ∨ (k.bank < 16 ∧ k.passes = [] ∧ ∀ c ∈ s.bg.cals, c.bank ≠ k.bank))
        ∧ t = { s with bg := { s.bg with cals := t.bg.cals, calDeferred := false }
                       env := { s.env with done := { s.env.done with calib := true } } })

/-! ### Array accesses and XP messages that start -/

/-- BANK_ACCESS_START and XP_EGRESS_START (R343, R344, R345, R42, R54, R93, R175). The access that starts is ready, waits for no other
on its sectors, and its banks are free and outside their calendar slots; none that goes before it in the order of R343 waits for one of
its banks. It takes its banks for 8 sc; a read reaches the corrector's end 10 sc later, a write stores its code words. A read of a
kennel may take others of its sectors with it. The message that starts at XP egress is one that can leave, and none that can leave
goes before it, but that of the eviction buffer only the write of the oldest entry not sent competes; it holds the port for its
flits. -/
def Obligations.StartsAnswer : Prop :=
  ∀ s : State, inUse s →
    (∀ a, nextAccess s = some a → ∃ t, exec .bankAccessStart s = .next t
      ∧ a ∈ s.fg.accs ∧ a.ready ≤ s.env.sc ∧ a.blocked s = false ∧ (∀ b ∈ a.banks, bankOpen s b = true)
      ∧ (∀ x ∈ s.fg.accs, x.ready ≤ s.env.sc → x.blocked s = false → x.before s a = true → ∀ b ∈ x.banks, b ∉ a.banks)
      ∧ (a.kennel = false ∨ a.isAtomRead = true → a.isWrite = false → a.ghost = false → (a.isAtomRead = true → atomOff s = false) →
          t.fg.accs = s.fg.accs.filter (fun x => x.id != a.id)
          ∧ (∀ b, tget 0 t.fg.bankFree b = if b ∈ a.banks then s.env.sc + 8 else tget 0 s.fg.bankFree b)
          ∧ (s.tick.cntValid = true → (getClass t a.cls).bytes = (getClass s a.cls).bytes + 64 * a.secs.length)
          ∧ ∃ seen, t.fg.reads = s.fg.reads ++ [{ due := s.env.sc + 10, acc := a, seen := seen }]
            ∧ seen.map (fun x => x.loc) = a.secs.flatMap (fun x => [2 * x, 2 * x + 1])
            ∧ t.arr = s.arr)
      ∧ (a.kennel = true → a.isWrite = false → a.isAtomRead = false → a.ghost = false → (s.fg.accs.map fun x => x.id).Nodup →
          a ∉ t.fg.accs ∧ (∀ x ∈ t.fg.accs, x ∈ s.fg.accs) ∧ t.arr = s.arr
          ∧ (∀ b ∈ a.banks, tget 0 t.fg.bankFree b = s.env.sc + 8)
          ∧ (∃ r ∈ t.fg.reads, r.acc = a ∧ r.due = s.env.sc + 10
              ∧ r.seen.map (fun x => x.loc) = a.secs.flatMap (fun x => [2 * x, 2 * x + 1]))
          ∧ ∀ x ∈ s.fg.accs, x ∉ t.fg.accs → x.kennel = true ∧ x.isWrite = false ∧ x.ready ≤ s.env.sc)
      ∧ (a.isWrite = true → a.purpose = .write → tableWf a.data = true → (∀ p ∈ a.data, p.1 < 2 ^ 19) →
          t.fg.accs = s.fg.accs.filter (fun x => x.id != a.id)
          ∧ (∀ b, tget 0 t.fg.bankFree b = if b ∈ a.banks then s.env.sc + 8 else tget 0 s.fg.bankFree b)
          ∧ ∀ loc, loc < 2 ^ 19 → cellsOf t loc = match tfind a.data loc with
            | some w => some (wordCells s loc w)
            | none => cellsOf s loc))
    ∧ (∀ m, xpNext s = some m → ∃ t, exec .xpEgressStart s = .next t
      ∧ m ∈ s.fg.xpq ∧ canLeave s m = true ∧ s.fg.xpFree ≤ s.env.sc
      ∧ (∀ b ∈ s.fg.xpq, canLeave s b = true → b.isXwr = false → xpBefore s m b = true ∨ xpBefore s b m = false)
      ∧ (m.isXwr = true → ∃ e ∈ s.cache.ev, e.sent = false ∧ m.txn.toNat = 64 + e.index)
      ∧ t.fg.xpq = s.fg.xpq.erase m ∧ t.fg.xpFree = s.env.sc + flits m ∧ t.out.wire = s.out.wire ++ [m]
      ∧ tget 0 t.lnk.txCrd (portRank m.port * 8 + channelOf m.cls)
          = tget 0 s.lnk.txCrd (portRank m.port * 8 + channelOf m.cls) - flits m
      ∧ (s.tick.cntValid = true →
          (getClass t (xpClass s m)).xpWords = (getClass s (xpClass s m)).xpWords + m.data.length))

/-! ### Requests -/

/-- A request that is refused (R403, R436, R107, R145, R113, R169, R420) is answered 9 sc after its header, with MUZZLED in FATAL,
else with PARKED while draining, else with BOUNDS for its source, its framing or its opcode, and has no other effect (R10). -/
def Obligations.RefusedRequestsAnswer : Prop :=
  ∀ (c : Instr) (s : State) (h : Hdr), inUse s → hears s c →
    (∀ full parks framed, reqForm c = some (h, full, parks, framed) →
      let refused (st : Status) : Prop := exec c s =
        .next (arrived c (emit (answerMsg h 8 (.status st) [] (s.env.sc + 9) .none) s))
      (s.saf.fatal = true → refused .muzzled)
      ∧ (s.saf.fatal = false → parks = true → draining s = true → refused .parked)
      ∧ (s.saf.fatal = false → (parks = true → draining s = false) →
          (badSource s h.agent h.die = true ∨ framed = false ∨ ∃ op, c = .reqUnassigned h op) → refused .bounds))
    ∧ (∀ parks, chForm c = some (h, parks) →
      let refused (st : Status) : Prop := exec c s =
        .next (arrived c (emit (answerMsg h 0xC (.chRsp st 0 0) [] (s.env.sc + 9) .none) (noisy s)))
      (s.saf.fatal = true → refused .muzzled)
      ∧ (s.saf.fatal = false → parks = true → draining s = true → refused .parked)
      ∧ (s.saf.fatal = false → (parks = true → draining s = false) →
          (badSource s h.agent h.die = true ∨ h.ndf ≠ 0 ∨ ∃ op, c = .chopReserved h op) → refused .bounds))

/-- Requests to this slice's kennel window (R158 to R162, R173, R174): every read is served as RdU, without a lookup, and must name
its critical sector (R78, R160); its access is ready 6 sc later; a write is answered with Cmp 9 sc after its header. A request
that the regions or the slots forbid changes nothing, and is answered 9 sc after its header with the status they give, but that
POISON or MUZZLED answers a read as its data would have left (R32). -/
def Obligations.KennelRequestsAnswer : Prop :=
  ∀ (c : Instr) (s : State) (h : Hdr) (off35 : Nat), Admitted s h → hears s c → ChannelsSound s → kennelLine s h.line = some off35 →
    let off := off35 % 2 ^ 24
    let cls := classOf s h.line h.label
    let sts (st : Status) : State := emit (answerMsg h 8 (.status st) [] (s.env.sc + 9) .none) s
    (∀ kind mask crit, readForm c = some (kind, h, mask, crit) → h.ndf = 0 →
      let r := { mkReq s kind h mask crit 0 [] default with kind := .rdu }
      let refused := kennelRefused s off35 (agentHolder h.agent h.die) false (sectorWords mask)
      let reads (p : Purpose) (u : State) : State := enqueue (readAccess (s.env.sc + 6) cls 0 true
        ((bitsOf mask).map fun i => kennelLoc (off + 64 * i) / 2) p) u
      (mask.getLsbD crit.toNat = false → exec c s = .next (arrived c (sts .bounds)))
      ∧ (mask.getLsbD crit.toNat = true →
        (∀ st, refused = some st → st = .poison ∨ st = .muzzled →
          exec c s = .next (arrived c (reads (.timed r .none 8 st []) s)))
        ∧ (∀ st, refused = some st → st ≠ .poison → st ≠ .muzzled → exec c s = .next (arrived c (sts st)))
        ∧ (refused = none → exec c s = .next (arrived c (reads (.kennel r) (countStore cls false s))))))
    ∧ (∀ cw data, writeForm c = some (h, cw, data) → cw ≠ 0 → h.ndf = ((bitsOf cw).length + 1) / 2 →
        data.length = (bitsOf cw).length →
      let refused := kennelRefused s off35 (agentHolder h.agent h.die) true cw
      (∀ st, refused = some st → exec c s = .next (arrived c (sts st)))
      ∧ (refused = none →
        exec c s = .next (arrived c (emit (answerMsg h 6 .none [] (s.env.sc + 9) .none)
          (enqueue (writeAccess (s.env.sc + 6) cls 0 true
            (((bitsOf cw).zip data).map fun p => (kennelLoc (off + 32 * p.1), p.2)) .write) (countStore cls (cw = 255) s))))))

/-- A read, an upgrade or a write that finds its line at rest in the cache, with no copy to recall (R78 to R81, R119, Table 4.7).
A read's access is ready 6 sc after its header; its grant and AGE 0 are set in the tag pipeline, and the transaction of a grant is
active until its answer has left;
an upgrade of the sole sharer is granted with GntX 9 sc after its header; a write stores its code words, sets SV and SD of their
sectors, and is answered with Cmp 9 sc after its header. A read whose critical sector it does not name, and an upgrade of an agent
that may cache nothing, get BOUNDS (R78, R108). -/
def Obligations.HomeServesHits : Prop :=
  ∀ (c : Instr) (s : State) (h : Hdr) (way : Nat) (full : Bool), Admitted s h → hears s c → AtRest s h.line →
    reqForm c = some (h, full, true, true) → findWay s h.line = some way →
    let set := lineSet h.line
    let e := tagAt s set way
    let cls := classOf s h.line h.label
    (∀ kind mask crit, readForm c = some (kind, h, mask, crit) → kind ≠ .upg → mask.getLsbD crit.toNat = true →
      mask &&& ~~~e.sv = 0 → namesPoison s set way mask = false →
      let r := mkReq s kind h mask crit 0 [] default
      needsSnoop s r e = false →
      let g := grantEntry (r.effective s) h.agent e.dir
      ∃ t, exec c s = .next t
        ∧ t.fg.accs = s.fg.accs ++ [{ id := s.fg.nextId, ready := s.env.sc + 6, cls := cls, source := 0,
                                      secs := maskSecs set way mask, data := [], isWrite := false, kennel := false,
                                      purpose := .home r (if r.grants s then .active s.coh.nextActive else .none) g.1 e.dir }]
        ∧ tagAt t set way = (({ e with age := 0 } : TagEntry).withDir g.2).sealed
        ∧ (∀ x w, x ≠ set ∨ w ≠ way → tagAt t x w = tagAt s x w)
        ∧ (r.grants s = true → t.coh = { s.coh with
            active := s.coh.active ++ [{ id := s.coh.nextActive, line := h.line, agent := h.agent, die := h.die, endsAt := none }]
            nextActive := s.coh.nextActive + 1 })
        ∧ (r.grants s = false → t.coh = s.coh)
        ∧ t.arr = s.arr ∧ t.out = s.out)
    ∧ (∀ mask crit, readForm c = some (.upg, h, mask, crit) → caching s h.agent h.die = true →
        namesPoison s set way (mask &&& e.sv) = false → e.dst = dirSP → e.sharers = [h.agent] →
        ∃ t, exec c s = .next t
          ∧ (tagAt t set way).dst = dirX ∧ (tagAt t set way).sharers = [h.agent] ∧ (tagAt t set way).sv = e.sv
          ∧ t.coh.active = s.coh.active ++
            [{ id := s.coh.nextActive, line := h.line, agent := h.agent, die := h.die, endsAt := none }]
          ∧ t.out = (emit (answerMsg h 4 .none [] (s.env.sc + 9) (.active s.coh.nextActive)) s).out
          ∧ t.fg = (emit (answerMsg h 4 .none [] (s.env.sc + 9) (.active s.coh.nextActive)) s).fg)
    ∧ (∀ cw data, writeForm c = some (h, cw, data) → cw ≠ 0 → e.dst = dirU → mergeNeeds e.sv cw = 0 →
        ∃ t, exec c s = .next t
          ∧ t.fg.accs = s.fg.accs ++ [{ id := s.fg.nextId, ready := s.env.sc + 6, cls := cls, source := 0,
                                        secs := (((bitsOf cw).zip data).map fun p => location set way (32 * p.1) / 2).dedup,
                                        data := ((bitsOf cw).zip data).map fun p => (location set way (32 * p.1), p.2),
                                        isWrite := true, kennel := false, purpose := .write }]
          ∧ (tagAt t set way).sv = e.sv ||| sectorsOf cw ∧ (tagAt t set way).sd = e.sd ||| sectorsOf cw
          ∧ (tagAt t set way).dst = dirU ∧ (tagAt t set way).tag = e.tag
          ∧ t.out = (emit (answerMsg h 6 .none [] (s.env.sc + 9) .none) s).out
          ∧ t.arr = s.arr ∧ t.coh = s.coh)
    ∧ (∀ kind mask crit, readForm c = some (kind, h, mask, crit) →
        (kind ≠ .upg ∧ mask.getLsbD crit.toNat = false) ∨ (kind = .upg ∧ caching s h.agent h.die = false) →
        exec c s = .next (arrived c (emit (answerMsg h 8 (.status .bounds) [] (s.env.sc + 9) .none) s)))

/-- A request on a line at rest that must recall copies, or fetch (R85, R118, R119, R126, R129, Table 4.7). With copies: a tracker
entry is taken, the line is T, and SnpFS, SnpFX, SnpD, SnpInv or SnpRec goes to the owner, SnpInv to every other sharer, or as one
broadcast, 9 sc after the header. With no tracker entry free, or with a transaction active on the line, the answer is NACK-RETRY,
with no other effect (R124) but that in the second case the line is reserved. A read of an absent line takes an invalid way and
reads its sectors through XP. -/
def Obligations.HomeRecallsAndFetches : Prop :=
  ∀ (c : Instr) (s : State) (h : Hdr) (way : Nat) (full : Bool), Admitted s h → hears s c → reqForm c = some (h, full, true, true) →
    let set := lineSet h.line
    let e := tagAt s set way
    let nack (u : State) : State := emit (answerMsg h 8 (.status .nackRetry) [] (s.env.sc + 9) .none)
      { u with coh := { u.coh with nackNow := min 1023 (u.coh.nackNow + 1) } }
    let recalled (r : Req) : Prop :=
      let k := r.effective s
      let except := if caching s h.agent h.die && (k = .rdx || k = .upg) then h.agent else 255
      let asked := if e.dst = dirX then [e.ptr0.toNat] else if e.dst = dirSB then broadcastAwait s except
        else e.sharers.filter fun a => a ≠ except
      (freeTracker s = none → exec c s = .next (arrived c (nack s)))
      ∧ (∀ i, freeTracker s = some i → asked ≠ [] → ∃ t, exec c s = .next t
        ∧ tagAt t set way = ({ e with dst := dirT } : TagEntry).sealed
        ∧ (getTracker t i).req = some r ∧ (getTracker t i).prev = e.dst ∧ (getTracker t i).line = h.line
        ∧ (getTracker t i).await = asked ∧ (getTracker t i).sentTo = asked ∧ (getTracker t i).broadcast = decide (e.dst = dirSB)
        ∧ (e.dst = dirX → (getTracker t i).owner = some e.ptr0.toNat)
        ∧ ∃ ms, t.out.egress = s.out.egress ++ ms ∧ ms.map (fun m => m.dstAgent) = (if e.dst = dirSB then [255] else asked)
            ∧ ∀ m ∈ ms, m.cls = .fwd ∧ m.line = h.line ∧ m.ready = s.env.sc + 9
              ∧ m.op = (if e.dst ≠ dirX then 2 else match k with
                | .rds => 0
                | .rdx | .upg => 1
                | .rdu => 3
                | .wrfull => 2
                | _ => 4 : BitVec 4)
              ∧ (e.dst = dirSB → m.body = .snpInv true except))
    (∀ kind mask crit, readForm c = some (kind, h, mask, crit) → (kind ≠ .upg → mask.getLsbD crit.toNat = true) →
      (kind = .upg → caching s h.agent h.die = true) →
      let r := mkReq s kind h mask crit 0 [] default
      (AtRest s h.line → findWay s h.line = some way → namesPoison s set way (mask &&& e.sv) = false →
        needsSnoop s r e = true → recalled r)
      ∧ (AtRest s h.line → findWay s h.line = none → kind ≠ .upg → ∀ i j, freeMiss s = some i → freeTracker s = some j →
          s.coh.trk.length < 48 →
          (candidates s set).find? (fun w => !(tagAt s set w).tv) = some way → ∃ t, exec c s = .next t
          ∧ (getMiss t i).line = h.line ∧ (getMiss t i).asked = mask ∧ (getMiss t i).tracker = some j
          ∧ (getMiss t i).way = way ∧ (getTracker t j).tr = .tm ∧ (getTracker t j).req = some r
          ∧ tagAt t set way = (newEntry h.line).sealed
          ∧ ∃ m, t.fg.xpq = s.fg.xpq ++ [m] ∧ m.op = 0 ∧ m.cls = .mem ∧ m.txn = BitVec.ofNat 16 i ∧ m.line = h.line
            ∧ m.body = .xrd mask (BitVec.ofNat 3 (2 * crit.toNat)) ∧ m.ready = s.env.sc + 9)
      ∧ (kennelLine s h.line = none → s.coh.muzBanks.getLsbD (tagBank set) = false →
          (∀ w ∈ openWays s, (tagAt s set w).passes = true) → (∀ v ∈ s.coh.resv, v.line ≠ h.line) →
          leaving s h.line = false → filling s h.line = false → trackerOf s h.line = none →
          (∃ a ∈ s.coh.active, a.line = h.line) → s.coh.resv.length < 64 →
          exec c s = .next (arrived c (nack { s with coh := { s.coh with
              resv := s.coh.resv ++ [{ line := h.line, agent := h.agent, die := h.die, running := none }] } }))))
    ∧ (∀ cw data, writeForm c = some (h, cw, data) → cw ≠ 0 → AtRest s h.line → findWay s h.line = some way →
        let r := { mkReq s (if cw = 255 then .wrfull else .wrpart) h 0 0 cw data default with
          str := decide (cw = 255) && streaming s (classOf s h.line h.label) }
        needsSnoop s r e = true → recalled r)

/-- Events of the home. TRANSACTION_END (R118, R120, R126): the tracker entry goes, the directory state kept in it stands, held
WbAcks go out, and a reservation recorded for the line begins its 512 sc. RESERVATION_EXPIRY frees the entry. RECLAIM_WALK_STEP
(R148, R149, Table 5.1): in the walked set, dead sharers go, a dead owner's line is poisoned, and every other line stays.
WAITED_REQUEST_RESUME (R94, R346): a waiting read of a line now at rest, all of it in the cache, starts its access. -/
def Obligations.HomeEventsAnswer : Prop :=
  ∀ s : State, inUse s →
    let reserved (line : LineAddr) : List Resv := s.coh.resv.map fun v =>
      if v.line = line ∧ v.running = none then { v with running := some 512 } else v
    (∀ i x, endedTracker s = some i → tfind s.coh.trk i = some x → ∃ t, exec .transactionEnd s = .next t
      ∧ tfind t.coh.trk i = none ∧ t.coh.resv = reserved x.line
      ∧ (∀ way, findWay s x.line = some way → (tagAt t (lineSet x.line) way).dst =
          if (tagAt s (lineSet x.line) way).dst = dirT then (x.next.map DirPart.dst).getD x.prev
          else (tagAt s (lineSet x.line) way).dst)
      ∧ (∀ a ∈ x.held, a.port ≠ .xp → ∃ m ∈ t.out.egress ++ t.out.wire, m.cls = .rsp ∧ m.op = 7 ∧ m.port = a.port
          ∧ m.dstAgent = a.agent ∧ m.dstDie = a.die ∧ m.txn = a.txn ∧ m.line = a.line))
    ∧ (∀ k x, endedTracker s = none → endedActive s = some k → s.coh.active.find? (fun a => a.id == k) = some x →
      exec .transactionEnd s = .next { s with coh := { s.coh with
        active := s.coh.active.filter (fun a => a.id != k), resv := reserved x.line } })
    ∧ (∀ v, expiredResv s = some v → exec .reservationExpiry s =
      .next { s with coh := { s.coh with resv := s.coh.resv.erase v } })
    ∧ (∀ set, s.coh.reclaim = some set → s.env.done.intake = false → s.env.done.reclaim = false → s.env.pkAck = false →
      ∃ t, exec .reclaimWalkStep s = .next t
        ∧ t.coh.reclaim = (if set + 1 < 4096 then some (set + 1) else none) ∧ t.env.done.reclaim = true
        ∧ (s.coh.muzBanks.getLsbD (tagBank set) = false → ∀ w ∈ openWays s,
          let e := tagAt s set w
          let dead (a : Nat) : Bool := isDead s a s.env.idDie.toNat
          (e.tv = true → e.dst = dirSP → e.sharers.any dead = true →
            (tagAt t set w).sharers = e.sharers.filter (fun a => !dead a)
            ∧ (tagAt t set w).dst = if e.sharers.all dead then dirU else dirSP)
          ∧ (e.tv = true → e.dst = dirX → dead e.ptr0.toNat = true → (tagAt t set w).dst = dirU
            ∧ (tagAt t set w).sv = 15 ∧ (tagAt t set w).sd = 15
            ∧ ∀ x ∈ lineSecs set w, markPending t (2 * x) = true ∧ markPending t (2 * x + 1) = true)
          ∧ (e.tv = false ∨ e.dst = dirU ∨ e.dst = dirSB → tagAt t set w = e)))
    ∧ (∀ r way, resumable s = some r → AtRest { s with cache := { s.cache with waiters := [] } } r.line →
      findWay s r.line = some way → r.kind = .rds ∨ r.kind = .rdx ∨ r.kind = .rdu → r.internal = false → r.mask ≠ 0 →
      let e := tagAt s (lineSet r.line) way
      r.mask &&& ~~~e.sv = 0 → namesPoison s (lineSet r.line) way r.mask = false → needsSnoop s r e = false →
      ∃ t, exec .waitedRequestResume s = .next t ∧ t.cache.waiters = s.cache.waiters.erase r ∧ t.env.done.lookup = true
        ∧ t.fg.accs = s.fg.accs ++ [{ id := s.fg.nextId, ready := s.env.sc + 6, cls := r.cls, source := 0, data := []
                                      secs := maskSecs (lineSet r.line) way r.mask, isWrite := false, kennel := false
                                      purpose := .home r (if r.grants s then .active s.coh.nextActive else .none)
                                        (grantEntry (r.effective s) r.agent e.dir).1 e.dir }])

/-- HOME_TIMEOUT (R139 to R142, R150, R406), for one expired transaction that awaits at most four agents, each missing for the
first or second time: its requester gets POISON, leaving 4 sc later (entry 19), its line is poisoned in every sector and U, the
missing answers are counted, and a SNOOP_TMO and a LINE_POISON report are formed. -/
def Obligations.HomeTimeoutAnswers : Prop :=
  ∀ (s : State) (i : Nat) (x : Tracker) (r : Req), inUse s → s.coh.trk = [(i, x)] → expired s x = true → x.tr ≠ .tb →
    x.req = some r → r.kind ≠ .atom → r.internal = false → isDead s r.agent r.die = false →
    x.missing.Nodup → x.missing.length ≤ 4 → (∀ a ∈ x.missing, tget 0 s.coh.tmoCnt a < 2) → s.saf.queue.length ≤ 62 →
    ∃ t, exec .homeTimeout s = .next t
      ∧ t.out = (emit (answerMsg r.hdr 8 (.status .poison) [] (s.env.sc + 4) (.tracker i)) s).out
      ∧ t.fg = (emit (answerMsg r.hdr 8 (.status .poison) [] (s.env.sc + 4) (.tracker i)) s).fg
      ∧ (getTracker t i).served = true ∧ (getTracker t i).next.map DirPart.dst = some dirU
      ∧ (tagAt t x.set x.way).sv = 15 ∧ (tagAt t x.set x.way).sd = 15 ∧ (tagAt t x.set x.way).tag = (tagAt s x.set x.way).tag
      ∧ (∀ y ∈ lineSecs x.set x.way, markPending t (2 * y) = true ∧ markPending t (2 * y + 1) = true)
      ∧ (∀ a ∈ x.missing, tget 0 t.coh.tmoCnt a = tget 0 s.coh.tmoCnt a + 1)
      ∧ t.coh.snoopTmo = min 65535 (s.coh.snoopTmo + x.missing.length)
      ∧ t.coh.poisonLines = min 65535 (s.coh.poisonLines + 1)
      ∧ ∃ a b, t.saf.queue = s.saf.queue ++ [a, b] ∧ fld a 80 8 = 0x23 ∧ fld b 80 8 = 0x25
        ∧ fld a 128 40 = x.line.toNat ∧ fld a 172 8 = x.missing.length

/-- Walks and the ends of way commands (R99, R101, R102, R104, R105, R473). A step of a walk (entry 28) on one way passes a set
that holds no line, and expels a line that holds no copies and nothing dirty; a pack's result line that is in the cache is written
there. When every set has been passed, every writeback acknowledged and no access to the ways is left, their tags are cleared and
all are locked, or the one walked is gated with its INIT bit cleared and the next is walked; unlocked and powered-up ways come
back empty. -/
def Obligations.WalkCommandsAnswer : Prop :=
  ∀ s : State, inUse s →
    let cleared (ways : List Nat) (t : State) : Prop :=
      (∀ set w, w < 16 → w ∈ ways → tagAt t set w = default) ∧ (∀ set w, w < 16 → w ∉ ways → tagAt t set w = tagAt s set w)
    (∀ w way, s.cache.walk = some w → w.here = [way] → w.set < 4096 → lookupPacks s = [] → s.env.done.lookup = false →
      resumable s = none → s.saf.fatal = false → s.coh.muzBanks.getLsbD (tagBank w.set) = false →
      (∀ v ∈ openWays s, (tagAt s w.set v).passes = true) → walkWaits s w.set way = false →
      atomSectors s w.set way = 0 →
      (tagAt s w.set way).tv = false ∨ ((tagAt s w.set way).dst = dirU ∧ (tagAt s w.set way).sd = 0) →
      ∃ t, exec .internalLookup s = .next t
        ∧ t.cache = { s.cache with tags := t.cache.tags, walk := some w.advance }
        ∧ ((tagAt s w.set way).tv = true → tagAt t w.set way = default)
        ∧ (∀ k, k ≠ w.set * 16 + way → tget default t.cache.tags k = tget default s.cache.tags k)
        ∧ t.env.done.lookup = true)
    ∧ (∀ e p way, s.cache.walk = none → lookupPacks s = [e] → tfind s.red.packs e = some p → p.phase = .writing →
      s.env.done.lookup = false → resumable s = none → AtRest s (p.lineAddr p.line) → s.red.fetched = [] →
      findWay s (p.lineAddr p.line) = some way →
      let set := lineSet (p.lineAddr p.line)
      let cw : BitVec 8 := BitVec.ofNat 8 (ones (p.lineWords p.line))
      (tagAt s set way).dst = dirU → mergeNeeds (tagAt s set way).sv cw = 0 →
      ∃ t a, exec .internalLookup s = .next t ∧ t.fg.accs = s.fg.accs ++ [a] ∧ a.isWrite = true ∧ a.cls = p.cls
        ∧ a.data = ((bitsOf cw).zip ((p.result.drop (8 * p.line)).take (p.lineWords p.line))).map
            (fun q => (location set way (32 * q.1), q.2))
        ∧ tfind t.red.packs e = some { p with
            line := p.line + 1, phase := if p.line + 1 < p.lines then .writing else .closing }
        ∧ t.env.done.lookup = true)
    ∧ (∀ w, s.cache.walk = some w → w.lock = true → 4096 ≤ w.set → (∀ v ∈ s.cache.victims, v.miss ≠ none) →
      (∀ e ∈ s.cache.ev, e.walked = false) → (∀ v ∈ w.ways, wayBusy s v = false) → ∃ t, exec .lockWalkEnd s = .next t ∧ cleared w.all t
        ∧ t.cache = { s.cache with tags := t.cache.tags, locked := w.target, walk := none }
        ∧ (∀ loc, loc < 2 ^ 19 → locWay loc ∈ w.all → cellsOf t loc = none)
        ∧ (∀ loc, loc < 2 ^ 19 → locWay loc ∉ w.all → cellsOf t loc = cellsOf s loc))
    ∧ (∀ w, s.cache.walk = some w → w.lock = false → 4096 ≤ w.set → (∀ v ∈ s.cache.victims, v.miss ≠ none) →
      (∀ e ∈ s.cache.ev, e.walked = false) → ∀ way rest, w.ways = way :: rest → wayBusy s way = false →
      ∃ t, exec .gateWalkEnd s = .next t ∧ cleared [way] t
        ∧ t.cache = { s.cache with tags := t.cache.tags, gated := s.cache.gated ||| maskOf 16 [way]
                                   walk := if rest = [] then none else some { w with ways := rest, set := 0 } }
        ∧ t.arr.wayInit = s.arr.wayInit &&& ~~~(maskOf 16 [way]))
    ∧ (s.cache.powering ≠ 0 → s.cache.powerAt ≤ s.env.sc → ∃ t, exec .wayPowerUpEnd s = .next t
      ∧ cleared (bitsOf s.cache.powering) t
      ∧ t.cache = { s.cache with tags := t.cache.tags, gated := s.cache.gated &&& ~~~s.cache.powering, powering := 0 }
      ∧ t.arr = s.arr)
    ∧ (∀ at' ways, s.cache.unlocking = some (at', ways) → at' ≤ s.env.sc → ∃ t, exec .wayUnlockEnd s = .next t
      ∧ cleared (bitsOf ways) t
      ∧ t.cache = { s.cache with tags := t.cache.tags, unlocking := none }
      ∧ t.arr.wayInit = s.arr.wayInit &&& ~~~ways)

/-- PREFETCH (R95, R96, R107, R123, R145): with FB_EN, a line of state U that is not in the cache takes a free fetch buffer entry
and is read through XP 9 sc later, its lowest sector first (entry 52); without, or while the slice drains, the prefetch is dropped
and counted. In FATAL, from a source that R107 or R145 shuts out, or misframed, it changes nothing (entry 54). -/
def Obligations.PrefetchAnswers : Prop :=
  ∀ (s : State) (h : Hdr) (mask : BitVec 4), inUse s → hears s (.prefetch h mask) →
    let u := countStore (classOf s h.line h.label) false s
    let dropped (v : State) : State :=
      { v with bg := { v.bg with tel := { v.bg.tel with pfDrop := min 65535 (v.bg.tel.pfDrop + 1) } } }
    let leaves (v : State) : Prop := exec (.prefetch h mask) s = .next (arrived (.prefetch h mask) v)
    (s.saf.fatal = true → leaves s)
    ∧ (s.saf.fatal = false → draining s = true → leaves (dropped s))
    ∧ (s.saf.fatal = false → draining s = false → badSource s h.agent h.die = true ∨ h.ndf ≠ 0 → leaves s)
    ∧ (Admitted s h → h.ndf = 0 → s.coh.dead = 0 → (∀ w ∈ openWays s, (tagAt s (lineSet h.line) w).passes = true) →
        (s.cache.fbEn = false ∨ mask = 0 ∨ kennelLine s h.line ≠ none ∨ lineActive s h.line = true ∨ leaving s h.line = true) →
        leaves (dropped u))
    ∧ (∀ k, Admitted s h → h.ndf = 0 → AtRest s h.line → s.cache.fbEn = true → findWay s h.line = none → mask ≠ 0 →
        (∀ m ∈ s.cache.miss, m.2.line ≠ h.line) →
        tfree s.cache.fb 32 = some k → ∃ t m, exec (.prefetch h mask) s = .next t
        ∧ t.cache = { u.cache with
            fb := tput s.cache.fb k { line := h.line, cls := classOf s h.line h.label, asked := mask, got := 0, pois := 0
                                      buf := [], doomed := false, into := none, order := s.cache.fbOrder }
            fbOrder := s.cache.fbOrder + 1 }
        ∧ t.fg.xpq = s.fg.xpq ++ [m] ∧ m.op = 0 ∧ m.cls = .mem ∧ m.txn = BitVec.ofNat 16 (32 + k) ∧ m.line = h.line
        ∧ m.ready = s.env.sc + 9 ∧ m.body = .xrd mask (BitVec.ofNat 3 (2 * (bitsOf mask).headD 0)))

/-- Writebacks and snoop answers (R107, R109, R112, R113, R114, R119, R403, Table 4.7). A source that R107 shuts out gets BOUNDS; in
FATAL a writeback is sunk with WbAck and an answer without. A WbD or an EvC of the owner of a line in X leaves it U, with its dirty
sectors written, and WbAck goes out 9 sc later. One of an unassigned opcode, and an answer that no transaction awaits, is a
protocol event: PROTO_ERR and a report. RSP_I is taken off the awaited answers; FWD_S of the owner ends the transaction with owner
and requester as sharers. -/
def Obligations.WritebacksAnswer : Prop :=
  ∀ (s : State) (h : Hdr), inUse s →
    let set := lineSet h.line
    let acks (u : State) : State := emit (answerMsg h 7 .none [] (s.env.sc + 9) .none) u
    let event (u : State) : State := report 0x22 0 0 (detailL h.line 0 0 [h.agent] 4)
      (raise 1 { u with coh := { u.coh with protoErr := true } })
    let source := caching s h.agent h.die = true ∧ badSource s h.agent h.die = false
    let plainly := s.saf.fatal = false ∧ s.coh.muzBanks.getLsbD (tagBank set) = false
      ∧ ∀ w ∈ openWays s, (tagAt s set w).passes = true
    (∀ c, ((∃ mask data, c = .wbd h mask data) ∨ c = .evc h ∨ ∃ op, c = .wbUnassigned h op) → hears s c →
      (s.saf.fatal = true → exec c s = .next (arrived c (acks s)))
      ∧ (s.saf.fatal = false → outsider s h = true →
          exec c s = .next (arrived c (emit (answerMsg h 8 (.status .bounds) [] (s.env.sc + 9) .none) s))))
    ∧ (∀ outcome mask data, hears s (.snprsp h outcome mask data) →
      let c : Instr := .snprsp h outcome mask data
      (s.saf.fatal = true → exec c s = .next (arrived c s))
      ∧ (s.saf.fatal = false → outsider s h = true →
          exec c s = .next (arrived c (emit (answerMsg h 8 (.status .bounds) [] (s.env.sc + 9) .none) s)))
      ∧ (plainly → outsider s h = false → trackerOf s h.line = none → exec c s = .next (arrived c (event s))))
    ∧ (∀ op, hears s (.wbUnassigned h op) → s.saf.fatal = false → outsider s h = false → trackerOf s h.line = none →
        exec (.wbUnassigned h op) s = .next (arrived (.wbUnassigned h op) (acks (event s))))
    ∧ (∀ way, source → plainly → trackerOf s h.line = none → leaving s h.line = false → filling s h.line = false →
      missOf s h.line = none → findWay s h.line = some way → (tagAt s set way).dst = dirX →
      (tagAt s set way).ptr0.toNat = h.agent →
      (∀ mask data, hears s (.wbd h mask data) → mask ≠ 0 → h.ndf = (bitsOf mask).length →
        data.length = 2 * (bitsOf mask).length →
        ∃ t a, exec (.wbd h mask data) s = .next t ∧ t.out = (acks s).out ∧ (tagAt t set way).dst = dirU
          ∧ (tagAt t set way).sv = (tagAt s set way).sv ||| mask ∧ (tagAt t set way).sd = (tagAt s set way).sd ||| mask
          ∧ t.fg.accs = s.fg.accs ++ [a] ∧ a.isWrite = true ∧ a.ready = s.env.sc + 6
          ∧ a.data = (((bitsOf mask).flatMap fun i => [2 * i, 2 * i + 1]).zip data).map
              (fun p => (location set way (32 * p.1), p.2)))
      ∧ (hears s (.evc h) → h.ndf = 0 → ∃ t, exec (.evc h) s = .next t ∧ t.out = (acks s).out ∧ (tagAt t set way).dst = dirU
          ∧ (tagAt t set way).sv = (tagAt s set way).sv ∧ (tagAt t set way).sd = (tagAt s set way).sd
          ∧ t.fg.accs = s.fg.accs))
    ∧ (∀ i x mask data, source → plainly → trackerOf s h.line = some i → tfind s.coh.trk i = some x → h.agent ∈ x.await →
      h.agent ∈ x.sentTo →
      (hears s (.snprsp h 0 mask data) → x.tr = .ti ∨ x.tr = .tb → x.await.filter (· ≠ h.agent) ≠ [] →
        ∃ t, exec (.snprsp h 0 mask data) s = .next t
          ∧ getTracker t i = { x with await := x.await.filter (· ≠ h.agent) }
          ∧ t.out = s.out ∧ t.cache = s.cache ∧ t.saf = s.saf)
      ∧ (∀ r o, hears s (.snprsp h 4 mask data) → x.tr = .tfs → x.req = some r → x.owner = some o →
        isDead s r.agent r.die = false → o < 256 → r.agent < 256 →
        ∃ t d, exec (.snprsp h 4 mask data) s = .next t
          ∧ getTracker t i = { x with await := x.await.filter (· ≠ h.agent), next := some d, served := true
                                      endsAt := some s.env.sc }
          ∧ d.dst = dirSP ∧ d.sharers = [o, r.agent] ∧ t.cache = s.cache ∧ t.out = s.out))

/-- ATREQ (R223, R226, R470): MUZZLED, PARKED, BOUNDS, in that order, 9 sc after the header, with no other effect; then an atomic on
a kennel code word or on a line at rest in U, all in the cache, starts its read, ready 6 sc after the header. CALL_MESSAGE (R252,
R253, R436, Table 9.4): MUZZLED, PARKED, BOUNDS for its source, its framing or an invalid entry, NACK-RETRY while disabled or with
no context free; else the lowest free pool context of the entry's mask becomes READY at the entry's PC with the arguments in its
registers, and without REPLY the caller is answered OK. -/
def Obligations.AtomicAndCallRequestsAnswer : Prop :=
  ∀ (s : State) (h : Hdr), inUse s →
    (∀ op data, hears s (.atreq h op data) →
      let c : Instr := .atreq h op data
      let refused (st : Status) : Prop :=
        exec c s = .next (arrived c (emit (answerMsg h 0xB (.atRsp st 0) [] (s.env.sc + 9) .none) s))
      let fits := h.ndf = 1 ∧ atomValid op = true ∧ data.length = if op.aop = 9 then 2 else 1
      let read (sec : Nat) (kennel : Bool) (t : State) : Prop := ∃ a, t.fg.accs = s.fg.accs ++ [a]
        ∧ a.ready = s.env.sc + 6 ∧ a.secs = [sec] ∧ a.isWrite = false ∧ a.kennel = kennel ∧ t.out = s.out
        ∧ a.purpose = .atomRead (.agent (atomReq s h op data)) op (data.getD 0 default).data (data.getD 1 default).data (!kennel)
      (s.atom.muz = true ∨ s.saf.fatal = true → refused .muzzled)
      ∧ (s.atom.muz = false → s.saf.fatal = false → draining s = true → refused .parked)
      ∧ (s.atom.muz = false → s.saf.fatal = false → draining s = false → badSource s h.agent h.die = true ∨ ¬ fits →
          refused .bounds)
      ∧ (∀ off35, s.atom.muz = false → Admitted s h → fits → ChannelsSound s → kennelLine s h.line = some off35 →
          let st := kennelRefused s off35 (agentHolder h.agent h.die) true (maskOf 8 [op.cw.toNat])
          (∀ x, st = some x → x ≠ .poison → refused x)
          ∧ (st = none → ∃ t, exec c s = .next t ∧ read (kennelLoc (off35 % 2 ^ 24 + 32 * op.cw.toNat) / 2) true t))
      ∧ (∀ way, s.atom.muz = false → Admitted s h → fits → AtRest s h.line → findWay s h.line = some way →
          (tagAt s (lineSet h.line) way).dst = dirU → (tagAt s (lineSet h.line) way).sv.getLsbD (op.cw.toNat / 2) = true →
          ∃ t, exec c s = .next t ∧ read (location (lineSet h.line) way (64 * (op.cw.toNat / 2)) / 2) false t))
    ∧ (∀ entry reply args, hears s (.callMessage h entry reply args) →
      let m : Instr := .callMessage h entry reply args
      let e := tget default s.seq.entries entry.toNat
      let answered (st : Status) : Prop :=
        exec m s = .next (arrived m (emit (answerMsg h 0xA (.callRsp st 0) [] (s.env.sc + 9) .none) (noisy s)))
      let free (c : Nat) : Prop := (getCtx s c).state = .idle ∧ s.seq.pool.getLsbD (c - 1) = true ∧ e.cmask.getLsbD c = true
      let open' := Admitted s h ∧ h.ndf = 1
      (s.saf.fatal = true → answered .muzzled)
      ∧ (s.saf.fatal = false → draining s = true → answered .parked)
      ∧ (s.saf.fatal = false → draining s = false → badSource s h.agent h.die = true ∨ h.ndf ≠ 1 → answered .bounds)
      ∧ (open' → s.seq.muz = true → answered .muzzled)
      ∧ (open' → s.seq.muz = false → e.valid = false → answered .bounds)
      ∧ (open' → s.seq.muz = false → e.valid = true → s.seq.en = false ∨ (∀ c, 1 ≤ c → c < 16 → ¬ free c) →
          exec m s = .next (arrived m (emit (answerMsg h 0xA (.callRsp .nackRetry 0) [] (s.env.sc + 9) .none)
            (noisy { s with coh := { s.coh with nackNow := min 1023 (s.coh.nackNow + 1) } }))))
      ∧ (∀ c, open' → s.seq.muz = false → e.valid = true → s.seq.en = true → 1 ≤ c → c < 16 → free c →
          (∀ d, 1 ≤ d → d < c → ¬ free d) → ∃ t, exec m s = .next t
          ∧ (getCtx t c).state = .ready ∧ (getCtx t c).pc = e.pc ∧ (getCtx t c).cls = h.label % 16
          ∧ (∀ k, k < 4 → tget 0 (getCtx t c).g k = args.extractLsb' (64 * k) 64)
          ∧ (∀ d, d ≠ c → getCtx t d = getCtx s d)
          ∧ (reply = true → t.out = s.out)
          ∧ (reply = false →
              t.out = (emit (answerMsg h 0xA (.callRsp .ok (BitVec.ofNat 4 c)) [] (s.env.sc + 9) .none) s).out)))

/-! ### Packs, channels, pushes -/

/-- Packs (R195, R196, R206, R208, R214, R218, R220, R222). A contribution is answered 9 sc after its header: MUZZLED, BOUNDS for
a bad source or framing, NACK-RETRY where no pack of the target and epoch gathers, BOUNDS for an index, a chunk or a length that
the descriptor excludes, PACK-COLLISION for a chunk accepted before, each with no other effect; otherwise OK, and the chunk counts
as accepted: with one contributor its blocks are the roots, else they are leaves. PACK_COMPLETE writes the result and the record
at once (entry 18), frees the entry, counts the pack and sets its flag in the next sc. An expired watchdog ends its pack with cause
TIMEOUT; a mismatch muzzles the unit and ends every pack with cause UNIT. -/
def Obligations.PacksAnswer : Prop :=
  (∀ (s : State) (h : Hdr) (epoch : BitVec 16) (idx : BitVec 6) (chunk : BitVec 10) (ncw : BitVec 3) (data : List CodeWord),
    let c : Instr := .pkctb h epoch idx chunk ncw data
    inUse s → hears s c →
    let sent (st : Status) : OutMsg := answerMsg h 9 (.status st) [] (s.env.sc + 9) .none
    let refused (st : Status) : Prop := exec c s = .next (arrived c (emit (sent st) s))
    let bad := badSource s h.agent h.die = true ∨ data.length ≠ ncw.toNat + 1 ∨ h.ndf ≠ (data.length + 1) / 2
    let here (p : Pack) : Prop := p.target = 256 * h.line.toNat ∧ p.epoch = epoch.toNat ∧ p.stop ≠ some 3
    let sound := s.saf.fatal = false ∧ ¬ bad ∧ ∀ q ∈ s.red.packs, q.2.parityBad = false
    (s.saf.fatal = true → refused .muzzled)
    ∧ (s.saf.fatal = false → bad → refused .bounds)
    ∧ (sound → s.red.muz = true → refused .muzzled)
    ∧ (sound → s.red.muz = false → (∀ q ∈ s.red.packs, ¬ here q.2) → exec c s = .next (arrived c
        (emit (sent .nackRetry) { s with coh := { s.coh with nackNow := min 1023 (s.coh.nackNow + 1) } })))
    ∧ (∀ e p, sound → s.red.muz = false → tfind s.red.packs e = some p → here p → (∀ q ∈ s.red.packs, here q.2 → q = (e, p)) →
        let known := idx.toNat < p.pcount ∧ chunk.toNat < p.chunks ∧ data.length = p.chunkWords chunk.toNat
        let u := dropLineFb h.line (countStore (classOf s h.line h.label) false s)
        (¬ known → refused .bounds)
        ∧ (known → idx.toNat * 1024 + chunk.toNat ∈ p.got → refused .packCollision)
        ∧ (known → idx.toNat * 1024 + chunk.toNat ∉ p.got → ∃ t, exec c s = .next t
            ∧ (getPack t e).got = p.got ++ [idx.toNat * 1024 + chunk.toNat]
            ∧ (getPack t e).desc = p.desc ∧ (getPack t e).age = p.age ∧ (getPack t e).phase = p.phase
            ∧ (∀ d, d ≠ e → tfind t.red.packs d = tfind s.red.packs d)
            ∧ t.out = (emit (sent .ok) s).out ∧ t.cache = u.cache ∧ t.arr = s.arr
            ∧ (p.pcount ≠ 1 → t.red.forming = s.red.forming ++ (p.chunkBlocks chunk.toNat).map fun b =>
                { entry := e, block := b, level := 0, lo := idx.toNat, bx := false, img := (leafOf p data b).1.image
                  since := s.env.sc })
            ∧ (p.pcount = 1 → t.red.forming = s.red.forming ∧ ∀ b ∈ p.chunkBlocks chunk.toNat,
                tfind (getPack t e).roots b = some (leafOf p data b).1.image))))
  ∧ (∀ (s : State) (e off : Nat) (p : Pack), inUse s → packDue s = some e → tfind s.red.packs e = some p → p.phase = .gathering →
      p.kennelTarget s = some off → p.accum = false → p.failed = false → idleArray s → off + 32 * p.outWords ≤ 2 ^ 24 →
      off % 32 = 0 → p.recordAt % 32 = 0 →
      let q : Pack := { p with sat := min 65535 (packResult p []).2.1 }
      ∃ t, exec .packComplete s = .next t
        ∧ tfind t.red.packs e = none ∧ (∀ d, d ≠ e → tfind t.red.packs d = tfind s.red.packs d)
        ∧ t.red.donePacks = min 65535 (s.red.donePacks + 1) ∧ t.red.poisonPacks = s.red.poisonPacks
        ∧ cellsOf t (kennelLoc p.recordAt) = some (wordCells s (kennelLoc p.recordAt) (plain (packRecord s e q)))
        ∧ (∀ k w, (packResult p []).1[k]? = some w → off + 32 * k ≠ p.recordAt →
            cellsOf t (kennelLoc (off + 32 * k)) = some (wordCells s (kennelLoc (off + 32 * k)) (plain w)))
        ∧ (∀ loc, loc < 2 ^ 19 → loc ≠ kennelLoc p.recordAt → (∀ k, k < p.outWords → loc ≠ kennelLoc (off + 32 * k)) →
            cellsOf t loc = cellsOf s loc)
        ∧ t.seq = { s.seq with
            quiet := false, evNext := if p.evt < 64 then s.seq.evNext ||| BitVec.ofNat 64 (2 ^ p.evt) else s.seq.evNext }
        ∧ t.saf = s.saf ∧ t.out = s.out ∧ t.cache = s.cache ∧ t.coh = s.coh ∧ t.ken = s.ken)
  ∧ (∀ s : State, inUse s → packExpiryDue s = true → exec .packWatchdogExpiry s = .next { s with red := { s.red with
      packs := s.red.packs.map fun p =>
        if p.2.stop = none ∧ 1 ≤ p.2.pwdog ∧ p.2.pwdog ≤ p.2.age ∧ p.2.got.length < p.2.pcount * p.2.chunks
        then (p.1, { p.2 with stop := some 3 }) else p } })
  ∧ (∀ (s : State) (entry : Option (Fin 16)), inUse s →
      let detail := match entry with
        | none => detailN 0 0
        | some e => detailN e.val 1
      (s.red.muz = true → entry = none → exec (.redLockstepMismatch entry) s =
        .next (if s.red.muzAt = s.env.sc then report 0x40 1 0x4000 detail s else s))
      ∧ (s.red.muz = true → ∀ e : Fin 16, entry = some e → exec (.redLockstepMismatch entry) s =
        .next (if (getPack s e.val).parityBad = true then s
          else report 0x40 1 0x4000 detail (setPack e.val (fun p => { p with parityBad := true }) s)))
      ∧ (s.red.muz = false → (∀ p ∈ s.red.packs, p.2.parityBad = false) → tableWf s.red.packs = true →
          ∃ t, exec (.redLockstepMismatch entry) s = .next t ∧ t.red.muz = true ∧ t.red.muzAt = s.env.sc
          ∧ t.saf = (report 0x40 1 0x4000 detail s).saf
          ∧ (∀ d, (∀ e, entry = some e → d ≠ e.val) → tfind t.red.packs d = (tfind s.red.packs d).map fun p =>
              { p with stop := some 5, phase := .gathering, line := 0 })
          ∧ (∀ e : Fin 16, entry = some e → tfind t.red.packs e = (tfind s.red.packs e).map fun p =>
              { p with parityBad := true })
          ∧ t = { s with red := t.red, saf := t.saf }))

/-- Channel operations of agents (Table 6.2, R164, R168 to R172, R177): ChRsp answers 9 sc after the header. A slot is handed out
at PI, becomes FULL by its producer's COMMIT, is taken at CI, and becomes EMPTY by its consumer's FREE; an operation that the slot
does not allow waits where it blocks and one of 64 entries is free, and is refused where it does not. A COMMIT of a push channel is answered when its credits are
held. CREDIT gives a target's buffers back. A waiting request completes as soon as its slot allows. -/
def Obligations.ChannelOpsAnswer : Prop :=
  ∀ (s : State) (h : Hdr) (ch : BitVec 8), Admitted s h → h.ndf = 0 → ChannelsSound s →
    let c := chanOf s ch.toNat
    let v := noisy s
    let u := countStore (h.label % 16) false v
    let me := agentHolder h.agent h.die
    let after (k : Nat) : Nat := if k + 1 < c.nslots.toNat then k + 1 else 0
    let at' (k : Nat) : BitVec 24 := BitVec.ofNat 24 (32 * c.base.toNat + k * (32 * c.slotsz.toNat))
    let rsp (g : Hdr) (st : Status) (slot : BitVec 16) (off : BitVec 24) : State → State :=
      emit (answerMsg g 0xC (.chRsp st slot off) [] (s.env.sc + 9) .none)
    let done (x : Instr) (t : State) : Prop := hears s x → exec x s = .next (arrived x t)
    let refused (x : Instr) (st : Status) : Prop := done x (rsp h st 0 0 v)
    let full (x : Instr) : Prop :=
      done x (rsp h .nackRetry 0 0 { v with coh := { v.coh with nackNow := min 1023 (v.coh.nackNow + 1) } })
    let waits (take : Bool) : State :=
      { u with ken := { u.ken with waits := u.ken.waits ++ [{ ch := ch.toNat, take := take, party := .agent h }] } }
    let agents := s.ken.waits.filter fun w => match w.party with
      | .agent _ => true
      | _ => false
    (∀ b slot st, (c.en = false ∧ st = .bounds) ∨ (c.en = true ∧ c.muz = true ∧ st = .muzzled) →
      refused (.reserve h b ch) st ∧ refused (.take h b ch) st ∧ refused (.commit h ch slot) st ∧ refused (.free h ch slot) st)
    ∧ (c.en = true → c.muz = false →
      (∀ b, c.litCnt ≠ 0 → refused (.take h b ch) .bounds)
      ∧ (∀ slot, c.litCnt ≠ 0 → refused (.free h ch slot) .bounds)
      ∧ (∀ b, (slotAt s ch.toNat c.pi).state ≠ .empty → (slotAt s ch.toNat c.pi).state ≠ .poison →
          (b = false → done (.reserve h b ch) (rsp h .slotFull 0 0 u))
          ∧ (b = true → agents.length < 64 → done (.reserve h b ch) (waits false))
          ∧ (b = true → 64 ≤ agents.length → full (.reserve h b ch)))
      ∧ (∀ b, c.litCnt = 0 → (slotAt s ch.toNat c.ci).state ≠ .full → (slotAt s ch.toNat c.ci).state ≠ .poison →
          (b = false → done (.take h b ch) (rsp h .empty 0 0 u))
          ∧ (b = true → agents.length < 64 → done (.take h b ch) (waits true))
          ∧ (b = true → 64 ≤ agents.length → full (.take h b ch)))
      ∧ (∀ slot : BitVec 16, c.nslots.toNat ≤ slot.toNat ∨ (slotAt s ch.toNat slot.toNat).state ≠ .resv
            ∨ (slotAt s ch.toNat slot.toNat).holder ≠ some me → refused (.commit h ch slot) .bounds)
      ∧ (∀ slot : BitVec 16, c.litCnt = 0 → c.nslots.toNat ≤ slot.toNat ∨ (slotAt s ch.toNat slot.toNat).state ≠ .taken
            ∨ (slotAt s ch.toNat slot.toNat).holder ≠ some me → refused (.free h ch slot) .bounds)
      ∧ (∀ slot : BitVec 16, c.litCnt ≠ 0 → slot.toNat < c.nslots.toNat → (slotAt s ch.toNat slot.toNat).state = .resv →
          (slotAt s ch.toNat slot.toNat).holder = some me →
          done (.commit h ch slot) (setSlot ch.toNat slot.toNat (fun k =>
            { k with state := .full, holder := none, age := 0, commit := some (.agent h, h.label % 16), since := s.env.sc }) u))
      ∧ ((∀ w ∈ s.ken.waits, w.ch ≠ ch.toNat) →
        (∀ b st, ((slotAt s ch.toNat c.pi).state = .empty ∧ st = .ok) ∨ ((slotAt s ch.toNat c.pi).state = .poison ∧ st = .poison) →
          done (.reserve h b ch) (rsp h st (BitVec.ofNat 16 c.pi) (at' c.pi)
            (setChan ch.toNat (fun c => { c with pi := after c.pi })
              (setSlot ch.toNat c.pi (fun _ => { (default : Slot) with state := .resv, holder := some me, since := s.env.sc }) u))))
        ∧ (∀ b st, c.litCnt = 0 → ((slotAt s ch.toNat c.ci).state = .full ∧ st = .ok)
              ∨ ((slotAt s ch.toNat c.ci).state = .poison ∧ st = .poison) →
          done (.take h b ch) (rsp h st (BitVec.ofNat 16 c.ci) (at' c.ci)
            (setChan ch.toNat (fun c => { c with ci := after c.ci })
              (setSlot ch.toNat c.ci (fun k => { k with state := .taken, holder := some me, age := 0, since := s.env.sc }) u))))
        ∧ (∀ slot : BitVec 16, c.litCnt = 0 → slot.toNat < c.nslots.toNat → (slotAt s ch.toNat slot.toNat).state = .resv →
          (slotAt s ch.toNat slot.toNat).holder = some me →
          done (.commit h ch slot) (rsp h .ok 0 0 (setSlot ch.toNat slot.toNat
            (fun k => { k with state := .full, holder := none, age := 0, since := s.env.sc }) u)))
        ∧ (∀ slot : BitVec 16, c.litCnt = 0 → slot.toNat < c.nslots.toNat → (slotAt s ch.toNat slot.toNat).state = .taken →
          (slotAt s ch.toNat slot.toNat).holder = some me →
          done (.free h ch slot) (rsp h .ok 0 0 (setSlot ch.toNat slot.toNat (fun _ => default) u))))
      ∧ (∀ (slot : BitVec 16) g, c.litCnt = 0 → slot.toNat < c.nslots.toNat →
          (slotAt s ch.toNat slot.toNat).state = .taken → (slotAt s ch.toNat slot.toNat).holder = some me →
          s.ken.waits = [{ ch := ch.toNat, take := false, party := .agent g }] → c.pi = slot.toNat →
          hears s (.free h ch slot) → ∃ t, exec (.free h ch slot) s = .next t ∧ t.ken.waits = []
            ∧ (slotAt t ch.toNat slot.toNat).state = .resv
            ∧ (slotAt t ch.toNat slot.toNat).holder = some (agentHolder g.agent g.die)
            ∧ (chanOf t ch.toNat).pi = after slot.toNat
            ∧ t.out = (rsp g .ok slot (at' slot.toNat) (rsp h .ok 0 0 s)).out))
    ∧ (∀ (tgt : BitVec 10) (count : BitVec 9),
      let x := targetAt s tgt.toNat
      let right := x.valid = true ∧ x.agent.toNat = h.agent ∧ x.die.toNat = h.die ∧ count ≠ 0
        ∧ x.credits + count.toNat ≤ x.nbuf.toNat
      (¬ right → refused (.credit h tgt count) .bounds)
      ∧ (right → (∀ d ∈ s.ken.ch, d.2.push = .idle ∨ d.2.push = .pushing) → tableWf s.ken.ch = true →
          done (.credit h tgt count)
            (rsp h .ok 0 0 (setTarget tgt.toNat (fun x => { x with credits := x.credits + count.toNat }) u))))

/-- Pushes and slot watchdogs (R178, R179, R183, R184, R186), where no entry fails its check (R187) and only RESERVE waits on a push
channel (Table 6.2). A push takes one credit of each target in ascending order, and stops at one that has none; with every credit
held the commit is answered, the slot is TAKEN, each target's next buffer is used, and its flits leave 20 sc later at the earliest;
after the last flit the slot is EMPTY and CI moves on. When the budget ends, the credits go back, the slot is its producer's again,
and the commit is answered LITTER-BUSY. A POISON slot is passed over with a report. An expired slot becomes POISON, is reported,
and its channel is muzzled, which answers whatever waits on it. -/
def Obligations.PushEventsAnswer : Prop :=
  ∀ s : State, inUse s →
    let after (c : Channel) (k : Nat) : Nat := if k + 1 < c.nslots.toNat then k + 1 else 0
    let answered (k : Slot) (st : Status) : State := match k.commit with
      | some q => chAnswer q.1 st 0 0 s
      | none => s
    let reserving (ch : Nat) : Prop := ∀ w ∈ s.ken.waits, w.ch = ch → w.take = false
    let nobody (ch : Nat) : Prop := ∀ w ∈ s.ken.waits, w.ch ≠ ch
    (∀ ch, pushNext s = some ch → ChannelsSound s →
      let c := chanOf s ch
      let k := slotAt s ch c.ci
      (k.state = .poison → reserving ch → ∃ t, exec .pushStart s = .next t
        ∧ (chanOf t ch).ci = after c c.ci ∧ (chanOf t ch).push = .idle
        ∧ t.saf = (report 0x31 2 0 (detailH ch c.ci (k.holder.getD 0).toNat 0 0) s).saf
        ∧ (nobody ch → slotAt t ch c.ci = default ∧ chanOf t ch = { c with ci := after c c.ci } ∧ t.out = s.out))
      ∧ (∀ j x, k.state ≠ .poison → c.litter[j]? = some x → (targetAt s x).credits = 0 →
          (∀ i y, i < j → c.litter[i]? = some y → 1 ≤ (targetAt s y).credits) → ∃ t, exec .pushStart s = .next t
          ∧ chanOf t ch = { c with push := .reserving s.env.sc j }
          ∧ (∀ y, targetAt t y = { targetAt s y with
              credits := if y ∈ c.litter.take j then (targetAt s y).credits - 1 else (targetAt s y).credits })
          ∧ slotAt t ch c.ci = k ∧ t.out = s.out)
      ∧ (k.state ≠ .poison → (∀ x ∈ c.litter, 1 ≤ (targetAt s x).credits) → idleArray s →
          ∃ t ms, exec .pushStart s = .next t
          ∧ chanOf t ch = { c with push := .pushing }
          ∧ slotAt t ch c.ci = { k with state := .taken, holder := none, age := 0, commit := none, since := s.env.sc }
          ∧ (∀ x ∈ c.litter, targetAt t x = { targetAt s x with
              credits := (targetAt s x).credits - 1
              next := if (targetAt s x).next + 1 < (targetAt s x).nbuf.toNat then (targetAt s x).next + 1 else 0 })
          ∧ t.out.egress = (answered k .ok).out.egress ++ ms
          ∧ (∀ m ∈ ms, m.op = 0xD ∧ m.cls = .rsp ∧ m.ready = s.env.sc + 20 ∧ m.tx = .push ch
              ∧ m.label = ((k.commit.map Prod.snd).getD 0)
              ∧ ∃ x ∈ c.litter, m.dstAgent = (targetAt s x).agent.toNat ∧ m.dstDie = (targetAt s x).die.toNat)))
    ∧ (∀ ch, pushEnding s = some ch → ChannelsSound s →
        let c := chanOf s ch
        let k := slotAt s ch c.ci
        reserving ch → ∃ t, exec .pushEnd s = .next t
        ∧ (chanOf t ch).ci = after c c.ci ∧ (chanOf t ch).push = .idle ∧ t.ken.tgt = s.ken.tgt ∧ t.saf = s.saf
        ∧ (nobody ch → (k.state ≠ .poison → slotAt t ch c.ci = default)
            ∧ chanOf t ch = { c with ci := after c c.ci, push := .idle } ∧ t.out = s.out))
    ∧ (∀ ch start held, budgetEnding s = some ch → (chanOf s ch).push = .reserving start held →
        let c := chanOf s ch
        let k := slotAt s ch c.ci
        ∃ t, exec .litterBudgetEnd s = .next t
        ∧ start + 2 ^ (c.lb.toNat + 8) ≤ s.env.sc
        ∧ chanOf t ch = { c with push := .idle }
        ∧ (∀ q, k.commit = some q → slotAt t ch c.ci =
            { k with state := .resv, holder := some q.1.holder, age := 0, commit := none, since := s.env.sc })
        ∧ (∀ y, targetAt t y = { targetAt s y with
            credits := if y ∈ c.litter.take held then (targetAt s y).credits + 1 else (targetAt s y).credits })
        ∧ t.out = (answered k .litterBusy).out ∧ t.seq = (answered k .litterBusy).seq ∧ t.saf = s.saf)
    ∧ (slotExpiryDue s = true → ∃ t, exec .slotWatchdogExpiry s = .next t
        ∧ (∀ p ∈ expiredSlots s, (slotAt t (p.1 / 65536) (p.1 % 65536)).state = .poison
            ∧ (slotAt t (p.1 / 65536) (p.1 % 65536)).holder = none ∧ (chanOf t (p.1 / 65536)).muz = true
            ∧ ∀ w ∈ t.ken.waits, w.ch ≠ p.1 / 65536)
        ∧ (∀ ch k, k < 65536 → (∀ p ∈ expiredSlots s, p.1 ≠ ch * 65536 + k) →
            (slotAt t ch k).state = (slotAt s ch k).state ∧ (slotAt t ch k).holder = (slotAt s ch k).holder)
        ∧ (∀ ch, (∀ p ∈ expiredSlots s, p.1 / 65536 ≠ ch) → chanOf t ch = chanOf s ch)
        ∧ t.saf = ((expiredSlots s).foldl (fun s p => report 0x30 3 (0x2000 + p.1 / 65536)
            (detailH (p.1 / 65536) (p.1 % 65536) ((p.2.holder.getD 0).toNat) 0 0) s) s).saf)

/-! ### The sequencer's events, the mover -/

/-- Events of the sequencer (R25, R259, R261, R264 to R266, R314, R389). A mismatch, a parity failure of shared state and a
deadlock muzzle the sequencer: every live context faults, and what it owes a caller is sent with MUZZLED, leaving 4 sc later
(entry 19). A heel releases the contexts that wait on the present counter, which take the issue slot in turn from 2 sc later, or after the
turns of an earlier heel (entry 50). A
context in XFER whose requests have completed is saved and suspended; an image whose reads have ended is ready; the image is
written at once (entry 18); the program scent is valid when its computation ends. -/
def Obligations.SequencerEventsAnswer : Prop :=
  (∀ (s : State) (parity : Bool), inUse s →
    let muzzled (x : Instr) (m : BitVec 2) (cause : Nat) : Prop := ∃ t, exec x s = .next t
      ∧ t.seq.muz = true ∧ t.seq.mcause = m ∧ t.seq.events = s.seq.events
      ∧ (∀ c, c < 16 → (getCtx s c).live = true → (getCtx t c).state = .fault ∧ (getCtx t c).cause = BitVec.ofNat 4 cause
          ∧ (getCtx t c).pc = (getCtx s c).pc ∧ (getCtx t c).g = (getCtx s c).g)
      ∧ (∀ c, c < 16 → (getCtx s c).live = false → getCtx t c = getCtx s c)
      ∧ (∀ w ∈ t.ken.waits, ∀ c id, w.party ≠ .ctx c id)
      ∧ (∀ c k, c < 16 → (getCtx s c).live = true → (getCtx s c).call = some k → k.reply = true → k.port ≠ .xp →
          ∃ a ∈ t.out.egress, a.op = 0xA ∧ a.body = .callRsp .muzzled (BitVec.ofNat 4 c) ∧ a.txn = k.txn ∧ a.data = []
            ∧ a.dstAgent = k.holder.toNat % 256 ∧ a.ready = s.env.sc + 4)
    (s.seq.muz = true → exec (.seqLockstepMismatch parity) s = .next s)
    ∧ (s.seq.muz = false → muzzled (.seqLockstepMismatch parity) (if parity then 3 else 1) 4)
    ∧ (deadlockDue s = true → muzzled .deadlockDeclare 2 5))
  ∧ (∀ s : State, inUse s → heelDue s = true →
      let due (c : Nat) : Prop := (getCtx s c).state = .wait ∧ (getCtx s c).wait = .heel s.tick.counter
      ∃ t q, exec .heelRelease s = .next t
        ∧ (∀ c, c < 16 → due c → ∃ id, getCtx t c = released id (getCtx s c))
        ∧ (∀ c, c < 16 → ¬ due c → getCtx t c = getCtx s c)
        ∧ t.seq.heelQ = s.seq.heelQ ++ q.zipIdx (max (s.env.sc + 2) (match s.seq.heelQ.getLast? with
          | some p => p.2 + 1
          | none => 0))
        ∧ (∀ c, c ∈ q ↔ c < 16 ∧ due c ∧ (getCtx s c).haltPend = false)
        ∧ q.Pairwise (· < ·)
        ∧ t = { s with seq := { s.seq with ctx := t.seq.ctx, nextId := t.seq.nextId, heelQ := t.seq.heelQ
                                           heelAll := s.seq.heelAll ++ q } })
  ∧ (∀ (s : State) (c : Fin 16), inUse s →
    let x := getCtx s c
    (x.state = .xfer → x.image = none → x.pend = [] → idleArray s → imageOffset s c + 2240 ≤ 2 ^ 24 →
      ∃ t, exec (.contextSave c) s = .next t
      ∧ getCtx t c = { x with state := .susp } ∧ (∀ d, d ≠ c.val → getCtx t d = getCtx s d)
      ∧ (∀ i w, (saveImage s c false)[i]? = some w →
          cellsOf t (kennelLoc (imageOffset s c + 32 * i)) = some (wordCells s (kennelLoc (imageOffset s c + 32 * i)) (plain w)))
      ∧ (∀ loc, loc < 2 ^ 19 → (∀ i, i < 70 → loc ≠ kennelLoc (imageOffset s c + 32 * i)) → cellsOf t loc = cellsOf s loc))
    ∧ (∀ m, x.state = .xfer → x.image = some m → m.ready = false → m.readAt ≤ s.env.sc →
        ∃ t, exec (.restoreReadsEnd c) s = .next t
        ∧ getCtx t c = { x with image := some { m with ready := true } } ∧ (∀ d, d ≠ c.val → getCtx t d = getCtx s d)
        ∧ t.seq.done = s.seq.done ++ (match m.asker with
          | some id => [Result.mk s.env.sc 0 id (some .ok) [] []]
          | none => [])
        ∧ t = { s with seq := { s.seq with ctx := t.seq.ctx, done := t.seq.done } }))
  ∧ (∀ s : State, inUse s → s.det.psBusy ≠ 0 → s.det.psBusy ≤ s.env.sc → exec .pscentDone s = .next { s with
      fresh := s.fresh + 1, det := { s.det with psBusy := 0, psValid := true, psDigest := programScent s } })

/-- Events of a mover engine (R320 to R330). A request that is due is sent again where it was answered so, else the write of a
line all of whose code words have been read, else the next line of the range: within this slice's part of the window as a kennel
access ready in the next sc, otherwise as a message 4 sc later (entry 19); a prefetch completes as it is sent. A parity failure
found at any of these uses muzzles the engine instead, with a report. At the end of a move its record is written at once (entry
18), its flag set in the next sc, a failure reported, and the engine is free. An expired watchdog ends the move with cause
TIMEOUT, an earlier failure keeping its status. -/
def Obligations.MoverEventsAnswer : Prop :=
  ∀ (s : State) (e : Fin 8), inUse s →
    let g := engineOf s e
    let cmd : Host.Outcome State Fault Refusal := exec (.moveRequestIssue e) s
    let others (t : State) : Prop := ∀ f, f ≠ e.val → engineOf t f = engineOf s f
    let muzzles (x : Instr) : Prop := g.parityBad = true → ∃ t, exec x s = .next t ∧ engineOf t e = { g with muz := true }
      ∧ others t ∧ t.saf = (report 0x59 1 (0x6000 + e) (e.val * 2 ^ 104) s).saf ∧ t.out = s.out ∧ t.arr = s.arr
    let message (r : MoveReq) (t : State) : Prop :=
      let a := (if r.write then g.dst else g.src) + r.off
      let cw : BitVec 8 := BitVec.ofNat 8 ((2 ^ (r.len / 32) - 1) * 2 ^ (a % 256 / 32))
      ∃ m, t.out.egress = s.out.egress ++ [m] ∧ t.out.orig = s.out.orig ++ [Originated.mk m.txn (.move e g.serial r.off r.write) m]
        ∧ m.cls = .req ∧ m.dstAgent = 255 ∧ m.line = BitVec.ofNat 40 (a / 256) ∧ m.label = g.cls ∧ m.ready = s.env.sc + 4
        ∧ (r.write = false → m.op = 3 ∧ m.data = [] ∧ m.body = .readReq (sectorsOf cw) (BitVec.ofNat 2 (a % 256 / 64)))
        ∧ (r.write = true → cw = 255 → m.op = 4 ∧ m.data = r.data)
        ∧ (r.write = true → cw ≠ 255 → m.op = 5 ∧ m.data = r.data ∧ m.body = .cwMask cw)
    let access (r : MoveReq) (t : State) : Prop :=
      ∃ x, t.fg.accs = s.fg.accs ++ [x] ∧ x.ready = s.env.sc + 1 ∧ x.cls = g.cls ∧ x.source = 4 + e.val ∧ x.isWrite = r.write
        ∧ x.kennel = true ∧ t.out = s.out
    let sends (r : MoveReq) (f : Engine) : Prop :=
      let a := (if r.write then g.dst else g.src) + r.off
      let offs := (List.range (r.len / 32)).map fun i => a % 2 ^ 24 + 32 * i
      let refused := if r.write then writeRefused s g.holder offs else readRefused s offs
      (inOwnPart s a = false → ∃ t, cmd = .next t ∧ engineOf t e = f ∧ others t ∧ message r t)
      ∧ (inOwnPart s a = true → ChannelsSound s → refused = none → ∃ t, cmd = .next t ∧ engineOf t e = f ∧ others t ∧ access r t)
      ∧ (∀ st, inOwnPart s a = true → ChannelsSound s → refused = some st → (r.write = false → g.kind = 0) → g.ended = none →
          (∃ x ∈ f.flight, x.off = r.off ∧ x.write = r.write) → ∃ t, cmd = .next t ∧ others t ∧ t.out = s.out ∧ t.fg = s.fg
          ∧ (engineOf t e).ended = some { status := st, cause := if r.write then 2 else 1, line := BitVec.ofNat 40 (a / 256) })
    (moveCanIssue s e = true → muzzles (.moveRequestIssue e)) ∧ (moveEndDue s e = true → muzzles (.moveEnd e))
    ∧ (moveExpired s e = true → muzzles (.moveWatchdogExpiry e))
    ∧ (moveCanIssue s e = true → g.parityBad = false →
      (∀ r rest, g.again = r :: rest → sends r { g with next := s.env.sc + 1, again := rest })
      ∧ (∀ p, g.again = [] → g.readyWrite = some p →
          let r : MoveReq := { off := p.1, len := p.2, write := true
                               data := (List.range (p.2 / 32)).map fun i => tget default g.buf (p.1 / 32 + i)
                               num := g.issued }
          sends r { g with next := s.env.sc + 1, flight := g.flight ++ [r], issued := g.issued + 1
                           buf := g.buf.filter fun w => !(decide (p.1 / 32 ≤ w.1) && decide (w.1 < (p.1 + p.2) / 32)) })
      ∧ (∀ q, g.again = [] → g.readyWrite = none → g.nextPos = some q →
          let p := linePart (if g.kind = 0 then g.src else g.dst) g.len q.2
          (g.kind ≠ 2 →
            let r : MoveReq := { off := p.1, len := p.2, write := decide (g.kind = 1)
                                 data := if g.kind = 1 then List.replicate (p.2 / 32) (plain g.pattern) else [], num := g.issued }
            sends r { g with next := s.env.sc + 1, pos := q.1 + 1, flight := g.flight ++ [r], issued := g.issued + 1 })
          ∧ (g.kind = 2 → ∃ t m, cmd = .next t ∧ others t ∧ t.out.egress = s.out.egress ++ [m] ∧ t.out.orig = s.out.orig
              ∧ m.op = 6 ∧ m.cls = .req ∧ m.line = BitVec.ofNat 40 q.2 ∧ m.label = g.cls ∧ m.ready = s.env.sc + 4
              ∧ (engineOf t e).pos = q.1 + 1 ∧ (engineOf t e).flight = g.flight
              ∧ (g.parts = [] → g.done = p.1 → (engineOf t e).done = p.1 + p.2))))
    ∧ (moveEndDue s e = true → g.parityBad = false → idleArray s → g.recordAt % 32 = 0 →
        let r := g.ended.getD { status := .ok, cause := 0, line := 0 }
        let record := moveRecord s (some e) g r g.done
        ∃ t, exec (.moveEnd e) s = .next t ∧ engineOf t e = default ∧ others t
          ∧ (g.norec = true → t.arr = s.arr)
          ∧ (g.norec = false → cellsOf t (kennelLoc g.recordAt) = some (wordCells s (kennelLoc g.recordAt) (plain record))
              ∧ ∀ loc, loc < 2 ^ 19 → loc ≠ kennelLoc g.recordAt → cellsOf t loc = cellsOf s loc)
          ∧ t.seq = { s.seq with
              quiet := false, evNext := if g.evt < 64 then s.seq.evNext ||| BitVec.ofNat 64 (2 ^ g.evt) else s.seq.evNext }
          ∧ t.saf = (if r.status = .ok then s else report 0x58 0 0 (moveDetail record) s).saf
          ∧ t.out.egress = s.out.egress ∧ (∀ o ∈ t.out.orig, ∀ n off w, o.who ≠ .move e n off w))
    ∧ (g.busy = true → g.muz = false → g.parityBad = false → s.saf.fatal = false → g.timedOut = false → 1 ≤ g.mwdog → g.mwdog ≤ g.age →
        g.ended.isSome = true ∨ g.finished = false →
        ∃ t, exec (.moveWatchdogExpiry e) s = .next t
          ∧ engineOf t e = { g with timedOut := true, ended := match g.ended with
              | some x => some x
              | none => some { status := .poison, cause := 3, line := 0 } }
          ∧ others t ∧ t = { s with mov := { s.mov with eng := t.mov.eng } })

/-! ### Answers to the slice -/

/-- Memory messages from XP (R426 to R429): words that an entry awaits pass the ingress check until 4 sc later, and are poisoned
where the status is not 0; an acknowledgement frees its eviction buffer entry whatever its status; what no entry awaits is
counted. In FATAL neither has an effect, nor has any answer but those of report and heartbeat writes (R403). Answers that name no awaited
request have none either. -/
def Obligations.XpAnswersAnswer : Prop :=
  ∀ (s : State) (txn : BitVec 16) (status : BitVec 5) (mask : BitVec 8) (words : List (BitVec 3 × CodeWord)), inUse s →
    let unexpected : State := { s with lnk := { s.lnk with xpUnex := min 255 (s.lnk.xpUnex + 1) } }
    let rsp : Instr := .xrsp txn status mask words
    let ack : Instr := .xack txn status
    let taken := (words.filter fun p => mask.getLsbD p.1.toNat).map fun p =>
      (p.1.toNat, ({ p.2 with poison := p.2.poison || decide (status ≠ 0) } : CodeWord))
    (hears s rsp → hears s ack → s.saf.fatal = true → exec rsp s = .next (arrived rsp s) ∧ exec ack s = .next (arrived ack s))
    ∧ (hears s rsp → hears s ack → s.saf.fatal = false →
      (∀ m, txn.toNat < 32 → tfind s.cache.miss txn.toNat = some m → m.asked ≠ m.got →
        exec rsp s = .next (arrived rsp
          { chargeXp m.cls taken.length s with
            fg := { s.fg with xpIn := s.fg.xpIn ++ [{ due := s.env.sc + 4, txn := txn.toNat, words := taken }] } }))
      ∧ (∀ f, 32 ≤ txn.toNat → txn.toNat < 64 → tfind s.cache.fb (txn.toNat - 32) = some f → f.asked ≠ f.got →
        exec rsp s = .next (arrived rsp
          { chargeXp f.cls taken.length s with
            fg := { s.fg with xpIn := s.fg.xpIn ++ [{ due := s.env.sc + 4, txn := txn.toNat, words := taken }] } }))
      ∧ (64 ≤ txn.toNat → exec rsp s = .next (arrived rsp unexpected))
      ∧ (txn.toNat < 32 → (∀ m, tfind s.cache.miss txn.toNat = some m → m.asked = m.got) →
          exec rsp s = .next (arrived rsp unexpected))
      ∧ (32 ≤ txn.toNat → txn.toNat < 64 → (∀ f, tfind s.cache.fb (txn.toNat - 32) = some f → f.asked = f.got) →
          exec rsp s = .next (arrived rsp unexpected))
      ∧ (∀ x ∈ s.cache.ev, txn.toNat = 64 + x.index → x.index < 16 → x.sent = true →
          (∀ v ∈ s.cache.victims, v.step ≠ .awaitBuffer) → exec ack s = .next (arrived ack { s with
            cache := { s.cache with ev := s.cache.ev.filter fun y => y.index != x.index }
            lnk := { s.lnk with xpWerr := if status = 0 then s.lnk.xpWerr else min 255 (s.lnk.xpWerr + 1) } }))
      ∧ ((∀ x ∈ s.cache.ev, txn.toNat = 64 + x.index → x.index < 16 → x.sent = false) →
          exec ack s = .next (arrived ack unexpected)))
    ∧ (∀ h m data succ (args : BitVec 4) (c : Instr), hears s c → (awaiting s h.txn = none
        ∨ (s.saf.fatal = true ∧ ∀ x, awaiting s h.txn = some x → x.who ≠ .report ∧ x.who ≠ .heartbeat)) →
      c ∈ [.cmp h, .sts h status, .pkrsp h status, .atrsp h status succ data, .callrsp h status args data, .datau h m data] →
        exec c s = .next (arrived c s))

/-- Answers to requests that the slice sent (R278, R286, R296, R306, R313, R322, R327, R407, R409). The request is no longer
awaited. An instruction whose last answer comes completes with the status, and with its registers on success; poisoned data gives
POISON. A line of a move is done, is to be sent again on NACK-RETRY or PARKED, or ends the move, of several in one sc the one issued
first. A report whose write completes
leaves the queue; one refused for good is discarded and reported. -/
def Obligations.SliceAnswersAnswer : Prop :=
  ∀ (s : State) (h : Hdr) (o : Originated), inUse s → s.saf.fatal = false → awaiting s h.txn = some o →
    let gone : State := { s with out := { s.out with orig := s.out.orig.filter fun p => p.txn != h.txn } }
    let arrives (i : Instr) (t : State) : Prop := hears s i → exec i s = .next (arrived i t)
    let ends (i : Instr) (c id : Nat) (st : Status) (regs : List (Nat × Word64)) : Prop := hears s i → ∃ t, exec i s = .next t
      ∧ t.seq.done = s.seq.done ++ [Result.mk s.env.sc c id (some st) regs []]
      ∧ t.out = gone.out ∧ t.mov = s.mov ∧ t.red = s.red ∧ t.saf = s.saf ∧ t.arr = s.arr
    let last (c id : Nat) (gather : Gather) : Prop := ∃ p, pendOf s c id = some p ∧ p.left = 1 ∧ p.bad = none ∧ p.words = []
      ∧ p.gather = gather
    let line (e : Nat) (off : Nat) (write : Bool) : BitVec 40 :=
      BitVec.ofNat 40 (((if write ∨ (engineOf s e).kind ≠ 0 then (engineOf s e).dst else (engineOf s e).src) + off) / 256)
    let at' (off : Nat) (write : Bool) (r : MoveReq) : Bool := r.off == off && r.write == write
    let moves (i : Instr) (e : Nat) (off : Nat) (write : Bool) (f : Engine → Prop) : Prop :=
      hears s i → (engineOf s e).parityBad = false → ∃ t, exec i s = .next t
      ∧ t.out = gone.out ∧ f (engineOf t e) ∧ (∀ d, d ≠ e → engineOf t d = engineOf s d)
      ∧ ((engineOf t e).flight = (engineOf s e).flight.filter (fun r => !at' off write r)) ∧ t.seq = s.seq ∧ t.saf = s.saf
    let fault (e off : Nat) (write : Bool) (st : Status) (r : MoveReq) : Option MoveEnd :=
      if (engineOf s e).ended = none ∨ ((engineOf s e).endKey.1 = s.env.sc ∧ r.num < (engineOf s e).endKey.2)
      then some { status := st, cause := if write then 2 else 1, line := line e off write } else (engineOf s e).ended
    (∀ c id, o.who = .seqStore c id → last c id (.store none) → ends (.cmp h) c id .ok [])
    ∧ (∀ e n off r, o.who = .move e n off true → carries s e n = true → (engineOf s e).flight.find? (at' off true) = some r →
        moves (.cmp h) e off true (fun g => (engineOf s e).parts = [] → (engineOf s e).done = off → g.done = off + r.len))
    ∧ (o.who = .report → arrives (.cmp h) { gone with saf := { s.saf with queue := s.saf.queue.drop 1, rptFlight := none } })
    ∧ (o.who = .heartbeat → s.saf.hbFlight = some h.txn → arrives (.cmp h) { gone with saf := { s.saf with hbFlight := none } })
    ∧ (∀ c id gd k mask crit data w, o.who = .seqRead c id [(k, 0)] → last c id (.load gd none) → o.msg.body = .readReq mask crit →
        data.length = 2 * (bitsOf mask).length → data[k]? = some w →
        (w.poison = false → ends (.datau h mask data) c id .ok (regsOf gd w.data))
        ∧ (w.poison = true → ends (.datau h mask data) c id .poison []))
    ∧ (∀ e n off mask crit data r, o.who = .move e n off false → carries s e n = true →
        (engineOf s e).flight.find? (at' off false) = some r → r.write = false → o.msg.body = .readReq mask crit →
        data.length = 2 * (bitsOf mask).length → mask ≠ 0 →
        let words := (data.drop (((engineOf s e).src + off) / 32 % 2)).take
          ((linePart (engineOf s e).src (engineOf s e).len (((engineOf s e).src + off) / 256)).2 / 32)
        ((∀ w ∈ words, w.poison = false) → moves (.datau h mask data) e off false (fun g => g.ended = (engineOf s e).ended
            ∧ ∀ i w, words[i]? = some w → tfind g.buf (off / 32 + i) = some w))
        ∧ ((∃ w ∈ words, w.poison = true) → moves (.datau h mask data) e off false (fun g => g.ended = fault e off false .poison r)))
    ∧ (∀ status : BitVec 5, status = 0 → arrives (.sts h status) s)
    ∧ (∀ status : BitVec 5, status ≠ 0 →
      let st := statusOf status.toNat
      let again := st = .nackRetry ∨ st = .parked
      (∀ c id, o.who = .seqStore c id → last c id (.store none) → ends (.sts h status) c id st [])
      ∧ (∀ c id want gd, o.who = .seqRead c id want → last c id (.load gd none) → ends (.sts h status) c id st [])
      ∧ (∀ c id, (∃ gd w, o.who = .atom c id gd w) ∨ o.who = .pctb c id ∨ (∃ gd r, o.who = .call c id gd r) →
          ends (.sts h status) c id st [])
      ∧ (∀ e n off w r, o.who = .move e n off w → carries s e n = true → again → (engineOf s e).flight.find? (at' off w) = some r →
          hears s (.sts h status) → (engineOf s e).parityBad = false → ∃ t, exec (.sts h status) s = .next t ∧ t.out = gone.out
            ∧ engineOf t e = { engineOf s e with again := (engineOf s e).again ++ [r] })
      ∧ (∀ e n off w r, o.who = .move e n off w → carries s e n = true → ¬ again →
          (engineOf s e).flight.find? (at' off w) = some r → r.write = w →
          moves (.sts h status) e off w (fun g => g.ended = fault e off w st r))
      ∧ (∀ r rest, o.who = .report → s.saf.queue = r :: rest → again → hears s (.sts h status) → ∃ t m, exec (.sts h status) s = .next t
          ∧ t.out.egress = s.out.egress ++ [m] ∧ m.data = [plain r] ∧ t.saf = { s.saf with rptFlight := some m.txn })
      ∧ (∀ r rest, o.who = .report → s.saf.queue = r :: rest → ¬ again → hears s (.sts h status) → ∃ t, exec (.sts h status) s = .next t
          ∧ t.out = gone.out ∧ t.saf = (reportUnqueued 0x71 0 0 (detailN (r.toNat % 2 ^ 16) 0)
              { s with saf := { s.saf with queue := rest, rptFail := true, rptFlight := none } }).saf)
      ∧ (o.who = .heartbeat → s.saf.hbFlight = some h.txn → again → hears s (.sts h status) → ∃ t m, exec (.sts h status) s = .next t
          ∧ t.out.egress = s.out.egress ++ [m] ∧ m.data = [plain s.saf.hbRecord] ∧ t.saf = { s.saf with hbFlight := some m.txn })
      ∧ (o.who = .heartbeat → s.saf.hbFlight = some h.txn → ¬ again → hears s (.sts h status) → ∃ t, exec (.sts h status) s = .next t
          ∧ t.out = gone.out ∧ t.saf = (report 0x70 0 0 0 { s with saf := { s.saf with hbFail := true, hbFlight := none } }).saf))
    ∧ (∀ (status : BitVec 5) succ data c id gd writes, o.who = .atom c id gd writes →
      let w : CodeWord := data.headD { data := 0, poison := true }
      let st := statusOf status.toNat
      let i : Instr := .atrsp h status succ data
      (st = .ok → writes = true → w.poison = false → ends i c id .ok (regsOf gd w.data))
      ∧ (st = .ok → writes = true → w.poison = true → ends i c id .poison [])
      ∧ (st ≠ .ok ∨ writes = false → ends i c id st []))
    ∧ (∀ (status : BitVec 5) c id, o.who = .pctb c id → ends (.pkrsp h status) c id (statusOf status.toNat) [])
    ∧ (∀ (status : BitVec 5) (n : BitVec 4) data c id gd reply, o.who = .call c id gd reply →
      let w : CodeWord := data.headD { data := 0, poison := true }
      let st := statusOf status.toNat
      let i : Instr := .callrsp h status n data
      (reply = false → ends i c id st [(gd, n.zeroExtend 64)])
      ∧ (reply = true → st = .ok → w.poison = false → ends i c id .ok (regsOf gd w.data))
      ∧ (reply = true → st = .ok → w.poison = true → ends i c id .poison [])
      ∧ (reply = true → st ≠ .ok → ends i c id st []))

/-- Reports (R404 to R407, Table 15.5). A report takes the number after the last, 0 left out, is the newest of the 16 records of
the log, and enters the queue unless 64 are queued, when it counts as lost; two of one sc are numbered by EVENT at its end, whatever
the order in which they were formed. REPORT_WRITE sends the oldest queued record, in class
SCLASS, to the place in the ring that its number names; a place in this slice's own window is a failed write. -/
def Obligations.ReportsAnswer : Prop :=
  (∀ (s : State) (ev react muz detail : Nat), ev < 2 ^ 8 → react < 2 ^ 8 → muz < 2 ^ 16 → detail < 2 ^ 128 →
    let t := report ev react muz detail s
    let seq : Word32 := if s.saf.seq = 0xFFFFFFFF#32 then 1 else s.saf.seq + 1
    t = { s with saf := t.saf } ∧ t.saf.seq = seq ∧ t.saf.pend = true
    ∧ ∃ r, t.saf.log = r :: s.saf.log.take 15
      ∧ r.extractLsb' 0 32 = seq ∧ r.extractLsb' 80 8 = BitVec.ofNat 8 ev ∧ r.extractLsb' 88 8 = BitVec.ofNat 8 react
      ∧ r.extractLsb' 96 16 = BitVec.ofNat 16 muz ∧ r.extractLsb' 128 128 = BitVec.ofNat 128 detail
      ∧ (s.saf.queue.length < 64 → t.saf.queue = s.saf.queue ++ [r] ∧ t.saf.lostRun = 0 ∧ t.saf.lost = s.saf.lost
          ∧ r.extractLsb' 112 16 = BitVec.ofNat 16 (min s.saf.lostRun 65535))
      ∧ (64 ≤ s.saf.queue.length → t.saf.queue = s.saf.queue ∧ t.saf.lostRun = s.saf.lostRun + 1
          ∧ t.saf.lost = min 65535 (s.saf.lost + 1)
          ∧ r.extractLsb' 112 16 = BitVec.ofNat 16 (min (s.saf.lostRun + 1) 65535)))
  ∧ (∀ (s : State) (a b da db : Nat), b < a → a < 2 ^ 8 → s.saf.formed = [] → s.saf.queue = [] →
      let t := orderReports (report b 0 0 db (report a 0 0 da s))
      ∃ x y, t.saf.log = x :: y :: s.saf.log.take 14 ∧ t.saf.queue = [y, x]
        ∧ y.extractLsb' 80 8 = BitVec.ofNat 8 b ∧ y.extractLsb' 0 32 = nextSeq s.saf.seq
        ∧ x.extractLsb' 80 8 = BitVec.ofNat 8 a ∧ x.extractLsb' 0 32 = nextSeq (nextSeq s.saf.seq))
  ∧ (∀ (s : State) (r : Code) (rest : List Code), inUse s → s.saf.rptEn = true → s.env.pkAck = false → s.saf.rptFlight = none →
      s.saf.queue = r :: rest → (∀ p ∈ s.saf.formed, p.1 ≠ r) →
      let n := 2 ^ s.saf.ringLog2.toNat
      let place : BitVec 43 := BitVec.ofNat 43 (s.saf.rptBase.toNat / n * n + (r.extractLsb' 0 32).toNat % n)
      (ownKennel s (lineOf43 place) = none → ∃ t m, exec .reportWrite s = .next t
        ∧ t.out.egress = s.out.egress ++ [m] ∧ m.op = 5 ∧ m.cls = .req ∧ m.line = lineOf43 place ∧ m.label = s.saf.sclass.toNat
        ∧ m.data = [plain r] ∧ m.body = .cwMask (BitVec.ofNat 8 (2 ^ (place.toNat % 8)))
        ∧ t.out.orig = s.out.orig ++ [Originated.mk m.txn .report m]
        ∧ t.saf = { s.saf with rptFlight := some m.txn })
      ∧ (ownKennel s (lineOf43 place) ≠ none → ∃ t, exec .reportWrite s = .next t ∧ t.out = s.out
        ∧ t.saf = (reportUnqueued 0x71 0 0 (detailN (r.toNat % 2 ^ 16) 0)
            { s with saf := { s.saf with queue := rest, rptFail := true, rptFlight := none } }).saf))

/-! ### Zellek -/

/-- The encoding of Zellek (R268 to R270, Table 10.2): a word decodes to an instruction exactly where it is that instruction's
encoding, with every unused field zero; CTXC decodes for context 0 alone. Every other word is ILLEGAL. The IMM field of an ALU
instruction that takes its second operand from a register is not looked at (R283). -/
def Obligations.ZellekEncodingIsExact : Prop :=
  ∀ (c : Nat) (w : Word64) (z : Zellek),
    let read : Word64 := if w.extractLsb' 56 8 = 0x10 ∧ w.extractLsb' 36 4 = 0 then w &&& 0xFFFFFFFF00000000 else w
    zdecode c w = some z ↔ z.encode = read ∧ z.canonical = true ∧ (c = 0 ∨ ∀ o, z ≠ .ctxc o)

/-- Instructions that complete at issue with a result in the context (R279, R283, R284, R293, R303, R307, R312, Tables 10.3 and
10.4): each writes the registers named and nothing else of the context but PC. -/
def Obligations.ZellekComputeAnswers : Prop :=
  ∀ (s : State) (c : Fin 16),
    let x := getCtx s c
    let effect (i : Instr) (z : Zellek) (y : Ctx) : Prop :=
      Issues s c z → ∃ t, exec i s = .next t ∧ getCtx t c = stepped y ∧ Issued c s t
    let sets (i : Instr) (z : Zellek) (d : BitVec 4) (v : Word64) : Prop := effect i z ((fetched x).setReg d.toNat v)
    (∀ d a src,
      let p := x.reg a.toNat
      let q : Word64 := match src with
        | .reg b => x.reg b.toNat
        | .imm v => v.signExtend 64
      sets (.aluAdd c) (.alu .add d a src) d (p + q)
      ∧ sets (.aluSub c) (.alu .sub d a src) d (p - q)
      ∧ sets (.aluMul c) (.alu .mul d a src) d (p * q)
      ∧ sets (.aluAnd c) (.alu .and d a src) d (p &&& q)
      ∧ sets (.aluOr c) (.alu .or d a src) d (p ||| q)
      ∧ sets (.aluXor c) (.alu .xor d a src) d (p ^^^ q)
      ∧ sets (.aluShl c) (.alu .shl d a src) d (if q.toNat < 64 then BitVec.ofNat 64 (p.toNat * 2 ^ q.toNat) else 0)
      ∧ sets (.aluShr c) (.alu .shr d a src) d (if q.toNat < 64 then BitVec.ofNat 64 (p.toNat / 2 ^ q.toNat) else 0)
      ∧ sets (.aluSar c) (.alu .sar d a src) d (BitVec.ofInt 64 (p.toInt / 2 ^ (if q.toNat < 64 then q.toNat else 63)))
      ∧ sets (.aluSlt c) (.alu .slt d a src) d (if p.toInt < q.toInt then 1 else 0)
      ∧ sets (.aluSltu c) (.alu .sltu d a src) d (if p.toNat < q.toNat then 1 else 0)
      ∧ sets (.aluSeq c) (.alu .seq d a src) d (if p = q then 1 else 0)
      ∧ sets (.aluMin c) (.alu .min d a src) d (if p.toInt < q.toInt then p else q)
      ∧ sets (.aluMax c) (.alu .max d a src) d (if p.toInt < q.toInt then q else p))
    ∧ (∀ d v, sets (.movi c) (.movi d v) d (v.signExtend 64)
        ∧ sets (.movhi c) (.movhi d v) d (v ++ (x.reg d.toNat).extractLsb' 0 32))
    ∧ (∀ d, sets (.movst c) (.movst d) d (BitVec.ofNat 64 (x.lastSts.toNat + if x.heelLate then 32 else 0))
        ∧ sets (.evrd c) (.evrd d) d s.seq.events
        ∧ sets (.rdcnt c) (.rdcnt d) d (if s.tick.cntValid then s.tick.counter else 0)
        ∧ sets (.rdfrm c) (.rdfrm d) d
            (if s.tick.cntValid then BitVec.ofNat 64 (s.tick.counter.toNat / 2 ^ s.tick.frameLog2.toNat) else 0))
    ∧ effect (.nop c) .nop (fetched x) ∧ effect (.fence c) .fence (fetched x)
    ∧ (∀ k, effect (.labelI c) (.labelI k) { fetched x with cls := k.toNat })
    ∧ (∀ d, effect (.tzero c) (.tzero d)
        ((fetched x).setBlocks ((List.range 4).map fun b => (d.toNat * 4 + b, TileBlock.zero))))
    ∧ (∀ d a, effect (.tmov c) (.tmov d a)
        ((fetched x).setBlocks ((List.range 4).map fun b => (d.toNat * 4 + b, x.block a.toNat b))))

/-- Control, events and heels (R246, R254, R263, R270, R271, R280 to R282, R301, R302, R24, R304). A branch goes to its target,
whose instruction issues 2 sc later at the earliest. A word that is illegal, a double error, and a parity failure fault the
context with PC at the instruction. END sends the reply owed, with g0 to g3, and the context is idle; a reply that a fault sends
leaves 4 sc later (entry 19). A wait whose condition holds completes at once. -/
def Obligations.ZellekControlAnswers : Prop :=
  ∀ (s : State) (c : Fin 16),
    let x := getCtx s c
    let effect (i : Instr) (z : Zellek) (u : State) (y : Ctx) : Prop :=
      Issues s c z → ∃ t, exec i s = .next t ∧ getCtx t c = stepped y ∧ Issued c u t
    let goes (y : Ctx) (target : BitVec 14) : Ctx := { y with pc := target, after := s.env.sc + 2 }
    let bounds (y : Ctx) : Ctx := y.setSts 4 s.seq.nextId
    let faults (i : Instr) (cause : Nat) : Prop := ∃ t, exec i s = .next t
      ∧ (getCtx t c).state = .fault ∧ (getCtx t c).cause = BitVec.ofNat 4 cause ∧ (getCtx t c).pc = x.pc ∧ (getCtx t c).g = x.g
      ∧ (∀ d, d ≠ c.val → getCtx t d = getCtx s d)
      ∧ t.saf = (report 0x51 1 (0x7000 + c.val) (detailC c x.pc.toNat cause 0) s).saf
      ∧ ((∀ k, x.call = some k → k.reply = false) → t.out = s.out)
      ∧ (∀ k, x.call = some k → k.reply = true → k.port ≠ .xp → ∃ m, t.out.egress = s.out.egress ++ [m] ∧ m.op = 0xA
          ∧ m.body = .callRsp .poison (BitVec.ofNat 4 c) ∧ m.txn = k.txn ∧ m.data = [] ∧ m.ready = s.env.sc + 4)
    (∀ target, effect (.br c) (.br target) s (goes (fetched x) target))
    ∧ (∀ k a b target,
      let p := x.reg a.toNat
      let q := x.reg b.toNat
      let taken : Prop := match k with
        | .eq => p = q
        | .ne => p ≠ q
        | .lt => p.toInt < q.toInt
        | .ge => q.toInt ≤ p.toInt
        | .ltu => p.toNat < q.toNat
        | .geu => q.toNat ≤ p.toNat
      (taken → effect (.bcc c) (.bcc k a b target) s (goes (fetched x) target))
      ∧ (¬ taken → effect (.bcc c) (.bcc k a b target) s (fetched x)))
    ∧ (∀ neg ref target,
      let hit : Prop := x.lastSts = ref.getD 0
      ((neg = false ↔ hit) → effect (.bst c) (.bst neg ref target) s (goes (fetched x) target))
      ∧ (¬ (neg = false ↔ hit) → effect (.bst c) (.bst neg ref target) s (fetched x)))
    ∧ (∀ d target, effect (.jal c) (.jal d target) s
        (goes ((fetched x).setReg d.toNat ((x.pc + 1).zeroExtend 64)) target))
    ∧ (∀ a, effect (.jr c) (.jr a) s (goes (fetched x) ((x.reg a.toNat).extractLsb' 0 14)))
    ∧ (inUse s → mayIssue s c = true →
      ((fetch s c).1 = 2 → faults (.nop c) 2)
      ∧ ((fetch s c).1 ≠ 2 → zdecode c (fetch s c).2 = none → faults (.illegal c) 1)
      ∧ (∀ z, nextInsn s c = some z → readsBad x z = true → faults (z.row c) 3))
    ∧ (Issues s c .endI → ∃ t, exec (.endI c) s = .next t ∧ (getCtx t c).state = .idle ∧ (getCtx t c).pend = []
        ∧ (getCtx t c).call = none ∧ (getCtx t c).g = x.g ∧ Issued c { s with out := t.out, fg := t.fg } t
        ∧ ((∀ k, x.call = some k → k.reply = false) → t.out = s.out ∧ t.fg = s.fg)
        ∧ (∀ k, x.call = some k → k.reply = true → k.port ≠ .xp → ∃ m, t.out.egress = s.out.egress ++ [m] ∧ m.op = 0xA
            ∧ m.body = .callRsp .ok (BitVec.ofNat 4 c) ∧ m.txn = k.txn ∧ m.ready = s.env.sc + 9
            ∧ m.data = [plain (x.reg 3 ++ x.reg 2 ++ x.reg 1 ++ x.reg 0)]))
    ∧ (∀ a, effect (.evset c) (.evset a) { s with seq := { s.seq with evNext := s.seq.evNext ||| x.reg a.toNat } } (fetched x))
    ∧ (∀ a, effect (.evclr c) (.evclr a) { s with seq := { s.seq with events := s.seq.events &&& ~~~(x.reg a.toNat) } }
        (fetched x))
    ∧ (∀ a all use,
      let m := x.reg a.toNat
      let i : Instr := .evwait c
      let z : Zellek := .evwait a all use
      let waits : Ctx := { fetched x with state := .wait, wait := .events m all use }
      let hit : Prop := (all = true ∧ s.seq.events &&& m = m) ∨ (all = false ∧ s.seq.events &&& m ≠ 0)
      (m = 0 → effect i z s (bounds (fetched x)))
      ∧ (m ≠ 0 → ¬ hit → effect i z s waits)
      ∧ (m ≠ 0 → hit → effect i z
          { s with seq := { s.seq with events := if use then s.seq.events &&& ~~~m else s.seq.events } }
          (released s.seq.nextId waits)))
    ∧ (∀ a frame,
      let l := s.tick.frameLog2.toNat
      let g := (x.reg a.toNat).toNat
      let h := if frame then g * 2 ^ l else g
      let good : Prop := s.tick.cntValid = true ∧ h < 2 ^ 64 ∧ s.tick.counter.toNat < h ∧ h ≤ s.tick.counter.toNat + 2 ^ 36
      let y : Ctx := { fetched x with heelLate := false }
      (good → effect (.heel c) (.heel a frame) s { y with state := .wait, wait := .heel (BitVec.ofNat 64 h) })
      ∧ (¬ good → effect (.heel c) (.heel a frame) s (bounds y)))

/-- Streams and context control (R244, R245, R258, R261, R308 to R311, R314, R386, Table 10.5): their statuses, and what they do on
success. The words of SCABS and of an image are read at once (entry 18); the reads of an image end 51 sc later (entry 20). -/
def Obligations.ZellekServicesAnswer : Prop :=
  ∀ (s : State) (c : Fin 16),
    let x := getCtx s c
    let id := s.seq.nextId
    let effect (i : Instr) (z : Zellek) (u : State) (y : Ctx) : Prop :=
      Issues s c z → ∃ t, exec i s = .next t ∧ getCtx t c = stepped y ∧ Issued c u t
    let gives (st : Status) (y : Ctx) : Ctx := y.setSts (statusCode st) id
    let z5 (z : Zellek) : Ctx := opened (fetched x) (entryOf z id false false .nothing 1)
    (∀ k : BitVec 4,
      let r := getStream s k.toNat
      let with' (f : Stream → Stream) : State := setStream k.toNat f s
      (∀ d, r.seedBad = false → r.stepBad = false →
          effect (.steprd c) (.steprd d k) s ((fetched x).setReg d.toNat (r.step.zeroExtend 64)))
      ∧ (∀ a, r.seedBad = false → r.stepBad = false →
          let v := x.reg a.toNat
          (v.toNat < 2 ^ 48 → effect (.stepadd c) (.stepadd a k)
            (with' fun r => { r with step := r.step + BitVec.ofNat 48 v.toNat }) (gives .ok (fetched x)))
          ∧ (2 ^ 48 ≤ v.toNat → effect (.stepadd c) (.stepadd a k) s (gives .bounds (fetched x))))
      ∧ effect (.scclr c) (.scclr k) (with' fun r => { r with acc := 0, leaves := 0, spoiled := false, scentBad := false }) (fetched x)
      ∧ (∀ p, r.scentBad = false →
          let d := digest r.acc r.leaves
          (r.spoiled = true → effect (.scrd c) (.scrd p k) s (gives .poison (fetched x)))
          ∧ (r.spoiled = false → effect (.scrd c) (.scrd p k) s (gives .ok
              (((fetched x).setReg (2 * p.toNat) (d.extractLsb' 0 64)).setReg (2 * p.toNat + 1) (d.extractLsb' 64 64)))))
      ∧ (∀ a b,
          let off := (x.reg a.toNat).toNat
          let n := (x.reg b.toNat).toNat
          let good : Prop := off < 2 ^ 24 ∧ off % 32 = 0 ∧ n ≤ 2048 ∧ off + 32 * n ≤ kennelEnd s
            ∧ (n = 0 ∨ inStage s off (off + 32 * n) = false)
          let i : Instr := .scabs c
          let z : Zellek := .scabs a b k
          (¬ good → effect i z s (gives .bounds (fetched x)))
          ∧ (good → n = 0 → effect i z s (gives .ok (fetched x)))
          ∧ (∀ ws : List Code, good → n ≠ 0 → ws.length = n → HoldsWords s off ws → ChannelsSound s → r.scentBad = false →
              (∀ j, j < n → readRefused s [off + 32 * j] = none) → Issues s c z →
              let due := max (s.env.sc + 17) (r.busy + 1) + n
              ∃ t, exec i s = .next t ∧ getCtx t c = stepped (z5 z)
                ∧ getStream t k.toNat = { r with acc := ws.foldl absorb r.acc, leaves := r.leaves + BitVec.ofNat 64 n, busy := due }
                ∧ t.seq.done = s.seq.done ++ [Result.mk due c id (some .ok) [] []] ∧ t.out = s.out ∧ t.saf = s.saf)))
    ∧ (∀ a g pc cls,
      let n := (x.reg a.toNat).toNat
      let may : Prop := n < 16 ∧ n ≠ 0 ∧ (getCtx s n).state = .idle ∧ s.seq.pool.getLsbD (n - 1) = false
      let z : Zellek := .ctxc (.start a g pc cls)
      (¬ may → effect (.ctxcStart c) z s (gives .bounds (fetched x)))
      ∧ (may → Issues s c z → ∃ t, exec (.ctxcStart c) s = .next t ∧ getCtx t c = stepped (gives .ok (fetched x))
          ∧ (getCtx t n).state = .ready ∧ (getCtx t n).pc = pc ∧ (getCtx t n).cls = cls.toNat ∧ (getCtx t n).call = none
          ∧ (∀ k, k < 16 → (getCtx t n).reg k = if k < 4 then x.reg (4 * g.toNat + k) else 0)
          ∧ (∀ d, d ≠ n → d ≠ c.val → getCtx t d = getCtx s d) ∧ t.out = s.out))
    ∧ (∀ a,
      let n := (x.reg a.toNat).toNat
      let live : Prop := n < 16 ∧ n ≠ 0 ∧ (getCtx s n).live = true
      let maySuspend : Prop := live ∧ (getCtx s n).state ≠ .susp ∧ (getCtx s n).state ≠ .xfer ∧ saveRegionOk s = true
      let mayRestore : Prop := n < 16 ∧ n ≠ 0 ∧ ((getCtx s n).state = .idle ∨ (getCtx s n).state = .susp) ∧ saveRegionOk s = true
      (¬ live → effect (.ctxcStop c) (.ctxc (.stop a)) s (gives .bounds (fetched x)))
      ∧ (live → Issues s c (.ctxc (.stop a)) → ∃ t, exec (.ctxcStop c) s = .next t
          ∧ getCtx t c = stepped (gives .ok (fetched x)) ∧ (getCtx t n).state = .idle ∧ (getCtx t n).pend = []
          ∧ (∀ d, d ≠ n → d ≠ c.val → getCtx t d = getCtx s d) ∧ (∀ w ∈ t.ken.waits, ∀ j, w.party ≠ .ctx n j))
      ∧ (¬ maySuspend → effect (.ctxcSuspend c) (.ctxc (.suspend a)) s (gives .bounds (fetched x)))
      ∧ (maySuspend → Issues s c (.ctxc (.suspend a)) → ∃ t, exec (.ctxcSuspend c) s = .next t
          ∧ getCtx t c = stepped (gives .ok (fetched x)) ∧ getCtx t n = { getCtx s n with suspPend := true }
          ∧ (∀ d, d ≠ n → d ≠ c.val → getCtx t d = getCtx s d) ∧ t.out = s.out)
      ∧ (¬ mayRestore → effect (.ctxcRestore c) (.ctxc (.restore a)) s (gives .bounds (fetched x)))
      ∧ (∀ ws : List Code, mayRestore → ws.length = 70 → HoldsWords s (imageOffset s n) ws → Issues s c (.ctxc (.restore a)) →
          ∃ t, exec (.ctxcRestore c) s = .next t ∧ getCtx t c = stepped (z5 (.ctxc (.restore a)))
            ∧ (imageOk n (ws.map plain) = true → t.seq.done = s.seq.done ∧ getCtx t n = { getCtx s n with
                state := .xfer, image := some { words := ws, readAt := s.env.sc + 51, ready := false, asker := some id,
                                                susp := decide ((getCtx s n).state = .susp) } })
            ∧ (imageOk n (ws.map plain) = false → getCtx t n = getCtx s n
                ∧ t.seq.done = s.seq.done ++ [Result.mk (s.env.sc + 51) c id (some .bounds) [] []])))
    ∧ (∀ bits, effect (.ctxcPool c) (.ctxc (.pool bits)) { s with seq := { s.seq with pool := bits } } (gives .ok (fetched x)))

/-- Loads, stores, prefetches and tile arithmetic (R275, R276, R279, R285 to R294, R471, R472). An address out of range or not
aligned gives BOUNDS at issue. A line in this slice's own kennel window is an array access that is ready 6 sc later, or its
refusal (PARKED while the slice drains, R436), a load's 17 sc and a store's 14 sc later; another line is a request whose header leaves 4 sc later (entry 19). The tile
unit's results, MUZZLED among them (entry 33), come 4 sc later, or after the repeats of its adds; one that cannot be formed is
POISON. -/
def Obligations.ZellekMemoryAnswers : Prop :=
  ∀ (s : State) (c : Fin 16),
    let x := getCtx s c
    let id := s.seq.nextId
    let sc := s.env.sc
    let effect (i : Instr) (z : Zellek) (u : State) (y : Ctx) : Prop :=
      Issues s c z → ∃ t, exec i s = .next t ∧ getCtx t c = stepped y ∧ Issued c u t
    let bounds : Ctx := (fetched x).setSts 4 id
    let wrong (e : Word64) (k : Nat) : Prop := 2 ^ 48 ≤ e.toNat ∨ e.toNat % k ≠ 0
    let ea (a : BitVec 4) (v : BitVec 32) : Word64 := x.reg a.toNat + v.signExtend 64
    let refusal (off35 : Nat) (write : Bool) (p : LinePart) : Option Status :=
      if draining s = true then some .parked else kennelRefused s off35 (ctxHolder c) write p.mask
    let loads (i : Instr) (z : Zellek) (a : Nat) (ks : List Nat) (gather : Gather) : Prop :=
      let parts := lineParts a ks
      let secs (p : LinePart) := sectorsOf p.mask
      ((∀ p ∈ parts, ownKennel s p.line = none) → effect i z
        (parts.foldl (fun u p => originate (some (.seqRead c id p.want))
          (ctxRequest u c 3 p.line (.readReq (secs p) (BitVec.ofNat 2 ((bitsOf (secs p)).headD 0))) []) u) s)
        (opened (fetched x) (entryOf z id true false gather parts.length)))
      ∧ (∀ p off35, parts = [p] → ownKennel s p.line = some off35 → ChannelsSound s →
          refusal off35 false p = none → effect i z
          (enqueue (readAccess (sc + 6) x.cls 2 true ((bitsOf (secs p)).map fun j => kennelLoc (off35 % 2 ^ 24 + 64 * j) / 2)
            (.seqRead c id p.want)) s)
          (opened (fetched x) (entryOf z id false false gather 1)))
      ∧ (∀ p off35 st, parts = [p] → ownKennel s p.line = some off35 → ChannelsSound s → x.pend = [] →
          refusal off35 false p = some st → effect i z
          (complete (Result.mk (sc + 17) c id (some st) [] []) s)
          (opened (fetched x) { entryOf z id false false gather 1 with left := 0, bad := some st }))
    let stores (i : Instr) (z : Zellek) (a : Nat) (words : List Code) (sat : Option (Nat × Nat)) : Prop :=
      let parts := lineParts a (List.range words.length)
      let data (p : LinePart) := p.words words
      ((∀ p ∈ parts, ownKennel s p.line = none) → effect i z
        (parts.foldl (fun u p => originate (some (.seqStore c id))
          (if (data p).length = 8 then ctxRequest u c 4 p.line .none ((data p).map Prod.snd)
           else ctxRequest u c 5 p.line (.cwMask p.mask) ((data p).map Prod.snd)) u) s)
        (opened (fetched x) (entryOf z id true true (.store sat) parts.length)))
      ∧ (∀ p off35, parts = [p] → ownKennel s p.line = some off35 → ChannelsSound s →
          refusal off35 true p = none → effect i z
          (enqueue (writeAccess (sc + 6) x.cls 2 true ((data p).map fun w => (kennelLoc (off35 % 2 ^ 24 + 32 * w.1), w.2))
            (.store c id)) s)
          (opened (fetched x) (entryOf z id false true (.store sat) 1)))
      ∧ (∀ p off35 st, parts = [p] → ownKennel s p.line = some off35 → ChannelsSound s →
          refusal off35 true p = some st → effect i z
          (complete (Result.mk (sc + 14) c id (some st) [] []) s)
          (opened (fetched x) (entryOf z id false true (.store none) 1)))
    let tileDone (i : Instr) (z : Zellek) (d : BitVec 3) (blocks : List (Option TileBlock)) (exact : Prop) : Prop :=
      Issues s c z → ∃ t due, exec i s = .next t ∧ sc + 4 ≤ due ∧ (exact → due = sc + 4)
        ∧ getCtx t c = stepped (opened (fetched x) (entryOf z id false false .nothing 1))
        ∧ Issued c { complete (if blocks.any Option.isNone then Result.mk due c id (some .poison) [] []
            else Result.mk due c id (some .ok) [] (blocks.zipIdx.map fun b => (d.toNat * 4 + b.2, b.1.getD TileBlock.zero))) s with
            red := { s.red with slots := t.red.slots } } t
    let muzzled (i : Instr) (z : Zellek) : Prop := effect i z (complete (Result.mk (sc + 4) c id (some .muzzled) [] []) s)
      (opened (fetched x) (entryOf z id false false .nothing 1))
    (∀ g a v, (wrong (ea a v) 32 → effect (.ldw c) (.ldw g a v) s bounds)
      ∧ (¬ wrong (ea a v) 32 → loads (.ldw c) (.ldw g a v) (ea a v).toNat [0] (.load (4 * g.toNat) none)))
    ∧ (∀ d a v, (wrong (ea a v) 8 → effect (.ldd c) (.ldd d a v) s bounds)
      ∧ (¬ wrong (ea a v) 8 → loads (.ldd c) (.ldd d a v) ((ea a v).toNat / 32 * 32) [0]
          (.load d.toNat (some ((ea a v).toNat / 8 % 4)))))
    ∧ (∀ d a mask f v, (mask = 0 ∨ wrong (ea a v) (if f = .image then 64 else 32) → effect (.tld c) (.tld d a mask f v) s bounds)
      ∧ (mask ≠ 0 → ¬ wrong (ea a v) (if f = .image then 64 else 32) →
          loads (.tld c) (.tld d a mask f v) (ea a v).toNat (tileWords f mask) (.tile d.toNat mask f.code.toNat)))
    ∧ (∀ a g v, (wrong (ea a v) 32 → effect (.stw c) (.stw a g v) s bounds)
      ∧ (¬ wrong (ea a v) 32 → stores (.stw c) (.stw a g v) (ea a v).toNat
          [x.reg (4 * g.toNat + 3) ++ x.reg (4 * g.toNat + 2) ++ x.reg (4 * g.toNat + 1) ++ x.reg (4 * g.toNat)] none))
    ∧ (∀ d t b f v,
      let i : Instr := .tst c
      let z : Zellek := .tst d t b f v
      let r := tileElements (x.tile t.toNat) f.format (fun _ => none)
      (wrong (ea b v) 32 → effect i z s bounds)
      ∧ (¬ wrong (ea b v) 32 → f ≠ .image →
          stores i z (ea b v).toNat (elementWords (outputBytes f.format) r.1) (some (d.toNat, r.2)))
      ∧ (¬ wrong (ea b v) 32 → f = .image → tileImages (x.tile t.toNat) = none →
          effect i z s ((fetched x).setSts (statusCode .poison) id))
      ∧ (∀ words, ¬ wrong (ea b v) 32 → f = .image → tileImages (x.tile t.toNat) = some words →
          stores i z (ea b v).toNat words (some (d.toNat, 0))))
    ∧ (∀ d t b k f v,
      let i : Instr := .tst c
      let z : Zellek := .tstSr d t b k f v
      let y := getStream s k.toNat
      let fmt := f.toNat + 1
      let r := tileElements (x.tile t.toNat) fmt (fun j => some (srBits y.seed y.step ((ea b v).extractLsb' 0 48) j))
      (wrong (ea b v) 32 → effect i z s bounds)
      ∧ (¬ wrong (ea b v) 32 → y.seedBad = false → y.stepBad = false →
        (y.broken = true → effect i z (complete (Result.mk (sc + 14) c id (some .poison) [] []) s)
          (opened (fetched x) (entryOf z id false true (.store none) 1)))
        ∧ (y.broken = false → stores i z (ea b v).toNat (elementWords (outputBytes fmt) r.1) (some (d.toNat, r.2)))))
    ∧ (∀ a mask v,
      let e := ea a v
      let line := cwLine e.toNat 0
      (2 ^ 48 ≤ e.toNat → effect (.pf c) (.pf a mask v) s (fetched x))
      ∧ (e.toNat < 2 ^ 48 → ownKennel s line = none →
          effect (.pf c) (.pf a mask v) (originate none (ctxRequest s c 6 line (.sectors mask) []) s) (fetched x))
      ∧ (e.toNat < 2 ^ 48 → ownKennel s line ≠ none → findWay s line = none → effect (.pf c) (.pf a mask v)
          { s with bg := { s.bg with tel := { s.bg.tel with pfDrop := min 65535 (s.bg.tel.pfDrop + 1) } } } (fetched x)))
    ∧ (∀ d a b single, (s.red.muz = true → muzzled (.tadd c) (.tadd d a b single))
      ∧ (s.red.muz = false → tileDone (.tadd c) (.tadd d a b single) d
          (List.zipWith (fun p q => (addBlock single p q).1) (x.tile a.toNat) (x.tile b.toNat))
          (single = true ∧ tget 0 s.red.slots sc = 0)))
    ∧ (∀ d a single, (s.red.muz = true → muzzled (.tcvt c) (.tcvt d a single))
      ∧ (s.red.muz = false → tileDone (.tcvt c) (.tcvt d a single) d ((x.tile a.toNat).map (convertBlock single)) True))

/-- Instructions that use another unit (R191, R223, R295, R296, R298 to R300, R305, R306, R313, R316 to R319): packs,
contributions, channel slots, moves, atomics and calls. A descriptor is read as a kennel load reads; when it has come, the pack is
armed or the move taken, or refused, and the instruction completes. -/
def Obligations.ZellekUnitsAnswer : Prop :=
  ∀ (s : State) (c : Fin 16),
    let x := getCtx s c
    let id := s.seq.nextId
    let sc := s.env.sc
    let effect (i : Instr) (z : Zellek) (u : State) (y : Ctx) : Prop :=
      Issues s c z → ∃ t, exec i s = .next t ∧ getCtx t c = stepped y ∧ Issued c u t
    let gives (st : Status) (y : Ctx) : Ctx := y.setSts (statusCode st) id
    let plainEntry (z : Zellek) : Ctx := opened (fetched x) (entryOf z id false false .nothing 1)
    let ends (due : Nat) (st : Status) (regs : List (Nat × Word64)) (u : State) : State :=
      complete (Result.mk due c id (some st) regs []) u
    let kept (off n : Nat) : Access := readAccess (sc + 6) x.cls 2 true (kennelSecs off (32 * n))
      (.seqRead c id ((List.range n).map fun k => (off / 32 % 2 + k, k)))
    (∀ d a,
      let i : Instr := .parm c
      let z : Zellek := .parm d a
      let off := (x.reg a.toNat).toNat
      let bad : Prop := 2 ^ 24 ≤ off ∨ off % 32 ≠ 0
      let use : Handoff := .arm d.toNat x.cls ((List.range 16).map fun k => ((getStream s k).seed, (getStream s k).step))
      let y : Ctx := opened (fetched x) (entryOf z id false false (.unit use) 1)
      (bad → effect i z s (gives .bounds ((fetched x).setReg d.toNat 16)))
      ∧ (¬ bad → plainKennel s off (off + 32) = false → effect i z (ends (sc + 17) .bounds [(d.toNat, 16)] s) y)
      ∧ (¬ bad → plainKennel s off (off + 32) = true → effect i z (enqueue (kept off 1) s) y))
    ∧ (∀ (h : Contrib) gd cls seeds, (∀ q ∈ s.red.packs, q.2.parityBad = false) →
      let w := h.words.getD 0 badWord
      let seed := seeds.getD (newPack w.data cls 0 0 s.red.nextOrder).stream (0, 0)
      let p := newPack w.data cls seed.1 seed.2 s.red.nextOrder
      let k := getStream s p.stream
      let done (st : Status) (e : Nat) (u : State) : Prop := takeArm h gd cls seeds s =
        complete (Result.mk sc h.ctx h.id (some st) [(gd, BitVec.ofNat 64 e)] []) u
      let muz : Prop := s.red.muz = true ∨ s.saf.fatal = true
      let taken : Prop := ∃ q ∈ s.red.packs, q.2.target = p.target ∧ q.2.epoch = p.epoch
      (muz → done .muzzled 16 s)
      ∧ (¬ muz → w.poison = true → done .poison 16 s)
      ∧ (¬ muz → w.poison = false →
        (taken → done .packCollision 16 s)
        ∧ (¬ taken → armAllowed s p = false → done .bounds 16 s)
        ∧ (¬ taken → armAllowed s p = true → (p.rnd = true → k.seedBad = false ∧ k.stepBad = false) →
          (p.rnd = true → k.broken = true → done .poison 16 s)
          ∧ ((p.rnd = true → k.broken = false) → tfree s.red.packs 16 = none → done .nackRetry 16 s)
          ∧ (∀ e, (p.rnd = true → k.broken = false) → tfree s.red.packs 16 = some e →
              done .ok e { s with red := { s.red with
                packs := tput s.red.packs e { p with armedAt := sc }, nextOrder := s.red.nextOrder + 1 } }))))
    ∧ (∀ a b src,
      let i : Instr := .pctb c
      let z : Zellek := .pctb a b src
      let p := x.reg a.toNat
      let q := x.reg b.toNat
      let n := (q.extractLsb' 32 3).toNat + 1
      let bad : Prop := 2 ^ 48 ≤ p.toNat ∨ p.toNat % 256 ≠ 0 ∨ q.extractLsb' 35 29 ≠ 0
        ∨ ∃ k, src = .kennel k ∧ (2 ^ 24 ≤ (x.reg k.toNat).toNat ∨ (x.reg k.toNat).toNat % 32 ≠ 0)
      let use : Handoff := .ctb p q x.cls
      (bad → effect i z s (gives .bounds (fetched x)))
      ∧ (∀ t, ¬ bad → src = .tile t → effect i z
          { s with red := { s.red with contribs := s.red.contribs ++
            [{ due := sc + 2, ctx := c, id := id, use := use, words := tileData x t.toNat n }] } }
          (opened (fetched x) (entryOf z id false false .nothing 1)))
      ∧ (∀ k, ¬ bad → src = .kennel k → ChannelsSound s →
          let off := (x.reg k.toNat).toNat
          let parts := lineParts off (List.range n)
          let y := opened (fetched x) (entryOf z id false false (.unit use) parts.length)
          (∀ st, sourceRefused s off n = some st → effect i z (ends (sc + 17) st [] s) y)
          ∧ (sourceRefused s off n = none → effect i z
              (parts.foldl (fun u l => enqueue (readAccess (sc + 6) x.cls 2 true
                ((bitsOf (sectorsOf l.mask)).map fun j => kennelLoc (l.line.toNat * 256 + 64 * j) / 2)
                (.seqRead c id l.want)) u) s) y)))
    ∧ (∀ ch : BitVec 8, ChannelsSound s → x.pend = [] → (∀ w ∈ s.ken.waits, w.ch ≠ ch.toNat) →
      let h := chanOf s ch.toNat
      let u := noisy s
      let after (k : Nat) : Nat := if k + 1 < h.nslots.toNat then k + 1 else 0
      let place (k : Nat) : Word64 := BitVec.ofNat 64 (32 * h.base.toNat + k * (32 * h.slotsz.toNat) + k * 2 ^ 32)
      let slot (k : Nat) : Slot := slotAt s ch.toNat k
      let inWait (y : Ctx) : Ctx := { y with state := .wait, wait := .channel id }
      let queued (take : Bool) : State :=
        { u with ken := { s.ken with waits := s.ken.waits ++ [{ ch := ch.toNat, take := take, party := .ctx c id }] } }
      let off : Prop := h.en = false ∨ h.muz = true
      let st0 : Status := if h.en = false then .bounds else .muzzled
      (∀ d k, (off → effect (.crsv c) (.crsv d k ch) (ends sc st0 [(d.toNat, 0)] u) (plainEntry (.crsv d k ch)))
        ∧ (∀ st, ¬ off → ((slot h.pi).state = .empty ∧ st = .ok) ∨ ((slot h.pi).state = .poison ∧ st = .poison) →
            effect (.crsv c) (.crsv d k ch) (ends sc st [(d.toNat, place h.pi)]
              (setChan ch.toNat (fun h => { h with pi := after h.pi }) (setSlot ch.toNat h.pi (fun _ =>
                { (default : Slot) with state := .resv, holder := some (ctxHolder c), since := sc }) u))) (plainEntry (.crsv d k ch)))
        ∧ (¬ off → (slot h.pi).state ≠ .empty → (slot h.pi).state ≠ .poison →
            (k = false → effect (.crsv c) (.crsv d k ch) (ends sc .slotFull [(d.toNat, 0)] u) (plainEntry (.crsv d k ch)))
            ∧ (k = true → effect (.crsv c) (.crsv d k ch) (queued false) (inWait (plainEntry (.crsv d k ch))))))
      ∧ (∀ d k, (off → effect (.ctake c) (.ctake d k ch) (ends sc st0 [(d.toNat, 0)] u) (plainEntry (.ctake d k ch)))
        ∧ (¬ off → h.litCnt ≠ 0 → effect (.ctake c) (.ctake d k ch) (ends sc .bounds [(d.toNat, 0)] u) (plainEntry (.ctake d k ch)))
        ∧ (∀ st, ¬ off → h.litCnt = 0 → ((slot h.ci).state = .full ∧ st = .ok) ∨ ((slot h.ci).state = .poison ∧ st = .poison) →
            effect (.ctake c) (.ctake d k ch) (ends sc st [(d.toNat, place h.ci)]
              (setChan ch.toNat (fun h => { h with ci := after h.ci }) (setSlot ch.toNat h.ci (fun q =>
                { q with state := .taken, holder := some (ctxHolder c), age := 0, since := sc }) u))) (plainEntry (.ctake d k ch)))
        ∧ (¬ off → h.litCnt = 0 → (slot h.ci).state ≠ .full → (slot h.ci).state ≠ .poison →
            (k = false → effect (.ctake c) (.ctake d k ch) (ends sc .empty [(d.toNat, 0)] u) (plainEntry (.ctake d k ch)))
            ∧ (k = true → effect (.ctake c) (.ctake d k ch) (queued true) (inWait (plainEntry (.ctake d k ch))))))
      ∧ (∀ a,
        let n := (x.reg a.toNat).toNat
        let mine (st : SlotState) : Prop := n < h.nslots.toNat ∧ (slot n).state = st ∧ (slot n).holder = some (ctxHolder c)
        let cc : Zellek := .ccmt a ch
        let cf : Zellek := .cfree a ch
        (65536 ≤ n → effect (.ccmt c) cc s (gives .bounds (fetched x)) ∧ effect (.cfree c) cf s (gives .bounds (fetched x)))
        ∧ (n < 65536 → off → effect (.ccmt c) cc (ends sc st0 [] u) (plainEntry cc)
            ∧ effect (.cfree c) cf (ends sc st0 [] u) (plainEntry cf))
        ∧ (n < 65536 → ¬ off →
          (¬ mine .resv → effect (.ccmt c) cc (ends sc .bounds [] u) (plainEntry cc))
          ∧ (mine .resv → h.litCnt = 0 → effect (.ccmt c) cc (ends sc .ok [] (setSlot ch.toNat n (fun q =>
              { q with state := .full, holder := none, age := 0, since := sc }) u)) (plainEntry cc))
          ∧ (mine .resv → h.litCnt ≠ 0 → effect (.ccmt c) cc (setSlot ch.toNat n (fun q =>
              { q with state := .full, holder := none, age := 0, since := sc, commit := some (.ctx c id, x.cls) }) u) (inWait (plainEntry cc)))
          ∧ (h.litCnt ≠ 0 ∨ ¬ mine .taken → effect (.cfree c) cf (ends sc .bounds [] u) (plainEntry cf))
          ∧ (h.litCnt = 0 → mine .taken → effect (.cfree c) cf
              (ends sc .ok [] (setSlot ch.toNat n (fun _ => default) u)) (plainEntry cf)))))
    ∧ (∀ d a,
      let i : Instr := .moveI c
      let z : Zellek := .moveI d a
      let off := (x.reg a.toNat).toNat
      let bad : Prop := 2 ^ 24 ≤ off ∨ off % 64 ≠ 0
      let y : Ctx := opened (fetched x) (entryOf z id false false (.unit (.move d.toNat off x.cls)) 1)
      (bad → effect i z s (gives .bounds ((fetched x).setReg d.toNat 8)))
      ∧ (¬ bad → plainKennel s off (off + 64) = false → effect i z (ends (sc + 17) .bounds [(d.toNat, 8)] s) y)
      ∧ (¬ bad → plainKennel s off (off + 64) = true → effect i z (enqueue (kept off 2) s) y))
    ∧ (∀ (h : Contrib) gd off cls lo hi, h.words = [lo, hi] →
      let g := moveOf (hi.data ++ lo.data) off false cls (some (ctxHolder h.ctx))
      let done (st : Status) (e : Nat) (u : State) : Prop := takeMove h gd off cls s =
        complete (Result.mk sc h.ctx h.id (some st) [(gd, BitVec.ofNat 64 e)] []) u
      let poisoned : Prop := lo.poison = true ∨ hi.poison = true
      let muz (e : Nat) : Prop := (engineOf s e).muz = true ∨ s.saf.fatal = true
      let taken (e : Nat) : Prop := (engineOf s e).busy = true ∨ muz e
      (poisoned → done .poison 8 s)
      ∧ (¬ poisoned → (∀ e, e < 8 → muz e) → done .muzzled 8 s)
      ∧ (¬ poisoned → (∃ e, e < 8 ∧ ¬ muz e) →
        (moveAllowed s g = false → done .bounds 8 s)
        ∧ (moveAllowed s g = true → g.len = 0 → done .emptyMove 8
            (signalMove g (moveRecord s none g { status := .emptyMove, cause := 0, line := 0 } 0) s))
        ∧ (moveAllowed s g = true → g.len ≠ 0 → (∀ e, e < 8 → taken e) → done .nackRetry 8 s)
        ∧ (∀ e, moveAllowed s g = true → g.len ≠ 0 → e < 8 → ¬ taken e → (∀ f, f < e → taken f) →
            done .ok e (setEngine e (fun _ => { g with busy := true, serial := s.mov.serial + 1, next := sc + 1, takenAt := sc })
              { s with mov := { s.mov with serial := s.mov.serial + 1 } }))))
    ∧ (∀ aop w64 fetch g a p q lmask,
      let i : Instr := .atom c
      let z : Zellek := .atom aop w64 fetch g a p q lmask
      let e := x.reg a.toNat
      let op : AtomOp := { aop := aop, w64 := w64, fetch := fetch, cw := BitVec.ofNat 3 (e.toNat / 32 % 8), lmask := lmask }
      let line := cwLine e.toNat 0
      let bad : Prop := 2 ^ 48 ≤ e.toNat ∨ e.toNat % 32 ≠ 0 ∨ 9 < aop.toNat ∨ lmask = 0 ∨ (w64 = true ∧ 16 ≤ lmask.toNat)
      let y (long : Bool) : Ctx := opened (fetched x) (entryOf z id long true .nothing 1)
      (bad → effect i z s (gives .bounds (fetched x)))
      ∧ (¬ bad → ownKennel s line = none → effect i z
          (originate (some (.atom c id (4 * g.toNat) (fetch || aop == 8 || aop == 9)))
            (ctxRequest s c 0xB line (.atReq op) (plain (x.group p) :: if aop = 9 then [plain (x.group q)] else [])) s) (y true))
      ∧ (∀ off35, ¬ bad → ownKennel s line = some off35 → ChannelsSound s →
          let cw : BitVec 8 := maskOf 8 [op.cw.toNat]
          (s.atom.muz = true → effect i z (ends (sc + 17) .muzzled [] s) (y false))
          ∧ (s.atom.muz = false → draining s = true → effect i z (ends (sc + 17) .parked [] s) (y false))
          ∧ (∀ st, s.atom.muz = false → draining s = false → kennelRefused s off35 (ctxHolder c) true cw = some st →
              effect i z (ends (sc + 17) st [] (if st = .poison then
                { s with atom := { s.atom with poisNow := min 65535 (s.atom.poisNow + 1) } } else s)) (y false))
          ∧ (s.atom.muz = false → draining s = false → kennelRefused s off35 (ctxHolder c) true cw = none → effect i z
              (enqueue (readAccess (sc + 6) x.cls 2 true [kennelLoc (off35 % 2 ^ 24 + 32 * op.cw.toNat) / 2]
                (.atomRead (.ctx c id (4 * g.toNat)) op (x.group p) (x.group q) false)) s) (y false))))
    ∧ (∀ g a p reply entry,
      let slice := (x.reg a.toNat).toNat
      let z : Zellek := .call g a p reply entry
      (2048 ≤ slice → effect (.call c) z s (gives .bounds (fetched x)))
      ∧ (slice < 2048 → effect (.call c) z (originate (some (.call c id (4 * g.toNat) reply))
          (ctxRequest s c 0xA (BitVec.ofNat 40 (s.ken.base.toNat * 2 ^ 27 + slice * 2 ^ 16)) (.call entry reply) [plain (x.group p)])
          s) (opened (fetched x) (entryOf z id true false .nothing 1))))
end

