-- ==== Sys2Proof/Laws/Table.lean ====
section
/-! SUPPORT. Laws of the sparse tables: what is read after a write, and that every operation keeps the canonical form. -/

namespace Sys2Proof.Laws

open Sys2Proof.Machine

variable {α : Type}

/-! ### Reading after writing -/

@[simp] theorem tfind_nil (k : Nat) : tfind ([] : Table α) k = none := rfl

theorem tfind_tput_self (t : Table α) (k : Nat) (a : α) : tfind (tput t k a) k = some a := by
  induction t with
  | nil => simp [tput, tfind]
  | cons p r ih =>
    obtain ⟨i, b⟩ := p
    simp only [tput]
    split
    · simp [tfind]
    · split
      · simp [tfind]
      · rename_i h1 h2
        simp [tfind, ih, Ne.symm h2]

theorem tfind_tput_ne (t : Table α) {j k : Nat} (a : α) (h : j ≠ k) : tfind (tput t k a) j = tfind t j := by
  induction t with
  | nil => simp [tput, tfind, Ne.symm h]
  | cons p r ih =>
    obtain ⟨i, b⟩ := p
    simp only [tput]
    split
    · simp [tfind, Ne.symm h]
    · split
      · rename_i h1 h2; subst h2; simp [tfind, Ne.symm h]
      · simp [tfind, ih]

theorem tfind_terase_self (t : Table α) (k : Nat) : tfind (terase t k) k = none := by
  induction t with
  | nil => rfl
  | cons p r ih =>
    obtain ⟨i, b⟩ := p
    simp only [terase]
    split
    · exact ih
    · rename_i h; simp [tfind, h, ih]

theorem tfind_terase_ne (t : Table α) {j k : Nat} (h : j ≠ k) : tfind (terase t k) j = tfind t j := by
  induction t with
  | nil => rfl
  | cons p r ih =>
    obtain ⟨i, b⟩ := p
    simp only [terase]
    split
    · rename_i e; subst e; simp [tfind, ih, Ne.symm h]
    · simp [tfind, ih]

@[simp] theorem tget_tset_self [DecidableEq α] (d : α) (t : Table α) (k : Nat) (a : α) : tget d (tset d t k a) k = a := by
  unfold tget tset
  split
  · rename_i h; simp [tfind_terase_self, h]
  · simp [tfind_tput_self]

theorem tget_tset_ne [DecidableEq α] (d : α) (t : Table α) {j k : Nat} (a : α) (h : j ≠ k) :
    tget d (tset d t k a) j = tget d t j := by
  unfold tget tset
  split
  · simp [tfind_terase_ne _ h]
  · simp [tfind_tput_ne _ _ h]

@[simp] theorem tget_tmod_self [DecidableEq α] (d : α) (t : Table α) (k : Nat) (f : α → α) :
    tget d (tmod d t k f) k = f (tget d t k) := by simp [tmod]

theorem tget_tmod_ne [DecidableEq α] (d : α) (t : Table α) {j k : Nat} (f : α → α) (h : j ≠ k) :
    tget d (tmod d t k f) j = tget d t j := by simp [tmod, tget_tset_ne _ _ _ h]

@[simp] theorem tget_tput_self (d : α) (t : Table α) (k : Nat) (a : α) : tget d (tput t k a) k = a := by
  simp [tget, tfind_tput_self]

theorem tget_tput_ne (d : α) (t : Table α) {j k : Nat} (a : α) (h : j ≠ k) : tget d (tput t k a) j = tget d t j := by
  simp [tget, tfind_tput_ne _ _ h]

/-! ### The canonical form -/

theorem tableFrom_mono {m n : Nat} (h : m ≤ n) : ∀ t : Table α, tableFrom n t = true → tableFrom m t = true
  | [], _ => rfl
  | (i, _) :: r, ht => by
    simp only [tableFrom, Bool.and_eq_true, decide_eq_true_eq] at ht ⊢
    exact ⟨le_trans h ht.1, ht.2⟩

theorem tableFrom_tput {n k : Nat} (a : α) (h : n ≤ k) :
    ∀ t : Table α, tableFrom n t = true → tableFrom n (tput t k a) = true
  | [], _ => by simp [tput, tableFrom, h]
  | (i, b) :: r, ht => by
    simp only [tableFrom, Bool.and_eq_true, decide_eq_true_eq] at ht
    simp only [tput]
    split
    · rename_i hk
      simp only [tableFrom, Bool.and_eq_true, decide_eq_true_eq]
      exact ⟨h, hk, ht.2⟩
    · split
      · rename_i _ e; subst e
        simp only [tableFrom, Bool.and_eq_true, decide_eq_true_eq]
        exact ht
      · simp only [tableFrom, Bool.and_eq_true, decide_eq_true_eq]
        exact ⟨ht.1, tableFrom_tput a (by omega) r ht.2⟩
termination_by structural t => t

theorem tableFrom_terase {n : Nat} (k : Nat) :
    ∀ t : Table α, tableFrom n t = true → tableFrom n (terase t k) = true
  | [], _ => rfl
  | (i, b) :: r, ht => by
    simp only [tableFrom, Bool.and_eq_true, decide_eq_true_eq] at ht
    have ih := tableFrom_terase (n := i + 1) k r ht.2
    simp only [terase]
    split
    · exact tableFrom_mono (by omega) _ ih
    · simp only [tableFrom, Bool.and_eq_true, decide_eq_true_eq]
      exact ⟨ht.1, ih⟩

theorem tableFrom_filter {n : Nat} (f : Nat × α → Bool) :
    ∀ t : Table α, tableFrom n t = true → tableFrom n (t.filter f) = true
  | [], _ => rfl
  | (i, b) :: r, ht => by
    simp only [tableFrom, Bool.and_eq_true, decide_eq_true_eq] at ht
    have ih := tableFrom_filter (n := i + 1) f r ht.2
    simp only [List.filter_cons]
    split
    · simp only [tableFrom, Bool.and_eq_true, decide_eq_true_eq]
      exact ⟨ht.1, ih⟩
    · exact tableFrom_mono (by omega) _ ih

/-- Every operation of a memory keeps its indices strictly rising. -/
theorem tableWf_tput (t : Table α) (k : Nat) (a : α) (h : tableWf t = true) : tableWf (tput t k a) = true :=
  tableFrom_tput a (Nat.zero_le k) t h

theorem tableWf_terase (t : Table α) (k : Nat) (h : tableWf t = true) : tableWf (terase t k) = true :=
  tableFrom_terase k t h

theorem tableWf_filter (t : Table α) (f : Nat × α → Bool) (h : tableWf t = true) : tableWf (t.filter f) = true :=
  tableFrom_filter f t h

theorem tableWf_tset [DecidableEq α] (d : α) (t : Table α) (k : Nat) (a : α) (h : tableWf t = true) :
    tableWf (tset d t k a) = true := by
  unfold tset; split
  · exact tableWf_terase t k h
  · exact tableWf_tput t k a h

theorem tableWf_tmod [DecidableEq α] (d : α) (t : Table α) (k : Nat) (f : α → α) (h : tableWf t = true) :
    tableWf (tmod d t k f) = true := tableWf_tset d t k _ h

theorem tableClean_terase [DecidableEq α] (d : α) (k : Nat) :
    ∀ t : Table α, tableClean d t = true → tableClean d (terase t k) = true
  | [], _ => rfl
  | (i, b) :: r, h => by
    simp only [tableClean, List.all_cons, Bool.and_eq_true] at h
    have ih := tableClean_terase d k r h.2
    simp only [terase]
    split
    · exact ih
    · simp only [tableClean, List.all_cons, Bool.and_eq_true]; exact ⟨h.1, ih⟩

theorem tableClean_tput [DecidableEq α] (d : α) (k : Nat) {a : α} (ha : a ≠ d) :
    ∀ t : Table α, tableClean d t = true → tableClean d (tput t k a) = true
  | [], _ => by simp [tput, tableClean, ha]
  | (i, b) :: r, h => by
    have h' := h
    simp only [tableClean, List.all_cons, Bool.and_eq_true] at h
    have ih := tableClean_tput d k ha r h.2
    simp only [tput]
    split
    · simp only [tableClean, List.all_cons, Bool.and_eq_true, decide_eq_true_eq] at h ⊢; exact ⟨ha, h⟩
    · split
      · simp only [tableClean, List.all_cons, Bool.and_eq_true, decide_eq_true_eq] at h ⊢; exact ⟨ha, h.2⟩
      · simp only [tableClean, List.all_cons, Bool.and_eq_true]; exact ⟨h.1, ih⟩

/-- No write lists an entry that equals what an unlisted index reads as. -/
theorem tableClean_tset [DecidableEq α] (d : α) (t : Table α) (k : Nat) (a : α) (h : tableClean d t = true) :
    tableClean d (tset d t k a) = true := by
  unfold tset; split
  · exact tableClean_terase d k t h
  · rename_i ha; exact tableClean_tput d k ha t h

end Sys2Proof.Laws
end

