-- ==== Sys2Proof/Laws/Array.lean ====
section
/-! SUPPORT. The data array keeps its canonical form under each of the operations that write it: a foreground write, a copy into a
spare row, and the loss of a way's contents. A code word that is not listed reads as a free value, so no listed entry can equal it;
the form is that the keys rise strictly. -/

namespace Sys2Proof.Laws

open Sys2Proof.Machine

/-- The array of a reset slice lists nothing. -/
theorem arrayWf_reset : tableWf State.reset.arr.cells = true := by decide

theorem putCells_cells (loc : Nat) (c : Cells) (s : State) :
    (putCells loc c s).arr.cells = tput s.arr.cells (cellKey loc (physRow s (loc / 2))) c := rfl

theorem putCells_wf (loc : Nat) (c : Cells) {s : State} (h : tableWf s.arr.cells = true) :
    tableWf (putCells loc c s).arr.cells = true := tableWf_tput _ _ _ h

theorem writeWord_wf (loc : Nat) (w : CodeWord) {s : State} (h : tableWf s.arr.cells = true) :
    tableWf (writeWord loc w s).arr.cells = true := putCells_wf _ _ h

theorem writeWords_wf : ∀ (t : Table CodeWord) {s : State}, tableWf s.arr.cells = true →
    tableWf (writeWords t s).arr.cells = true
  | [], _, h => h
  | p :: r, _, h => writeWords_wf r (writeWord_wf p.1 p.2 h)

/-- A write of a copied sector into its spare row. -/
theorem copyWrite_wf (c : Copy) (p : CodeWord × CodeWord) {s : State} (h : tableWf s.arr.cells = true) :
    tableWf (copyWrite c p s).arr.cells = true := tableWf_tput _ _ _ (tableWf_tput _ _ _ h)

theorem dropWays_wf (ways : List Nat) {s : State} (h : tableWf s.arr.cells = true) :
    tableWf (dropWays ways s).arr.cells = true := tableWf_filter _ _ h

/-- What a foreground write leaves: the registers of the array but the record of written banks, and every other unit. -/
theorem writeWord_frame (loc : Nat) (w : CodeWord) (s : State) :
    (writeWord loc w s).arr.spares = s.arr.spares ∧ (writeWord loc w s).cache = s.cache ∧ (writeWord loc w s).coh = s.coh
    ∧ (writeWord loc w s).ken = s.ken ∧ (writeWord loc w s).red = s.red ∧ (writeWord loc w s).seq = s.seq
    ∧ (writeWord loc w s).mov = s.mov ∧ (writeWord loc w s).out = s.out ∧ (writeWord loc w s).saf = s.saf
    ∧ (writeWord loc w s).env = s.env ∧ (writeWord loc w s).fuse = s.fuse :=
  ⟨rfl, rfl, rfl, rfl, rfl, rfl, rfl, rfl, rfl, rfl, rfl⟩

end Sys2Proof.Laws
end

