-- ==== Sys2Proof/Laws/Service.lean ====
section
/-! SUPPORT. When commands act: what exec answers for a message or an event, a sideband command, an instrument. -/

namespace Sys2Proof.Laws

open Sys2Proof.Machine Sys2Proof.Safety

/-- In service, a message or an event answers the state its body leads to, with what software alone writes unchanged. -/
theorem event_next {s : State} (h : inUse s) (body : State → State) : event s body = .next (keepConfig body s) := by
  simp [event, inService, keepConfig, h.1, h.2]

/-- The same for an event that is due. -/
theorem eventIf_next {s : State} (h : inUse s) {due : State → Bool} (hd : due s = true) (body : State → State) :
    eventIf due s body = .next (keepConfig body s) := by
  simp [eventIf, event, inService, keepConfig, h.1, h.2, hd]

theorem inService_next {s : State} (h : inUse s) (body : State → State) : inService s body = .next (settle s (body s)) := by
  simp [inService, h.1, h.2]

/-- A sideband transaction that registers answers the state its body leads to. -/
theorem sideband_next {s : State} (h : sbReads s) (c : Instr) (body : State → State) :
    sideband c s body = .next (sbSettle s (body s)) := by
  simp [sideband, h.1.1, h.1.2, h.2.1, h.2.2]

/-- A sideband write that acts. -/
theorem sbWriteOk_next {s : State} (h : sbActs s) (c : Instr) (body : State → State) :
    sbWriteOk c s body = .next (sbSettle s (sbRespond 0 0 (body s))) := by
  simp [sbWriteOk, sideband_next h.1, h.2]

theorem sbReadOk_next {s : State} (h : sbReads s) (c : Instr) (k : SbRead) :
    sbReadOk c k s = .next (sbSettle s { s with out := { s.out with
      sb := s.out.sb ++ [{ leaves := s.env.sc + 3, resp := 0, data := 0, read := some k }] } }) := by
  simp [sbReadOk, sideband_next h]

/-- In a state that hears a message, the configuration it uses is sound. -/
theorem useConfig_eq {s : State} (h : s.saf.fatal = true ∨ s.saf.cfgBad = []) (words : List Nat) : useConfig words s = s := by
  unfold useConfig
  rcases h with h | h
  · simp [h]
  · have e : words.find? (fun w => s.saf.cfgBad.contains w) = none := by simp [h]
    simp only [e, ite_self]

/-- A message that can register has its effect, and leaves what registering leaves. -/
theorem receive_next {s : State} {c : Instr} {a : Arrival} (h : inUse s) (hh : hears s c) (ha : arrivalOf c = some a)
    (body : State → State) : receive c s body = .next (keepConfig (fun s => registered a (body s)) s) := by
  have k : inTurn s a = true := hh.2 a (by simp [ha])
  rw [receive, event_next h]
  simp only [keepConfig, ha, k, useConfig_eq hh.1, if_true]

/-- Whatever a message or an event answers, it is the same state or one with what software alone writes unchanged. -/
theorem event_cases {s t : State} {body : State → State} (h : event s body = .next t) :
    t = s ∨ t = keepConfig body s := by
  simp only [event, inService] at h
  split at h
  · cases h
  · split at h
    · injection h with h; exact .inr h.symm
    · injection h with h; exact .inl h.symm

/-- Whatever a sideband command answers, it is the same state, one in which it waits, or the one its body leads to. -/
theorem sideband_cases {s t : State} {c : Instr} {body : State → State} (h : sideband c s body = .next t) :
    t = s ∨ t = { s with fg := { s.fg with held := s.fg.held ++ [c] } } ∨ t = sbSettle s (body s) := by
  simp only [sideband] at h
  split at h
  · cases h
  · split at h
    · injection h with h
      split at h
      · exact .inr (.inr h.symm)
      · exact .inr (.inl h.symm)
    · injection h with h; exact .inl h.symm

theorem inService_cases {s t : State} {body : State → State} (h : inService s body = .next t) :
    t = s ∨ t = settle s (body s) := by
  simp only [inService] at h
  split at h
  · cases h
  · split at h
    · injection h with h; exact .inr h.symm
    · injection h with h; exact .inl h.symm

theorem instrument_cases {s t : State} {content : State → List Word32} (h : instrument content s = .next t) :
    t = s ∨ t = { s with out := { s.out with scan := content s } } := by
  simp only [instrument] at h
  split at h
  · cases h
  · split at h
    · injection h with h; exact .inl h.symm
    · injection h with h; exact .inr h.symm

end Sys2Proof.Laws
end

