-- ==== Sys2Proof/Laws/State.lean ====
section
/-! SUPPORT. One lemma for each update of a table of the state and each reader of it: a reader of the entry written finds what was
written, a reader of another entry or another table what was there. -/

namespace Sys2Proof.Laws

open Sys2Proof.Machine Sys2Proof.Safety

/-! ### Contexts -/

@[simp] theorem getCtx_setCtx_self (s : State) (k : Nat) (f : Ctx → Ctx) : getCtx (setCtx k f s) k = f (getCtx s k) := by
  simp [getCtx, setCtx]
theorem getCtx_setCtx_ne (s : State) {j k : Nat} (f : Ctx → Ctx) (h : j ≠ k) : getCtx (setCtx k f s) j = getCtx s j := by
  simp [getCtx, setCtx, tget_tmod_ne _ _ _ h]
theorem getCtx_congr {s t : State} (h : s.seq.ctx = t.seq.ctx) (c : Nat) : getCtx s c = getCtx t c := by unfold getCtx; rw [h]

@[simp] theorem setCtx_events (s : State) (k : Nat) (f : Ctx → Ctx) : (setCtx k f s).seq.events = s.seq.events := rfl
@[simp] theorem setCtx_done (s : State) (k : Nat) (f : Ctx → Ctx) : (setCtx k f s).seq.done = s.seq.done := rfl
@[simp] theorem setCtx_nextId (s : State) (k : Nat) (f : Ctx → Ctx) : (setCtx k f s).seq.nextId = s.seq.nextId := rfl

/-! ### Channels, slots, targets -/

@[simp] theorem chanOf_setChan_self (s : State) (k : Nat) (f : Channel → Channel) : chanOf (setChan k f s) k = f (chanOf s k) := by
  simp [chanOf, setChan]
theorem chanOf_setChan_ne (s : State) {j k : Nat} (f : Channel → Channel) (h : j ≠ k) : chanOf (setChan k f s) j = chanOf s j := by
  simp [chanOf, setChan, tget_tmod_ne _ _ _ h]
@[simp] theorem slotAt_setSlot_self (s : State) (c k : Nat) (f : Slot → Slot) : slotAt (setSlot c k f s) c k = f (slotAt s c k) := by
  simp [slotAt, setSlot]
theorem slotAt_setSlot_ne (s : State) {c k d j : Nat} (f : Slot → Slot) (h : d * 65536 + j ≠ c * 65536 + k) :
    slotAt (setSlot c k f s) d j = slotAt s d j := by
  simp [slotAt, setSlot, tget_tmod_ne _ _ _ h]
@[simp] theorem targetAt_setTarget_self (s : State) (k : Nat) (f : Target → Target) :
    targetAt (setTarget k f s) k = f (targetAt s k) := by
  simp [targetAt, setTarget]
theorem targetAt_setTarget_ne (s : State) {j k : Nat} (f : Target → Target) (h : j ≠ k) :
    targetAt (setTarget k f s) j = targetAt s j := by
  simp [targetAt, setTarget, tget_tmod_ne _ _ _ h]

@[simp] theorem chanOf_setSlot (s : State) (c k j : Nat) (f : Slot → Slot) : chanOf (setSlot c k f s) j = chanOf s j := rfl
@[simp] theorem chanOf_setTarget (s : State) (k j : Nat) (f : Target → Target) : chanOf (setTarget k f s) j = chanOf s j := rfl
@[simp] theorem chanOf_setCtx (s : State) (k j : Nat) (f : Ctx → Ctx) : chanOf (setCtx k f s) j = chanOf s j := rfl
@[simp] theorem slotAt_setChan (s : State) (c k j : Nat) (f : Channel → Channel) : slotAt (setChan j f s) c k = slotAt s c k := rfl
@[simp] theorem slotAt_setTarget (s : State) (c k j : Nat) (f : Target → Target) : slotAt (setTarget j f s) c k = slotAt s c k := rfl
@[simp] theorem slotAt_setCtx (s : State) (c k j : Nat) (f : Ctx → Ctx) : slotAt (setCtx j f s) c k = slotAt s c k := rfl
@[simp] theorem targetAt_setChan (s : State) (j k : Nat) (f : Channel → Channel) : targetAt (setChan j f s) k = targetAt s k := rfl
@[simp] theorem targetAt_setSlot (s : State) (c j k : Nat) (f : Slot → Slot) : targetAt (setSlot c j f s) k = targetAt s k := rfl
@[simp] theorem getCtx_setChan (s : State) (j k : Nat) (f : Channel → Channel) : getCtx (setChan j f s) k = getCtx s k := rfl
@[simp] theorem getCtx_setSlot (s : State) (c j k : Nat) (f : Slot → Slot) : getCtx (setSlot c j f s) k = getCtx s k := rfl

/-! ### Engines, tags, classes, streams -/

@[simp] theorem engineOf_setEngine_self (s : State) (k : Nat) (f : Engine → Engine) :
    engineOf (setEngine k f s) k = f (engineOf s k) := by
  simp [engineOf, setEngine]
theorem engineOf_setEngine_ne (s : State) {j k : Nat} (f : Engine → Engine) (h : j ≠ k) :
    engineOf (setEngine k f s) j = engineOf s j := by
  simp [engineOf, setEngine, tget_tmod_ne _ _ _ h]
@[simp] theorem tagAt_setTag_self (s : State) (set w : Nat) (f : TagEntry → TagEntry) :
    tagAt (setTag set w f s) set w = (f (tagAt s set w)).sealed := by
  simp [tagAt, setTag]
theorem tagAt_setTag_ne (s : State) {a v set w : Nat} (f : TagEntry → TagEntry) (h : a * 16 + v ≠ set * 16 + w) :
    tagAt (setTag set w f s) a v = tagAt s a v := by
  simp [tagAt, setTag, tget_tmod_ne _ _ _ h]
@[simp] theorem getClass_setClass_self (s : State) (c : Nat) (f : Machine.Class → Machine.Class) : getClass (setClass s c f) c = f (getClass s c) := by
  simp [getClass, setClass]
theorem getClass_setClass_ne (s : State) {j c : Nat} (f : Machine.Class → Machine.Class) (h : j ≠ c) :
    getClass (setClass s c f) j = getClass s j := by
  simp [getClass, setClass, tget_tmod_ne _ _ _ h]
@[simp] theorem getStream_setStream_self (s : State) (k : Nat) (f : Stream → Stream) :
    getStream (setStream k f s) k = f (getStream s k) := by
  simp [getStream, setStream]
theorem getStream_setStream_ne (s : State) {j k : Nat} (f : Stream → Stream) (h : j ≠ k) :
    getStream (setStream k f s) j = getStream s j := by
  simp [getStream, setStream, tget_tmod_ne _ _ _ h]

/-! ### Table lookups outside the keys -/

theorem tfind_none_of_keys {α : Type} {t : Table α} {k : Nat} (h : k ∉ t.map Prod.fst) : tfind t k = none := by
  induction t with
  | nil => rfl
  | cons p r ih => simp [tfind] at h ⊢; rw [if_neg (Ne.symm h.1)]; exact ih (by simp; exact h.2)

/-! ### Fields that an update leaves alone -/

@[simp] theorem setCtx_fields (s : State) (k : Nat) (f : Ctx → Ctx) :
    (setCtx k f s).pending = s.pending ∧ (setCtx k f s).fresh = s.fresh ∧ (setCtx k f s).env = s.env
    ∧ (setCtx k f s).tick = s.tick ∧ (setCtx k f s).fuse = s.fuse ∧ (setCtx k f s).arr = s.arr ∧ (setCtx k f s).bg = s.bg
    ∧ (setCtx k f s).cache = s.cache ∧ (setCtx k f s).coh = s.coh ∧ (setCtx k f s).ken = s.ken
    ∧ (setCtx k f s).red = s.red ∧ (setCtx k f s).atom = s.atom ∧ (setCtx k f s).mov = s.mov ∧ (setCtx k f s).reg = s.reg
    ∧ (setCtx k f s).det = s.det ∧ (setCtx k f s).saf = s.saf ∧ (setCtx k f s).lnk = s.lnk ∧ (setCtx k f s).fg = s.fg
    ∧ (setCtx k f s).out = s.out :=
  ⟨rfl, rfl, rfl, rfl, rfl, rfl, rfl, rfl, rfl, rfl, rfl, rfl, rfl, rfl, rfl, rfl, rfl, rfl, rfl⟩
@[simp] theorem setChan_fields (s : State) (k : Nat) (f : Channel → Channel) :
    (setChan k f s).pending = s.pending ∧ (setChan k f s).fresh = s.fresh ∧ (setChan k f s).env = s.env
    ∧ (setChan k f s).tick = s.tick ∧ (setChan k f s).fuse = s.fuse ∧ (setChan k f s).arr = s.arr
    ∧ (setChan k f s).bg = s.bg ∧ (setChan k f s).cache = s.cache ∧ (setChan k f s).coh = s.coh
    ∧ (setChan k f s).red = s.red ∧ (setChan k f s).atom = s.atom ∧ (setChan k f s).seq = s.seq
    ∧ (setChan k f s).mov = s.mov ∧ (setChan k f s).reg = s.reg ∧ (setChan k f s).det = s.det
    ∧ (setChan k f s).saf = s.saf ∧ (setChan k f s).lnk = s.lnk ∧ (setChan k f s).fg = s.fg ∧ (setChan k f s).out = s.out :=
  ⟨rfl, rfl, rfl, rfl, rfl, rfl, rfl, rfl, rfl, rfl, rfl, rfl, rfl, rfl, rfl, rfl, rfl, rfl, rfl⟩
@[simp] theorem setSlot_fields (s : State) (c k : Nat) (f : Slot → Slot) :
    (setSlot c k f s).pending = s.pending ∧ (setSlot c k f s).fresh = s.fresh ∧ (setSlot c k f s).env = s.env
    ∧ (setSlot c k f s).tick = s.tick ∧ (setSlot c k f s).fuse = s.fuse ∧ (setSlot c k f s).arr = s.arr
    ∧ (setSlot c k f s).bg = s.bg ∧ (setSlot c k f s).cache = s.cache ∧ (setSlot c k f s).coh = s.coh
    ∧ (setSlot c k f s).red = s.red ∧ (setSlot c k f s).atom = s.atom ∧ (setSlot c k f s).seq = s.seq
    ∧ (setSlot c k f s).mov = s.mov ∧ (setSlot c k f s).reg = s.reg ∧ (setSlot c k f s).det = s.det
    ∧ (setSlot c k f s).saf = s.saf ∧ (setSlot c k f s).lnk = s.lnk ∧ (setSlot c k f s).fg = s.fg
    ∧ (setSlot c k f s).out = s.out :=
  ⟨rfl, rfl, rfl, rfl, rfl, rfl, rfl, rfl, rfl, rfl, rfl, rfl, rfl, rfl, rfl, rfl, rfl, rfl, rfl⟩
@[simp] theorem setTarget_fields (s : State) (k : Nat) (f : Target → Target) :
    (setTarget k f s).pending = s.pending ∧ (setTarget k f s).fresh = s.fresh ∧ (setTarget k f s).env = s.env
    ∧ (setTarget k f s).tick = s.tick ∧ (setTarget k f s).fuse = s.fuse ∧ (setTarget k f s).arr = s.arr
    ∧ (setTarget k f s).bg = s.bg ∧ (setTarget k f s).cache = s.cache ∧ (setTarget k f s).coh = s.coh
    ∧ (setTarget k f s).red = s.red ∧ (setTarget k f s).atom = s.atom ∧ (setTarget k f s).seq = s.seq
    ∧ (setTarget k f s).mov = s.mov ∧ (setTarget k f s).reg = s.reg ∧ (setTarget k f s).det = s.det
    ∧ (setTarget k f s).saf = s.saf ∧ (setTarget k f s).lnk = s.lnk ∧ (setTarget k f s).fg = s.fg
    ∧ (setTarget k f s).out = s.out :=
  ⟨rfl, rfl, rfl, rfl, rfl, rfl, rfl, rfl, rfl, rfl, rfl, rfl, rfl, rfl, rfl, rfl, rfl, rfl, rfl⟩
@[simp] theorem setEngine_fields (s : State) (k : Nat) (f : Engine → Engine) :
    (setEngine k f s).pending = s.pending ∧ (setEngine k f s).fresh = s.fresh ∧ (setEngine k f s).env = s.env
    ∧ (setEngine k f s).tick = s.tick ∧ (setEngine k f s).fuse = s.fuse ∧ (setEngine k f s).arr = s.arr
    ∧ (setEngine k f s).bg = s.bg ∧ (setEngine k f s).cache = s.cache ∧ (setEngine k f s).coh = s.coh
    ∧ (setEngine k f s).ken = s.ken ∧ (setEngine k f s).red = s.red ∧ (setEngine k f s).atom = s.atom
    ∧ (setEngine k f s).seq = s.seq ∧ (setEngine k f s).reg = s.reg ∧ (setEngine k f s).det = s.det
    ∧ (setEngine k f s).saf = s.saf ∧ (setEngine k f s).lnk = s.lnk ∧ (setEngine k f s).fg = s.fg
    ∧ (setEngine k f s).out = s.out :=
  ⟨rfl, rfl, rfl, rfl, rfl, rfl, rfl, rfl, rfl, rfl, rfl, rfl, rfl, rfl, rfl, rfl, rfl, rfl, rfl⟩
@[simp] theorem setPack_fields (s : State) (k : Nat) (f : Pack → Pack) :
    (setPack k f s).pending = s.pending ∧ (setPack k f s).fresh = s.fresh ∧ (setPack k f s).env = s.env
    ∧ (setPack k f s).tick = s.tick ∧ (setPack k f s).fuse = s.fuse ∧ (setPack k f s).arr = s.arr
    ∧ (setPack k f s).bg = s.bg ∧ (setPack k f s).cache = s.cache ∧ (setPack k f s).coh = s.coh
    ∧ (setPack k f s).ken = s.ken ∧ (setPack k f s).atom = s.atom ∧ (setPack k f s).seq = s.seq
    ∧ (setPack k f s).mov = s.mov ∧ (setPack k f s).reg = s.reg ∧ (setPack k f s).det = s.det
    ∧ (setPack k f s).saf = s.saf ∧ (setPack k f s).lnk = s.lnk ∧ (setPack k f s).fg = s.fg ∧ (setPack k f s).out = s.out :=
  ⟨rfl, rfl, rfl, rfl, rfl, rfl, rfl, rfl, rfl, rfl, rfl, rfl, rfl, rfl, rfl, rfl, rfl, rfl, rfl⟩
@[simp] theorem setTag_fields (s : State) (set w : Nat) (f : TagEntry → TagEntry) :
    (setTag set w f s).pending = s.pending ∧ (setTag set w f s).fresh = s.fresh ∧ (setTag set w f s).env = s.env
    ∧ (setTag set w f s).tick = s.tick ∧ (setTag set w f s).fuse = s.fuse ∧ (setTag set w f s).arr = s.arr
    ∧ (setTag set w f s).bg = s.bg ∧ (setTag set w f s).coh = s.coh ∧ (setTag set w f s).ken = s.ken
    ∧ (setTag set w f s).red = s.red ∧ (setTag set w f s).atom = s.atom ∧ (setTag set w f s).seq = s.seq
    ∧ (setTag set w f s).mov = s.mov ∧ (setTag set w f s).reg = s.reg ∧ (setTag set w f s).det = s.det
    ∧ (setTag set w f s).saf = s.saf ∧ (setTag set w f s).lnk = s.lnk ∧ (setTag set w f s).fg = s.fg
    ∧ (setTag set w f s).out = s.out :=
  ⟨rfl, rfl, rfl, rfl, rfl, rfl, rfl, rfl, rfl, rfl, rfl, rfl, rfl, rfl, rfl, rfl, rfl, rfl, rfl⟩
@[simp] theorem setClass_fields (s : State) (c : Nat) (f : Machine.Class → Machine.Class) :
    (setClass s c f).pending = s.pending ∧ (setClass s c f).fresh = s.fresh ∧ (setClass s c f).env = s.env
    ∧ (setClass s c f).tick = s.tick ∧ (setClass s c f).fuse = s.fuse ∧ (setClass s c f).arr = s.arr
    ∧ (setClass s c f).bg = s.bg ∧ (setClass s c f).cache = s.cache ∧ (setClass s c f).coh = s.coh
    ∧ (setClass s c f).ken = s.ken ∧ (setClass s c f).red = s.red ∧ (setClass s c f).atom = s.atom
    ∧ (setClass s c f).seq = s.seq ∧ (setClass s c f).mov = s.mov ∧ (setClass s c f).det = s.det
    ∧ (setClass s c f).saf = s.saf ∧ (setClass s c f).lnk = s.lnk ∧ (setClass s c f).fg = s.fg
    ∧ (setClass s c f).out = s.out :=
  ⟨rfl, rfl, rfl, rfl, rfl, rfl, rfl, rfl, rfl, rfl, rfl, rfl, rfl, rfl, rfl, rfl, rfl, rfl, rfl⟩
@[simp] theorem setStream_fields (s : State) (k : Nat) (f : Stream → Stream) :
    (setStream k f s).pending = s.pending ∧ (setStream k f s).fresh = s.fresh ∧ (setStream k f s).env = s.env
    ∧ (setStream k f s).tick = s.tick ∧ (setStream k f s).fuse = s.fuse ∧ (setStream k f s).arr = s.arr
    ∧ (setStream k f s).bg = s.bg ∧ (setStream k f s).cache = s.cache ∧ (setStream k f s).coh = s.coh
    ∧ (setStream k f s).ken = s.ken ∧ (setStream k f s).red = s.red ∧ (setStream k f s).atom = s.atom
    ∧ (setStream k f s).seq = s.seq ∧ (setStream k f s).mov = s.mov ∧ (setStream k f s).reg = s.reg
    ∧ (setStream k f s).saf = s.saf ∧ (setStream k f s).lnk = s.lnk ∧ (setStream k f s).fg = s.fg
    ∧ (setStream k f s).out = s.out :=
  ⟨rfl, rfl, rfl, rfl, rfl, rfl, rfl, rfl, rfl, rfl, rfl, rfl, rfl, rfl, rfl, rfl, rfl, rfl, rfl⟩
@[simp] theorem enqueue_fields (s : State) (a : Access) :
    (enqueue a s).pending = s.pending ∧ (enqueue a s).fresh = s.fresh ∧ (enqueue a s).env = s.env
    ∧ (enqueue a s).tick = s.tick ∧ (enqueue a s).fuse = s.fuse ∧ (enqueue a s).arr = s.arr ∧ (enqueue a s).bg = s.bg
    ∧ (enqueue a s).cache = s.cache ∧ (enqueue a s).coh = s.coh ∧ (enqueue a s).ken = s.ken ∧ (enqueue a s).red = s.red
    ∧ (enqueue a s).atom = s.atom ∧ (enqueue a s).seq = s.seq ∧ (enqueue a s).mov = s.mov ∧ (enqueue a s).reg = s.reg
    ∧ (enqueue a s).det = s.det ∧ (enqueue a s).saf = s.saf ∧ (enqueue a s).lnk = s.lnk ∧ (enqueue a s).out = s.out :=
  ⟨rfl, rfl, rfl, rfl, rfl, rfl, rfl, rfl, rfl, rfl, rfl, rfl, rfl, rfl, rfl, rfl, rfl, rfl, rfl⟩
@[simp] theorem complete_fields (s : State) (r : Result) :
    (complete r s).pending = s.pending ∧ (complete r s).fresh = s.fresh ∧ (complete r s).env = s.env
    ∧ (complete r s).tick = s.tick ∧ (complete r s).fuse = s.fuse ∧ (complete r s).arr = s.arr ∧ (complete r s).bg = s.bg
    ∧ (complete r s).cache = s.cache ∧ (complete r s).coh = s.coh ∧ (complete r s).ken = s.ken
    ∧ (complete r s).red = s.red ∧ (complete r s).atom = s.atom ∧ (complete r s).mov = s.mov ∧ (complete r s).reg = s.reg
    ∧ (complete r s).det = s.det ∧ (complete r s).saf = s.saf ∧ (complete r s).lnk = s.lnk ∧ (complete r s).fg = s.fg
    ∧ (complete r s).out = s.out :=
  ⟨rfl, rfl, rfl, rfl, rfl, rfl, rfl, rfl, rfl, rfl, rfl, rfl, rfl, rfl, rfl, rfl, rfl, rfl, rfl⟩
@[simp] theorem noisy_fields (s : State) :
    (noisy s).pending = s.pending ∧ (noisy s).fresh = s.fresh ∧ (noisy s).env = s.env ∧ (noisy s).tick = s.tick
    ∧ (noisy s).fuse = s.fuse ∧ (noisy s).arr = s.arr ∧ (noisy s).bg = s.bg ∧ (noisy s).cache = s.cache
    ∧ (noisy s).coh = s.coh ∧ (noisy s).ken = s.ken ∧ (noisy s).red = s.red ∧ (noisy s).atom = s.atom
    ∧ (noisy s).mov = s.mov ∧ (noisy s).reg = s.reg ∧ (noisy s).det = s.det ∧ (noisy s).saf = s.saf
    ∧ (noisy s).lnk = s.lnk ∧ (noisy s).fg = s.fg ∧ (noisy s).out = s.out :=
  ⟨rfl, rfl, rfl, rfl, rfl, rfl, rfl, rfl, rfl, rfl, rfl, rfl, rfl, rfl, rfl, rfl, rfl, rfl, rfl⟩
@[simp] theorem placeSts_fields (s : State) (c : Nat) (st : Status) :
    (placeSts c st s).pending = s.pending ∧ (placeSts c st s).fresh = s.fresh ∧ (placeSts c st s).env = s.env
    ∧ (placeSts c st s).tick = s.tick ∧ (placeSts c st s).fuse = s.fuse ∧ (placeSts c st s).arr = s.arr
    ∧ (placeSts c st s).bg = s.bg ∧ (placeSts c st s).cache = s.cache ∧ (placeSts c st s).coh = s.coh
    ∧ (placeSts c st s).ken = s.ken ∧ (placeSts c st s).red = s.red ∧ (placeSts c st s).atom = s.atom
    ∧ (placeSts c st s).mov = s.mov ∧ (placeSts c st s).reg = s.reg ∧ (placeSts c st s).det = s.det
    ∧ (placeSts c st s).saf = s.saf ∧ (placeSts c st s).lnk = s.lnk ∧ (placeSts c st s).fg = s.fg
    ∧ (placeSts c st s).out = s.out :=
  ⟨rfl, rfl, rfl, rfl, rfl, rfl, rfl, rfl, rfl, rfl, rfl, rfl, rfl, rfl, rfl, rfl, rfl, rfl, rfl⟩
@[simp] theorem writeRegs_fields (s : State) (c : Nat) (l : List (Nat × Word64)) :
    (writeRegs c l s).pending = s.pending ∧ (writeRegs c l s).fresh = s.fresh ∧ (writeRegs c l s).env = s.env
    ∧ (writeRegs c l s).tick = s.tick ∧ (writeRegs c l s).fuse = s.fuse ∧ (writeRegs c l s).arr = s.arr
    ∧ (writeRegs c l s).bg = s.bg ∧ (writeRegs c l s).cache = s.cache ∧ (writeRegs c l s).coh = s.coh
    ∧ (writeRegs c l s).ken = s.ken ∧ (writeRegs c l s).red = s.red ∧ (writeRegs c l s).atom = s.atom
    ∧ (writeRegs c l s).mov = s.mov ∧ (writeRegs c l s).reg = s.reg ∧ (writeRegs c l s).det = s.det
    ∧ (writeRegs c l s).saf = s.saf ∧ (writeRegs c l s).lnk = s.lnk ∧ (writeRegs c l s).fg = s.fg
    ∧ (writeRegs c l s).out = s.out :=
  ⟨rfl, rfl, rfl, rfl, rfl, rfl, rfl, rfl, rfl, rfl, rfl, rfl, rfl, rfl, rfl, rfl, rfl, rfl, rfl⟩
@[simp] theorem branch_fields (s : State) (c : Nat) (t : BitVec 14) :
    (branch c t s).pending = s.pending ∧ (branch c t s).fresh = s.fresh ∧ (branch c t s).env = s.env
    ∧ (branch c t s).tick = s.tick ∧ (branch c t s).fuse = s.fuse ∧ (branch c t s).arr = s.arr ∧ (branch c t s).bg = s.bg
    ∧ (branch c t s).cache = s.cache ∧ (branch c t s).coh = s.coh ∧ (branch c t s).ken = s.ken
    ∧ (branch c t s).red = s.red ∧ (branch c t s).atom = s.atom ∧ (branch c t s).mov = s.mov ∧ (branch c t s).reg = s.reg
    ∧ (branch c t s).det = s.det ∧ (branch c t s).saf = s.saf ∧ (branch c t s).lnk = s.lnk ∧ (branch c t s).fg = s.fg
    ∧ (branch c t s).out = s.out :=
  ⟨rfl, rfl, rfl, rfl, rfl, rfl, rfl, rfl, rfl, rfl, rfl, rfl, rfl, rfl, rfl, rfl, rfl, rfl, rfl⟩
@[simp] theorem passTxn_fields (s : State) :
    (passTxn s).pending = s.pending ∧ (passTxn s).fresh = s.fresh ∧ (passTxn s).env = s.env ∧ (passTxn s).tick = s.tick
    ∧ (passTxn s).fuse = s.fuse ∧ (passTxn s).arr = s.arr ∧ (passTxn s).bg = s.bg ∧ (passTxn s).cache = s.cache
    ∧ (passTxn s).coh = s.coh ∧ (passTxn s).ken = s.ken ∧ (passTxn s).red = s.red ∧ (passTxn s).atom = s.atom
    ∧ (passTxn s).seq = s.seq ∧ (passTxn s).mov = s.mov ∧ (passTxn s).reg = s.reg ∧ (passTxn s).det = s.det
    ∧ (passTxn s).saf = s.saf ∧ (passTxn s).lnk = s.lnk ∧ (passTxn s).fg = s.fg :=
  ⟨rfl, rfl, rfl, rfl, rfl, rfl, rfl, rfl, rfl, rfl, rfl, rfl, rfl, rfl, rfl, rfl, rfl, rfl, rfl⟩

/-- The registering of a message is seen in the intake of the sc, the links and the charges alone. -/
@[simp] theorem registered_fields (a : Arrival) (s : State) :
    (registered a s).pending = s.pending ∧ (registered a s).fresh = s.fresh ∧ (registered a s).tick = s.tick
    ∧ (registered a s).fuse = s.fuse ∧ (registered a s).arr = s.arr ∧ (registered a s).bg = s.bg
    ∧ (registered a s).cache = s.cache ∧ (registered a s).coh = s.coh ∧ (registered a s).ken = s.ken
    ∧ (registered a s).red = s.red ∧ (registered a s).atom = s.atom ∧ (registered a s).seq = s.seq
    ∧ (registered a s).mov = s.mov ∧ (registered a s).det = s.det ∧ (registered a s).saf = s.saf
    ∧ (registered a s).fg = s.fg ∧ (registered a s).out = s.out := by
  unfold registered chargeCrossing chargeXp charge
  (repeat' split) <;> exact ⟨rfl, rfl, rfl, rfl, rfl, rfl, rfl, rfl, rfl, rfl, rfl, rfl, rfl, rfl, rfl, rfl, rfl⟩

@[simp] theorem registered_taken (a : Arrival) (s : State) :
    (registered a s).env.done.taken = a :: s.env.done.taken ∧ (registered a s).env.done.intake = true
    ∧ (registered a s).env.sc = s.env.sc := by
  unfold registered chargeCrossing chargeXp charge
  (repeat' split) <;> exact ⟨rfl, rfl, rfl⟩

end Sys2Proof.Laws
end

