-- ==== Sys2Proof/Laws/Frame.lean ====
section
/-! SUPPORT. What software alone writes, and that an effect which leaves it alone is the whole answer of its command. -/

namespace Sys2Proof.Laws

open Sys2Proof.Machine Sys2Proof.Safety

/-- t holds in every field that `settle` and `settlePeriods` name what s holds. Where t is s with other fields changed, each condition
is true by rfl: write `{}`. -/
structure Untouched (s t : State) : Prop where
  q : s.pending = t.pending := by rfl
  f : s.fuse = t.fuse := by rfl
  e1 : s.env.idSlice = t.env.idSlice := by rfl
  e2 : s.env.idDie = t.env.idDie := by rfl
  e3 : s.env.idAgent = t.env.idAgent := by rfl
  e4 : s.env.idSub = t.env.idSub := by rfl
  e5 : s.env.wir = t.env.wir := by rfl
  e6 : s.env.boundary = t.env.boundary := by rfl
  e7 : s.env.wsUndefined = t.env.wsUndefined := by rfl
  e8 : s.env.phase = t.env.phase := by rfl
  a1 : s.arr.spareBank = t.arr.spareBank := by rfl
  a2 : s.arr.spareEntry = t.arr.spareEntry := by rfl
  b1 : s.bg.scrubEn = t.bg.scrubEn := by rfl
  b2 : s.bg.calFrames = t.bg.calFrames := by rfl
  b3 : s.bg.scrubLog2 = t.bg.scrubLog2 := by rfl
  b4 : s.bg.telEn = t.bg.telEn := by rfl
  b5 : s.bg.telRing = t.bg.telRing := by rfl
  b6 : s.bg.telBase = t.bg.telBase := by rfl
  b7 : s.bg.celSel = t.bg.celSel := by rfl
  c1 : s.coh.nclust = t.coh.nclust := by rfl
  c2 : s.coh.homeTmo = t.coh.homeTmo := by rfl
  c3 : s.coh.lock = t.coh.lock := by rfl
  k1 : s.ken.lock = t.ken.lock := by rfl
  k2 : s.ken.en = t.ken.en := by rfl
  k3 : s.ken.base = t.ken.base := by rfl
  k4 : s.ken.stageEn = t.ken.stageEn := by rfl
  k5 : s.ken.stageSize = t.ken.stageSize := by rfl
  k6 : s.ken.stageBase = t.ken.stageBase := by rfl
  k7 : s.ken.chSel = t.ken.chSel := by rfl
  k8 : s.ken.tgtSel = t.ken.tgtSel := by rfl
  d1 : s.det.lock = t.det.lock := by rfl
  d2 : s.det.strSel = t.det.strSel := by rfl
  h1 : s.cache.cleanClass = t.cache.cleanClass := by rfl
  h2 : s.cache.fbEn = t.cache.fbEn := by rfl
  h3 : s.cache.sdEn = t.cache.sdEn := by rfl
  h4 : s.cache.kways = t.cache.kways := by rfl
  h5 : s.cache.gate = t.cache.gate := by rfl
  h6 : s.cache.tagSelWay = t.cache.tagSelWay := by rfl
  h7 : s.cache.tagSelSet = t.cache.tagSelSet := by rfl
  q1 : s.seq.en = t.seq.en := by rfl
  q2 : s.seq.mclass = t.seq.mclass := by rfl
  q3 : s.seq.m0pc = t.seq.m0pc := by rfl
  q4 : s.seq.saveBase = t.seq.saveBase := by rfl
  q5 : s.seq.entrySel = t.seq.entrySel := by rfl
  q6 : s.seq.ctxSel = t.seq.ctxSel := by rfl
  q7 : s.seq.entries = t.seq.entries := by rfl
  q8 : s.seq.psPending = t.seq.psPending := by rfl
  q9 : s.seq.pstore = t.seq.pstore := by rfl
  r1 : s.reg.lock = t.reg.lock := by rfl
  r2 : s.reg.mode = t.reg.mode := by rfl
  r3 : s.reg.defclass = t.reg.defclass := by rfl
  r4 : s.reg.grant = t.reg.grant := by rfl
  r5 : s.reg.clsSel = t.reg.clsSel := by rfl
  r6 : s.reg.rangeSel = t.reg.rangeSel := by rfl
  r7 : s.reg.range = t.reg.range := by rfl
  r8 : s.reg.winLog2 = t.reg.winLog2 := by rfl
  r9 : s.reg.winPend = t.reg.winPend := by rfl
  s1 : s.saf.lock = t.saf.lock := by rfl
  s2 : s.saf.rptEn = t.saf.rptEn := by rfl
  s3 : s.saf.hbEn = t.saf.hbEn := by rfl
  s4 : s.saf.sclass = t.saf.sclass := by rfl
  s5 : s.saf.ringLog2 = t.saf.ringLog2 := by rfl
  s6 : s.saf.rptBase = t.saf.rptBase := by rfl
  s7 : s.saf.hbAddr = t.saf.hbAddr := by rfl
  s8 : s.saf.logSel = t.saf.logSel := by rfl
  l : s.lnk.seam = t.lnk.seam := by rfl
  t1 : s.tick.frameLog2 = t.tick.frameLog2 := by rfl
  t2 : s.tick.framePend = t.tick.framePend := by rfl
  t3 : s.tick.lock = t.tick.lock := by rfl

theorem Untouched.trans {s t u : State} (h : Untouched s t) (k : Untouched t u) : Untouched s u := by
  cases h; cases k; constructor <;> simp only [*]

set_option maxHeartbeats 2000000 in
/-- An effect that leaves alone what software alone writes is all that `keepConfig` answers. -/
theorem keep_untouched {s t : State} (h : Untouched s t) : settle s (settlePeriods s t) = t := by
  cases h
  simp only [settle, settlePeriods, *]

theorem keepConfig_eq {s : State} {body : State → State} (h : Untouched s (body s)) : keepConfig body s = body s :=
  keep_untouched h

theorem sbSettle_eq {s t : State} (h : Untouched s t) : sbSettle s t = t := by
  cases h
  simp only [sbSettle, *]

/-! ### Operations that leave it alone -/

theorem report_untouched (ev react muz detail : Nat) {s u : State} (h : Untouched s u) :
    Untouched s (report ev react muz detail u) := by
  simp only [report]; split <;> (cases h; constructor <;> assumption)

theorem emit_untouched (m : OutMsg) {s u : State} (h : Untouched s u) : Untouched s (emit m u) := by
  simp only [emit]; split <;> (cases h; constructor <;> assumption)

theorem countNack_untouched (st : Status) {s u : State} (h : Untouched s u) : Untouched s (countNack st u) := by
  simp only [countNack]; split <;> (cases h; constructor <;> assumption)

theorem charge_untouched (c n : Nat) {s u : State} (h : Untouched s u) : Untouched s (charge c n u) := by
  simp only [charge, setClass]; split <;> (cases h; constructor <;> assumption)

theorem chargeSector_untouched (c b : Nat) {s u : State} (h : Untouched s u) : Untouched s (chargeSector c b u) := by
  simp only [chargeSector]; split
  · have k := charge_untouched c 64 h
    simp only [setClass]
    cases k; constructor <;> assumption
  · exact h

theorem originate_untouched (who : Option Origin) (m : OutMsg) {s u : State} (h : Untouched s u) :
    Untouched s (originate who m u) := by
  simp only [originate, passTxn]
  split <;> exact emit_untouched _ (by cases h; constructor <;> assumption)

theorem countStore_untouched (c : Nat) (full : Bool) {s u : State} (h : Untouched s u) : Untouched s (countStore c full u) := by
  simp only [countStore]; split <;> (cases h; constructor <;> assumption)

end Sys2Proof.Laws
end

