-- ==== Sys2Proof/Laws/Issue.lean ====
section
/-! SUPPORT. What every issue of an instruction does (R249, R250, R267, R271 to R273), and the operations of the array and of egress in a
state with nothing under way. -/

namespace Sys2Proof.Laws

open Sys2Proof.Machine Sys2Proof.Safety

/-- An instruction that issues: the body of its meaning between the fetch and the end of the issue. -/
theorem issue_next {s : State} {c : Fin 16} {z : Zellek} {meaning : Zellek → Option (State → State)} {f : State → State}
    (h : Issues s c z) (hm : meaning z = some f) :
    issue c meaning s = .next (keepConfig (fun s => endIssue c (f (beginIssue c s))) s) := by
  have e : ∀ s', s' = s → issueStep c meaning s' = endIssue c (f (beginIssue c s')) := by
    rintro _ rfl
    simp [issueStep, h.may, h.insn, hm, h.sound]
  rw [issue, event_next h.use]
  simp only [keepConfig, e s rfl]

/-- What the fetch does before the meaning: PC, the counts, and nothing else. -/
theorem beginIssue_eq (c : Nat) (s : State) :
    beginIssue c s = { s with
      fresh := s.fresh + 1
      bg := { s.bg with tel := { s.bg.tel with
        pstoreCe := if (fetch s c).1 = 1 then min 65535 (s.bg.tel.pstoreCe + 1) else s.bg.tel.pstoreCe } }
      seq := { s.seq with
        lastIssue := s.env.sc
        ctx := tmod Ctx.idle s.seq.ctx c fetched } } := by
  simp only [beginIssue, takeFetch]
  split <;> simp_all [setCtx, satAdd] <;> rfl

theorem endTurns_spec (c : Nat) (s : State) :
    endTurns c s = { s with seq := { s.seq with
      heelAll := (endTurns c s).seq.heelAll, cur := (endTurns c s).seq.cur, notBefore := (endTurns c s).seq.notBefore } } := rfl

/-- The end of an issue: a context that steps halts, and the turn of a heel passes; nothing else changes. -/
theorem heelIssued_spec (c : Nat) (s : State) :
    (heelIssued c s).seq.ctx = s.seq.ctx
    ∧ heelIssued c s = { s with seq := { s.seq with
        heelQ := (heelIssued c s).seq.heelQ, heelAll := (heelIssued c s).seq.heelAll, cur := (heelIssued c s).seq.cur,
        notBefore := (heelIssued c s).seq.notBefore } }
    ∧ ((heelTurn s = true → heelNow s = some c) →
        (heelIssued c s).seq.heelQ = if heelTurn s = true then s.seq.heelQ.tail else s.seq.heelQ) := by
  unfold heelIssued
  by_cases hn : heelNow s = some c
  · rw [if_pos hn]
    have ht : heelTurn s = true := by simp [heelTurn, hn]
    simp only [ht, if_true]
    split
    · split
      · exact ⟨rfl, rfl, fun _ => rfl⟩
      · exact ⟨rfl, rfl, fun _ => rfl⟩
    · exact ⟨rfl, rfl, fun _ => rfl⟩
  · rw [if_neg hn]
    refine ⟨rfl, rfl, fun h => ?_⟩
    by_cases ht : heelTurn s = true
    · exact absurd (h ht) hn
    · simp [ht]

/-- What t is after the end of an issue of context c in s. -/
structure Ended (c : Nat) (s t : State) : Prop where
  mine : getCtx t c = stepped (getCtx s c)
  others : ∀ d, d ≠ c → getCtx t d = getCtx s d
  rest : t = { s with seq := { s.seq with
    ctx := t.seq.ctx, heelQ := t.seq.heelQ, heelAll := t.seq.heelAll, cur := t.seq.cur, notBefore := t.seq.notBefore } }
  turn : (heelTurn s = true → heelNow s = some c) →
    t.seq.heelQ = if heelTurn s = true then s.seq.heelQ.tail else s.seq.heelQ

theorem heelIssued_ended {c : Nat} {s w : State} (hs : w = { s with seq := { s.seq with ctx := w.seq.ctx } })
    (hc : getCtx w c = stepped (getCtx s c)) (ho : ∀ d, d ≠ c → getCtx w d = getCtx s d) : Ended c s (heelIssued c w) := by
  obtain ⟨h1, h2, h3⟩ := heelIssued_spec c w
  have hq : w.seq.heelQ = s.seq.heelQ := by rw [hs]
  have hn : heelNow w = heelNow s := by unfold heelNow; rw [hs]
  have ht : heelTurn w = heelTurn s := by unfold heelTurn; rw [hn]
  refine ⟨(getCtx_congr h1 c).trans hc, fun d hd => (getCtx_congr h1 d).trans (ho d hd), ?_, ?_⟩
  · clear h3
    generalize heelIssued c w = v at h1 h2
    rw [h1]
    exact h2.trans (by conv => lhs; rw [hs])
  · intro h
    rw [ht, hq, hn] at h3
    exact h3 h

theorem endIssue_spec (c : Nat) (s : State) : Ended c s (endIssue c s) := by
  unfold endIssue
  by_cases h1 : (getCtx s c).stepping = true
  · by_cases h2 : (getCtx s c).state = .ready
    · simp only [h1, h2, if_true]
      exact heelIssued_ended rfl (by simp [stepped, h1, h2]) fun d hd => getCtx_setCtx_ne _ _ hd
    · simp only [h1, h2, if_true, if_false]
      exact heelIssued_ended rfl (by simp [stepped, h1, h2]) fun d hd => getCtx_setCtx_ne _ _ hd
  · simp only [h1]
    exact heelIssued_ended rfl (by simp [stepped, h1]) fun d hd => rfl

/-- An instruction whose meaning leads from the fetch to w, which differs from u only in what an issue counts and in context c. -/
theorem issued_of {s u : State} {c : Fin 16} {z : Zellek} {meaning : Zellek → Option (State → State)} {f : State → State}
    (h : Issues s c z) (hm : meaning z = some f) (hu : Untouched s u)
    (hs : u.seq.pstore = s.seq.pstore) (hg : getCtx u c = getCtx s c) (hf : u.fresh = s.fresh) (he : u.env.sc = s.env.sc)
    (hq : u.seq.heelQ = s.seq.heelQ)
    (hw : f (beginIssue c s) = { u with
      fresh := u.fresh + 1
      bg := { u.bg with tel := { u.bg.tel with
        pstoreCe := if (fetch s c).1 = 1 then min 65535 (u.bg.tel.pstoreCe + 1) else u.bg.tel.pstoreCe } }
      seq := { u.seq with lastIssue := s.env.sc, ctx := (f (beginIssue c s)).seq.ctx,
                          nextId := (f (beginIssue c s)).seq.nextId } })
    (hd : ∀ d, d ≠ c.val → getCtx (f (beginIssue c s)) d = getCtx u d) :
    ∃ t, issue c meaning s = .next t ∧ getCtx t c = stepped (getCtx (f (beginIssue c s)) c) ∧ Issued c u t := by
  generalize hwe : f (beginIssue c s) = w at hw hd
  obtain ⟨x1, x2, x3, x4⟩ := endIssue_spec c w
  have hn : Untouched s (endIssue c w) := by
    rw [x3, hw]
    cases hu; constructor <;> assumption
  have hfe : fetch u c = fetch s c := by unfold fetch; rw [hg, hs, hf]
  have hnow : heelNow w = heelNow u := by unfold heelNow; rw [hw]
  have hnowS : heelNow u = heelNow s := by unfold heelNow; rw [hq, he]
  have hturn : heelTurn w = heelTurn u := by unfold heelTurn; rw [hnow]
  have hhead : heelTurn w = true → heelNow w = some c.val := by
    intro ht
    have hm' := h.may
    have hts : heelTurn s = true := by
      rw [hturn] at ht; unfold heelTurn at ht ⊢; rwa [hnowS] at ht
    rw [hnow, hnowS]
    simp only [mayIssue, holdsSlot, hts, if_true, Bool.and_eq_true, beq_iff_eq] at hm'
    exact hm'.1.1.1.2
  refine ⟨endIssue c w, ?_, x1, fun d hd' => (x2 d hd').trans (hd d hd'), ?_, ?_, ?_⟩
  · rw [issue_next h hm, keepConfig_eq (by simpa only [hwe] using hn)]
    simp only [hwe]
  · rw [x3, hw, hfe]
  · rw [x4 hhead, hturn]
    have e : w.seq.heelQ = u.seq.heelQ := by rw [hw]
    rw [e]
  · have e1 : (endIssue (↑c) w).bg = w.bg := by rw [x3]
    have e2 : (endIssue (↑c) w).seq.nextId = w.seq.nextId := by rw [x3]
    conv => lhs; rw [x3]
    rw [e1, e2]
    conv => lhs; rw [hw]
    conv => rhs; rw [hw]
    simp only [he]

@[simp] theorem getCtx_beginIssue_self (c : Nat) (s : State) : getCtx (beginIssue c s) c = fetched (getCtx s c) := by
  simp [beginIssue_eq, getCtx]

theorem getCtx_beginIssue_ne {c d : Nat} (s : State) (h : d ≠ c) : getCtx (beginIssue c s) d = getCtx s d := by
  simp [beginIssue_eq, getCtx, tget_tmod_ne _ _ _ h]

/-- An instruction whose meaning changes its context alone. -/
theorem issued_setCtx {s : State} {c : Fin 16} {z : Zellek} {meaning : Zellek → Option (State → State)} {f : State → State}
    (h : Issues s c z) (hm : meaning z = some f) (g : Ctx → Ctx) (hf : f (beginIssue c s) = setCtx c g (beginIssue c s)) :
    ∃ t, issue c meaning s = .next t ∧ getCtx t c = stepped (g (fetched (getCtx s c))) ∧ Issued c s t := by
  have k := issued_of (u := s) h hm {} rfl rfl rfl rfl rfl
    (by rw [hf, beginIssue_eq]; rfl)
    (fun d hd => by rw [hf, getCtx_setCtx_ne _ _ hd, getCtx_beginIssue_ne _ hd])
  rwa [hf, getCtx_setCtx_self, getCtx_beginIssue_self] at k

/-- Opening a pending entry takes the next number and changes one context. -/
theorem openPend_eq (c : Nat) (z : Zellek) (long store : Bool) (g : Gather) (n : Nat) (s : State) :
    openPend c z long store g n true s = (s.seq.nextId, { s with seq := { s.seq with
      nextId := s.seq.nextId + 1
      ctx := tmod Ctx.idle s.seq.ctx c fun x => opened x (entryOf z s.seq.nextId long store g n) } }) := by
  simp [openPend, newId, setCtx, opened, entryOf]

end Sys2Proof.Laws
end

