-- ==== Sys2Proof/Laws/Rows.lean ====
section
/-! SUPPORT. What kind of a row each command is: its exec is an event, or a sideband command, or an instrument. -/

namespace Sys2Proof.Laws

open Sys2Proof.Machine Sys2Proof.Safety

set_option maxRecDepth 8000 in
/-- A message, an event or an instruction acts through `event`. -/
theorem exec_event {c : Instr} (s : State) (h : kindOf c = .event) :
    ∃ body, exec c s = event s body := by
  cases c
  case bankAccessStart => unfold exec execBankAccessStart; exact ⟨_, rfl⟩
  case xpEgressStart => unfold exec execXpEgressStart; exact ⟨_, rfl⟩
  case internalLookup => unfold exec execInternalLookup; exact ⟨_, rfl⟩
  case waitedRequestResume => unfold exec execWaitedRequestResume; exact ⟨_, rfl⟩
  case transactionEnd => unfold exec execTransactionEnd; exact ⟨_, rfl⟩
  case reservationExpiry => unfold exec execReservationExpiry; exact ⟨_, rfl⟩
  case agentDown agent => unfold exec execAgentDown; exact ⟨_, rfl⟩
  case smHold bits => unfold exec execSmHold; exact ⟨_, rfl⟩
  case parkRequest => unfold exec execParkRequest; exact ⟨_, rfl⟩
  case parkRelease => unfold exec execParkRelease; exact ⟨_, rfl⟩
  case linkCheckFail port => unfold exec execLinkCheckFail; exact ⟨_, rfl⟩
  case linkReplayRequest port => unfold exec execLinkReplayRequest; exact ⟨_, rfl⟩
  case linkCredit port channel => unfold exec execLinkCredit; exact ⟨_, rfl⟩
  case litterBudgetEnd => unfold exec execLitterBudgetEnd; exact ⟨_, rfl⟩
  case pushStart => unfold exec execPushStart; exact ⟨_, rfl⟩
  case pushEnd => unfold exec execPushEnd; exact ⟨_, rfl⟩
  case packComplete => unfold exec execPackComplete; exact ⟨_, rfl⟩
  case redLockstepMismatch entry => unfold exec execRedLockstepMismatch; exact ⟨_, rfl⟩
  case seqLockstepMismatch parity => unfold exec execSeqLockstepMismatch; exact ⟨_, rfl⟩
  case nop c => unfold exec execNop; exact ⟨_, rfl⟩
  case illegal c => unfold exec execIllegal; exact ⟨_, rfl⟩
  case strobeLate => unfold exec execStrobeLate; exact ⟨_, rfl⟩
  case calibrationDue => unfold exec execCalibrationDue; exact ⟨_, rfl⟩
  case deadlockDeclare => unfold exec execDeadlockDeclare; exact ⟨_, rfl⟩
  case calendarSlot bank => unfold exec execCalendarSlot; exact ⟨_, rfl⟩
  case scrubStepDue bank => unfold exec execScrubStepDue; exact ⟨_, rfl⟩
  case reclaimWalkStep => unfold exec execReclaimWalkStep; exact ⟨_, rfl⟩
  case homeTimeout => unfold exec execHomeTimeout; exact ⟨_, rfl⟩
  case drainComplete => unfold exec execDrainComplete; exact ⟨_, rfl⟩
  case slotWatchdogExpiry => unfold exec execSlotWatchdogExpiry; exact ⟨_, rfl⟩
  case packWatchdogExpiry => unfold exec execPackWatchdogExpiry; exact ⟨_, rfl⟩
  case moveRequestIssue engine => unfold exec execMoveRequestIssue; exact ⟨_, rfl⟩
  case moveEnd engine => unfold exec execMoveEnd; exact ⟨_, rfl⟩
  case moveWatchdogExpiry engine => unfold exec execMoveWatchdogExpiry; exact ⟨_, rfl⟩
  case heelRelease => unfold exec execHeelRelease; exact ⟨_, rfl⟩
  case contextSave c => unfold exec execContextSave; exact ⟨_, rfl⟩
  case restoreReadsEnd c => unfold exec execRestoreReadsEnd; exact ⟨_, rfl⟩
  case pscentDone => unfold exec execPscentDone; exact ⟨_, rfl⟩
  case lockWalkEnd => unfold exec execLockWalkEnd; exact ⟨_, rfl⟩
  case gateWalkEnd => unfold exec execGateWalkEnd; exact ⟨_, rfl⟩
  case wayPowerUpEnd => unfold exec execWayPowerUpEnd; exact ⟨_, rfl⟩
  case reportWrite => unfold exec execReportWrite; exact ⟨_, rfl⟩
  case wayUnlockEnd => unfold exec execWayUnlockEnd; exact ⟨_, rfl⟩
  case rds h mask crit => unfold exec execRds; exact ⟨_, rfl⟩
  case rdx h mask crit => unfold exec execRdx; exact ⟨_, rfl⟩
  case upg h mask => unfold exec execUpg; exact ⟨_, rfl⟩
  case rdu h mask crit => unfold exec execRdu; exact ⟨_, rfl⟩
  case wrfull h data => unfold exec execWrfull; exact ⟨_, rfl⟩
  case wrpart h cwMask data => unfold exec execWrpart; exact ⟨_, rfl⟩
  case prefetch h mask => unfold exec execPrefetch; exact ⟨_, rfl⟩
  case reqUnassigned h op => unfold exec execReqUnassigned; exact ⟨_, rfl⟩
  case wbd h mask data => unfold exec execWbd; exact ⟨_, rfl⟩
  case evc h => unfold exec execEvc; exact ⟨_, rfl⟩
  case snprsp h outcome mask data => unfold exec execSnprsp; exact ⟨_, rfl⟩
  case atreq h op data => unfold exec execAtreq; exact ⟨_, rfl⟩
  case pkctb h epoch idx chunk ncw data => unfold exec execPkctb; exact ⟨_, rfl⟩
  case callMessage h entry reply args => unfold exec execCallMessage; exact ⟨_, rfl⟩
  case reserve h blocking ch => unfold exec execReserve; exact ⟨_, rfl⟩
  case commit h ch slot => unfold exec execCommit; exact ⟨_, rfl⟩
  case take h blocking ch => unfold exec execTake; exact ⟨_, rfl⟩
  case free h ch slot => unfold exec execFree; exact ⟨_, rfl⟩
  case credit h tgt count => unfold exec execCredit; exact ⟨_, rfl⟩
  case xrsp txn status cwMask data => unfold exec execXrsp; exact ⟨_, rfl⟩
  case xack txn status => unfold exec execXack; exact ⟨_, rfl⟩
  case datau h mask data => unfold exec execDatau; exact ⟨_, rfl⟩
  case cmp h => unfold exec execCmp; exact ⟨_, rfl⟩
  case sts h status => unfold exec execSts; exact ⟨_, rfl⟩
  case atrsp h status succ data => unfold exec execAtrsp; exact ⟨_, rfl⟩
  case pkrsp h status => unfold exec execPkrsp; exact ⟨_, rfl⟩
  case callrsp h status ctx data => unfold exec execCallrsp; exact ⟨_, rfl⟩
  case wbUnassigned h op => unfold exec execWbUnassigned; exact ⟨_, rfl⟩
  case memUnassigned op txn => unfold exec execMemUnassigned; exact ⟨_, rfl⟩
  case chopReserved h chop => unfold exec execChopReserved; exact ⟨_, rfl⟩
  case endI c => unfold exec execEndI; exact ⟨_, rfl⟩
  case br c => unfold exec execBr; exact ⟨_, rfl⟩
  case bcc c => unfold exec execBcc; exact ⟨_, rfl⟩
  case bst c => unfold exec execBst; exact ⟨_, rfl⟩
  case jal c => unfold exec execJal; exact ⟨_, rfl⟩
  case jr c => unfold exec execJr; exact ⟨_, rfl⟩
  case movst c => unfold exec execMovst; exact ⟨_, rfl⟩
  case aluAdd c => unfold exec execAluAdd; exact ⟨_, rfl⟩
  case aluSub c => unfold exec execAluSub; exact ⟨_, rfl⟩
  case aluMul c => unfold exec execAluMul; exact ⟨_, rfl⟩
  case aluAnd c => unfold exec execAluAnd; exact ⟨_, rfl⟩
  case aluOr c => unfold exec execAluOr; exact ⟨_, rfl⟩
  case aluXor c => unfold exec execAluXor; exact ⟨_, rfl⟩
  case aluShl c => unfold exec execAluShl; exact ⟨_, rfl⟩
  case aluShr c => unfold exec execAluShr; exact ⟨_, rfl⟩
  case aluSar c => unfold exec execAluSar; exact ⟨_, rfl⟩
  case aluSlt c => unfold exec execAluSlt; exact ⟨_, rfl⟩
  case aluSltu c => unfold exec execAluSltu; exact ⟨_, rfl⟩
  case aluSeq c => unfold exec execAluSeq; exact ⟨_, rfl⟩
  case aluMin c => unfold exec execAluMin; exact ⟨_, rfl⟩
  case aluMax c => unfold exec execAluMax; exact ⟨_, rfl⟩
  case movi c => unfold exec execMovi; exact ⟨_, rfl⟩
  case movhi c => unfold exec execMovhi; exact ⟨_, rfl⟩
  case ldw c => unfold exec execLdw; exact ⟨_, rfl⟩
  case ldd c => unfold exec execLdd; exact ⟨_, rfl⟩
  case stw c => unfold exec execStw; exact ⟨_, rfl⟩
  case pf c => unfold exec execPf; exact ⟨_, rfl⟩
  case tld c => unfold exec execTld; exact ⟨_, rfl⟩
  case tst c => unfold exec execTst; exact ⟨_, rfl⟩
  case tadd c => unfold exec execTadd; exact ⟨_, rfl⟩
  case tcvt c => unfold exec execTcvt; exact ⟨_, rfl⟩
  case tzero c => unfold exec execTzero; exact ⟨_, rfl⟩
  case tmov c => unfold exec execTmov; exact ⟨_, rfl⟩
  case parm c => unfold exec execParm; exact ⟨_, rfl⟩
  case pctb c => unfold exec execPctb; exact ⟨_, rfl⟩
  case crsv c => unfold exec execCrsv; exact ⟨_, rfl⟩
  case ccmt c => unfold exec execCcmt; exact ⟨_, rfl⟩
  case ctake c => unfold exec execCtake; exact ⟨_, rfl⟩
  case cfree c => unfold exec execCfree; exact ⟨_, rfl⟩
  case evset c => unfold exec execEvset; exact ⟨_, rfl⟩
  case evclr c => unfold exec execEvclr; exact ⟨_, rfl⟩
  case evwait c => unfold exec execEvwait; exact ⟨_, rfl⟩
  case evrd c => unfold exec execEvrd; exact ⟨_, rfl⟩
  case rdcnt c => unfold exec execRdcnt; exact ⟨_, rfl⟩
  case rdfrm c => unfold exec execRdfrm; exact ⟨_, rfl⟩
  case heel c => unfold exec execHeel; exact ⟨_, rfl⟩
  case moveI c => unfold exec execMoveI; exact ⟨_, rfl⟩
  case atom c => unfold exec execAtom; exact ⟨_, rfl⟩
  case labelI c => unfold exec execLabelI; exact ⟨_, rfl⟩
  case scabs c => unfold exec execScabs; exact ⟨_, rfl⟩
  case scrd c => unfold exec execScrd; exact ⟨_, rfl⟩
  case scclr c => unfold exec execScclr; exact ⟨_, rfl⟩
  case steprd c => unfold exec execSteprd; exact ⟨_, rfl⟩
  case stepadd c => unfold exec execStepadd; exact ⟨_, rfl⟩
  case fence c => unfold exec execFence; exact ⟨_, rfl⟩
  case call c => unfold exec execCall; exact ⟨_, rfl⟩
  case ctxcStart c => unfold exec execCtxcStart; exact ⟨_, rfl⟩
  case ctxcStop c => unfold exec execCtxcStop; exact ⟨_, rfl⟩
  case ctxcSuspend c => unfold exec execCtxcSuspend; exact ⟨_, rfl⟩
  case ctxcRestore c => unfold exec execCtxcRestore; exact ⟨_, rfl⟩
  case ctxcPool c => unfold exec execCtxcPool; exact ⟨_, rfl⟩
  all_goals cases h

/-- The end of a frame or of a window, and what moves the counter of a parked slice, act through `inService`. -/
theorem exec_boundary {c : Instr} (s : State) (h : kindOf c = .boundary) : ∃ body, exec c s = inService s body := by
  cases c
  case frameBoundary => unfold exec execFrameBoundary; exact ⟨_, rfl⟩
  case regWindowEnd => unfold exec execRegWindowEnd; exact ⟨_, rfl⟩
  case tkStrobe value => unfold exec execTkStrobe; exact ⟨_, rfl⟩
  case aonTick => unfold exec execAonTick; exact ⟨_, rfl⟩
  all_goals cases h

/-- A sideband command acts through `sideband`. -/
theorem exec_sideband {c : Instr} (s : State) (h : kindOf c = .sideband) : ∃ body, exec c s = sideband c s body := by
  cases c
  case sbWrite addr value =>
    unfold exec execSbWrite
    by_cases h1 : (readReg s addr.toNat).isNone = true
    · exact ⟨_, if_pos h1⟩
    · by_cases h2 : isDump addr.toNat value = true
      · exact ⟨_, (if_neg h1).trans (if_pos h2)⟩
      · exact ⟨_, (if_neg h1).trans (if_neg h2)⟩
  case hold  value => unfold exec execHold; exact ⟨_, rfl⟩
  case release  value => unfold exec execRelease; exact ⟨_, rfl⟩
  case counterLoRead => unfold exec execCounterLoRead sbReadOk; exact ⟨_, rfl⟩
  case seedLoRead => unfold exec execSeedLoRead sbReadOk; exact ⟨_, rfl⟩
  case stepLoRead => unfold exec execStepLoRead sbReadOk; exact ⟨_, rfl⟩
  case scent0Read => unfold exec execScent0Read sbReadOk; exact ⟨_, rfl⟩
  case pscent0Read => unfold exec execPscent0Read sbReadOk; exact ⟨_, rfl⟩
  case tagData0Read => unfold exec execTagData0Read sbReadOk; exact ⟨_, rfl⟩
  case pstoreLoRead  index => unfold exec execPstoreLoRead sbReadOk; exact ⟨_, rfl⟩
  case frameCfgWrite  value => unfold exec execFrameCfgWrite sbWriteOk; exact ⟨_, rfl⟩
  case cohCfgWrite  value => unfold exec execCohCfgWrite sbWriteOk; exact ⟨_, rfl⟩
  case agentDownWrite  value => unfold exec execAgentDownWrite sbWriteOk; exact ⟨_, rfl⟩
  case wayLock  value => unfold exec execWayLock sbWriteOk; exact ⟨_, rfl⟩
  case wayUnlock  value => unfold exec execWayUnlock sbWriteOk; exact ⟨_, rfl⟩
  case wayGate  value => unfold exec execWayGate sbWriteOk; exact ⟨_, rfl⟩
  case wayPower  value => unfold exec execWayPower sbWriteOk; exact ⟨_, rfl⟩
  case cacheCfgWrite  value => unfold exec execCacheCfgWrite sbWriteOk; exact ⟨_, rfl⟩
  case spareRtWrite  value => unfold exec execSpareRtWrite sbWriteOk; exact ⟨_, rfl⟩
  case stageCfgWrite  value => unfold exec execStageCfgWrite sbWriteOk; exact ⟨_, rfl⟩
  case channelEnable  value => unfold exec execChannelEnable sbWriteOk; exact ⟨_, rfl⟩
  case channelDisable  value => unfold exec execChannelDisable sbWriteOk; exact ⟨_, rfl⟩
  case targetValid  value => unfold exec execTargetValid sbWriteOk; exact ⟨_, rfl⟩
  case seqEnable  value => unfold exec execSeqEnable sbWriteOk; exact ⟨_, rfl⟩
  case seqDisable  value => unfold exec execSeqDisable sbWriteOk; exact ⟨_, rfl⟩
  case halt => unfold exec execHalt ctxCommand sbWriteOk; exact ⟨_, rfl⟩
  case resume => unfold exec execResume ctxCommand sbWriteOk; exact ⟨_, rfl⟩
  case step => unfold exec execStep ctxCommand sbWriteOk; exact ⟨_, rfl⟩
  case suspend => unfold exec execSuspend ctxCommand sbWriteOk; exact ⟨_, rfl⟩
  case restore => unfold exec execRestore ctxCommand sbWriteOk; exact ⟨_, rfl⟩
  case dump => unfold exec execDump; exact ⟨_, rfl⟩
  case stop => unfold exec execStop ctxCommand sbWriteOk; exact ⟨_, rfl⟩
  case evtClear  high value => unfold exec execEvtClear sbWriteOk; exact ⟨_, rfl⟩
  case evtSet  high value => unfold exec execEvtSet sbWriteOk; exact ⟨_, rfl⟩
  case mvGo  value => unfold exec execMvGo sbWriteOk; exact ⟨_, rfl⟩
  case regCfgWrite  value => unfold exec execRegCfgWrite sbWriteOk; exact ⟨_, rfl⟩
  case clsCfgWrite  second value => unfold exec execClsCfgWrite sbWriteOk; exact ⟨_, rfl⟩
  case xpGrantWrite  value => unfold exec execXpGrantWrite sbWriteOk; exact ⟨_, rfl⟩
  case seedLoWrite  value => unfold exec execSeedLoWrite sbWriteOk; exact ⟨_, rfl⟩
  case seedHiWrite  value => unfold exec execSeedHiWrite sbWriteOk; exact ⟨_, rfl⟩
  case stepLoWrite  value => unfold exec execStepLoWrite sbWriteOk; exact ⟨_, rfl⟩
  case stepHiWrite  value => unfold exec execStepHiWrite sbWriteOk; exact ⟨_, rfl⟩
  case strClr => unfold exec execStrClr sbWriteOk; exact ⟨_, rfl⟩
  case celClr => unfold exec execCelClr sbWriteOk; exact ⟨_, rfl⟩
  case pstoreLoWrite  index value => unfold exec execPstoreLoWrite sbWriteOk; exact ⟨_, rfl⟩
  case pstoreHiWrite  index value => unfold exec execPstoreHiWrite sbWriteOk; exact ⟨_, rfl⟩
  case bgCfgWrite  value => unfold exec execBgCfgWrite sbWriteOk; exact ⟨_, rfl⟩
  case telCfgWrite  value => unfold exec execTelCfgWrite sbWriteOk; exact ⟨_, rfl⟩
  all_goals cases h

/-- An instrument acts through `instrument`. -/
theorem exec_instrument {c : Instr} (s : State) (h : kindOf c = .instrument) :
    ∃ content, exec c s = instrument content s := by
  cases c
  case cfgRead addr => unfold exec execCfgRead; exact ⟨_, rfl⟩
  case fuseImage => unfold exec execFuseImage; exact ⟨_, rfl⟩
  case rptLog => unfold exec execRptLog; exact ⟨_, rfl⟩
  all_goals cases h

/-! ### What the slice performs by itself -/

theorem firstOf_mem {l : List (Option Instr)} {c : Instr} (h : firstOf l = some c) : some c ∈ l := by
  induction l with
  | nil => simp [firstOf] at h
  | cons a r ih =>
    cases a with
    | none => simp only [firstOf] at h; exact List.mem_cons_of_mem _ (ih h)
    | some b => simp only [firstOf] at h; injection h with h; subst h; exact List.mem_cons_self

theorem rowIf_some {b : Bool} {r c : Instr} (h : some c = rowIf b r) : c = r := by
  unfold rowIf at h; split at h <;> simp_all

theorem firstRow_some {n : Nat} {due : Fin n → Bool} {row : Fin n → Instr} {c : Instr} (h : some c = firstRow due row) :
    ∃ k, c = row k := by
  unfold firstRow at h
  cases hf : (List.finRange n).find? due with
  | none => simp [hf] at h
  | some k => simp [hf] at h; exact ⟨k, h⟩

theorem row_kind (c : Fin 16) (z : Zellek) : kindOf (z.row c) = .event := by
  cases z
  case alu o _ _ _ => cases o <;> rfl
  case ctxc o => cases o <;> rfl
  all_goals rfl

theorem nextRow_kind (s : State) (c : Fin 16) : kindOf (nextRow s c) = .event := by
  unfold nextRow
  split
  · rfl
  · split
    · rfl
    · exact row_kind c _

/-- What the slice performs by itself is an event, the end of a frame or a window, or RS_READY. -/
theorem dueEvent_kind {s : State} {c : Instr} (h : dueEvent s = some c) :
    kindOf c = .event ∨ kindOf c = .boundary ∨ c = .rsReady := by
  unfold dueEvent at h
  split at h
  · right; right; exact rowIf_some h.symm
  · have h := firstOf_mem h
    simp only [List.mem_cons, List.not_mem_nil, or_false] at h
    rcases h with h | h | h
    all_goals have h := firstOf_mem h.symm
    all_goals simp only [List.mem_cons, List.not_mem_nil, or_false] at h
    · rcases h with h | h | h | h | h | h | h | h | h | h | h | h | h | h
      all_goals first | (rw [rowIf_some h]; exact .inl rfl) | (obtain ⟨k, hk⟩ := firstRow_some h; rw [hk]; exact .inl rfl)
    · rcases h with h | h | h | h | h | h | h | h
      all_goals first | (rw [rowIf_some h]; exact .inl rfl) | (rw [rowIf_some h]; exact .inr (.inl rfl)) | (obtain ⟨k, hk⟩ := firstRow_some h; rw [hk]; exact .inl rfl)
    · rcases h with h | h | h | h | h | h | h | h | h | h | h | h | h
      all_goals first | (rw [rowIf_some h]; exact .inl rfl) | (obtain ⟨k, hk⟩ := firstRow_some h; rw [hk]; first | exact .inl rfl | exact .inl (nextRow_kind s k))
  · cases h

end Sys2Proof.Laws
end

