-- ==== Sys2Proof/WellFormed.lean ====
section
/-! DEFINITION. Which commands are well formed: their operands lie in the ranges the spec gives the fields. -/

namespace Sys2Proof

/-- A header's names fit their fields (Table 16.5): agent 8 bits, die 5, label 4, NDF 3. -/
def Hdr.wf (h : Hdr) : Bool :=
  decide (h.agent < 256) && decide (h.die < 32) && decide (h.label < 16) && decide (h.ndf < 8)

/-- No message carries more than eight code words (Table 16.3). -/
def dataWf (d : List CodeWord) : Bool := decide (d.length ≤ 8)

/-- REQ opcodes that Table 4.2 leaves unassigned (R113). -/
def reqOpUnassigned (op : BitVec 4) : Bool := op == 0x7 || op == 0x8 || decide (0xD ≤ op.toNat)

def Instr.wf : Instr → Bool
  | .linkCredit p ch => decide (ch < (match p with | .xp => 5 | _ => 4))
  | .rds h _ _ | .rdx h _ _ | .rdu h _ _ | .upg h _ | .prefetch h _ | .evc h => h.wf
  | .wrfull h d | .wrpart h _ d | .wbd h _ d | .snprsp h _ _ d | .atreq h _ d | .pkctb h _ _ _ _ d
  | .datau h _ d | .atrsp h _ _ d | .callrsp h _ _ d => h.wf && dataWf d
  | .reqUnassigned h op => h.wf && reqOpUnassigned op
  | .wbUnassigned h op => h.wf && decide (2 ≤ op.toNat)
  | .memUnassigned op _ => !(op == 0x8 || op == 0x9)
  | .chopReserved h op => h.wf && decide (7 ≤ op.toNat)
  | .callMessage h _ _ _ | .reserve h _ _ | .commit h _ _ | .take h _ _ | .free h _ _ | .credit h _ _
  | .cmp h | .sts h _ | .pkrsp h _ => h.wf
  | .xrsp _ _ _ w => decide (w.length ≤ 8)
  | _ => true

end Sys2Proof
end

