-- ==== Sys2Proof/Tests/Slice0.lean ====
section
/-! SUPPORT. Tests: a smoke test of the well-formedness checks, Zellek words written out bit by bit, one step of some commands
against values worked out from the spec, and for every statement that has hypotheses concrete states and operands that meet them. -/

namespace Sys2Proof.Tests

open Sys2Proof.Machine Sys2Proof.Safety

set_option Elab.async false

/-! ### Small states -/

/-- A header all of whose names fit: agent 3 of die 1, line 5, label 2. -/
def hdr : Hdr := { port := .mpa, agent := 3, die := 1, txn := 9, line := 5, label := 2, ndf := 0 }

def cw (n : Nat) : CodeWord := { data := BitVec.ofNat 256 (n + 1), poison := false }
def poisoned : CodeWord := { data := 7, poison := true }

/-- A slice in service: slice 3 of die 1 as agent 163, kennel window 1, two ways locked, counter valid. -/
def up : State := { State.reset with
  env := { Env.reset with phase := .ready, sc := 20000, sbRdy := true, sbOpen := true, idSlice := 3, idDie := 1, idAgent := 163, idSub := 1 }
  tick := { Tick.reset with counter := 0x123457, cntValid := true }
  ken := { State.reset.ken with en := true, base := 1 }
  cache := { Cache.reset with locked := 2, kways := 2 } }

/-- The first line of the slice's part of its kennel window. -/
def kline : Nat := 2 ^ 27 + 3 * 2 ^ 16

/-- s with a tag entry for a line. -/
def withLine (line : LineAddr) (way : Nat) (f : TagEntry → TagEntry) (s : State) : State :=
  setTag (lineSet line) way f (setTag (lineSet line) way (fun _ => newEntry line) s)

/-- Line 5 in way 3, all of it valid, in U. -/
def hitU : State := withLine 5 3 (fun e => { e with sv := 15, dst := dirU }) up

/-- The code words from a kennel offset on, in a slice without spare rows. -/
def withWords (off : Nat) (l : List Code) (s : State) : State :=
  { s with arr := { s.arr with cells := l.zipIdx.foldl (fun t w =>
      let loc := kennelLoc (off + 32 * w.2)
      tput t (cellKey loc (locRow loc)) (boleriEncode (boleriFold 3 loc) w.1)) s.arr.cells } }

def atSc (n : Nat) (s : State) : State := { s with env := { s.env with sc := n } }
def atCount (n : Word64) (s : State) : State := { s with tick := { s.tick with counter := n } }
def inFatal (s : State) : State := { s with saf := { s.saf with fatal := true } }
def draining1 (s : State) : State := { s with env := { s.env with pkReq := true, drainAt := 100 } }

/-- Context 3 about to issue the instruction at PC 7. -/
def running (z : Zellek) (f : Ctx → Ctx := id) : State :=
  { up with seq := { up.seq with
      en := true, cur := some 3, nextId := 11, events := 0xF0, saveBase := 2, pool := 0x7FF8
      ctx := [(3, f { Ctx.idle with state := .ready, pc := 7, cls := 2, lastSts := 4
                                    g := [(1, 5), (2, 9), (3, 0xFFFFFFFFFFFFFFFE)] })]
      pstore := [(7, { word := z.encode, flips := 0 })] } }

/-- The general registers 1 and 2 of a context. -/
def regs (v w : Word64) (x : Ctx) : Ctx := { x with g := [(1, v), (2, w), (4, 44), (5, 55)] }

/-! ### The hypotheses of the statements, as checks that evaluate -/

def inUseB (s : State) : Bool := !s.env.wsUndefined && s.env.phase == .ready
def admittedB (s : State) (h : Hdr) : Bool := inUseB s && !s.saf.fatal && !draining s && !badSource s h.agent h.die
def atRestB (s : State) (l : LineAddr) : Bool :=
  decide (kennelLine s l = none) && !s.coh.muzBanks.getLsbD (tagBank (lineSet l))
    && (openWays s).all (fun w => (tagAt s (lineSet l) w).passes)
    && (findWay s l).all (fun w => (tagAt s (lineSet l) w).dst != dirT)
    && s.coh.resv.all (fun v => v.line != l) && s.cache.waiters.all (fun r => r.line != l)
    && !leaving s l && !filling s l && decide (trackerOf s l = none) && s.coh.active.all (fun a => a.line != l)
    && decide (missOf s l = none) && s.cache.fb.all (fun f => f.2.line != l) && s.coh.dead == 0
def soundB (s : State) : Bool := s.ken.ch.all (fun x => !x.2.parityBad) && s.ken.slots.all (fun x => !x.2.parityBad)
  && s.ken.tgt.all (fun x => !x.2.parityBad)
def issuesB (s : State) (c : Nat) (z : Zellek) : Bool :=
  inUseB s && mayIssue s c && decide (nextInsn s c = some z) && !readsBad (getCtx s c) z
def holdsB (s : State) (off : Nat) (ws : List Code) : Bool :=
  s.fg.accs.isEmpty && s.fg.reads.isEmpty && off % 64 == 0 && ws.length % 2 == 0 && ws.zipIdx.all fun p =>
    decide (cellsOf s (kennelLoc (off + 32 * p.2)) = some (wordCells s (kennelLoc (off + 32 * p.2)) (plain p.1)))
      && !markPending s (kennelLoc (off + 32 * p.2))

def hearsB (s : State) (c : Instr) : Bool :=
  (s.saf.fatal || s.saf.cfgBad.isEmpty) && (arrivalOf c).all fun a => inTurn s a
def quietB (s : State) : Bool :=
  decide (s.env.phase = .ready) && drained { s with out := { s.out with sb := [] } } && decide (s.seq.evNext = 0)
    && s.seq.done.isEmpty && s.red.contribs.isEmpty && s.red.forming.isEmpty && s.mov.written.isEmpty
    && s.saf.formed.isEmpty && s.saf.cfgBad.isEmpty && !s.saf.monBad

theorem inUse_iff {s : State} : inUse s ↔ inUseB s = true := by simp [inUseB, inUse]

theorem sbActs_iff {s : State} : sbActs s ↔ (inUseB s && s.env.sbOpen && sbTurn s && !s.saf.fatal) = true := by
  simp [sbActs, sbReads, inUse_iff, and_assoc]

theorem sbReads_iff {s : State} : sbReads s ↔ (inUseB s && s.env.sbOpen && sbTurn s) = true := by
  simp [sbReads, inUse_iff, and_assoc]

theorem hears_iff {s : State} {c : Instr} : hears s c ↔ hearsB s c = true := by
  cases h : arrivalOf c <;> simp [hears, hearsB, h]

theorem quiet_iff {s : State} : Quiet s ↔ quietB s = true := by
  simp only [quietB, Bool.and_eq_true, decide_eq_true_eq, Bool.not_eq_true', List.isEmpty_iff]
  exact ⟨fun k => ⟨⟨⟨⟨⟨⟨⟨⟨⟨k.ready, k.drained⟩, k.flags⟩, k.results⟩, k.words.1⟩, k.words.2⟩, k.writes⟩, k.formed⟩, k.sound.1⟩,
      k.sound.2⟩,
    fun k => ⟨k.1.1.1.1.1.1.1.1.1, k.1.1.1.1.1.1.1.1.2, k.1.1.1.1.1.1.1.2, k.1.1.1.1.1.1.2, ⟨k.1.1.1.1.1.2, k.1.1.1.1.2⟩,
      k.1.1.1.2, k.1.1.2, ⟨k.1.2, k.2⟩⟩⟩

theorem idleArray_iff {s : State} : idleArray s ↔ (s.fg.accs.isEmpty && s.fg.reads.isEmpty) = true := by simp [idleArray]

theorem admitted_iff {s : State} {h : Hdr} : Admitted s h ↔ admittedB s h = true := by
  simp only [admittedB, Bool.and_eq_true, Bool.not_eq_true', ← inUse_iff]
  exact ⟨fun k => ⟨⟨⟨k.use, k.fatal⟩, k.drain⟩, k.source⟩, fun k => ⟨k.1.1.1, k.1.1.2, k.1.2, k.2⟩⟩

theorem atRest_iff {s : State} {l : LineAddr} : AtRest s l ↔ atRestB s l = true := by
  have dir : (findWay s l).all (fun w => (tagAt s (lineSet l) w).dst != dirT) = true
      ↔ ∀ w, findWay s l = some w → (tagAt s (lineSet l) w).dst ≠ dirT := by cases findWay s l <;> simp
  simp only [atRestB, Bool.and_eq_true, Bool.not_eq_true', decide_eq_true_eq, List.all_eq_true, bne_iff_ne, beq_iff_eq, dir]
  exact ⟨fun k => ⟨⟨⟨⟨⟨⟨⟨⟨⟨⟨⟨⟨k.memory, k.bank⟩, k.tags⟩, k.dir⟩, k.resv⟩, k.waits⟩, k.stay.1⟩, k.stay.2⟩, k.free.1⟩, k.free.2⟩,
      k.miss⟩, k.fetch⟩, k.alive⟩,
    fun ⟨⟨⟨⟨⟨⟨⟨⟨⟨⟨⟨⟨a, b⟩, c⟩, d⟩, e⟩, f⟩, g⟩, h⟩, i⟩, j⟩, k⟩, m⟩, n⟩ => ⟨a, b, c, d, e, f, ⟨g, h⟩, ⟨i, j⟩, k, m, n⟩⟩

theorem issues_iff {s : State} {c : Nat} {z : Zellek} : Issues s c z ↔ issuesB s c z = true := by
  simp only [issuesB, Bool.and_eq_true, Bool.not_eq_true', decide_eq_true_eq, ← inUse_iff]
  exact ⟨fun k => ⟨⟨⟨k.use, k.may⟩, k.insn⟩, k.sound⟩, fun k => ⟨k.1.1.1, k.1.1.2, k.1.2, k.2⟩⟩

theorem tget_all {α : Type} {d : α} {P : α → Bool} (hd : P d = false) :
    ∀ {t : Table α}, (t.all fun x => !P x.2) = true → ∀ k, P (tget d t k) = false
  | [], _, _ => hd
  | (i, a) :: r, h, k => by
    simp only [List.all_cons, Bool.and_eq_true, Bool.not_eq_true'] at h
    simp only [tget, tfind]
    split
    · exact h.1
    · exact tget_all hd h.2 k

theorem sound_of {s : State} (h : soundB s = true) : ChannelsSound s := by
  simp only [soundB, Bool.and_eq_true] at h
  exact ⟨tget_all (P := Channel.parityBad) rfl h.1.1, fun c k => tget_all (P := Slot.parityBad) rfl h.1.2 _,
    tget_all (P := Target.parityBad) rfl h.2⟩

theorem holds_of {s : State} {off : Nat} {ws : List Code} (h : holdsB s off ws = true) : HoldsWords s off ws := by
  simp only [holdsB, Bool.and_eq_true, Bool.not_eq_true', decide_eq_true_eq, List.all_eq_true, beq_iff_eq,
    List.isEmpty_iff] at h
  refine ⟨⟨h.1.1.1.1, h.1.1.1.2⟩, ⟨h.1.1.2, h.1.2⟩, fun i w hw => ?_⟩
  have := h.2 (w, i) (List.mem_zipIdx_iff_getElem?.2 hw)
  exact ⟨this.1, this.2⟩

/-! ### Well-formedness: each check refuses a term -/

theorem test_wf_agent : Instr.wf (.evc { hdr with agent := 256 }) = false := by decide
theorem test_wf_die : Instr.wf (.cmp { hdr with die := 32 }) = false := by decide
theorem test_wf_label : Instr.wf (.rds { hdr with label := 16 } 1 0) = false := by decide
theorem test_wf_ndf : Instr.wf (.reserve { hdr with ndf := 8 } true 1) = false := by decide
theorem test_wf_data : Instr.wf (.wrfull hdr (List.replicate 9 (cw 0))) = false := by decide
theorem test_wf_credit_mesh : Instr.wf (.linkCredit .mpa 4) = false ∧ Instr.wf (.linkCredit .mpa 3) = true := by decide
theorem test_wf_credit_xp : Instr.wf (.linkCredit .xp 5) = false ∧ Instr.wf (.linkCredit .xp 4) = true := by decide
theorem test_wf_reqUnassigned : Instr.wf (.reqUnassigned hdr 6) = false ∧ Instr.wf (.reqUnassigned hdr 7) = true := by decide
theorem test_wf_reqUnassigned_high : Instr.wf (.reqUnassigned hdr 12) = false ∧ Instr.wf (.reqUnassigned hdr 13) = true := by decide
theorem test_wf_wbUnassigned : Instr.wf (.wbUnassigned hdr 1) = false ∧ Instr.wf (.wbUnassigned hdr 2) = true := by decide
theorem test_wf_memUnassigned : Instr.wf (.memUnassigned 8 0) = false ∧ Instr.wf (.memUnassigned 9 0) = false := by decide
theorem test_wf_chopReserved : Instr.wf (.chopReserved hdr 6) = false ∧ Instr.wf (.chopReserved hdr 7) = true := by decide
theorem test_wf_xrsp : Instr.wf (.xrsp 0 0 255 (List.replicate 9 (0, cw 0))) = false := by decide

/-! ### Witnesses: the machine -/

theorem witness_StepRunsFrontCommand : { up with pending := [.fence 1, .halt] }.pending = .fence 1 :: [.halt] := rfl

theorem witness_StepTakesOneCommand : ∃ t, step { up with pending := [.halt] } = .next t := ⟨_, rfl⟩

/-- Nothing is due, and everything is drained. -/
def quiet : State := { up with bg := { up.bg with scrubEn := false } }
def heldBack (l : List Instr) (s : State) : State := { s with fg := { s.fg with held := l } }
def comparing (s : State) : State := { s with env := { s.env with done := { s.env.done with compare := true } } }
/-- A message has registered in this sc. -/
def heard (c : Instr) (s : State) : State :=
  { s with env := { s.env with done := { s.env.done with taken := (arrivalOf c).toList } } }

theorem witness_EmptyQueueLetsTimePass :
    (quiet.pending = [] ∧ quiet.env.wsUndefined = false)
    ∧ heldNext (heldBack [.rds hdr 3 0, .halt] quiet) = some (.rds hdr 3 0, [.halt])
    ∧ (∃ t, exec (.rds hdr 3 0) { heldBack [.rds hdr 3 0, .halt] quiet with
        fg := { quiet.fg with held := [] } } = .next t)
    ∧ (heldNext (comparing quiet) = none ∧ (comparing quiet).env.done.compare = true)
    ∧ (let s := atCount 0x200000 up; heldNext s = none ∧ s.env.done.compare = false ∧ dueEvent s = some .regWindowEnd)
    ∧ (dueEvent State.reset = none ∧ State.reset.env.phase = .held)
    ∧ (dueEvent { up with env := { up.env with phase := .fuseLoad } } = none
      ∧ dueEvent { up with env := { up.env with phase := .tagClear, sc := 600 } } = none)
    ∧ (heldNext quiet = none ∧ quiet.env.done.compare = false ∧ dueEvent quiet = none ∧ Quiet quiet ∧ quiet.out.sb = []
      ∧ quiet.env.pkAck = false ∧ quiet.env.ackNext = false)
    ∧ (inUse up ∧ inTurn (heard (.rds { hdr with agent := 4 } 3 0) up) (headed .req hdr 0) = false
      ∧ arrivalOf (.rds hdr 3 0) = some (headed .req hdr 0)
      ∧ kindOf .halt = .sideband ∧ sbTurn (heard (.rds hdr 3 0) up) = false ∧ up.env.sbOpen = true
      ∧ { up with env := { up.env with sbOpen := false } }.env.sbOpen = false) := by
  refine ⟨by decide +kernel, by decide +kernel, ⟨_, rfl⟩, ?_, ?_, ?_, ?_, ?_, ?_⟩
    <;> (try simp only [quiet_iff, inUse_iff]) <;> decide +kernel

/-- R121: in one sc the agent 3 of die 1 comes before agent 4; a second of one port with data does not fit. -/
theorem test_intake_order :
    inTurn (heard (.rds hdr 3 0) up) (headed .req { hdr with agent := 4 } 0) = true
    ∧ inTurn (heard (.rds { hdr with agent := 4 } 3 0) up) (headed .req hdr 0) = false
    ∧ inTurn (heard (.rds hdr 3 0) up) (headed .req { hdr with agent := 4, ndf := 4 } 8) = false
    ∧ inTurn (heard (.rds hdr 3 0) up) (headed .req { hdr with agent := 2, port := .mpb } 0) = false
    ∧ inTurn (heard (.rds hdr 3 0) up) (headed .req { hdr with agent := 4, port := .mpb, ndf := 4 } 8) = true := by decide +kernel

theorem up_legal : ConfigLegal up := by
  constructor <;> decide

theorem witness_EveryStepKeepsConfigurationLegal : ConfigLegal up ∧ ∃ t, step { up with pending := [.halt] } = .next t :=
  ⟨up_legal, _, rfl⟩

def lockedAll : State := { up with
  tick := { up.tick with lock := true }, ken := { up.ken with lock := true }, coh := { up.coh with lock := true }
  reg := { up.reg with lock := true }, det := { up.det with lock := true }, saf := { up.saf with lock := true } }

theorem witness_LockedFieldsStay : (∀ c ∈ lockedAll.pending.head?, isReset c = false) ∧ (∃ t, step lockedAll = .next t)
    ∧ lockedAll.tick.lock = true ∧ lockedAll.ken.lock = true ∧ lockedAll.coh.lock = true ∧ lockedAll.reg.lock = true
    ∧ lockedAll.det.lock = true ∧ lockedAll.saf.lock = true :=
  ⟨by decide, ⟨_, rfl⟩, rfl, rfl, rfl, rfl, rfl, rfl⟩

theorem witness_EventsKeepSoftwareRegisters : kindOf (.rds hdr 3 0) = .event ∧ ∃ t, exec (.rds hdr 3 0) hitU = .next t :=
  ⟨rfl, _, rfl⟩

/-- A stream of zeros passes its check: the remainder of zero is zero. -/
theorem crcOf_zero (w : Nat) : ∀ n, crcOf (0 : BitVec w) 0 n = 0
  | 0 => rfl
  | n + 1 => by
    have : crcStep 0 ((0 : BitVec w).getLsbD n) = 0 := by simp [crcStep]
    rw [crcOf, this]; exact crcOf_zero w n

theorem fuseCheck_zero : fuseCheck 0 = true := by
  rw [fuseCheck, crcOf_zero]; simp

/-- The check of a short message, worked out by hand: x^32 modulo G(x) is G(x) without its leading term. -/
theorem test_crc_one : crcOf (1 : BitVec 1) 0 1 = 0x04C11DB7 := by decide

theorem witness_BringUpCommandsAnswer :
    State.reset.env.phase = .held ∧ 160 ≤ (191 : Nat) ∧ { up with env := { up.env with phase := .fuseLoad } }.env.phase = .fuseLoad
    ∧ fuseCheck 0 = true ∧ { up with env := { up.env with phase := .tagClear } }.env.phase = .tagClear :=
  ⟨rfl, by decide, rfl, fuseCheck_zero, rfl⟩

theorem witness_WrapperCommandsAnswer :
    kindOf (.fence 1) ≠ .bringUp ∧ kindOf (.fence 1) ≠ .wrapper
    ∧ { up with env := { up.env with wsUndefined := true } }.env.wsUndefined = true ∧ up.env.wsUndefined = false := by decide

theorem witness_NothingActsBeforeReady :
    kindOf (.rds hdr 3 0) = .event ∧ kindOf .frameBoundary = .boundary ∧ kindOf (.hold 3) = .sideband
    ∧ State.reset.env.wsUndefined = false ∧ State.reset.env.phase ≠ .ready := by decide

theorem witness_InstrumentsChangeNoState :
    let s : State := { up with env := { up.env with wir := 8 } }
    s.env.wsUndefined = false ∧ s.env.phase ≠ .held ∧ s.env.wir = 8 := by decide

/-! ### Witnesses: sideband writes and reads -/

theorem witness_PeriodWritesAnswer :
    sbActs up ∧ sbActs lockedAll ∧ lockedAll.tick.lock = true ∧ lockedAll.reg.lock = true ∧ up.tick.lock = false
    ∧ up.reg.lock = false
    ∧ ((15 : Word32).extractLsb' 0 5).toNat = 15 ∧ ((25 : Word32).extractLsb' 0 5).toNat = 25
    ∧ ((14 : Word32).extractLsb' 0 5).toNat < 15 ∧ 25 < ((26 : Word32).extractLsb' 0 5).toNat
    ∧ ((8 : Word32).extractLsb' 0 5).toNat = 8 ∧ ((20 : Word32).extractLsb' 0 5).toNat = 20
    ∧ ((7 : Word32).extractLsb' 0 5).toNat < 8 ∧ 20 < ((21 : Word32).extractLsb' 0 5).toNat := by
  simp only [sbActs_iff]; decide +kernel

theorem witness_CohCfgWriteAnswers :
    sbActs up ∧ sbActs lockedAll ∧ lockedAll.coh.lock = true ∧ up.coh.lock = false
    ∧ ((0x00001000 : Word32).extractLsb' 20 8).toNat < 1 ∧ 160 < ((0x0A101000 : Word32).extractLsb' 20 8).toNat
    ∧ ((0x0A0000FF : Word32).extractLsb' 0 20).toNat < 256
    ∧ ((0x0A000100 : Word32).extractLsb' 20 8).toNat = 160 ∧ ((0x0A000100 : Word32).extractLsb' 0 20).toNat = 256
    ∧ ((0x00100100 : Word32).extractLsb' 20 8).toNat = 1 := by
  simp only [sbActs_iff]; decide +kernel

/-- Class 1 reserves 200 of the banks and of XP; class 3 is selected. -/
def classy (grant : BitVec 9) (sel : BitVec 4) : State := { up with reg := { up.reg with
  clsSel := sel, grant := grant, cls := [(1, { Machine.Class.initial with res := 200, xres := 200 })] } }

def resWritten (s : State) (v : Word32) : State := setClass s s.reg.clsSel.toNat fun k =>
  { k with prio := v.extractLsb' 30 2, res := v.extractLsb' 22 8, leash := v.extractLsb' 0 22
           leftLeash := k.leftLeash || (s.tick.cntValid && k.bytes < 64 * k.leash.toNat && 64 * (v.toNat % 2 ^ 22) ≤ k.bytes) }
def xresWritten (s : State) (v : Word32) : State := setClass s s.reg.clsSel.toNat fun k => { k with xres := v.extractLsb' 0 9 }

theorem witness_AdmissionWritesAnswer :
    sbActs (classy 4 3) ∧ (classy 4 3).reg.lock = false
    ∧ 224 < resSum (resWritten (classy 4 3) (25 <<< 22)) ∧ resSum (resWritten (classy 4 3) (24 <<< 22)) = 224
    ∧ 256 < xresSum (xresWritten (classy 4 3) 57) ∧ xresSum (xresWritten (classy 4 3) 56) = 256
    ∧ (up.reg.grant = 0 ∧ xresSum (xresWritten up 1) ≠ 0)
    ∧ (sbActs up ∧ up.reg.lock = false ∧ resSum (resWritten up 0) ≤ 224 ∧ xresSum (resWritten up 0) = 0)
    ∧ 256 < ((257 : Word32).extractLsb' 0 9).toNat ∧ ((256 : Word32).extractLsb' 0 9).toNat = 256
    ∧ xresSum (classy 4 3) ≠ 0 := by
  simp only [sbActs_iff]; decide +kernel

/-- Stream 2 is selected, with a SCABS under way. -/
def scentBusy : State := setStream 2 (fun x => { x with busy := 30000 })
  { up with det := { up.det with strSel := 2 }, seq := { up.seq with done := [⟨30000, 3, 1, some .ok, [], []⟩] } }

theorem witness_BackgroundAndStreamWritesAnswer :
    sbActs up ∧ sbActs lockedAll ∧ lockedAll.det.lock = true ∧ up.det.lock = false
    ∧ sbActs scentBusy ∧ streamBusy scentBusy scentBusy.det.strSel.toNat = true ∧ streamBusy up up.det.strSel.toNat = false := by
  simp only [sbActs_iff]; decide +kernel

theorem witness_ProgramStoreWritesAnswer :
    sbActs (running .nop) ∧ (running .nop).seq.en = true ∧ sbActs up ∧ up.seq.en = false := by
  simp only [sbActs_iff]; decide +kernel

def gating (gate gated : BitVec 16) (s : State) : State := { s with cache := { s.cache with gate := gate, gated := gated } }
def walking (w : Walk) (s : State) : State := { s with cache := { s.cache with walk := some w } }

theorem witness_WayWritesAnswer :
    sbActs up ∧ (16 < (17 : Word32).toNat % 32 ∧ waysBusy (walking { lock := true, ways := [1], set := 3, all := [1], target := 3 } up) = true)
    ∧ (waysBusy up = false ∧ up.cache.locked < (16 : Word32).toNat % 32)
    ∧ ((gating 0x2000 0x2000 up).cache.gated.getLsbD 13 = true
      ∧ 13 ∈ (List.range (16 - up.cache.locked)).map fun i => 16 - 16 + i)
    ∧ (∀ w ∈ (List.range (16 - up.cache.locked)).map fun i => 16 - 16 + i, up.cache.gated.getLsbD w = false)
    ∧ ((1 : Word32).toNat % 32 < up.cache.locked ∧ kennelInUse up (1 * 2 ^ 20) (2 * 2 ^ 20) = false)
    ∧ kennelInUse { up with ken := { up.ken with ch := [(1, { (default : Channel) with
        en := true, base := 0x8000, slotsz := 8, nslots := 16 })] } } (1 * 2 ^ 20) (2 * 2 ^ 20) = true
    ∧ (14 < 16 ∧ (0x4000 : BitVec 16).getLsbD 14 = true ∧ 16 ≤ 14 + up.cache.locked)
    ∧ ((∀ w, w < 16 → (0x2001 : BitVec 16).getLsbD w = true → w + up.cache.locked < 16)
      ∧ up.cache.gate &&& ~~~0x2001#16 &&& up.cache.gated = 0
      ∧ ((List.range 16).filter fun w => (0x2001 : BitVec 16).getLsbD w && !up.cache.gate.getLsbD w) ≠ [])
    ∧ ((gating 6 4 up).cache.gate &&& ~~~0x2#16 &&& (gating 6 4 up).cache.gated ≠ 0
      ∧ ((List.range 16).filter fun w => (0x2 : BitVec 16).getLsbD w && !(gating 6 4 up).cache.gate.getLsbD w) = []) := by
  simp only [sbActs_iff]; decide +kernel

def sparing (entry : BitVec 3) (written : BitVec 16) : State := { up with arr := { up.arr with
  spareBank := 2, spareEntry := entry, written := written
  spares := [(17, { valid := true, hw := true, row := 2 }), (18, { valid := true, hw := false, row := 1 })] } }
def staged (packs : Table Pack) : State := { up with
  ken := { up.ken with stageEn := true, stageSize := 8, stageBase := 8 }, red := { up.red with packs := packs } }
def withChannel (ch : Nat) (c : Channel) (slots : Table Slot) (s : State) : State :=
  { s with ken := { s.ken with ch := [(ch, c)], slots := slots } }

theorem witness_ArrayConfigurationWritesAnswer :
    sbActs up ∧ (0x2 : Word32).getLsbD 1 = true ∧ (0x1 : Word32).getLsbD 1 = false
    ∧ ((sparing 3 4).arr.written.getLsbD 2 = true ∧ (spareOf (sparing 1 0) 2 1).hw = true)
    ∧ (∃ j, j < 8 ∧ j ≠ 3 ∧ (spareOf (sparing 3 0) 2 j).valid = true ∧ (spareOf (sparing 3 0) 2 j).row = 1)
    ∧ ((sparing 3 0).arr.written.getLsbD 2 = false ∧ (spareOf (sparing 3 0) 2 3).hw = false
      ∧ ¬ ∃ j, j < 8 ∧ j ≠ 3 ∧ (spareOf (sparing 3 0) 2 j).valid = true ∧ (spareOf (sparing 3 0) 2 j).row = 5)
    ∧ ((staged []).ken.stageEn = true ∧ (staged []).ken.stageSize = 8 ∧ (staged []).ken.stageBase = 8 ∧ (staged []).red.packs = []
      ∧ (staged [(1, newPack 0 1 0 0 0)]).red.packs ≠ [])
    ∧ (up.ken.stageEn = false ∧ (7 : BitVec 9).toNat < 8 ∧ 256 < (257 : BitVec 9).toNat
      ∧ up.cache.locked * 2 ^ 20 < (25 + 8) * 65536 ∧ (24 + 8) * 65536 ≤ up.cache.locked * 2 ^ 20
      ∧ inSlots up (24 * 65536) (32 * 65536) = false
      ∧ inSlots (withChannel 1 { (default : Channel) with en := true, base := 0x8000, slotsz := 8, nslots := 16 } [] up)
          (8 * 65536) (24 * 65536) = true) := by
  simp only [sbActs_iff]; decide +kernel

def chan0 : Channel := { (default : Channel) with base := 0x4000, slotsz := 8, nslots := 16, owner := 9 }
def target0 : Target := { (default : Target) with bufsz := 8, nbuf := 4, agent := 3, die := 1, base := 0x100 }
def selected (c : Channel) (slots : Table Slot := []) (tgt : Table Target := []) : State :=
  { up with ken := { up.ken with chSel := 1, tgtSel := 4, ch := [(1, c)], slots := slots, tgt := tgt } }

theorem witness_ChannelAndTargetWritesAnswer :
    sbActs (selected chan0) ∧ (chanOf (selected { chan0 with muz := true }) 1).muz = true
    ∧ (chan0.muz = false ∧ chan0.en = false ∧ mayEnable (selected chan0) 1 chan0 = true)
    ∧ mayEnable (selected { chan0 with slotsz := 0 }) 1 { chan0 with slotsz := 0 } = false
    ∧ channelBusy (selected { chan0 with en := true } [(65536, { (default : Slot) with state := .taken, holder := some 3 })]) 1 = true
    ∧ (channelBusy (selected { chan0 with en := true } [(65536, { (default : Slot) with state := .full })]) 1 = false
      ∧ (∀ p ∈ (selected { chan0 with en := true } [(65536, { (default : Slot) with state := .full })]).ken.slots,
          p.1 / 65536 = 1 → p.2.commit = none)
      ∧ (let c := chanOf (selected { chan0 with en := true } [(65536, { (default : Slot) with state := .full })]) 1
        let v : Word32 := 0
        ({ c with litCnt := v.extractLsb' 23 7, litFirst := v.extractLsb' 13 10, wdog := v.extractLsb' 5 8
                  lb := v.extractLsb' 1 4 } : Channel) = c))
    ∧ covered (selected { chan0 with en := true, litCnt := 2, litFirst := 3 } [] [(4, target0)]) 4 = true
    ∧ ({ target0 with nbuf := 0, valid := true } : Target).inRange = false
    ∧ (covered (selected chan0 [] [(4, target0)]) 4 = false ∧ ({ target0 with valid := true } : Target).inRange = true) := by
  simp only [sbActs_iff]; decide +kernel

/-- Context 3 is selected, in state x. -/
def ctxThree (x : CtxState) (f : Ctx → Ctx := id) : State := { up with seq := { up.seq with
  en := true, nextId := 5, saveBase := 2, ctxSel := 3, ctx := [(3, f { Ctx.idle with pc := 7, g := [(1, 55)], state := x })] } }

theorem witness_SequencerControlWritesAnswer :
    sbActs up ∧ (0x800A0077 : Word32).getLsbD 31 = true
    ∧ { up with seq := { up.seq with muz := true } }.seq.muz = true
    ∧ (up.seq.muz = false ∧ (getCtx up 0).state = .idle ∧ up.seq.en = false) ∧ (ctxThree .fault).seq.en = true
    ∧ ((0xB0033 : Word32).getLsbD 31 = false ∧ 3 < 16 ∧ (getCtx (ctxThree .susp) 3).live = true)
    ∧ (∀ c, c < 16 → (getCtx (ctxThree .fault) c).live = false) := by
  simp only [sbActs_iff]; decide +kernel

/-- Context 3 waits on the channel operation of instruction 8; l has completed in this sc. -/
def waitingOn (l : List Result) : State :=
  let s := ctxThree .wait fun x => { x with wait := .channel 8 }
  { s with seq := { s.seq with done := l } }

theorem witness_ContextCommandsAnswer :
    sbActs (ctxThree .ready) ∧ (getCtx (ctxThree .ready) 3).state = .ready ∧ (getCtx (ctxThree .stall) 3).state = .stall
    ∧ (∀ id, (getCtx (ctxThree .wait fun x => { x with wait := .heel 3 }) 3).wait ≠ .channel id)
    ∧ ((getCtx (waitingOn []) 3).state = .wait ∧ (getCtx (waitingOn []) 3).wait = .channel 8
      ∧ (∃ r ∈ (waitingOn [⟨20000, 3, 8, some .ok, [], []⟩]).seq.done, r.ctx = 3 ∧ r.id = 8)
      ∧ ¬ ∃ r ∈ (waitingOn [⟨20000, 3, 7, some .ok, [], []⟩]).seq.done, r.ctx = 3 ∧ r.id = 8)
    ∧ (getCtx (ctxThree .halt) 3).state = .halt
    ∧ ((ctxThree .ready).seq.muz = false ∧ (getCtx (ctxThree .ready) 3).live = true ∧ saveRegionOk (ctxThree .ready) = true)
    ∧ (getCtx (ctxThree .fault) 3).live = false := by
  simp only [sbActs_iff]
  refine ⟨?_, ?_, ?_, fun _ => by simp [ctxThree, getCtx, tget, tfind], ?_, ?_, ?_, ?_⟩ <;> decide +kernel

/-- Context 3 idle, with its own image in its save slot; and with every word of the slot poisoned. -/
def withImage : State := withWords (imageOffset (ctxThree .idle) 3) (saveImage (ctxThree .idle) 3 false) (ctxThree .idle)
def withoutImage : State := { ctxThree .idle with bg := { up.bg with work := (List.range 35).map fun i =>
  { sec := kennelLoc (imageOffset (ctxThree .idle) 3 + 64 * i) / 2, kind := .marks 3 } } }
def imageRead (s : State) : List CodeWord × State :=
  engineRead 1 (getCtx s 3).cls (imageOffset s 3) 2240 { s with seq := { s.seq with quiet := false } }

theorem witness_ImageCommandsAnswer :
    sbReads (ctxThree .halt) ∧ saveRegionOk (ctxThree .halt) = true ∧ (getCtx (ctxThree .halt) 3).state = .halt
    ∧ idleArray (ctxThree .halt) ∧ (saveImage (ctxThree .halt) 3 true).length = 70
    ∧ (getCtx (ctxThree .ready) 3).state = .ready ∧ (ctxThree .ready).saf.fatal = false
    ∧ imageOk 3 (imageRead withImage).1 = true ∧ imageOk 3 (imageRead withoutImage).1 = false := by
  simp only [sbReads_iff, idleArray_iff]; decide +kernel

/-- Contexts that wait on event flags: 1 on all of 0 and 1, using them up; 2 on flag 0; 4 on flag 2; 15 on flag 33. -/
def eventful : State := { up with seq := { up.seq with en := true, events := 2, nextId := 6, ctx :=
  [(1, { Ctx.idle with state := .wait, wait := .events 3 true true }), (2, { Ctx.idle with state := .wait, wait := .events 1 false false }),
   (4, { Ctx.idle with state := .wait, wait := .events 4 false true, haltPend := true }),
   (15, { Ctx.idle with state := .wait, wait := .events (1 <<< 33) true false })] } }

theorem witness_EventFlagWritesAnswer :
    sbActs eventful ∧ (1 : Word32).zeroExtend 64 ≠ 0 ∧ fulfilled eventful (flagsSeen eventful 3 1) 1 = true
    ∧ fulfilled eventful (flagsSeen eventful 3 2) 2 = false ∧ flagsSeen eventful 3 16 = 0
    ∧ fulfilled eventful (flagsSeen eventful (1 <<< 33) 15) 15 = true
    ∧ (eventful.pending = [] ∧ eventful.env.wsUndefined = false ∧ heldNext (comparing eventful) = none
      ∧ (comparing eventful).env.done.compare = true) := by
  simp only [sbActs_iff]; decide +kernel

def moveDesc (src len : Nat) : BitVec 512 :=
  BitVec.ofNat 512 (src + 0x20060 * 2 ^ 48 + len * 2 ^ 96 + 5 * 2 ^ 136 + 0x1000 * 2 ^ 144)
def moving (d : BitVec 512) (f : Nat → Engine := fun _ => default) : State :=
  { up with mov := { up.mov with desc := d, eng := (List.range 8).map fun e => (e, f e) } }

theorem witness_MoveGoAnswers :
    sbActs (moving 0) ∧ (0x80000002 : Word32).getLsbD 31 = true
    ∧ (∀ e, e < 8 → (engineOf (moving 0 fun _ => { (default : Engine) with muz := true }) e).muz = true)
    ∧ (engineOf (moving 0) 7).muz = false
    ∧ moveAllowed up (moveOf (moveDesc 0x10041 0x800) 0 true 2 none) = false
    ∧ (moveAllowed up (moveOf (moveDesc 0x10040 0) 0 true 2 none) = true ∧ (moveOf (moveDesc 0x10040 0) 0 true 2 none).len = 0)
    ∧ (moveAllowed up (moveOf (moveDesc 0x10040 0x800) 0 true 2 none) = true ∧ (moveOf (moveDesc 0x10040 0x800) 0 true 2 none).len ≠ 0)
    ∧ (∀ e, e < 8 → (engineOf (moving 0 fun _ => { (default : Engine) with busy := true }) e).busy = true)
    ∧ (let s := moving 0 fun e => { (default : Engine) with busy := e < 7 }
      (engineOf s 7).busy = false ∧ (engineOf s 7).muz = false ∧ ∀ f, f < 7 → (engineOf s f).busy = true) := by
  simp only [sbActs_iff]; decide +kernel

/-- A read of kind k waits for the end of its sc. -/
def sampling (k : SbRead) (s : State := quiet) : State :=
  { s with out := { s.out with sb := [{ leaves := 20003, resp := 0, data := 0, read := some k }] } }

theorem witness_ShadowReadsAnswer :
    sbReads up
    ∧ (∀ k ∈ [SbRead.counterLo, .seedLo, .stepLo, .scent0, .pscent0, .tagData0, .pstoreLo 7],
      (sampling k).out.sb = [{ leaves := 20003, resp := 0, data := 0, read := some k }])
    ∧ (psBusyNow { up with det := { up.det with psBusy := 20005 } } = true ∧ psBusyNow up = false
      ∧ tfind (running .nop).seq.pstore 7 = some { word := Zellek.nop.encode, flips := 0 })
    ∧ (Quiet (sampling .seedLo) ∧ (sampling .seedLo).env.pkAck = false ∧ (sampling .seedLo).env.ackNext = false
      ∧ ∀ r ∈ (sampling .seedLo).out.sb, (sampling .seedLo).env.sc < r.leaves) := by
  simp only [sbReads_iff, quiet_iff]; decide +kernel

def holding (l : Table (BitVec 14)) : State := { up with ken := { up.ken with holds := l } }

theorem witness_RegisterAndHoldWritesAnswer :
    sbReads up ∧ readReg up 0x3FFFF = none
    ∧ ((readReg up 0x800).isSome = true ∧ (inFatal up).saf.fatal = true ∧ isDump 0x800 0 = false) ∧ up.saf.fatal = false
    ∧ ((16384 : Word32).toNat ≥ 2 ^ 14 ∧ (16383 : Word32).toNat < 2 ^ 14)
    ∧ (∃ p ∈ (holding [(0, 5), (2, 7)]).ken.holds, p.2 = 7)
    ∧ ((∀ n, n < 8 → (tfind (holding ((List.range 8).map fun n => (n, BitVec.ofNat 14 (n + 20)))).ken.holds n).isSome = true)
      ∧ ∀ p ∈ (holding ((List.range 8).map fun n => (n, BitVec.ofNat 14 (n + 20)))).ken.holds, p.2 ≠ 7)
    ∧ (tfind (holding [(0, 5), (2, 7)]).ken.holds 1 = none
      ∧ ∀ m, m < 1 → (tfind (holding [(0, 5), (2, 7)]).ken.holds m).isSome = true) := by
  simp only [sbReads_iff]; decide +kernel

def slotOf3 : Slot := { (default : Slot) with state := .resv, holder := some (agentHolder 3 1) }
def commitOf3 : Slot := { (default : Slot) with state := .full, commit := some (.agent { hdr with txn := 5 }, 2) }
/-- Agent 3 of die 1 holds slot 0, waits with a COMMIT of slot 1 and with a TAKE; a transaction awaits another agent. -/
def tracked2 : State := withChannel 1 { (default : Channel) with en := true, nslots := 16 } [(65536, slotOf3), (65537, commitOf3)]
  { up with coh := { up.coh with trk := [(2, { newTracker 9 9 1 .ti none dirX with await := [5], owner := some 5 })] }
            ken := { up.ken with waits := [{ ch := 1, take := true, party := .agent hdr }] } }

theorem witness_AgentDownAnswers :
    inUse up ∧ sbActs up ∧ (3 : Word32).extractLsb' 0 8 = 3 ∧ up.coh.nclust.toNat ≤ (160 : BitVec 8).toNat
    ∧ ({ up with coh := { up.coh with dead := 8 } }.coh.dead.getLsbD 3 = true)
    ∧ ((159 : BitVec 8).toNat < up.coh.nclust.toNat ∧ up.coh.nclust.toNat ≤ 160 ∧ up.coh.dead.getLsbD 159 = false)
    ∧ ((∀ x ∈ tracked2.coh.trk, x.2.owner ≠ some 3 ∧ 3 ∉ x.2.await) ∧ tracked2.coh.trk.Pairwise (fun a b => a.1 < b.1)
      ∧ (∀ w ∈ tracked2.ken.waits, ∃ h, w.party = .agent h ∧ h.agent = 3 ∧ h.die = 1)
      ∧ tfind tracked2.ken.slots 65536 = some slotOf3 ∧ slotOf3.holder = some (agentHolder 3 1)
      ∧ tfind tracked2.ken.slots 65537 = some commitOf3 ∧ commitOf3.commit = some (.agent { hdr with txn := 5 }, 2))
    ∧ (let s := withChannel 1 { (default : Channel) with en := true, nslots := 16 } [(65536, slotOf3)]
        { up with ken := { up.ken with waits := [{ ch := 1, take := false, party := .agent { hdr with agent := 4 } }] } }
      s.coh.trk = [] ∧ soundB s = true ∧ s.ken.waits = [{ ch := 1, take := false, party := .agent { hdr with agent := 4 } }]
      ∧ (chanOf s 1).muz = false ∧ (slotAt s 1 (chanOf s 1).pi).holder = some (agentHolder 3 1)) := by
  simp only [inUse_iff, sbActs_iff]
  exact ⟨by decide +kernel, by decide +kernel, by decide, by decide, by decide, by decide +kernel,
    ⟨by decide +kernel, by decide, fun w hw => ⟨hdr, by simp [tracked2, withChannel] at hw; rw [hw]; exact ⟨rfl, rfl, rfl⟩⟩,
      by decide +kernel, by decide, by decide +kernel, by decide⟩, by decide +kernel⟩

/-! ### Witnesses: the array, ticks, park, links, boundaries, the calendar -/

theorem witness_ArrayWordsReadBack :
    (524287 < 2 ^ 19 ∧ (0 : Nat) ≠ 524287) ∧ (2 ^ 24 - 32 < 2 ^ 24 ∧ (2 ^ 24 - 32) % 32 = 0 ∧ kennelLoc 0 ≠ kennelLoc (2 ^ 24 - 32)) := by
  decide +kernel

theorem witness_BoleriCorrectsErrors :
    (15 % 2 = 1 ∧ 276 + Nat.log2 15 ≤ 279) ∧ (9 % 2 = 1 ∧ 33 + Nat.log2 9 ≤ 279) ∧ (0 + 4 ≤ 4 ∧ 4 < 280) ∧ (5 : Nat) ≠ 524287 := by
  decide +kernel

/-- Parked, with the counter at n. -/
def parked (n : Word64) : State :=
  atCount n { up with env := { up.env with pkReq := true, pkAck := true, drainAt := 100, scRun := false } }

theorem witness_TickCommandsAnswer :
    (inUse up ∧ up.tick.cntValid = true ∧ up.env.reload = false)
    ∧ (let s : State := { up with tick := { Tick.reset with load := some 4 } }; s.tick.cntValid = false ∧ s.tick.load = some 4)
    ∧ (Tick.reset.cntValid = false ∧ Tick.reset.load = none)
    ∧ ({ up with env := { up.env with reload := true } }.env.reload = true)
    ∧ (up.env.pkAck = false ∧ { up with tick := { up.tick with strobeAge := 32768 } }.tick.strobeAge = 32768)
    ∧ (inUse (parked 0) ∧ (parked 0).tick.cntValid = true ∧ (parked 0).env.pkAck = true ∧ (parked 0).env.scRun = false)
    ∧ ((0x1FFFEE + 17) / 2 ^ 21 = 0x1FFFEE / 2 ^ 21 ∧ (0x1FFFEE + 17) / 2 ^ 12 = 0x1FFFEE / 2 ^ 12
      ∧ (0x1FFFEF + 17) / 2 ^ 21 ≠ 0x1FFFEF / 2 ^ 21 ∧ (0x1FFFEF + 17) / 2 ^ 12 ≠ 0x1FFFEF / 2 ^ 12)
    ∧ ((parked 0x1FFFEF).tick.frameLog2 = 21 ∧ (parked 0x1FFFEF).reg.winLog2 = 12 ∧ (parked 0x1FFFEF).tick.framePend = none
      ∧ (parked 0x1FFFEF).reg.winPend = none) := by
  simp only [inUse_iff]; decide +kernel

/-- pk_ack rises with the next sc. -/
def parking : State := { quiet with
  tick := Tick.reset, env := { quiet.env with pkReq := true, drainAt := 100, ackNext := true } }

theorem witness_ParkCommandsAnswer :
    (inUse up ∧ up.env.pkReq = false) ∧ (inUse (draining1 up) ∧ (draining1 up).env.pkReq = true
    ∧ (draining1 up).env.drainAt < (draining1 up).env.sc ∧ (draining1 up).env.pkAck = false ∧ (draining1 up).env.ackNext = false
    ∧ drained (draining1 up) = true)
    ∧ (Quiet parking ∧ parking.out.sb = [] ∧ parking.env.ackNext = true ∧ parking.env.pkAck = false
      ∧ parking.tick.cntValid = false ∧ parking.tick.load = none)
    ∧ (∃ t, exec .drainComplete (draining1 up) = .next t ∧ t.env.ackNext = true) := by
  refine ⟨?_, ?_, ?_, _, rfl, by decide +kernel⟩ <;> simp only [inUse_iff, quiet_iff] <;> decide +kernel

/-- An answer with three code words, the second poisoned, and an atomic's answer with one. -/
def dataAnswer : OutMsg := answerMsg { hdr with agent := 161 } 1 (.data 3 0 false) [cw 0, poisoned, cw 2, cw 3] 20009 .none
def shortAnswer : OutMsg := answerMsg hdr 0xB (.atRsp .ok 0) [cw 4] 20009 .none

theorem witness_LinkCommandsAnswer :
    inUse up ∧ 4 < (if Port.xp = .xp then 5 else 4) ∧ up.saf.fatal = false ∧ hears up (.memUnassigned 15 0xFFFF)
    ∧ (tget 0 up.lnk.rxOpen 1 ≤ up.env.sc
      ∧ up.env.sc < tget 0 { up with lnk := { up.lnk with rxOpen := [(1, 20003)] } }.lnk.rxOpen 1)
    ∧ (dataAnswer.heads ≤ 0 ∧ 0 < shortAnswer.heads ∧ shortAnswer.heads ≤ 1)
    ∧ ((dataAnswer.words 0)[1]? = some poisoned ∧ (shortAnswer.words 1).length = 1) := by
  simp only [inUse_iff, hears_iff]; decide +kernel

theorem witness_WindowEndAnswers :
    let s := atCount 0x1000 { up with reg := { up.reg with winPend := some 20 } }
    inUse s ∧ s.tick.cntValid = true ∧ s.env.pkAck = false ∧ s.env.done.window = false
    ∧ s.tick.counter.toNat % 2 ^ s.reg.winLog2.toNat = 0 := by
  simp only [inUse_iff]; decide +kernel

/-- At a frame boundary, the window ended. -/
def framing (f : State → State) : State :=
  f (atCount 0x200000 { up with env := { up.env with done := { up.env.done with window := true } } })

theorem witness_FrameBoundaryAnswers :
    (∀ s ∈ [framing id, framing (fun s => { s with tick := { s.tick with framePend := some 20 } }), framing (fun s => { s with bg := { s.bg with telEn := true, telBase := 0x100, telRing := 2 } }),
        framing (fun s => { s with saf := { s.saf with hbEn := true, hbAddr := 0x3005 } })],
      (inUse s ∧ s.tick.cntValid = true ∧ s.env.pkAck = false ∧ s.env.done.frame = false ∧ windowDue s = false)
      ∧ (s.tick.counter.toNat % 2 ^ s.tick.frameLog2.toNat = 0 ∧ s.saf.fatal = false ∧ s.saf.cfgBad = [] ∧ s.saf.monBad = false)
      ∧ soundB s = true ∧ ∀ c, c < 16 → (getCtx s c).suspPend = false ∧ (getCtx s c).image = none)
    ∧ (framing id).bg.telEn = false ∧ (framing id).saf.hbEn = false
    ∧ telRingOk (framing fun s => { s with bg := { s.bg with telEn := true, telBase := 0x100, telRing := 2 } }) = true
    ∧ telRingOk (framing fun s => { s with bg := { s.bg with telEn := true, telBase := 0xFFFF, telRing := 2 } }) = false
    ∧ ownKennel up (lineOf43 0x3005) = none := by
  simp only [inUse_iff]; decide +kernel

/-- In calendar slot 0, with background work queued. -/
def working (w : List BgWork) : State := atCount 0x1000 { up with bg := { up.bg with work := w } }
def rewrite5 : BgWork := { sec := 5, kind := .rewrite 2 1 2 }

theorem witness_CalendarCommandsAnswer :
    (∀ s ∈ [atCount 0x2001E0 up, working [], inFatal (working []), working [rewrite5]],
      inUse s ∧ s.tick.cntValid = true ∧ s.env.pkAck = false)
    ∧ (scrubStepDue (atCount 0x2001E0 up) 15 = true ∧ scrubQueued (atCount 0x2001E0 up) 15 = false
      ∧ scrubQueued { up with bg := { up.bg with work := [{ sec := 9, kind := .scrubRead }] } } 0 = true)
    ∧ (withheld (working []) 0 = true ∧ tget 0 up.fg.bankFree 0 ≤ up.env.sc ∧ (∀ w ∈ up.bg.work, secBank w.sec ≠ 0)
      ∧ (∀ c ∈ up.bg.copies, c.bank ≠ 0) ∧ (∀ c ∈ up.bg.cals, c.bank ≠ 0))
    ∧ (withheld (working [rewrite5]) 0 = true ∧ secBank rewrite5.sec = 0 ∧ 1 ≤ rewrite5.kind.order ∧ rewrite5.kind.order ≤ 4
      ∧ (∀ m, 1 ≤ m → m < rewrite5.kind.order → ([rewrite5].filter fun w => secBank w.sec == 0 && w.kind.order == m) = [])
      ∧ bgWords rewrite5.kind = some (2, plain 1, plain 2) ∧ marksOf (working [rewrite5]) 5 = none)
    ∧ (let s := framing fun s => { s with bg := { s.bg with calFrames := 1 }, env := { s.env with done := { s.env.done with frame := true } } }
      s.tick.counter.toNat % 2 ^ s.tick.frameLog2.toNat = 0 ∧ s.env.done.frame = true ∧ s.env.done.calib = false
      ∧ s.saf.fatal = false ∧ s.bg.calFrames ≠ 0 ∧ frameNumber s % s.bg.calFrames.toNat = 0)
    ∧ { up with bg := { up.bg with calDeferred := true } }.bg.calDeferred = true := by
  simp only [inUse_iff]; decide +kernel

def access (secs : List Nat) (f : Access → Access := id) : Access :=
  f { id := 3, ready := 20000, cls := 2, source := 0, secs := secs, data := [], isWrite := false, kennel := false
      purpose := .home (mkReq up .rdu hdr 3 0 0 [] default) .none 1 default }
def waiting (a : Access) : State := { up with fg := { up.fg with accs := [a] } }
def storing : Access := access [40000] fun a => { a with purpose := .write, isWrite := true, data := [(80000, cw 4), (80001, poisoned)] }
def xpMsg : OutMsg := { answerMsg hdr 8 (.status .ok) [] 20000 .none with port := .xp, cls := .mem }
def xpWaiting : State := { up with
  fg := { up.fg with xpq := [xpMsg] }, lnk := { up.lnk with txCrd := (List.range 24).map fun i => (i, 20) } }

/-- An eviction waits to leave, the oldest of two. -/
def evictWaiting : State :=
  let m : OutMsg := { xpMsg with op := 1, txn := 64, data := [cw 1, cw 2] }
  let x : Evict := { (default : Evict) with index := 0, line := 9, cwMask := 3 }
  { xpWaiting with fg := { xpWaiting.fg with xpq := [m] }, cache := { up.cache with ev := [x, { x with index := 1 }] } }
/-- Two reads of kennel sectors. -/
def kennelRead (id : Nat) (secs : List Nat) : Access := access secs fun a => { a with id := id, kennel := true }
def kennelWaiting : State := { up with fg := { up.fg with accs := [kennelRead 3 [5], kennelRead 4 [5]] } }

theorem witness_StartsAnswer :
    (inUse up ∧ nextAccess (waiting (access [5])) = some (access [5]) ∧ (access [5]).kennel = false ∧ (access [5]).isWrite = false
      ∧ (access [5]).ghost = false ∧ (access [5]).isAtomRead = false ∧ (waiting (access [5])).tick.cntValid = true)
    ∧ (nextAccess kennelWaiting = some (kennelRead 3 [5]) ∧ (kennelRead 3 [5]).kennel = true ∧ (kennelRead 3 [5]).isWrite = false
      ∧ (kennelRead 3 [5]).isAtomRead = false ∧ (kennelRead 3 [5]).ghost = false
      ∧ (kennelWaiting.fg.accs.map fun x => x.id).Nodup)
    ∧ (nextAccess (waiting storing) = some storing ∧ storing.isWrite = true ∧ storing.purpose = .write
      ∧ tableWf storing.data = true ∧ ∀ p ∈ storing.data, p.1 < 2 ^ 19)
    ∧ (xpNext xpWaiting = some xpMsg ∧ xpMsg.isXwr = false ∧ xpWaiting.tick.cntValid = true)
    ∧ (∃ m, xpNext evictWaiting = some m ∧ m.isXwr = true) := by
  refine ⟨?_, ?_, ?_, ?_, _, rfl, ?_⟩ <;> (try simp only [inUse_iff]) <;> decide +kernel
/-! ### Witnesses: requests and the home -/

def kennelHdr (line ndf : Nat) : Hdr := { hdr with line := BitVec.ofNat 40 (kline + line), ndf := ndf }

theorem witness_RefusedRequestsAnswer :
    inUse (inFatal up) ∧ (inFatal up).saf.fatal = true ∧ inUse (draining1 up) ∧ draining (draining1 up) = true
    ∧ (inUse up ∧ up.saf.fatal = false ∧ draining up = false)
    ∧ (reqForm (.rds { hdr with agent := 192 } 15 0) = some ({ hdr with agent := 192 }, false, true, true) ∧ badSource up 192 1 = true)
    ∧ reqForm (.wrfull { hdr with ndf := 3 } []) = some ({ hdr with ndf := 3 }, true, true, false)
    ∧ reqForm (.reqUnassigned hdr 7) = some (hdr, false, false, true)
    ∧ chForm (.reserve hdr true 1) = some (hdr, true) ∧ chForm (.free { hdr with ndf := 1 } 1 0) = some ({ hdr with ndf := 1 }, false)
    ∧ chForm (.chopReserved hdr 7) = some (hdr, false)
    ∧ (∀ s ∈ [up, inFatal up, draining1 up], ∀ c ∈ [Instr.rds { hdr with agent := 192 } 15 0, .wrfull { hdr with ndf := 3 } [],
        .reqUnassigned hdr 7, .reserve hdr true 1, .free { hdr with ndf := 1 } 1 0, .chopReserved hdr 7], hears s c) := by
  simp only [inUse_iff, hears_iff]; decide +kernel

/-- Channel 1 has slot 0 reserved by another agent. -/
def slotted : State := withChannel 1 { (default : Channel) with en := true, base := 0x4000, slotsz := 8, nslots := 16, owner := 9 }
  [(65536, { (default : Slot) with state := .resv, holder := some 4 })] up

/-- Its slot 0 is poisoned. -/
def slottedPoison : State := withChannel 1 { (default : Channel) with en := true, base := 0x4000, slotsz := 8, nslots := 16, owner := 9 }
  [(65536, { (default : Slot) with state := .poison })] up

theorem witness_KennelRequestsAnswer :
    (Admitted up (kennelHdr 0 0) ∧ ChannelsSound up ∧ kennelLine up (kennelHdr 0 0).line = some (3 * 2 ^ 24))
    ∧ (kennelRefused up (3 * 2 ^ 24) (agentHolder 3 1) false (sectorWords 15) = none ∧ (15 : BitVec 4).getLsbD 3 = true)
    ∧ (Admitted up (kennelHdr 0x2000 0) ∧ kennelLine up (kennelHdr 0x2000 0).line = some (3 * 2 ^ 24 + 0x200000)
      ∧ kennelRefused up (3 * 2 ^ 24 + 0x200000) (agentHolder 3 1) false (sectorWords 1) = some .bounds)
    ∧ (Admitted slotted (kennelHdr 0x800 4) ∧ ChannelsSound slotted ∧ kennelLine slotted (kennelHdr 0x800 4).line = some (3 * 2 ^ 24 + 0x80000)
      ∧ kennelRefused slotted (3 * 2 ^ 24 + 0x80000) (agentHolder 3 1) true 255 = some .bounds)
    ∧ (Admitted up (kennelHdr 0 4) ∧ kennelRefused up (3 * 2 ^ 24) (agentHolder 3 1) true 255 = none)
    ∧ ((0x83 : BitVec 8) ≠ 0 ∧ (bitsOf (0x83 : BitVec 8)).length = 3)
    ∧ (readForm (.upg (kennelHdr 0 0) 8) = some (.upg, kennelHdr 0 0, 8, 3) ∧ (8 : BitVec 4).getLsbD 3 = true
      ∧ (7 : BitVec 4).getLsbD 3 = false
      ∧ writeForm (.wrpart (kennelHdr 0 2) 0x83 [cw 0, cw 1, cw 2]) = some (kennelHdr 0 2, 0x83, [cw 0, cw 1, cw 2]))
    ∧ (∀ p ∈ [(slottedPoison, Status.poison), ({ slotted with ken := { slotted.ken with
          ch := [(1, { (default : Channel) with en := true, base := 0x4000, slotsz := 8, nslots := 16, owner := 9, muz := true })] } }, .muzzled)],
        Admitted p.1 (kennelHdr 0x800 0) ∧ soundB p.1 = true
        ∧ kennelRefused p.1 (3 * 2 ^ 24 + 0x80000) (agentHolder 3 1) false (sectorWords 1) = some p.2)
    ∧ (∀ s ∈ [up, slotted, slottedPoison], ∀ c ∈ [Instr.rds (kennelHdr 0 0) 15 3, .upg (kennelHdr 0x2000 0) 8,
        .wrfull (kennelHdr 0 4) (List.replicate 8 (cw 0)), .wrpart (kennelHdr 0x800 2) 0x83 [cw 0, cw 1, cw 2]], hears s c) := by
  refine ⟨⟨admitted_iff.2 (by decide +kernel), sound_of (by decide +kernel), by decide +kernel⟩, by decide +kernel,
    ⟨admitted_iff.2 (by decide +kernel), by decide +kernel, by decide +kernel⟩,
    ⟨admitted_iff.2 (by decide +kernel), sound_of (by decide +kernel), by decide +kernel, by decide +kernel⟩,
    ⟨admitted_iff.2 (by decide +kernel), by decide +kernel⟩, by decide +kernel, by decide +kernel,
    by simp only [admitted_iff]; decide +kernel, by simp only [hears_iff]; decide +kernel⟩

/-- Line 5 in way 3, shared by agent 3; owned by agent 7 with a dirty sector; shared by 3, 4 and 6. -/
def sharedBy3 : State := withLine 5 3 (fun e => ({ e with sv := 15, dst := dirSP } : TagEntry).withSharers [3]) up
def ownedBy7 : State := withLine 5 3 (fun e => { e with sv := 7, sd := 1, dst := dirX, pv := 1, ptr0 := 7 }) up
def sharedBy346 : State := withLine 5 3 (fun e => ({ e with sv := 15, dst := dirSP } : TagEntry).withSharers [4, 3, 6]) up

theorem witness_HomeServesHits :
    (Admitted hitU hdr ∧ AtRest hitU hdr.line ∧ findWay hitU hdr.line = some 3)
    ∧ (reqForm (.rds hdr 15 3) = some (hdr, false, true, true) ∧ readForm (.rds hdr 15 3) = some (.rds, hdr, 15, 3)
      ∧ (15 : BitVec 4) &&& ~~~(tagAt hitU 5 3).sv = 0 ∧ namesPoison hitU 5 3 15 = false
      ∧ needsSnoop hitU (mkReq hitU .rds hdr 15 3 0 [] default) (tagAt hitU 5 3) = false)
    ∧ (Admitted sharedBy3 hdr ∧ AtRest sharedBy3 hdr.line ∧ reqForm (.upg hdr 15) = some (hdr, false, true, true)
      ∧ caching sharedBy3 3 1 = true ∧ (tagAt sharedBy3 5 3).dst = dirSP ∧ (tagAt sharedBy3 5 3).sharers = [3]
      ∧ namesPoison sharedBy3 5 3 15 = false)
    ∧ (Admitted hitU { hdr with ndf := 1 } ∧ reqForm (.wrpart { hdr with ndf := 1 } 0x81 [cw 0, cw 1]) = some ({ hdr with ndf := 1 }, false, true, true)
      ∧ writeForm (.wrpart { hdr with ndf := 1 } 0x81 [cw 0, cw 1]) = some ({ hdr with ndf := 1 }, 0x81, [cw 0, cw 1])
      ∧ (tagAt hitU 5 3).dst = dirU ∧ mergeNeeds (tagAt hitU 5 3).sv 0x81 = 0)
    ∧ ((mkReq hitU .rdu hdr 15 3 0 [] default).grants hitU = false ∧ (mkReq hitU .rds hdr 15 3 0 [] default).grants hitU = true
      ∧ (7 : BitVec 4).getLsbD 3 = false ∧ caching hitU 160 1 = false ∧ Admitted hitU { hdr with agent := 160 }
      ∧ reqForm (.upg { hdr with agent := 160 } 15) = some ({ hdr with agent := 160 }, false, true, true))
    ∧ (∀ s ∈ [hitU, sharedBy3], ∀ c ∈ [Instr.rds hdr 15 3, .upg hdr 15, .upg { hdr with agent := 160 } 15,
        .wrpart { hdr with ndf := 1 } 0x81 [cw 0, cw 1]], hears s c) := by
  refine ⟨?_, ?_, ?_, ?_, ?_, ?_⟩ <;> (try simp only [admitted_iff, atRest_iff, hears_iff]) <;> decide +kernel

def tracked (n : Nat) : Table Tracker := (List.range n).map fun i => (i, newTracker (BitVec.ofNat 40 (900 + i)) 900 0 .ti none dirSP)
def busyLine (s : State) : State :=
  { s with coh := { s.coh with active := [{ id := 4, line := 5, agent := 9, die := 1, endsAt := none }] } }

def sharedByAll : State := withLine 5 3 (fun e => { e with sv := 15, dst := dirSB }) up

theorem witness_HomeRecallsAndFetches :
    (Admitted ownedBy7 hdr ∧ AtRest ownedBy7 hdr.line ∧ reqForm (.rdx hdr 7 0) = some (hdr, false, true, true)
      ∧ findWay ownedBy7 hdr.line = some 3 ∧ namesPoison ownedBy7 5 3 7 = false
      ∧ needsSnoop ownedBy7 (mkReq ownedBy7 .rdx hdr 7 0 0 [] default) (tagAt ownedBy7 5 3) = true ∧ freeTracker ownedBy7 = some 0)
    ∧ freeTracker { ownedBy7 with coh := { ownedBy7.coh with trk := tracked 48 } } = none
    ∧ (AtRest sharedBy346 hdr.line ∧ (tagAt sharedBy346 5 3).dst = dirSP ∧ caching sharedBy346 3 1 = true
      ∧ needsSnoop sharedBy346 (mkReq sharedBy346 .upg hdr 7 0 0 [] default) (tagAt sharedBy346 5 3) = true)
    ∧ (AtRest up hdr.line ∧ findWay up hdr.line = none ∧ freeMiss up = some 0 ∧ freeTracker up = some 0 ∧ up.coh.trk.length < 48
      ∧ (candidates up 5).find? (fun w => !(tagAt up 5 w).tv) = some 0)
    ∧ (Admitted (busyLine hitU) hdr ∧ kennelLine (busyLine hitU) 5 = none ∧ leaving (busyLine hitU) 5 = false
      ∧ filling (busyLine hitU) 5 = false ∧ trackerOf (busyLine hitU) 5 = none ∧ (∃ a ∈ (busyLine hitU).coh.active, a.line = 5)
      ∧ (∀ w ∈ openWays (busyLine hitU), (tagAt (busyLine hitU) 5 w).passes = true) ∧ (busyLine hitU).coh.resv.length < 64)
    ∧ (Admitted ownedBy7 { hdr with ndf := 4 } ∧ needsSnoop ownedBy7 (mkReq ownedBy7 .wrfull { hdr with ndf := 4 } 0 0 255 (List.replicate 8 (cw 0)) default)
        (tagAt ownedBy7 5 3) = true)
    ∧ (∀ s ∈ [ownedBy7, sharedBy346, up, busyLine hitU], ∀ c ∈ [Instr.rdx hdr 7 0, .upg hdr 7, .rds hdr 7 1,
        .wrfull { hdr with ndf := 4 } (List.replicate 8 (cw 0))], hears s c)
    ∧ (∃ s, AtRest s hdr.line ∧ (tagAt s 5 3).dst = dirSB ∧ broadcastAwait s 3 ≠ [] ∧ findWay s hdr.line = some 3
      ∧ needsSnoop s (mkReq s .rdx hdr 7 0 0 [] default) (tagAt s 5 3) = true) := by
  refine ⟨?_, ?_, ?_, ?_, ?_, ?_, ?_, sharedByAll, ?_⟩ <;> (try simp only [admitted_iff, atRest_iff, hears_iff]) <;> decide +kernel

def read8 : Req := mkReq up .rds { hdr with agent := 8 } 3 0 0 [] default
def track (kind : Transient) (f : Tracker → Tracker) : Tracker :=
  f { newTracker 5 5 3 kind (some read8) dirX with await := [3], sentTo := [3], owner := some 3, timerFrom := some 15000 }
/-- Line 5 under a transaction in entry 3. -/
def underway (x : Tracker) : State :=
  let s := withLine 5 3 (fun e => { e with sv := 7, sd := 1, dst := dirT, pv := 1, ptr0 := 3 }) up
  { s with coh := { s.coh with trk := [(3, x)] } }
def withAck (x : Tracker) : Tracker := { x with
  endsAt := some 19999, await := [], held := [{ port := .mpa, agent := 7, die := 1, txn := 4, line := 5, label := 2 }] }
def reclaiming (set : Nat) (s : State) : State := { s with coh := { s.coh with reclaim := some set, dead := 0x10 } }

theorem witness_HomeEventsAnswer :
    (inUse (underway (track .tfs withAck)) ∧ endedTracker (underway (track .tfs withAck)) = some 3
      ∧ tfind (underway (track .tfs withAck)).coh.trk 3 = some (track .tfs withAck) ∧ findWay (underway (track .tfs withAck)) 5 = some 3)
    ∧ (let s : State := { up with coh := { up.coh with active := [{ id := 4, line := 5, agent := 9, die := 1, endsAt := some 20000 }] } }
      endedTracker s = none ∧ endedActive s = some 4 ∧ (s.coh.active.find? fun a => a.id == 4) = s.coh.active.head?)
    ∧ (let v : Resv := { line := 5, agent := 8, die := 1, running := some 0 }
      expiredResv { up with coh := { up.coh with resv := [v] } } = some v)
    ∧ (let s := reclaiming 5 (withLine 5 3 (fun e => ({ e with sv := 15, dst := dirSP } : TagEntry).withSharers [3, 4]) up);
      s.coh.reclaim = some 5 ∧ s.env.done.intake = false ∧ s.env.done.reclaim = false ∧ s.env.pkAck = false
      ∧ s.coh.muzBanks.getLsbD (tagBank 5) = false ∧ 3 ∈ openWays s ∧ (tagAt s 5 3).tv = true ∧ (tagAt s 5 3).dst = dirSP
      ∧ ((tagAt s 5 3).sharers.any fun a => isDead s a 1) = true)
    ∧ (let s := reclaiming 4095 (withLine 4095 3 (fun e => ({ e with sv := 3, dst := dirX } : TagEntry).withSharers [4]) up);
      3 ∈ openWays s ∧ (tagAt s 4095 3).tv = true ∧ (tagAt s 4095 3).dst = dirX ∧ isDead s (tagAt s 4095 3).ptr0.toNat 1 = true
      ∧ (tagAt s 4095 2).tv = false)
    ∧ (let r : Req := mkReq up .rds hdr 3 0 0 [] default
      let s : State := { hitU with cache := { hitU.cache with waiters := [r] } }
      resumable s = some r ∧ AtRest { s with cache := { s.cache with waiters := [] } } r.line ∧ findWay s r.line = some 3 ∧ r.kind = .rds ∧ r.mask ≠ 0
      ∧ r.mask &&& ~~~(tagAt s 5 3).sv = 0 ∧ namesPoison s 5 3 r.mask = false ∧ needsSnoop s r (tagAt s 5 3) = false) := by
  refine ⟨?_, ?_, ?_, ?_, ?_, ?_⟩ <;> (try simp only [inUse_iff, atRest_iff]) <;> decide +kernel

theorem witness_HomeTimeoutAnswers :
    let x := track .ti fun x => { x with elapsed := 4095, await := [9, 7, 4, 12], owner := none };
    let s := underway x;
    inUse s ∧ s.coh.trk = [(3, x)] ∧ expired s x = true ∧ x.tr ≠ .tb ∧ x.req = some read8 ∧ read8.kind ≠ .atom ∧ read8.internal = false
    ∧ isDead s read8.agent read8.die = false ∧ x.missing.Nodup ∧ x.missing.length ≤ 4 ∧ (∀ a ∈ x.missing, tget 0 s.coh.tmoCnt a < 2)
    ∧ s.saf.queue.length ≤ 62 := by
  simp only [inUse_iff]; decide +kernel

def lockWalk : Walk := { lock := true, ways := [3], set := 5, all := [3], target := 3 }
def resultPack : Pack := { newPack (BitVec.ofNat 256 (5 * 256 + 2 ^ 48 + 32 * 2 ^ 64 + 2 ^ 81 + 64 * 2 ^ 104 + 0x1000 * 2 ^ 130)) 2 0 0 0 with
  phase := .writing, result := (List.range 4).map cw }
def packWriting : State := { hitU with red := { hitU.red with packs := [(3, resultPack)] } }

theorem witness_WalkCommandsAnswer :
    (let s := walking lockWalk hitU;
      inUse s ∧ s.cache.walk = some lockWalk ∧ lockWalk.here = [3] ∧ lookupPacks s = [] ∧ s.env.done.lookup = false
      ∧ resumable s = none ∧ s.saf.fatal = false ∧ s.coh.muzBanks.getLsbD (tagBank 5) = false
      ∧ (∀ v ∈ openWays s, (tagAt s 5 v).passes = true) ∧ walkWaits s 5 3 = false ∧ (tagAt s 5 3).tv = true
      ∧ (tagAt s 5 3).dst = dirU ∧ (tagAt s 5 3).sd = 0 ∧ atomSectors s 5 3 = 0)
    ∧ (packWriting.cache.walk = none ∧ lookupPacks packWriting = [3] ∧ tfind packWriting.red.packs 3 = some resultPack
      ∧ AtRest packWriting (resultPack.lineAddr 0) ∧ findWay packWriting (resultPack.lineAddr 0) = some 3
      ∧ packWriting.red.fetched = [] ∧ mergeNeeds (tagAt packWriting 5 3).sv (BitVec.ofNat 8 (ones (resultPack.lineWords 0))) = 0)
    ∧ (let w : Walk := { lockWalk with set := 4096 }
      let s := walking w hitU
      s.cache.walk = some w ∧ w.lock = true ∧ 4096 ≤ w.set ∧ (∀ v ∈ s.cache.victims, v.miss ≠ none)
      ∧ (∀ e ∈ s.cache.ev, e.walked = false) ∧ ∀ v ∈ w.ways, wayBusy s v = false)
    ∧ (∀ rest ∈ [[], [7]],
      let w : Walk := { lockWalk with lock := false, ways := 3 :: rest, set := 4096, all := 3 :: rest }
      (walking w hitU).cache.walk = some w ∧ w.lock = false ∧ wayBusy (walking w hitU) 3 = false)
    ∧ (let s : State := { up with cache := { up.cache with powering := 8, gated := 12, powerAt := 20000 } }
      s.cache.powering ≠ 0 ∧ s.cache.powerAt ≤ s.env.sc)
    ∧ (let s : State := { up with cache := { up.cache with unlocking := some (20000, 2) } }
      s.cache.unlocking = some (20000, 2) ∧ 20000 ≤ s.env.sc) := by
  refine ⟨?_, ?_, ?_, ?_, ?_, ?_⟩ <;> (try simp only [inUse_iff, atRest_iff]) <;> decide +kernel

theorem witness_PrefetchAnswers :
    (inUse up ∧ hdr.ndf = 0 ∧ (inFatal up).saf.fatal = true)
    ∧ (draining (draining1 up) = true ∧ badSource up 192 1 = true
      ∧ { up with cache := { up.cache with fbEn := false } }.cache.fbEn = false)
    ∧ (Admitted up hdr ∧ AtRest up hdr.line ∧ up.cache.fbEn = true ∧ findWay up hdr.line = none ∧ tfree up.cache.fb 32 = some 0
      ∧ up.coh.dead = 0 ∧ (∀ w ∈ openWays up, (tagAt up (lineSet hdr.line) w).passes = true) ∧ (∀ m ∈ up.cache.miss, m.2.line ≠ hdr.line))
    ∧ (lineActive (busyLine up) 5 = true ∧ kennelLine up (kennelHdr 0 0).line ≠ none)
    ∧ (∀ s ∈ [up, inFatal up, draining1 up, busyLine up], ∀ m ∈ [(0 : BitVec 4), 15], hears s (.prefetch hdr m)) := by
  simp only [inUse_iff, admitted_iff, atRest_iff, hears_iff]; decide +kernel

def ownedBy3 : State := withLine 5 3 (fun e => { e with sv := 7, sd := 1, dst := dirX, pv := 1, ptr0 := 3 }) up

theorem witness_WritebacksAnswer :
    (inUse ownedBy3 ∧ ownedBy3.saf.fatal = false ∧ ownedBy3.coh.muzBanks.getLsbD (tagBank (lineSet 5)) = false)
    ∧ (caching ownedBy3 3 1 = true ∧ goneAgent ownedBy3 3 1 = false ∧ badSource ownedBy3 3 1 = false)
    ∧ (outsider ownedBy3 { hdr with agent := 192 } = true ∧ outsider ownedBy3 hdr = false ∧ trackerOf ownedBy3 hdr.line = none)
    ∧ (∀ s ∈ [ownedBy3, inFatal ownedBy3, underway (track .tfs id)], ∀ c ∈ [Instr.wbd { hdr with ndf := 2 } 9 [cw 0, cw 1, cw 2, cw 3],
        .evc hdr, .wbUnassigned hdr 2, .wbUnassigned { hdr with agent := 192 } 2, .snprsp hdr 0 0 [],
        .snprsp { hdr with ndf := 1 } 4 1 [cw 0, cw 1]], hears s c)
    ∧ (trackerOf ownedBy3 5 = none ∧ leaving ownedBy3 5 = false ∧ filling ownedBy3 5 = false ∧ findWay ownedBy3 5 = some 3
      ∧ missOf ownedBy3 5 = none ∧ (tagAt ownedBy3 5 3).dst = dirX ∧ (tagAt ownedBy3 5 3).ptr0.toNat = hdr.agent)
    ∧ ((9 : BitVec 4) ≠ 0 ∧ (bitsOf (9 : BitVec 4)).length = 2 ∧ [cw 0, cw 1, cw 2, cw 3].length = 2 * 2)
    ∧ (∀ k ∈ [Transient.ti, .tb], let x := track k fun x => { x with await := [3, 4], sentTo := [3, 4], owner := none }
      trackerOf (underway x) 5 = some 3 ∧ tfind (underway x).coh.trk 3 = some x ∧ 3 ∈ x.await ∧ 3 ∈ x.sentTo ∧ x.await.filter (· ≠ 3) ≠ [])
    ∧ (let x := track .tfs id
      trackerOf (underway x) 5 = some 3 ∧ 3 ∈ x.await ∧ 3 ∈ x.sentTo ∧ x.req = some read8 ∧ x.owner = some 3 ∧ isDead (underway x) read8.agent read8.die = false
      ∧ read8.agent < 256) := by
  refine ⟨?_, ?_, ?_, ?_, ?_, ?_, ?_, ?_⟩ <;> (try simp only [inUse_iff, hears_iff]) <;> decide +kernel

/-- Call entry 1 is valid; contexts 1 to n are busy. -/
def calling (n : Nat) : State := { up with seq := { up.seq with
  en := true, pool := 0x7FFF, entries := [(1, { valid := true, cmask := 0xFFFE, pc := 77 })]
  ctx := (List.range n).map fun c => (c + 1, { Ctx.idle with state := .ready }) } }

theorem witness_AtomicAndCallRequestsAnswer :
    inUse up ∧ inUse { up with atom := { up.atom with muz := true } } ∧ (inFatal up).saf.fatal = true
    ∧ (up.atom.muz = false ∧ draining (draining1 up) = true ∧ badSource up 192 1 = true)
    ∧ (let op : AtomOp := { aop := 9, w64 := true, fetch := true, cw := 7, lmask := 15 }
      atomValid op = true ∧ [cw 0, cw 1].length = (if op.aop = 9 then 2 else 1) ∧ { hdr with ndf := 1 }.ndf = 1
      ∧ Admitted up (kennelHdr 0 1) ∧ kennelLine up (kennelHdr 0 1).line = some (3 * 2 ^ 24)
      ∧ kennelRefused up (3 * 2 ^ 24) (agentHolder 3 1) true (maskOf 8 [7]) = none
      ∧ Admitted hitU { hdr with ndf := 1 } ∧ AtRest hitU 5 ∧ findWay hitU 5 = some 3 ∧ (tagAt hitU 5 3).dst = dirU
      ∧ (tagAt hitU 5 3).sv.getLsbD (7 / 2) = true)
    ∧ ({ up with seq := { up.seq with muz := true } }.seq.muz = true ∧ (tget default up.seq.entries 0).valid = false)
    ∧ (Admitted (calling 15) { hdr with ndf := 1 } ∧ (tget default (calling 15).seq.entries 1).valid = true
      ∧ ∀ c, 1 ≤ c → c < 16 → (getCtx (calling 15) c).state ≠ .idle)
    ∧ (Admitted (calling 14) { hdr with ndf := 1 } ∧ (getCtx (calling 14) 15).state = .idle ∧ (calling 14).seq.pool.getLsbD 14 = true
      ∧ (tget default (calling 14).seq.entries 1).cmask.getLsbD 15 = true
      ∧ ∀ d, 1 ≤ d → d < 15 → (getCtx (calling 14) d).state ≠ .idle)
    ∧ (∀ s ∈ [up, inFatal up, draining1 up, hitU, calling 14], ∀ c ∈ [Instr.atreq (kennelHdr 0 1) { aop := 9, w64 := true, fetch := true, cw := 7, lmask := 15 } [cw 0, cw 1],
        .atreq hdr default [], .callMessage { hdr with ndf := 1 } 1 true 7, .callMessage { hdr with agent := 192 } 0 false 7], hears s c)
    ∧ kennelRefused slotted (3 * 2 ^ 24 + 0x80000) (agentHolder 3 1) true (maskOf 8 [7]) = some .bounds := by
  refine ⟨?_, ?_, ?_, ?_, ?_, ?_, ?_, ?_, ?_, ?_⟩ <;> (try simp only [inUse_iff, admitted_iff, atRest_iff, hears_iff]) <;> decide +kernel

/-! ### Witnesses: packs, channels, pushes, the sequencer's events, the mover, answers -/

def packDesc (target epoch vcount pcount evt record wdog : Nat) : Code :=
  BitVec.ofNat 256 (target + epoch * 2 ^ 48 + vcount * 2 ^ 64 + pcount * 2 ^ 81 + evt * 2 ^ 104 + record * 2 ^ 130 + wdog * 2 ^ 154)
/-- A pack on offset 0x10000 of this slice's kennel space, of 32 elements from one contributor. -/
def onePack (got : List Nat) : Pack := { newPack (packDesc ((kline + 0x100) * 256) 1 32 1 5 0x1000 2) 2 0 0 0 with got := got, age := 2 }
/-- The same of two contributors. -/
def twoPack : Pack := { newPack (packDesc ((kline + 0x100) * 256) 1 32 2 5 0x1000 2) 2 0 0 0 with age := 1 }
def gathering (p : Pack) : State := { staged [(2, p)] with env := { up.env with sc := 30000 } }
def packHdr : Hdr := kennelHdr 0x100 2
/-- Its only contribution has been taken in. -/
def gathered : Pack := { onePack [0] with roots := (List.range 2).map fun b => (b, some 0), readyAt := 20100 }

theorem witness_PacksAnswer :
    (inUse (inFatal up) ∧ (inFatal up).saf.fatal = true ∧ badSource up 192 1 = true)
    ∧ (∀ s ∈ [up, inFatal up, gathering (onePack []), gathering (onePack [0]), gathering twoPack],
        ∀ c ∈ [Instr.pkctb packHdr 1 0 0 3 ((List.range 4).map cw), .pkctb { packHdr with agent := 192 } 1 63 1023 7 []], hears s c)
    ∧ (∀ p ∈ [onePack [], onePack [0], twoPack], let s := gathering p
      inUse s ∧ s.saf.fatal = false ∧ badSource s packHdr.agent packHdr.die = false
      ∧ (∀ q ∈ s.red.packs, q.2.parityBad = false) ∧ s.red.muz = false ∧ packHdr.ndf = (4 + 1) / 2
      ∧ tfind s.red.packs 2 = some p ∧ p.target = 256 * packHdr.line.toNat ∧ p.epoch = 1 ∧ p.stop ≠ some 3
      ∧ (0 : BitVec 6).toNat < p.pcount ∧ (0 : BitVec 10).toNat < p.chunks ∧ p.chunkWords 0 = 4)
    ∧ ((onePack []).pcount = 1 ∧ twoPack.pcount ≠ 1 ∧ 0 * 1024 + 0 ∈ (onePack [0]).got ∧ (onePack []).pcount ≤ 1)
    ∧ (let s := gathering gathered;
      packDue s = some 2 ∧ tfind s.red.packs 2 = some gathered ∧ gathered.phase = .gathering
      ∧ gathered.kennelTarget s = some 0x10000 ∧ gathered.accum = false
      ∧ gathered.failed = false ∧ idleArray s ∧ 0x10000 + 32 * gathered.outWords ≤ 2 ^ 24 ∧ 0x10000 % 32 = 0
      ∧ gathered.recordAt % 32 = 0 ∧ gathered.evt = 5)
    ∧ packExpiryDue (gathering (onePack [])) = true
    ∧ ((gathering (onePack [])).red.muz = false ∧ tableWf (gathering (onePack [])).red.packs = true
      ∧ (∀ p ∈ (gathering (onePack [])).red.packs, p.2.parityBad = false)
      ∧ { up with red := { up.red with muz := true } }.red.muz = true) := by
  refine ⟨?_, ?_, ?_, ?_, ?_, ?_, ?_⟩ <;> (try simp only [inUse_iff, idleArray_iff, hears_iff]) <;> decide +kernel

def chan3 : Channel := { (default : Channel) with en := true, base := 0x100, slotsz := 4, nslots := 3, owner := agentHolder 3 1 }
def slot (st : SlotState) (h : Option (BitVec 14) := none) : Slot := { (default : Slot) with state := st, holder := h }
def channel1 (c : Channel) (slots : Table Slot) (waits : List ChWait := []) : State := { up with ken := { up.ken with
  ch := [(1, c)], slots := slots, waits := waits, tgt := [(2, { (default : Target) with valid := true, agent := 3, die := 1, nbuf := 5, credits := 3 })] } }
def waitsFor (ch : Nat) (take : Bool) : ChWait := { ch := ch, take := take, party := .agent { hdr with agent := 9, txn := 77 } }

theorem witness_ChannelOpsAnswer :
    (Admitted (channel1 chan3 []) hdr ∧ hdr.ndf = 0 ∧ ChannelsSound (channel1 chan3 []))
    ∧ ((chanOf (channel1 { chan3 with en := false } []) 1).en = false ∧ (chanOf (channel1 { chan3 with muz := true } []) 1).muz = true)
    ∧ ((chanOf (channel1 chan3 []) 1).en = true ∧ (chanOf (channel1 chan3 []) 1).muz = false ∧ (chanOf (channel1 chan3 []) 1).litCnt = 0
      ∧ (chanOf (channel1 { chan3 with litCnt := 2 } []) 1).litCnt ≠ 0)
    ∧ (let s := channel1 chan3 [(65536, slot .resv (some (agentHolder 3 1)))];
      (slotAt s 1 0).state ≠ .empty ∧ (slotAt s 1 0).state ≠ .poison ∧ (slotAt s 1 0).state ≠ .full
      ∧ (slotAt s 1 0).state = .resv ∧ (slotAt s 1 0).holder = some (agentHolder 3 1) ∧ (slotAt s 1 2).state ≠ .resv
      ∧ chan3.nslots.toNat ≤ (3 : BitVec 16).toNat)
    ∧ (let s := channel1 { chan3 with pi := 1, ci := 2 } [(65538, slot .full)];
      (∀ w ∈ s.ken.waits, w.ch ≠ 1) ∧ (slotAt s 1 (chanOf s 1).pi).state = .empty ∧ (slotAt s 1 (chanOf s 1).ci).state = .full)
    ∧ (let s := channel1 { chan3 with pi := 2, ci := 2 } [(65538, slot .poison)];
      (slotAt s 1 (chanOf s 1).pi).state = .poison ∧ (slotAt s 1 (chanOf s 1).ci).state = .poison)
    ∧ (let s := channel1 { chan3 with pi := 0, ci := 1 } [(65536, slot .taken (some (agentHolder 3 1))), (65537, slot .full), (65538, slot .full)] [waitsFor 1 false];
      Admitted s hdr ∧ (slotAt s 1 0).state = .taken ∧ (slotAt s 1 0).holder = some (agentHolder 3 1)
      ∧ s.ken.waits = [waitsFor 1 false] ∧ (chanOf s 1).pi = 0
      ∧ soundB s = true ∧ hearsB s (.free hdr 1 0) = true)
    ∧ ((targetAt (channel1 chan3 []) 2).credits + (2 : BitVec 9).toNat ≤ (targetAt (channel1 chan3 []) 2).nbuf.toNat
      ∧ (targetAt (channel1 chan3 []) 3).valid = false ∧ (∀ d ∈ (channel1 chan3 []).ken.ch, d.2.push = .idle ∨ d.2.push = .pushing)
      ∧ tableWf (channel1 chan3 []).ken.ch = true)
    ∧ (64 ≤ ((channel1 chan3 [] (List.replicate 64 (waitsFor 2 true))).ken.waits.filter fun w => match w.party with
        | .agent _ => true
        | _ => false).length
      ∧ ∀ s ∈ [channel1 chan3 [], channel1 { chan3 with litCnt := 2 } [], channel1 chan3 [] (List.replicate 64 (waitsFor 2 true))],
        ∀ c ∈ [Instr.reserve hdr true 1, .take hdr false 1, .commit hdr 1 0, .free hdr 1 0, .credit hdr 2 2], hears s c) := by
  refine ⟨⟨admitted_iff.2 (by decide +kernel), rfl, sound_of (by decide +kernel)⟩, ?_, ?_, ?_, ?_, ?_, ?_, ?_, ?_⟩
    <;> (try simp only [admitted_iff, hears_iff]) <;> decide +kernel

/-- Channel 1 pushes to targets 4 and 5, which hold a and b credits. -/
def pushing (c : Channel) (slots : Table Slot) (a b : Nat) : State := { up with ken := { up.ken with
  ch := [(1, { c with litCnt := 2, litFirst := 4 })], slots := slots
  tgt := [(4, { (default : Target) with valid := true, agent := 20, die := 1, nbuf := 5, credits := a, bufsz := 8, next := 4 }),
          (5, { (default : Target) with valid := true, agent := 30, die := 1, nbuf := 5, credits := b, bufsz := 8 })] } }
def committed : Slot := { slot .full with commit := some (.agent hdr, 2) }

theorem witness_PushEventsAnswer :
    (inUse (pushing chan3 [(65536, committed)] 1 1) ∧ pushNext (pushing chan3 [(65536, committed)] 1 1) = some 1
      ∧ ChannelsSound (pushing chan3 [(65536, committed)] 1 1) ∧ idleArray (pushing chan3 [(65536, committed)] 1 1))
    ∧ (let s := pushing { chan3 with ci := 2 } [(65538, slot .poison (some 9))] 1 1;
      pushNext s = some 1 ∧ soundB s = true ∧ (slotAt s 1 2).state = .poison ∧ ∀ w ∈ s.ken.waits, w.ch ≠ 1)
    ∧ (let s := { pushing { chan3 with ci := 2 } [(65538, slot .poison (some 9))] 1 1 with ken := {
          (pushing { chan3 with ci := 2 } [(65538, slot .poison (some 9))] 1 1).ken with waits := [waitsFor 1 false] } }
      pushNext s = some 1 ∧ soundB s = true ∧ ∀ w ∈ s.ken.waits, w.ch = 1 → w.take = false)
    ∧ (let s := pushing chan3 [(65536, committed)] 1 0;
      pushNext s = some 1 ∧ soundB s = true ∧ (slotAt s 1 0).state ≠ .poison ∧ (chanOf s 1).litter[1]? = some 5 ∧ (targetAt s 5).credits = 0
      ∧ (chanOf s 1).litter[0]? = some 4 ∧ 1 ≤ (targetAt s 4).credits)
    ∧ (∀ x ∈ (chanOf (pushing chan3 [(65536, committed)] 1 1) 1).litter, 1 ≤ (targetAt (pushing chan3 [(65536, committed)] 1 1) x).credits)
    ∧ (∀ q ∈ [SlotState.taken, .poison], let s := pushing { chan3 with ci := 2, push := .pushing } [(65538, slot q)] 1 1
      pushEnding s = some 1 ∧ soundB s = true ∧ ∀ w ∈ s.ken.waits, w.ch ≠ 1)
    ∧ (let s := pushing { chan3 with push := .reserving 19744 1 } [(65536, committed)] 1 0;
      budgetEnding s = some 1 ∧ (chanOf s 1).push = .reserving 19744 1 ∧ (slotAt s 1 0).commit = some (.agent hdr, 2))
    ∧ slotExpiryDue (pushing { chan3 with wdog := 2 } [(65536, { slot .resv (some 9) with age := 2 })] 1 0) = true := by
  refine ⟨⟨inUse_iff.2 rfl, by decide +kernel, sound_of (by decide +kernel), by simp only [idleArray_iff]; decide +kernel⟩,
    ?_, ?_, ?_, ?_, ?_, ?_, ?_⟩ <;> decide +kernel

def sequencing (ctx : Table Ctx) (f : Seq → Seq := id) : State :=
  { up with seq := f { up.seq with ctx := ctx, en := true, nextId := 5, saveBase := 2 } }
def caller (port : Port) : CallRec := { holder := agentHolder 9 1, txn := 6, reply := true, port := port, line := 44, label := 3 }
def deadlocked : State :=
  let s := sequencing [(1, { Ctx.idle with state := .wait, wait := .events 1 true true })] fun q => { q with quiet := true }
  { s with tick := { s.tick with counter := 0x200000 }, env := { s.env with done := { s.env.done with deadlock := true, frame := true } } }

theorem witness_SequencerEventsAnswer :
    (let s := sequencing [(1, { Ctx.idle with state := .ready, call := some (caller .mpb) }), (6, { Ctx.idle with state := .fault })];
      inUse s ∧ s.seq.muz = false ∧ (getCtx s 1).live = true ∧ (getCtx s 1).call = some (caller .mpb) ∧ (getCtx s 6).live = false)
    ∧ { up with seq := { up.seq with muz := true } }.seq.muz = true
    ∧ (inUse deadlocked ∧ deadlockDue deadlocked = true)
    ∧ (let s := sequencing [(1, { Ctx.idle with state := .wait, wait := .heel 0x123457 }), (2, { Ctx.idle with state := .wait, wait := .heel 0x123458 })];
      inUse s ∧ heelDue s = true)
    ∧ (let s := sequencing [(3, { Ctx.idle with state := .xfer })];
      (getCtx s 3).state = .xfer ∧ (getCtx s 3).image = none ∧ (getCtx s 3).pend = [] ∧ idleArray s ∧ imageOffset s 3 + 2240 ≤ 2 ^ 24
      ∧ (saveImage s 3 false).length = 70)
    ∧ (let m : Image := { words := [1, 2], readAt := 20000, ready := false, asker := some 8 }
      let s := sequencing [(15, { Ctx.idle with state := .xfer, image := some m })];
      (getCtx s 15).image = some m ∧ m.ready = false ∧ m.readAt ≤ s.env.sc)
    ∧ ({ up with det := { up.det with psBusy := 20000 } }.det.psBusy ≠ 0 ∧ 20000 ≤ up.env.sc) := by
  refine ⟨?_, ?_, ?_, ?_, ?_, ?_, ?_⟩ <;> (try simp only [inUse_iff, idleArray_iff]) <;> decide +kernel

def mdesc (src dst len kind evt norec rec wdog : Nat) : BitVec 512 := BitVec.ofNat 512
  (src + dst * 2 ^ 48 + len * 2 ^ 96 + kind * 2 ^ 128 + evt * 2 ^ 136 + norec * 2 ^ 143 + rec * 2 ^ 144 + wdog * 2 ^ 168 + 0xABCDEF * 2 ^ 256)
/-- Engine 3 carries a move: between other parts; from this slice's part; a fill of it; a prefetch. -/
def carrying (d : BitVec 512) (f : Engine → Engine := id) : State := { up with mov := { up.mov with serial := 7, eng :=
  [(3, f { moveOf d 64 false 2 (some (agentHolder 3 1)) with busy := true, serial := 6, age := 1 })] } }
def farMove : BitVec 512 := mdesc 0x10040 0x20060 0x800 0 5 0 0x1000 2
def ownMove : BitVec 512 := mdesc (kline * 256 + 0x2040) 0x20060 0x800 0 5 0 0x1000 2
def ownFill : BitVec 512 := mdesc 0 (kline * 256 + 0x3020) 0x800 1 64 1 0 2
def prefetching : BitVec 512 := mdesc 0 0x44040 0x4C0 2 64 1 0 2
def someRead : MoveReq := { off := 0x5A0, len := 256, write := false, data := [] }
def engine3 (s : State) : Engine := engineOf s 3

/-- Offsets 0x2000 to 0x2FFF belong to a channel whose first slot is poisoned. -/
def poisonedPlace (s : State) : State := withChannel 1
  { (default : Channel) with en := true, base := 0x100, slotsz := 128, nslots := 1, owner := 9 } [(65536, slot .poison)] s

theorem witness_MoverEventsAnswer :
    (∀ s ∈ [carrying farMove, carrying ownMove, carrying ownFill, carrying prefetching, carrying farMove fun g => { g with parityBad := true }],
      inUse s ∧ moveCanIssue s 3 = true)
    ∧ (engine3 (carrying farMove fun g => { g with again := [someRead] })).again = [someRead]
    ∧ ((engine3 (carrying farMove)).parityBad = false ∧ (engine3 (carrying farMove)).again = [] ∧ (engine3 (carrying farMove)).readyWrite = none
      ∧ (engine3 (carrying farMove)).nextPos.isSome = true ∧ inOwnPart up 0x10040 = false)
    ∧ ((engine3 (carrying ownMove)).readyWrite = none ∧ (engine3 (carrying ownMove)).nextPos.isSome = true
      ∧ inOwnPart up (kline * 256 + 0x2040) = true ∧ readRefused up ((List.range 6).map fun i => 0x2040 + 32 * i) = none)
    ∧ ((engine3 (carrying ownFill)).kind = 1 ∧ (engine3 (carrying ownFill)).nextPos.isSome = true
      ∧ inOwnPart up (kline * 256 + 0x3020) = true)
    ∧ ((engine3 (carrying prefetching)).kind = 2 ∧ (engine3 (carrying prefetching)).nextPos.isSome = true
      ∧ (engine3 (carrying prefetching)).parts = [])
    ∧ (engine3 (carrying farMove fun g => { g with buf := (List.range 6).map fun i => (i, cw i) })).readyWrite.isSome = true
    ∧ writeRefused slotted (agentHolder 3 1) [0x80000] = some .bounds ∧ (moveOf farMove 64 false 2 none).kind = 0
    ∧ (let s := carrying farMove fun g => { g with pos := 100, done := 0x800 };
      moveEndDue s 3 = true ∧ idleArray s ∧ (engine3 s).recordAt % 32 = 0 ∧ (engine3 s).norec = false ∧ (engine3 s).evt = 5)
    ∧ (moveEndDue (carrying ownFill fun g => { g with pos := 100, done := 0x800 }) 3 = true
      ∧ (engine3 (carrying ownFill)).norec = true ∧ 64 ≤ (engine3 (carrying ownFill)).evt)
    ∧ (let g := engine3 (carrying farMove fun g => { g with age := 2 });
      g.busy = true ∧ g.muz = false ∧ g.parityBad = false ∧ g.timedOut = false ∧ 1 ≤ g.mwdog ∧ g.mwdog ≤ g.age ∧ g.finished = false)
    ∧ (let g := engine3 (carrying farMove fun g => { g with age := 2, ended := some { status := .bounds, cause := 2, line := 7 } });
      g.mwdog ≤ g.age ∧ g.timedOut = false ∧ g.ended.isSome = true)
    ∧ (let g (g : Engine) : Engine := { g with parityBad := true, age := 2 }
      moveExpired (carrying farMove g) 3 = true ∧ (engine3 (carrying farMove g)).parityBad = true
      ∧ moveEndDue (carrying farMove fun x => { g x with pos := 100, done := 0x800 }) 3 = true)
    ∧ (soundB (carrying ownMove) = true ∧ soundB (carrying ownFill) = true
      ∧ readRefused (poisonedPlace (carrying ownMove)) [0x2040] = some .poison ∧ soundB (poisonedPlace (carrying ownMove)) = true
      ∧ (engine3 (carrying ownMove)).ended = none) := by
  refine ⟨?_, ?_, ?_, ?_, ?_, ?_, ?_, ?_, ?_, ?_, ?_, ?_, ?_, ?_, ?_⟩ <;> (try simp only [inUse_iff, idleArray_iff]) <;> decide +kernel

def missing (got : BitVec 4) : Miss := { (default : Miss) with line := 5, way := 3, cls := 2, asked := 3, got := got }
def fetching (got : BitVec 4) : Prefetched :=
  { line := 88, cls := 5, asked := 3, got := got, pois := 0, buf := [], doomed := false, into := none, order := 0 }
def evicting (sent : Bool) : Evict := { index := 15, line := 5, cls := 2, cwMask := 3, data := [], sent := sent, walked := false }
def fromXp (got : BitVec 4) (sent : Bool) : State :=
  { up with cache := { up.cache with miss := [(31, missing got)], fb := [(31, fetching got)], ev := [evicting sent] } }

theorem witness_XpAnswersAnswer :
    (inUse (inFatal up) ∧ (inFatal up).saf.fatal = true ∧ inUse (fromXp 1 true) ∧ (fromXp 1 true).saf.fatal = false)
    ∧ ((31 : BitVec 16).toNat < 32 ∧ tfind (fromXp 1 true).cache.miss 31 = some (missing 1) ∧ (missing 1).asked ≠ (missing 1).got)
    ∧ ((63 : BitVec 16).toNat < 64 ∧ tfind (fromXp 1 true).cache.fb (63 - 32) = some (fetching 1) ∧ (fetching 1).asked ≠ (fetching 1).got)
    ∧ ((missing 3).asked = (missing 3).got ∧ (fetching 3).asked = (fetching 3).got)
    ∧ (evicting true ∈ (fromXp 1 true).cache.ev ∧ (79 : BitVec 16).toNat = 64 + 15 ∧ ∀ v ∈ (fromXp 1 true).cache.victims, v.step ≠ .awaitBuffer)
    ∧ (∀ x ∈ (fromXp 1 false).cache.ev, x.sent = false) ∧ awaiting up hdr.txn = none
    ∧ (∀ s ∈ [fromXp 1 true, inFatal up, fromXp 1 false], ∀ c ∈ [Instr.xrsp 31 0 3 [(0, cw 0), (1, cw 1)], .xack 79 1, .cmp hdr, .sts hdr 7,
        .pkrsp hdr 0, .atrsp hdr 0 255 [cw 0], .callrsp hdr 0 3 [], .datau { hdr with ndf := 2 } 9 [cw 0, cw 1, cw 2, cw 3]], hears s c)
    ∧ (let s := inFatal { up with out := { up.out with orig := [Originated.mk 9 (.move 3 6 0 true) default] } }
      s.saf.fatal = true ∧ (awaiting s hdr.txn).map (fun o => o.who) = some (.move 3 6 0 true)) := by
  refine ⟨?_, ?_, ?_, ?_, ?_, ?_, ?_, ?_, ?_⟩ <;> (try simp only [inUse_iff, hears_iff]) <;> decide +kernel

def pendingOn (gather : Gather) : Pending :=
  { id := 3, regs := [], tile := none, sts := true, request := true, store := false, long := true, gather := gather, words := []
    left := 1, bad := none }
/-- Request 9 awaits its answer, for who. -/
def awaited (who : Origin) (body : Body) (gather : Gather := .nothing) : State := { up with
  out := { up.out with orig := [Originated.mk 9 who { (default : OutMsg) with txn := 9, body := body, cls := .req }] }
  seq := { up.seq with en := true, ctx := [(2, { Ctx.idle with state := .stall, pend := [pendingOn gather] })] }
  mov := { up.mov with serial := 7, eng := [(3, { moveOf farMove 64 false 2 none with
    busy := true, serial := 6, flight := [⟨0, 0xC0, false, [], 0⟩, ⟨0, 0xA0, true, [], 1⟩] })] }
  saf := { up.saf with rptEn := true, queue := [0x77, 0x88], rptFlight := some 9, hbFlight := some 9 } }

theorem witness_SliceAnswersAnswer :
    (∀ who ∈ [Origin.seqStore 2 3, .seqRead 2 3 [(3, 0)], .move 3 6 0 true, .move 3 6 0 false, .report, .heartbeat, .atom 2 3 0 true,
        .pctb 2 3, .call 2 3 0 true],
      inUse (awaited who .none) ∧ (awaited who .none).saf.fatal = false
      ∧ (awaiting (awaited who .none) hdr.txn).map (fun o => o.who) = some who)
    ∧ pendOf (awaited (.seqStore 2 3) .none (.store none)) 2 3 = some (pendingOn (.store none))
    ∧ (pendOf (awaited (.seqRead 2 3 [(3, 0)]) (.readReq 3 0) (.load 2 none)) 2 3 = some (pendingOn (.load 2 none))
      ∧ (bitsOf (3 : BitVec 4)).length = 2 ∧ [cw 0, cw 1, cw 2, cw 3][3]? = some (cw 3) ∧ (cw 3).poison = false ∧ poisoned.poison = true)
    ∧ (let s := awaited (.move 3 6 0 false) (.readReq 15 0);
      carries s 3 6 = true ∧ ((engineOf s 3).flight.find? fun r => r.off == 0 && r.write == true) = some ⟨0, 0xA0, true, [], 1⟩
      ∧ ((engineOf s 3).flight.find? fun r => r.off == 0 && r.write == false) = some ⟨0, 0xC0, false, [], 0⟩
      ∧ (engineOf s 3).parityBad = false ∧ (15 : BitVec 4) ≠ 0)
    ∧ (∀ c ∈ [Instr.cmp hdr, .sts hdr 0, .sts hdr 9, .pkrsp hdr 8, .atrsp hdr 0 255 [cw 0], .callrsp hdr 0 3 [poisoned], .callrsp hdr 9 3 [],
        .datau { hdr with ndf := 2 } 3 [cw 0, cw 1, cw 2, cw 3]], hears (awaited .report .none) c)
    ∧ ((awaited .report .none).saf.queue = 0x77 :: [0x88] ∧ (awaited .heartbeat .none).saf.hbFlight = some hdr.txn)
    ∧ (statusOf 9 = .nackRetry ∧ statusOf 7 = .parked ∧ statusOf 0 = .ok ∧ statusOf 8 = .poison) := by
  refine ⟨?_, ?_, ?_, ?_, ?_, ?_, ?_⟩ <;> (try simp only [inUse_iff, hears_iff]) <;> decide +kernel

theorem witness_ReportsAnswer :
    (up.saf.formed = [] ∧ up.saf.queue = [] ∧ (0x10 : Nat) < 0x11) ∧
    ((255 : Nat) < 2 ^ 8 ∧ (65535 : Nat) < 2 ^ 16 ∧ up.saf.queue.length < 64
      ∧ 64 ≤ ({ up with saf := { up.saf with queue := List.replicate 64 7 } } : State).saf.queue.length)
    ∧ (let s : State := { up with saf := { up.saf with rptEn := true, queue := [0x123, 5], ringLog2 := 4, rptBase := 0x13005 } };
      inUse s ∧ s.saf.rptEn = true ∧ s.env.pkAck = false ∧ s.saf.rptFlight = none ∧ s.saf.queue = 0x123 :: [5] ∧ s.saf.formed = []
      ∧ ownKennel s (lineOf43 0x13003) = none ∧ ownKennel s (lineOf43 (BitVec.ofNat 43 (kline * 8))) ≠ none) := by
  refine ⟨?_, ?_, ?_⟩ <;> (try simp only [inUse_iff]) <;> decide +kernel

/-! ### Witnesses: the sequencer's instructions -/

theorem witness_ZellekComputeAnswers :
    ∀ z ∈ [Zellek.alu .add 1 1 (.reg 2), .alu .sub 15 1 (.imm 0x8000), .alu .mul 1 2 (.reg 2), .alu .and 1 2 (.imm 0xFFFF), .alu .or 0 0 (.reg 0),
        .alu .xor 3 1 (.imm 1), .alu .shl 1 1 (.imm 64), .alu .shr 1 1 (.imm 63), .alu .sar 1 1 (.imm 0xFFFF), .alu .slt 1 1 (.reg 2),
        .alu .sltu 1 1 (.reg 2), .alu .seq 1 1 (.reg 1), .alu .min 1 1 (.reg 2), .alu .max 1 1 (.reg 2), .movi 15 0x80000000, .movhi 1 5, .movst 2,
        .evrd 3, .rdcnt 4, .rdfrm 5, .nop, .fence, .labelI 7, .tzero 7, .tmov 0 7],
      Issues (running z) 3 z := by simp only [issues_iff]; decide +kernel

def returns (port : Port) (reply : Bool) : State := running .endI fun x => { x with call := some { caller port with reply := reply } }
/-- Context 3 at a word that no instruction encodes; at one with two bit errors. -/
def atWord (w : Insn) : State := { running .nop with seq := { (running .nop).seq with pstore := [(7, w)] } }

theorem witness_ZellekControlAnswers :
    (∀ z ∈ [Zellek.br 0x3FFF, .bcc .eq 1 1 2, .bcc .ne 1 1 2, .bcc .lt 3 1 2, .bcc .ge 3 1 2, .bcc .ltu 3 1 2, .bcc .geu 3 1 2, .jal 15 2, .jr 3, .endI,
        .evset 1, .evclr 2], Issues (running z) 3 z)
    ∧ ((3 : Fin 16) = 3 ∧ (running (.bcc .lt 3 1 2)).seq.ctx.length = 1
      ∧ ((getCtx (running .nop) 3).reg 3).toInt < ((getCtx (running .nop) 3).reg 1).toInt
      ∧ ((getCtx (running .nop) 3).reg 1).toNat ≤ ((getCtx (running .nop) 3).reg 3).toNat)
    ∧ (Issues (running (.bst false none 2)) 3 (.bst false none 2) ∧ Issues (running (.bst true (some 15) 2)) 3 (.bst true (some 15) 2)
      ∧ Issues (running (.bst false (some 4) 2)) 3 (.bst false (some 4) 2) ∧ Issues (running (.bst true (some 4) 2)) 3 (.bst true (some 4) 2)
      ∧ (getCtx (running .nop) 3).lastSts = 4)
    ∧ (let s := atWord { word := Zellek.nop.encode, flips := 3 }; inUse s ∧ mayIssue s 3 = true ∧ (fetch s 3).1 = 2)
    ∧ (let s := atWord { word := 0xFF00000000000000, flips := 0 };
      inUse s ∧ mayIssue s 3 = true ∧ (fetch s 3).1 ≠ 2 ∧ zdecode 3 (fetch s 3).2 = none)
    ∧ (let s := running (.jr 1) fun x => { x with parityBad := [1] };
      inUse s ∧ mayIssue s 3 = true ∧ nextInsn s 3 = some (.jr 1) ∧ readsBad (getCtx s 3) (.jr 1) = true)
    ∧ (Issues (returns .mpb true) 3 .endI ∧ (getCtx (returns .mpb true) 3).call = some (caller .mpb) ∧ (caller .mpb).reply = true
      ∧ Issues (returns .xp false) 3 .endI)
    ∧ (Issues (running (.evwait 1 true true) (regs 0 0)) 3 (.evwait 1 true true) ∧ Issues (running (.evwait 1 true true) (regs 0x130 0)) 3 (.evwait 1 true true)
      ∧ Issues (running (.evwait 1 false true) (regs 0x130 0)) 3 (.evwait 1 false true) ∧ (running .nop).seq.events &&& 0x130 = 0x30)
    ∧ (∀ s ∈ ([0x123458, 0x1000123457, 0x123457, 0x1000123458] : List Word64).map fun v => running (.heel 1 false) (regs v 0),
        Issues s 3 (.heel 1 false))
    ∧ Issues (running (.heel 1 true) (regs 0xFFFFFFFFFFFFFFFF 0)) 3 (.heel 1 true)
    ∧ ((running .nop).tick.cntValid = true ∧ (running .nop).tick.counter = 0x123457) := by
  refine ⟨?_, ?_, ?_, ?_, ?_, ?_, ?_, ?_, ?_, ?_, ?_⟩ <;> (try simp only [issues_iff, inUse_iff]) <;> decide +kernel

def onStream (f : Stream → Stream) (s : State) : State := setStream 2 (fun _ => f { Stream.initial with seed := 5, step := 7, acc := 99, leaves := 3 }) s
/-- Context 3 absorbs n words from off on into stream 2. -/
def scanning (off n : Word64) (l : List Code) : State :=
  withWords off.toNat l (onStream id (running (.scabs 1 2 2) (regs off n)))
/-- Context 0 issues z with n in g1, and context n stands as x. -/
def heldBy (z : Zellek) (n : Nat) (x : Ctx) : State :=
  let s := running z
  { s with seq := { s.seq with cur := some 0, ctx := tput [(0, { Ctx.idle with state := .ready, pc := 7, g := [(1, BitVec.ofNat 64 n), (4, 44)] })] n x } }
def suspended : Ctx := { Ctx.idle with state := .susp, pc := 9, g := [(2, 7)] }
def inWaitState : Ctx := { Ctx.idle with state := .wait, wait := .channel 7, pc := 9 }

theorem witness_ZellekServicesAnswer :
    (∀ z ∈ [Zellek.steprd 1 2, .stepadd 1 2, .scclr 2, .scrd 7 2],
      Issues (onStream id (running z)) 3 z ∧ (getStream (onStream id (running z)) 2).seedBad = false
      ∧ (getStream (onStream id (running z)) 2).stepBad = false ∧ (getStream (onStream id (running z)) 2).scentBad = false)
    ∧ (Issues (running (.stepadd 1 2) (regs 0xFFFFFFFFFFFF 0)) 3 (.stepadd 1 2) ∧ Issues (running (.stepadd 1 2) (regs 0x1000000000000 0)) 3 (.stepadd 1 2))
    ∧ (let s := onStream (fun r => { r with spoiled := true }) (running (.scrd 2 2)); Issues s 3 (.scrd 2 2) ∧ (getStream s 2).spoiled = true)
    ∧ (Issues (scanning 0x200000 1 []) 3 (.scabs 1 2 2) ∧ kennelEnd (scanning 0x200000 1 []) = 0x200000)
    ∧ (Issues (scanning 0x200000 0 []) 3 (.scabs 1 2 2) ∧ inStage (scanning 0x200000 0 []) 0x200000 0x200000 = false)
    ∧ (let s := scanning 0x1FFFC0 2 [3, 4]; Issues s 3 (.scabs 1 2 2) ∧ HoldsWords s 0x1FFFC0 [3, 4] ∧ ChannelsSound s
      ∧ (getStream s 2).scentBad = false ∧ ∀ j, j < 2 → readRefused s [0x1FFFC0 + 32 * j] = none)
    ∧ ((∀ s ∈ [1, 15, 16].map fun n => heldBy (.ctxc (.start 1 1 77 7)) n Ctx.idle, Issues s 0 (.ctxc (.start 1 1 77 7)))
      ∧ (heldBy (.ctxc (.start 1 1 77 7)) 1 Ctx.idle).seq.pool = 0x7FF8)
    ∧ (Issues (heldBy (.ctxc (.stop 1)) 15 inWaitState) 0 (.ctxc (.stop 1)) ∧ (getCtx (heldBy (.ctxc (.stop 1)) 15 inWaitState) 15).live = true
      ∧ Issues (heldBy (.ctxc (.stop 1)) 15 Ctx.idle) 0 (.ctxc (.stop 1)) ∧ (getCtx (heldBy (.ctxc (.stop 1)) 15 Ctx.idle) 15).live = false)
    ∧ (let z := Zellek.ctxc (.suspend 1)
      Issues (heldBy z 15 inWaitState) 0 z ∧ (getCtx (heldBy z 15 inWaitState) 15).state ≠ .susp ∧ saveRegionOk (heldBy z 15 inWaitState) = true
      ∧ Issues (heldBy z 15 suspended) 0 z ∧ (getCtx (heldBy z 15 suspended) 15).state = .susp)
    ∧ (Issues (heldBy (.ctxc (.restore 1)) 15 inWaitState) 0 (.ctxc (.restore 1)) ∧ (getCtx (heldBy (.ctxc (.restore 1)) 15 inWaitState) 15).state = .wait)
    ∧ Issues (heldBy (.ctxc (.pool 0x7FFF)) 1 inWaitState) 0 (.ctxc (.pool 0x7FFF)) := by
  refine ⟨?_, ?_, ?_, ?_, ?_, ⟨?_, holds_of ?_, sound_of ?_, ?_, ?_⟩, ?_, ?_, ?_, ?_, ?_⟩ <;> (try simp only [issues_iff]) <;> decide +kernel

/-- A saved image of context 15 stands where context 15 is saved, and a context restores it. -/
def savedImage : List Code := saveImage (heldBy .nop 15 suspended) 15 false
def restorable : State := withWords (imageOffset (heldBy .nop 15 suspended) 15) savedImage (heldBy (.ctxc (.restore 1)) 15 suspended)

theorem witness_ZellekServicesAnswer_restore :
    Issues restorable 0 (.ctxc (.restore 1)) ∧ (getCtx restorable 15).state = .susp ∧ saveRegionOk restorable = true
    ∧ HoldsWords restorable (imageOffset restorable 15) savedImage ∧ savedImage.length = 70 ∧ imageOk 15 (savedImage.map plain) = true := by
  refine ⟨issues_iff.2 ?_, ?_, ?_, holds_of ?_, ?_, ?_⟩ <;> decide +kernel

/-- The address of an offset into this slice's part of its kennel window. -/
def own (off : Nat) : Word64 := BitVec.ofNat 64 (kline * 256 + off)
def tiled (v : Word64) (x : Ctx) : Ctx := { regs v 9 x with
  tiles := [(0, TileBlock.mk false 0x3F8000003F800000), (4, TileBlock.mk true 5), (5, TileBlock.mk false 0x7F7FFFFF)] }
/-- Offsets 0x2000 to 0x2FFF belong to a channel whose first slot is poisoned. -/
def poisonedSlot (s : State) : State := withChannel 1 { (default : Channel) with en := true, base := 0x100, slotsz := 8, nslots := 16, owner := 9 }
  [(65536, slot .poison)] s

def memoryInsns : List Zellek := [.ldw 1 1 0, .ldd 1 1 0, .tld 1 1 1 .f0 0, .tld 1 1 15 .image 0, .stw 1 1 0, .tst 1 0 1 .f0 0, .tst 1 1 1 .f4 0,
  .tst 1 0 1 .image 0, .tst 1 1 1 .image 0, .tstSr 1 0 1 1 1 0, .pf 1 15 0]

theorem witness_ZellekMemoryAnswers :
    (∀ z ∈ memoryInsns, ∀ s ∈ ([0x10C0, 0x1004, 0x1000000000000, own 0x2000, own 0x200000] : List Word64).map fun a => running z (tiled a),
        Issues s 3 z)
    ∧ (∀ z ∈ memoryInsns, Issues (poisonedSlot (running z (tiled (own 0x2000)))) 3 z)
    ∧ (soundB (poisonedSlot (running .nop (tiled (own 0x2000)))) = true ∧ (getCtx (running .nop (tiled 0)) 3).pend = [])
    ∧ Issues (running (.tld 1 1 0 .f0 0) (tiled 0x1000)) 3 (.tld 1 1 0 .f0 0)
    ∧ (let s := running .nop (tiled 0)
      let p := lineParts (own 0x2000).toNat [0]
      p.length = 1 ∧ (lineParts 0x10C0 (tileWords .image 15)).length = 2
      ∧ (∀ l ∈ p, ownKennel s l.line = some (3 * 2 ^ 24 + 0x2000)
        ∧ kennelRefused s (3 * 2 ^ 24 + 0x2000) (ctxHolder 3) false l.mask = none ∧ kennelRefused s (3 * 2 ^ 24 + 0x2000) (ctxHolder 3) true l.mask = none
        ∧ kennelRefused (poisonedSlot s) (3 * 2 ^ 24 + 0x2000) (ctxHolder 3) false l.mask = some .poison
        ∧ kennelRefused (poisonedSlot s) (3 * 2 ^ 24 + 0x2000) (ctxHolder 3) true l.mask = some .poison)
      ∧ (∀ l ∈ lineParts 0x10C0 (tileWords .image 15), ownKennel s l.line = none)
      ∧ draining s = false ∧ draining (draining1 s) = true ∧ findWay s (cwLine (own 0x2000).toNat 0) = none
      ∧ ownKennel s (cwLine (own 0x2000).toNat 0) ≠ none)
    ∧ (let x := getCtx (running .nop (tiled 0)) 3; (tileImages (x.tile 0)).isSome = true ∧ tileImages (x.tile 1) = none)
    ∧ (let s := setStream 1 (fun r => { r with broken := true }) (running (.tstSr 1 0 1 1 1 0) (tiled 0x1000));
      Issues s 3 (.tstSr 1 0 1 1 1 0) ∧ (getStream s 1).broken = true ∧ (getStream s 1).seedBad = false)
    ∧ (∀ z ∈ [Zellek.tadd 1 0 1 false, .tadd 1 0 1 true, .tcvt 1 0 false, .tcvt 1 1 true],
      Issues (running z (tiled 0)) 3 z ∧ (running z (tiled 0)).red.muz = false ∧ tget 0 (running z (tiled 0)).red.slots (running z (tiled 0)).env.sc = 0
      ∧ Issues { running z (tiled 0) with red := { (running z (tiled 0)).red with muz := true } } 3 z) := by
  refine ⟨?_, ?_, ?_, ?_, ?_, ?_, ?_, ?_⟩ <;> (try simp only [issues_iff]) <;> decide +kernel

def muzzledRed (s : State) : State := { s with red := { s.red with muz := true } }
def withPacks (t : Table Pack) (s : State) : State := { s with red := { s.red with packs := t }, ken := { s.ken with stageEn := true, stageSize := 8, stageBase := 8 } }
/-- A pack whose target is line n of memory, staged at its own place. -/
def packAt (n : Nat) : Pack := newPack (packDesc (0x8000 * (n + 1)) 1 32 1 5 0x1000 0 + BitVec.ofNat 256 ((n + 1) * 64 * 2 ^ 112)) 2 0 0 n
def armed : Code := packDesc ((kline + 0x100) * 256) 1 32 1 5 0x1000 2
def badPack : Code := packDesc ((kline + 0x100) * 256) 1 32 0 5 0x1000 2
def armIn (d : Code) (t : Table Pack := []) : State := withWords 0x2000 [d, 0] (withPacks t (running (.parm 1 1) (regs 0x2000 9)))

/-- Context 3 contributes eight code words of kennel space from k on. -/
def lending (k : Word64) : State := running (.pctb 1 2 (.kennel 4)) fun x => { x with g := [(1, 0x100), (2, 0x700000001), (4, k)] }

theorem witness_ZellekUnitsAnswer_packs :
    (∀ s ∈ ([0x2001, 0x1000000, 0x200000] : List Word64).map fun v => running (.parm 1 1) (regs v 9), Issues s 3 (.parm 1 1))
    ∧ plainKennel (running (.parm 1 1)) 0x200000 0x200020 = false
    ∧ (∀ s ∈ [armIn armed, armIn badPack, armIn armed [(0, newPack armed 2 0 0 0)], muzzledRed (armIn armed),
          armIn armed ((List.range 16).map fun i => (i, packAt i))],
        Issues s 3 (.parm 1 1) ∧ plainKennel s 0x2000 0x2020 = true ∧ ∀ q ∈ s.red.packs, q.2.parityBad = false)
    ∧ (HoldsWords (armIn armed) 0x2000 [armed, 0] ∧ HoldsWords (armIn badPack) 0x2000 [badPack, 0])
    ∧ (armAllowed (armIn armed) (newPack armed 2 0 0 0) = true ∧ armAllowed (armIn badPack) (newPack badPack 2 0 0 0) = false
      ∧ tfree (armIn armed).red.packs 16 = some 0 ∧ tfree (armIn armed ((List.range 16).map fun i => (i, packAt i))).red.packs 16 = none)
    ∧ (∀ s ∈ ([0x100, 0x1000000000000, 0x80] : List Word64).map fun a => running (.pctb 1 2 (.tile 7)) (regs a 0x700000001),
        Issues s 3 (.pctb 1 2 (.tile 7)))
    ∧ (∀ s ∈ ([0x20C0, 0x200000, 0x21] : List Word64).map lending, Issues s 3 (.pctb 1 2 (.kennel 4)))
    ∧ (soundB (lending 0x20C0) = true ∧ sourceRefused (lending 0x20C0) 0x20C0 8 = none ∧ (lineParts 0x20C0 (List.range 8)).length = 2
      ∧ sourceRefused (lending 0x200000) 0x200000 8 = some .bounds) := by
  refine ⟨?_, ?_, ?_, ⟨holds_of ?_, holds_of ?_⟩, ?_, ?_, ?_, ?_⟩ <;> (try simp only [issues_iff]) <;> decide +kernel

/-- The word of a descriptor, as the access to it hands it on; a poisoned one; one that rounds by stream 4. -/
def handed (ws : List CodeWord) : Contrib := { due := 20000, ctx := 3, id := 9, use := .arm 5 2 [], words := ws }
def rounding : Code := armed + BitVec.ofNat 256 (4 * 2 ^ 100 + 2 ^ 94 + 2 ^ 91)

theorem witness_ZellekUnitsAnswer_arm :
    (∀ s ∈ [armIn armed, muzzledRed (armIn armed), armIn armed [(0, newPack armed 2 0 0 0)],
        armIn armed ((List.range 16).map fun i => (i, packAt i)), setStream 4 (fun r => { r with broken := true }) (armIn armed)],
      ∀ q ∈ s.red.packs, q.2.parityBad = false)
    ∧ ((muzzledRed (armIn armed)).red.muz = true ∧ (armIn armed).red.muz = false ∧ (armIn armed).saf.fatal = false)
    ∧ ((handed [poisoned]).words.getD 0 badWord = poisoned ∧ poisoned.poison = true
      ∧ ((handed [plain armed]).words.getD 0 badWord).poison = false)
    ∧ (let p := newPack armed 2 0 0 0
      (∃ q ∈ (armIn armed [(0, p)]).red.packs, q.2.target = p.target ∧ q.2.epoch = p.epoch)
      ∧ (¬ ∃ q ∈ (armIn armed).red.packs, q.2.target = p.target ∧ q.2.epoch = p.epoch)
      ∧ armAllowed (armIn armed) (newPack badPack 2 0 0 0) = false ∧ armAllowed (armIn armed) p = true
      ∧ p.rnd = false ∧ tfree (armIn armed).red.packs 16 = some 0
      ∧ (let s := armIn armed ((List.range 16).map fun i => (i, packAt i))
        tfree s.red.packs 16 = none ∧ armAllowed s p = true ∧ ¬ ∃ q ∈ s.red.packs, q.2.target = p.target ∧ q.2.epoch = p.epoch))
    ∧ (let p := newPack rounding 2 0 0 0
      let s := setStream 4 (fun r => { r with broken := true }) (armIn rounding)
      p.rnd = true ∧ p.stream = 4 ∧ armAllowed s p = true ∧ (getStream s 4).broken = true ∧ (getStream s 4).seedBad = false
      ∧ (getStream s 4).stepBad = false) := by
  refine ⟨?_, ?_, ?_, ?_, ?_⟩ <;> decide +kernel

def mine : BitVec 14 := ctxHolder 3
def mychan : Channel := { (default : Channel) with en := true, base := 0x100, slotsz := 4, nslots := 3, owner := mine }
/-- Context 3 issues z on channel 1, naming slot n. -/
def onChan (z : Zellek) (c : Channel) (slots : Table Slot) (n : Word64 := 0) : State := withChannel 1 c slots (running z (regs n n))

theorem witness_ZellekUnitsAnswer_slots :
    (∀ z ∈ [Zellek.crsv 1 true 1, .crsv 1 false 1, .ctake 1 true 1, .ctake 1 false 1, .ccmt 2 1, .cfree 2 1],
      ∀ s ∈ [onChan z { mychan with en := false } [], onChan z { mychan with muz := true } [], onChan z mychan [],
        onChan z { mychan with pi := 2, ci := 2 } [(65538, slot .poison)], onChan z { mychan with litCnt := 2 } [(65536, slot .resv (some mine))],
        onChan z mychan [(65536, slot .full)], onChan z mychan [(65536, slot .resv (some mine))], onChan z mychan [(65536, slot .taken (some mine))],
        onChan z mychan [] 65535, onChan z mychan [] 65536],
      Issues s 3 z ∧ soundB s = true ∧ (getCtx s 3).pend = [] ∧ ∀ w ∈ s.ken.waits, w.ch ≠ 1) := by
  simp only [issues_iff]; decide +kernel

def mlo (m : BitVec 512) : Code := m.extractLsb' 0 256
def mhi (m : BitVec 512) : Code := m.extractLsb' 256 256
def moveIn (d : BitVec 512) (f : Nat → Engine := fun _ => default) : State :=
  let s := withWords 0x2000 [mlo d, mhi d] (running (.moveI 1 1) (regs 0x2000 9))
  { s with mov := { s.mov with eng := (List.range 8).map fun e => (e, f e) } }
/-- A move between other parts of memory, and one whose source is not aligned. -/
def copyMove : BitVec 512 := BitVec.ofNat 512 (farMove.toNat % 2 ^ 256)
def oddMove : BitVec 512 := copyMove + 1
def atom1 (aop : BitVec 4) (w64 fetch : Bool) (lmask : BitVec 8) : Zellek := .atom aop w64 fetch (if atomOld aop fetch then 1 else 0) 1 1 (if aop = 9 then 2 else 0) lmask

theorem witness_ZellekUnitsAnswer_others :
    (∀ s ∈ ([0x2020, 0x1000000, 0x200000] : List Word64).map fun v => running (.moveI 1 1) (regs v 9), Issues s 3 (.moveI 1 1))
    ∧ (∀ s ∈ [moveIn copyMove, moveIn oddMove, moveIn copyMove fun _ => { (default : Engine) with muz := true },
          moveIn copyMove fun _ => { (default : Engine) with busy := true }, moveIn copyMove fun e => { (default : Engine) with busy := e = 0, muz := e = 1 }],
        Issues s 3 (.moveI 1 1) ∧ plainKennel s 0x2000 0x2040 = true)
    ∧ (HoldsWords (moveIn copyMove) 0x2000 [mlo copyMove, mhi copyMove] ∧ moveAllowed up (moveOf copyMove 0x2000 false 2 (some mine)) = true
      ∧ moveAllowed up (moveOf oddMove 0x2000 false 2 (some mine)) = false)
    ∧ (∀ z ∈ [atom1 0 true false 15, atom1 9 true true 1, atom1 10 true false 1, atom1 1 true false 0, atom1 2 false true 255, atom1 8 true false 16],
        ∀ s ∈ ([0x1020, 0x1021, own 0x2060, own 0x200000] : List Word64).map fun v => running z (regs v 0), Issues s 3 z ∧ soundB s = true)
    ∧ (let s := running (atom1 0 true false 15) (regs (own 0x2060) 0)
      Issues { s with atom := { s.atom with muz := true } } 3 (atom1 0 true false 15) ∧ Issues (draining1 s) 3 (atom1 0 true false 15)
      ∧ draining (draining1 s) = true)
    ∧ (∀ s ∈ ([2047, 2048] : List Word64).map fun v => running (.call 1 1 1 true 0x3FFF) (regs v 0), Issues s 3 (.call 1 1 1 true 0x3FFF)) := by
  refine ⟨?_, ?_, ⟨holds_of ?_, ?_, ?_⟩, ?_, ?_, ?_⟩ <;> (try simp only [issues_iff]) <;> decide +kernel

theorem witness_ZellekUnitsAnswer_take :
    (handed [plain (mlo copyMove), plain (mhi copyMove)]).words = [plain (mlo copyMove), plain (mhi copyMove)]
    ∧ ((plain (mlo copyMove)).poison = false ∧ poisoned.poison = true)
    ∧ (let g := moveOf ((mhi copyMove) ++ (mlo copyMove)) 0x2000 false 2 (some mine)
      moveAllowed up g = true ∧ g.len ≠ 0 ∧ moveAllowed up (moveOf (mhi oddMove ++ mlo oddMove) 0x2000 false 2 (some mine)) = false)
    ∧ (let m : BitVec 512 := BitVec.ofNat 512 ((mdesc 0x10040 0x20060 0 0 5 1 0 2).toNat % 2 ^ 256)
      moveAllowed up (moveOf (mhi m ++ mlo m) 0x2000 false 2 (some mine)) = true
      ∧ (moveOf (mhi m ++ mlo m) 0x2000 false 2 (some mine)).len = 0)
    ∧ (let muz (s : State) (e : Nat) : Prop := (engineOf s e).muz = true ∨ s.saf.fatal = true
      (∀ e, e < 8 → muz (moveIn copyMove fun _ => { (default : Engine) with muz := true }) e)
      ∧ (¬ muz (moveIn copyMove) 7)
      ∧ (∀ e, e < 8 → (engineOf (moveIn copyMove fun _ => { (default : Engine) with busy := true }) e).busy = true)
      ∧ (let s := moveIn copyMove fun e => { (default : Engine) with busy := e < 7 }
        (engineOf s 7).busy = false ∧ ¬ muz s 7 ∧ ∀ f, f < 7 → (engineOf s f).busy = true)) := by
  refine ⟨?_, ?_, ?_, ?_, ?_⟩ <;> decide +kernel

/-! ### Values of the manual -/

/-- The annotated program of chapter 10, word by word. -/
theorem test_annotated_program :
    ([0x1150000000300000, 0x3665000000000000, 0x040000C00000040F, 0x1170000000001000, 0x5207000300000000, 0x2080000000300100, 0x10480083000000E0,
      0x0304F00100000411, 0x30000F0000301000, 0x40C0000100000009, 0x10DC008300FFFFFF, 0x10DD000000000000, 0x31E0D00000000000, 0x101C008700000020,
      0x4101000000000009, 0x0700000000000000, 0x0100000000000000, 0x1004F00000000000] : List Word64).map (zdecode 3)
    = [.movi 5 0x300000, .parm 6 5, .bst true none 0x40F, .movi 7 0x1000, .evwait 7 true true, .ldw 2 0 0x300100, .alu .and 4 8 (.imm 0xE0),
      .bcc .ne 4 15 0x411, .tld 0 0 15 .f0 0x301000, .crsv 12 true 9, .alu .and 13 12 (.imm 0xFFFFFF), .alu .add 13 13 (.reg 0), .tst 14 0 13 .f0 0,
      .alu .shr 1 12 (.imm 32), .ccmt 1 9, .movst 0, .endI, .alu .add 0 4 (.reg 15)].map some := by decide +kernel

/-- END's word bit by bit (Table 10.1, Table 10.2): OP 0x01 and nothing else. -/
theorem test_end_word : zdecode 3 0b0000000100000000000000000000000000000000000000000000000000000000 = some .endI := by decide +kernel

/-- A word whose unused field is not 0 is illegal (R270), and CTXC outside context 0 is. -/
theorem test_illegal_words : zdecode 3 0x0100000000000001 = none ∧ zdecode 3 (Zellek.ctxc (.stop 1)).encode = none
    ∧ zdecode 0 (Zellek.ctxc (.stop 1)).encode = some (.ctxc (.stop 1)) := by decide +kernel

/-- R283: the register form of an ALU instruction does not look at IMM. -/
theorem test_alu_ignores_imm : zdecode 3 0x1045600600001234 = some (.alu .shl 4 5 (.reg 6))
    ∧ zdecode 3 0x1045608600001234 = none := by decide +kernel

/-- The example of chapter 16: the header of an RdX of cluster 23 of die 6. -/
theorem test_header :
    let m : OutMsg := { (default : OutMsg) with
      port := .mpb, cls := .req, op := 1, dstAgent := 255, dstDie := 6, txn := 0x0041, line := 0x08412C5D3B, label := 5
      body := .readReq 0xF 2, data := [] }
    let h := (m.header 23 6).toNat
    let at' (lo n : Nat) : Nat := h / 2 ^ lo % 2 ^ n
    at' 0 3 = 3 ∧ at' 3 4 = 1 ∧ at' 7 8 = 23 ∧ at' 15 5 = 6 ∧ at' 20 8 = 255 ∧ at' 28 5 = 6 ∧ at' 33 16 = 0x0041
    ∧ at' 49 40 = 0x08412C5D3B ∧ at' 89 4 = 5 ∧ at' 93 3 = 0 ∧ at' 96 4 = 0xF ∧ at' 100 2 = 2 ∧ h / 2 ^ 102 = 0 := by
  decide +kernel

/-- The example of chapter 2: a sector's upper half in set 0x0C3, way 5, sector 2 of slice 677. -/
theorem test_fold : location 0xC3 5 (2 * 64 + 32) = 0x0A867 ∧ boleriFold 677 0x0A867 = 0x39EE93 ∧ locBank 0x0A867 = 1 ∧ locRow 0x0A867 = 161 := by
  decide +kernel

/-- The example of chapter 6: kennel offset 0x3A_1840 lies in bank 9, row 404. -/
theorem test_kennel_place : locBank (kennelLoc 0x3A1840) = 9 ∧ locRow (kennelLoc 0x3A1840) = 404 := by decide +kernel

/-- The example of chapter 3: the set of PA 0x0841_2C5D_3B40. -/
theorem test_set : lineSet (BitVec.ofNat 40 (0x08412C5D3B40 / 256)) = 0xFFE := by decide +kernel

/-- The example of chapter 7: an add that repeats once at the next exponent. -/
theorem test_block_add : bxAdd ⟨128, [300000, 3, 1, 0, 0, 0, 0, 0, 0, 0, 0, 0, 0, 0, 0, 0]⟩ ⟨128, [250000, 5, 0, 0, 0, 0, 0, 0, 0, 0, 0, 0, 0, 0, 0, 0]⟩
    = some (⟨129, [275000, 4, 0, 0, 0, 0, 0, 0, 0, 0, 0, 0, 0, 0, 0, 0]⟩, 1) := by decide +kernel

/-- What a command leaves, read by f. -/
def leaves {α : Type} (o : Host.Outcome State Fault Refusal) (f : State → α) : Option α :=
  match o with
  | .next t => some (f t)
  | _ => none

/-- The example of chapter 1: a context takes frame 0x2_0805 for its heel at counter value 0x41_0012_3456. -/
theorem test_heel : leaves (exec (.heel 3) (atCount 0x4100123456 (running (.heel 1 true) (regs 0x20805 0)))) (fun t => (getCtx t 3).wait)
    = some (.heel 0x4100A00000) := by decide +kernel

/-- A step takes the first command alone. -/
theorem test_first_in_first_out : leaves (step { up with pending := [.parkRequest, .strobeLate] }) (fun t => (t.pending, t.env.pkReq))
    = some ([.strobeLate], true) := by decide +kernel

end Sys2Proof.Tests
end

section
/-! SUPPORT. Writes of the frame length and of the window length (R18, R340; 16_ports_and_signals R431): what a sideband write that
acts answers, what each of the two writes leaves by its case, and the statement about both. -/

namespace Sys2Proof.Proofs

open Sys2Proof.Machine Sys2Proof.Safety Sys2Proof.Laws

/-! ### A sideband write that acts -/

/-- Where a write leaves the queue, the fuse stream and the pins' part of the state alone, its whole answer is what it leaves, with
the response OK. Where t is s with other fields changed, the last three conditions are true by rfl. -/
theorem sbWriteOk_answers {s t : State} {c : Instr} {body : State → State} (h : sbActs s) (hb : body s = t)
    (hq : s.pending = t.pending := by rfl) (hf : s.fuse = t.fuse := by rfl) (he : s.env = t.env := by rfl) :
    sbWriteOk c s body = .next { t with out := responded t 0 0 } := by
  rw [sbWriteOk_next h, hb]
  simp only [sbSettle, sbRespond, responded, hq, hf, he]

theorem exec_frameCfgWrite (v : Word32) (s : State) :
    exec (.frameCfgWrite v) s = sbWriteOk (.frameCfgWrite v) s (writeFrameCfg v) := rfl

theorem exec_regCfgWrite (v : Word32) (s : State) :
    exec (.regCfgWrite v) s = sbWriteOk (.regCfgWrite v) s (writeRegCfg v) := rfl

/-! ### A length in range -/

/-- The length in force changes only before the first strobe; afterwards a length other than the one in force is pending. -/
theorem periodWrite_eq (valid : Bool) (now new : BitVec 5) :
    periodWrite valid now new = (if valid then now else new, if valid ∧ new ≠ now then some new else none) := by
  cases valid with
  | false => simp [periodWrite]
  | true =>
    by_cases h : new = now
    · simp [periodWrite, h]
    · simp [periodWrite, h]

/-! ### SL_FRAME_CFG (R18, Table 1.2) -/

theorem writeFrameCfg_locked {s : State} (v : Word32) (hl : s.tick.lock = true) : writeFrameCfg v s = s := by
  simp only [writeFrameCfg, hl, if_true]

theorem writeFrameCfg_inRange {s : State} {v : Word32} (hl : s.tick.lock = false)
    (hn : 15 ≤ (part v 0 5).toNat ∧ (part v 0 5).toNat ≤ 25) :
    writeFrameCfg v s = { s with
      tick := { s.tick with
        frameLog2 := if s.tick.cntValid then s.tick.frameLog2 else part v 0 5
        framePend := if s.tick.cntValid ∧ part v 0 5 ≠ s.tick.frameLog2 then some (part v 0 5) else none
        lock := bit v 31 }
      saf := resealed s 0x400 } := by
  have inside : ¬ ((part v 0 5).toNat < 15 ∨ 25 < (part v 0 5).toNat) := by omega
  simp only [writeFrameCfg, hl, if_neg inside, periodWrite_eq]
  rfl

theorem writeFrameCfg_outOfRange {s : State} {v : Word32} (hl : s.tick.lock = false)
    (hn : (part v 0 5).toNat < 15 ∨ 25 < (part v 0 5).toNat) :
    writeFrameCfg v s = { s with
      tick := { s.tick with cfgRej := true, lock := bit v 31 }
      saf := resealed s 0x400 } := by
  simp only [writeFrameCfg, hl, if_pos hn]
  rfl

/-! ### SL_REG_CFG (R340, Table 12.2) -/

theorem writeRegCfg_locked {s : State} (v : Word32) (hl : s.reg.lock = true) : writeRegCfg v s = s := by
  simp only [writeRegCfg, hl, if_true]

theorem writeRegCfg_inRange {s : State} {v : Word32} (hl : s.reg.lock = false)
    (hn : 8 ≤ (part v 0 5).toNat ∧ (part v 0 5).toNat ≤ 20) :
    writeRegCfg v s = { s with
      reg := { s.reg with
        winLog2 := if s.tick.cntValid then s.reg.winLog2 else part v 0 5
        winPend := if s.tick.cntValid ∧ part v 0 5 ≠ s.reg.winLog2 then some (part v 0 5) else none
        lock := bit v 31, mode := bit v 9, defclass := part v 5 4 }
      saf := resealed s 0x1800 } := by
  have inside : ¬ ((part v 0 5).toNat < 8 ∨ 20 < (part v 0 5).toNat) := by omega
  simp only [writeRegCfg, hl, if_neg inside, periodWrite_eq]
  rfl

theorem writeRegCfg_outOfRange {s : State} {v : Word32} (hl : s.reg.lock = false)
    (hn : (part v 0 5).toNat < 8 ∨ 20 < (part v 0 5).toNat) :
    writeRegCfg v s = { s with
      reg := { s.reg with regRej := true, lock := bit v 31, mode := bit v 9, defclass := part v 5 4 }
      saf := resealed s 0x1800 } := by
  simp only [writeRegCfg, hl, if_pos hn]
  rfl

/-- Settles O12: a write of either register acts by its case (locked, in range, out of range), and the sideband adds the response. -/
theorem periodWritesAnswer : Obligations.PeriodWritesAnswer := by
  unfold Obligations.PeriodWritesAnswer
  intro s v h
  simp only [exec_frameCfgWrite, exec_regCfgWrite]
  refine ⟨?frameLocked, ?frameIn, ?frameOut, ?windowLocked, ?windowIn, ?windowOut⟩
  case frameLocked => exact fun hl => sbWriteOk_answers h (writeFrameCfg_locked v hl)
  case frameIn => exact fun hl hn => sbWriteOk_answers h (writeFrameCfg_inRange hl hn)
  case frameOut => exact fun hl hn => sbWriteOk_answers h (writeFrameCfg_outOfRange hl hn)
  case windowLocked => exact fun hl => sbWriteOk_answers h (writeRegCfg_locked v hl)
  case windowIn => exact fun hl hn => sbWriteOk_answers h (writeRegCfg_inRange hl hn)
  case windowOut => exact fun hl hn => sbWriteOk_answers h (writeRegCfg_outOfRange hl hn)

end Sys2Proof.Proofs
end

section
/-! SUPPORT. Writes of the number of clusters and of the home timeout (R137, R450): what a write leaves by its case, and the
statement about them. -/

namespace Sys2Proof.Proofs

open Sys2Proof.Machine Sys2Proof.Safety Sys2Proof.Laws

theorem exec_cohCfgWrite (v : Word32) (s : State) :
    exec (.cohCfgWrite v) s = sbWriteOk (.cohCfgWrite v) s (writeCohCfg v) := rfl

/-! ### SL_COH_CFG (R137) -/

theorem writeCohCfg_locked {s : State} (v : Word32) (hl : s.coh.lock = true) : writeCohCfg v s = s := by
  simp only [writeCohCfg, hl, if_true]

theorem writeCohCfg_illegal {s : State} {v : Word32} (hl : s.coh.lock = false)
    (hv : (part v 20 8).toNat < 1 ∨ 160 < (part v 20 8).toNat ∨ (part v 0 20).toNat < 256) :
    writeCohCfg v s = { s with coh := { s.coh with cfgRej := true } } := by
  simp only [writeCohCfg, hl, if_pos hv]
  rfl

theorem writeCohCfg_legal {s : State} {v : Word32} (hl : s.coh.lock = false)
    (hn : 1 ≤ (part v 20 8).toNat ∧ (part v 20 8).toNat ≤ 160) (ht : 256 ≤ (part v 0 20).toNat) :
    writeCohCfg v s = { s with
      coh := { s.coh with nclust := part v 20 8, homeTmo := part v 0 20, lock := bit v 31 }
      saf := resealed s 0x1400 } := by
  have legal : ¬ ((part v 20 8).toNat < 1 ∨ 160 < (part v 20 8).toNat ∨ (part v 0 20).toNat < 256) := by omega
  simp only [writeCohCfg, hl, if_neg legal]
  rfl

/-- Settles O13: a write acts by its case (locked, a field out of range, legal), and the sideband adds the response. -/
theorem cohCfgWriteAnswers : Obligations.CohCfgWriteAnswers := by
  unfold Obligations.CohCfgWriteAnswers
  intro s v h
  simp only [exec_cohCfgWrite]
  refine ⟨?locked, ?illegal, ?legal⟩
  case locked => exact fun hl => sbWriteOk_answers h (writeCohCfg_locked v hl)
  case illegal => exact fun hl hv => sbWriteOk_answers h (writeCohCfg_illegal hl hv)
  case legal => exact fun hl hlo hhi ht => sbWriteOk_answers h (writeCohCfg_legal hl ⟨hlo, hhi⟩ ht)

end Sys2Proof.Proofs
end

section
/-! SUPPORT. Instructions that complete at issue with a result in the context (10_zellek_instruction_set R279, R283, R284, R293, R303,
R307, R312): the form that every such answer has, the operations of Table 10.4 in numbers, and the statement about them. -/

namespace Sys2Proof.Proofs

open Sys2Proof.Machine Sys2Proof.Safety Sys2Proof.Laws

/-- The command i of instruction z of context c, which issues z in s, leaves context c as y, or halted there where it steps, and
changes nothing else but what every issue changes. -/
def CompletesAs (s : State) (c : Fin 16) (i : Instr) (z : Zellek) (y : Ctx) : Prop :=
  Issues s c z → ∃ t, exec i s = .next t ∧ getCtx t c = stepped y ∧ Issued c s t

section
variable {s : State} {c : Fin 16} {i : Instr} {z : Zellek} {meaning : Zellek → Option (State → State)} {f : State → State}

/-! ### What the meaning of an instruction does, and how it completes -/

/-- What a meaning does to its context in the state after the fetch, it does to the context past the instruction's word. -/
theorem completesAs_of_setCtx (g : Ctx → Ctx) (he : exec i s = issue c meaning s) (hm : meaning z = some f)
    (hf : f (beginIssue c s) = setCtx c g (beginIssue c s)) : CompletesAs s c i z (g (fetched (getCtx s c))) := by
  intro h
  rw [he]
  exact issued_setCtx h hm g hf

theorem completesAs_of_writeReg {d : Nat} {v : Word64} (he : exec i s = issue c meaning s) (hm : meaning z = some f)
    (hf : f (beginIssue c s) = writeRegs c [(d, v)] (beginIssue c s)) :
    CompletesAs s c i z ((fetched (getCtx s c)).setReg d v) :=
  completesAs_of_setCtx (Ctx.setReg d v) he hm hf

/-- An instruction without an effect of its own still takes its context past its word. -/
theorem issued_of_id (h : Issues s c z) (hm : meaning z = some id) :
    ∃ t, issue c meaning s = .next t ∧ getCtx t c = stepped (fetched (getCtx s c)) ∧ Issued c s t := by
  have k := issued_of (u := s) h hm {} rfl rfl rfl rfl rfl (by rw [id, beginIssue_eq])
    (fun d hd => getCtx_beginIssue_ne s hd)
  rwa [id, getCtx_beginIssue_self] at k

end

/-! ### What a meaning reads after the fetch -/

@[simp] theorem beginIssue_tick (c : Nat) (s : State) : (beginIssue c s).tick = s.tick := by rw [beginIssue_eq]
@[simp] theorem beginIssue_events (c : Nat) (s : State) : (beginIssue c s).seq.events = s.seq.events := by rw [beginIssue_eq]
@[simp] theorem frameNumber_beginIssue (c : Nat) (s : State) : frameNumber (beginIssue c s) = frameNumber s := by
  simp only [frameNumber, beginIssue_tick]

@[simp] theorem reg_fetched (x : Ctx) (k : Nat) : (fetched x).reg k = x.reg k := rfl
@[simp] theorem st_fetched (x : Ctx) : (fetched x).st = x.st := rfl
@[simp] theorem value_fetched (x : Ctx) (src : AluSrc) : src.value (fetched x) = src.value x := by cases src <;> rfl

/-! ### ALU (R283, R284, Table 10.4) -/

theorem exec_aluOpRow (o : AluOp) (c : Fin 16) (s : State) : exec (o.row c) s = issue c (aluRow o c) s := by
  cases o <;> rfl

/-- An ALU instruction writes to gD what its operation makes of gA and the second operand. -/
theorem alu_completesAs {s : State} {c : Fin 16} {o : AluOp} {d a : BitVec 4} {src : AluSrc} {v : Word64}
    (hv : o.eval ((getCtx s c).reg a.toNat) (src.value (getCtx s c)) = v) :
    CompletesAs s c (o.row c) (.alu o d a src) ((fetched (getCtx s c)).setReg d.toNat v) :=
  completesAs_of_writeReg (exec_aluOpRow o c s) (if_pos rfl)
    (by simp only [getCtx_beginIssue_self, reg_fetched, value_fetched, hv])

theorem one64_decide (p : Prop) [Decidable p] : one64 (decide p) = if p then 1 else 0 := by
  simp only [one64, decide_eq_true_eq]

theorem eval_shl (a b : Word64) :
    AluOp.shl.eval a b = if b.toNat < 64 then BitVec.ofNat 64 (a.toNat * 2 ^ b.toNat) else 0 := by
  by_cases h : b.toNat < 64
  · rw [if_pos h, AluOp.eval, if_neg (by omega)]
    apply BitVec.eq_of_toNat_eq
    rw [BitVec.toNat_shiftLeft, Nat.shiftLeft_eq, BitVec.toNat_ofNat]
  · rw [if_neg h, AluOp.eval, if_pos (by omega)]

theorem eval_shr (a b : Word64) :
    AluOp.shr.eval a b = if b.toNat < 64 then BitVec.ofNat 64 (a.toNat / 2 ^ b.toNat) else 0 := by
  by_cases h : b.toNat < 64
  · have hlt : a.toNat / 2 ^ b.toNat < 2 ^ 64 := (Nat.div_le_self _ _).trans_lt a.isLt
    rw [if_pos h, AluOp.eval, if_neg (by omega)]
    apply BitVec.eq_of_toNat_eq
    rw [BitVec.toNat_ushiftRight, Nat.shiftRight_eq_div_pow, BitVec.toNat_ofNat, Nat.mod_eq_of_lt hlt]
  · rw [if_neg h, AluOp.eval, if_pos (by omega)]

theorem eval_sar (a b : Word64) :
    AluOp.sar.eval a b = BitVec.ofInt 64 (a.toInt / 2 ^ (if b.toNat < 64 then b.toNat else 63)) := by
  have count : Nat.min 63 b.toNat = if b.toNat < 64 then b.toNat else 63 := by
    rw [show Nat.min 63 b.toNat = min 63 b.toNat from rfl]
    split <;> omega
  rw [AluOp.eval, count, BitVec.sshiftRight, Int.shiftRight_eq_div_pow]
  norm_cast

/-! The comparisons, by the numbers compared. -/

theorem eval_slt (a b : Word64) : AluOp.slt.eval a b = if a.toInt < b.toInt then 1 else 0 := one64_decide _
theorem eval_sltu (a b : Word64) : AluOp.sltu.eval a b = if a.toNat < b.toNat then 1 else 0 := one64_decide _
theorem eval_seq (a b : Word64) : AluOp.seq.eval a b = if a = b then 1 else 0 := by
  rw [AluOp.eval, beq_eq_decide, one64_decide]
theorem eval_min (a b : Word64) : AluOp.min.eval a b = if a.toInt < b.toInt then a else b := by
  simp only [AluOp.eval, BitVec.slt_iff_toInt_lt]
theorem eval_max (a b : Word64) : AluOp.max.eval a b = if a.toInt < b.toInt then b else a := by
  simp only [AluOp.eval, BitVec.slt_iff_toInt_lt]

/-! ### MOVST and RDFRM -/

/-- ST in numbers (Table 9.1): HEEL_LATE is bit 5, above LAST_STS. -/
theorem st_zeroExtend (x : Ctx) : x.st.zeroExtend 64 = BitVec.ofNat 64 (x.lastSts.toNat + if x.heelLate then 32 else 0) := by
  have hst : x.lastSts.toNat < 32 := x.lastSts.isLt
  apply BitVec.eq_of_toNat_eq
  rw [Ctx.st, BitVec.zeroExtend, BitVec.toNat_setWidth, BitVec.toNat_append, ← Nat.shiftLeft_add_eq_or_of_lt hst, BitVec.toNat_ofNat]
  cases x.heelLate with
  | false => simp
  | true => simp [Nat.add_comm]

theorem ofNat_frameNumber (s : State) : BitVec.ofNat 64 (frameNumber s)
    = if s.tick.cntValid then BitVec.ofNat 64 (s.tick.counter.toNat / 2 ^ s.tick.frameLog2.toNat) else 0 :=
  apply_ite (BitVec.ofNat 64) _ _ _

/-! ### NOP -/

/-- The meaning of the NOP row. -/
def nopRow : Zellek → Option (State → State)
  | .nop => some id
  | _ => none

/-- The word of a NOP that issues is no double error (R246), so the row acts as any other. -/
theorem exec_nop {s : State} {c : Fin 16} (h : Issues s c .nop) : exec (.nop c) s = issue c nopRow s := by
  have single : (fetch s c).1 ≠ 2 := by
    intro e
    simpa [nextInsn, e] using h.insn
  have body : (if mayIssue s c && (fetch s c).1 == 2 then issueFault c 2 s else issueStep c nopRow s) = issueStep c nopRow s :=
    if_neg (by simp [single])
  exact congrArg (fun t => inService s fun s => settlePeriods s t) body

/-- Settles O56: each instruction acts on its own context alone; a fetch changes nothing that its meaning reads. -/
theorem zellekComputeAnswers : Obligations.ZellekComputeAnswers := by
  unfold Obligations.ZellekComputeAnswers
  intro s c
  refine ⟨?alu, ?moves, ?reads, ?nop, ?fence, ?label, ?tzero, ?tmov⟩
  case alu =>
    intro d a src
    exact ⟨alu_completesAs rfl, alu_completesAs rfl, alu_completesAs rfl,
      alu_completesAs rfl, alu_completesAs rfl, alu_completesAs rfl,
      alu_completesAs (eval_shl _ _), alu_completesAs (eval_shr _ _), alu_completesAs (eval_sar _ _),
      alu_completesAs (eval_slt _ _), alu_completesAs (eval_sltu _ _), alu_completesAs (eval_seq _ _),
      alu_completesAs (eval_min _ _), alu_completesAs (eval_max _ _)⟩
  case moves =>
    intro d v
    refine ⟨completesAs_of_writeReg rfl rfl rfl, completesAs_of_writeReg rfl rfl ?_⟩
    simp only [getCtx_beginIssue_self, reg_fetched]
  case reads =>
    intro d
    refine ⟨completesAs_of_writeReg rfl rfl ?movst, completesAs_of_writeReg rfl rfl ?evrd,
      completesAs_of_writeReg rfl rfl ?rdcnt, completesAs_of_writeReg rfl rfl ?rdfrm⟩
    case movst => simp only [getCtx_beginIssue_self, st_fetched, st_zeroExtend]
    case evrd => simp only [beginIssue_events]
    case rdcnt => simp only [beginIssue_tick]
    case rdfrm => simp only [frameNumber_beginIssue, ofNat_frameNumber]
  case nop =>
    intro h
    rw [exec_nop h]
    exact issued_of_id h rfl
  case fence => exact fun h => issued_of_id h rfl
  case label => exact fun k => completesAs_of_setCtx (fun x => { x with cls := k.toNat }) rfl rfl rfl
  case tzero => exact fun d => completesAs_of_setCtx (Ctx.setBlocks _) rfl rfl rfl
  case tmov =>
    intro d a
    exact completesAs_of_setCtx (fun x => x.setBlocks ((List.range 4).map fun b => (d.toNat * 4 + b, x.block a.toNat b))) rfl rfl rfl

end Sys2Proof.Proofs
end

section
/-! SUPPORT. Writes of the class registers and of the XP grant (12_regulation R341, R348, Tables 12.2 and 12.4): when a write is
admitted, what it leaves by its case, and the statement about them. -/

namespace Sys2Proof.Proofs

open Sys2Proof.Machine Sys2Proof.Safety Sys2Proof.Laws

theorem exec_clsCfgWrite (second : Bool) (v : Word32) (s : State) :
    exec (.clsCfgWrite second v) s = sbWriteOk (.clsCfgWrite second v) s (writeClass second v) := rfl

theorem exec_xpGrantWrite (v : Word32) (s : State) :
    exec (.xpGrantWrite v) s = sbWriteOk (.xpGrantWrite v) s (writeGrant v) := rfl

/-! ### Admission (R348) -/

theorem admitted_iff_sums {t : State} :
    admitted t = true ↔ resSum t ≤ 224 ∧ xresSum t ≤ 256 ∧ (t.reg.grant = 0 → xresSum t = 0) := by
  simp [admitted, and_assoc, imp_iff_not_or]

theorem admitted_eq_false_iff_sums {t : State} :
    admitted t = false ↔ 224 < resSum t ∨ 256 < xresSum t ∨ (t.reg.grant = 0 ∧ xresSum t ≠ 0) := by
  rw [← Bool.not_eq_true, admitted_iff_sums]
  simp only [not_and_or, not_le, Classical.not_imp]

/-! ### SL_CLS_CFG0 and SL_CLS_CFG1 (R341, R348, Table 12.4) -/

/-- A class as a write of its second register, or of its first, would make it; with the new leash it leaves its leash where windows
run, its count is below the old leash and the new one does not exceed its count (R341). -/
def classWritten (second : Bool) (v : Word32) (windows : Bool) (k : Machine.Class) : Machine.Class :=
  if second then { k with xres := v.extractLsb' 0 9 }
  else { k with prio := v.extractLsb' 30 2, res := v.extractLsb' 22 8, leash := v.extractLsb' 0 22
                leftLeash := k.leftLeash || (windows && k.bytes < 64 * k.leash.toNat && 64 * (v.toNat % 2 ^ 22) ≤ k.bytes) }

/-- The state as a write of a class register would leave it, were it admitted; its parity is not yet made anew. -/
def withClassWritten (second : Bool) (v : Word32) (s : State) : State :=
  setClass s s.reg.clsSel.toNat (classWritten second v s.tick.cntValid)

theorem within_eq (k : Machine.Class) (n : Nat) : k.within n = decide (k.bytes < 64 * n) := by
  rw [Class.within, Nat.mul_comm]

theorem not_within_eq (k : Machine.Class) (n : Nat) : (!k.within n) = decide (64 * n ≤ k.bytes) := by
  rw [within_eq, ← decide_not, decide_eq_decide, not_lt]

/-- A write of a class register that is not locked comes to its admission. -/
theorem writeClass_eq {s : State} (second : Bool) (v : Word32) (hl : s.reg.lock = false) :
    writeClass second v s =
      if admitted (withClassWritten second v s) then
        { s with reg := (withClassWritten second v s).reg, saf := resealed s (if second then 0x1806 else 0x1805) }
      else { s with reg := { s.reg with admRej := true } } := by
  have leash : fld v 0 22 = v.toNat % 2 ^ 22 := by rw [fld, pow_zero, Nat.div_one]
  simp only [writeClass, hl, not_within_eq, leash]
  simp only [within_eq]
  rfl

theorem writeClass_admitted {s : State} {second : Bool} {v : Word32} (hl : s.reg.lock = false)
    (ha : admitted (withClassWritten second v s) = true) :
    writeClass second v s =
      { s with reg := (withClassWritten second v s).reg, saf := resealed s (if second then 0x1806 else 0x1805) } := by
  rw [writeClass_eq second v hl, if_pos ha]

theorem writeClass_refused {s : State} {second : Bool} {v : Word32} (hl : s.reg.lock = false)
    (ha : admitted (withClassWritten second v s) = false) :
    writeClass second v s = { s with reg := { s.reg with admRej := true } } := by
  rw [writeClass_eq second v hl, if_neg (by simp [ha])]

/-! ### SL_XP_GRANT (R348, Table 12.2) -/

theorem writeGrant_outOfRange {s : State} {v : Word32} (hl : s.reg.lock = false) (hg : 256 < (part v 0 9).toNat) :
    writeGrant v s = { s with reg := { s.reg with regRej := true } } := by
  simp only [writeGrant, hl, if_pos hg]
  rfl

theorem writeGrant_refused {s : State} {v : Word32} (hl : s.reg.lock = false) (hg : part v 0 9 = 0) (hx : xresSum s ≠ 0) :
    writeGrant v s = { s with reg := { s.reg with admRej := true } } := by
  have inRange : ¬ 256 < (part v 0 9).toNat := by simp [hg]
  simp only [writeGrant, hl, if_neg inRange, if_pos (And.intro hg hx)]
  rfl

theorem writeGrant_accepted {s : State} {v : Word32} (hl : s.reg.lock = false) (hg : (part v 0 9).toNat ≤ 256)
    (hx : part v 0 9 = 0 → xresSum s = 0) :
    writeGrant v s = { s with reg := { s.reg with grant := part v 0 9 }, saf := resealed s 0x1801 } := by
  have granted : ¬ (part v 0 9 = 0 ∧ xresSum s ≠ 0) := fun h => h.2 (hx h.1)
  simp only [writeGrant, hl, if_neg hg.not_gt, if_neg granted]
  rfl

/-- Settles O14: each write acts by its case (refused by admission, out of range, accepted), and the sideband adds the response. -/
theorem admissionWritesAnswer : Obligations.AdmissionWritesAnswer := by
  unfold Obligations.AdmissionWritesAnswer
  intro s v h hl
  simp only [exec_clsCfgWrite, exec_xpGrantWrite]
  refine ⟨fun second => ⟨?classRefused, ?classAdmitted⟩, ?grantOutOfRange, ?grantRefused, ?grantAccepted⟩
  case classRefused => exact fun hr => sbWriteOk_answers h (writeClass_refused hl (admitted_eq_false_iff_sums.2 hr))
  case classAdmitted =>
    exact fun hres hxres hgrant => sbWriteOk_answers h (writeClass_admitted hl (admitted_iff_sums.2 ⟨hres, hxres, hgrant⟩))
  case grantOutOfRange => exact fun hg => sbWriteOk_answers h (writeGrant_outOfRange hl hg)
  case grantRefused => exact fun hg hx => sbWriteOk_answers h (writeGrant_refused hl hg hx)
  case grantAccepted => exact fun hg hx => sbWriteOk_answers h (writeGrant_accepted hl hg hx)

end Sys2Proof.Proofs
end

section
/-! SUPPORT. The IEEE 1687 instruments (16_ports_and_signals R443, Table 16.14): what a selected instrument answers, the words that
each shows, and the statement about them. -/

namespace Sys2Proof.Proofs

open Sys2Proof.Machine Sys2Proof.Safety Sys2Proof.Laws

/-- Outside reset, a selected instrument shows its content in the scan chain, and that is all it changes. -/
theorem instrument_next {s : State} (hw : s.env.wsUndefined = false) (hp : s.env.phase ≠ .held) (hi : s.env.wir = 8)
    (content : State → List Word32) :
    instrument content s = .next { s with out := { s.out with scan := content s } } := by
  have selected : ¬ (s.env.phase = .held ∨ s.env.wir ≠ 8) := fun h => h.elim hp (· hi)
  simp only [instrument, hw, if_neg selected]
  rfl

theorem exec_cfgRead (addr : BitVec 18) (s : State) :
    exec (.cfgRead addr) s = instrument (fun s => [readValue s addr.toNat]) s := rfl

/-! ### FUSE_IMAGE -/

/-- The words that hold the 3,000 bits of the fuse stream, the lowest first. -/
def fuseWords (s : State) : List Word32 := (List.range 94).map (word32 s.fuse.stream)

theorem exec_fuseImage (s : State) : exec .fuseImage s = instrument fuseWords s := rfl

theorem fuseWords_length (s : State) : (fuseWords s).length = 94 := by
  rw [fuseWords, List.length_map, List.length_range]

theorem fuseWords_getElem? {s : State} {n : Nat} {w : Word32} (h : (fuseWords s)[n]? = some w) :
    w = word32 s.fuse.stream n := by
  rw [fuseWords, List.getElem?_map, Option.map_eq_some_iff] at h
  obtain ⟨i, hi, rfl⟩ := h
  obtain ⟨_, rfl⟩ := List.getElem?_eq_some_iff.1 hi
  rw [List.getElem_range]

/-! ### RPT_LOG -/

/-- Where every element becomes a block of m entries, entry k of block n stands at m * n + k. -/
theorem flatMap_getElem?_block {α β : Type} {f : α → List β} {m k : Nat} (hf : ∀ x, (f x).length = m) (hk : k < m)
    (l : List α) (n : Nat) : (l.flatMap f)[m * n + k]? = l[n]?.bind fun x => (f x)[k]? := by
  induction l generalizing n with
  | nil => simp
  | cons x l ih =>
    rw [List.flatMap_cons]
    cases n with
    | zero => rw [Nat.mul_zero, Nat.zero_add, List.getElem?_append_left (by rwa [hf])]; rfl
    | succ n =>
      have inRest : m * (n + 1) + k = m + (m * n + k) := by ring
      rw [inRest, List.getElem?_append_right (by rw [hf]; omega), hf, Nat.add_sub_cancel_left, ih, List.getElem?_cons_succ]

/-- The words of the 16 records of the report log, the most recent record first. -/
def rptLogWords (s : State) : List Word32 := (List.range 16).flatMap (logWords s)

theorem exec_rptLog (s : State) : exec .rptLog s = instrument rptLogWords s := rfl

theorem logWords_length (s : State) (n : Nat) : (logWords s n).length = 8 := by
  rw [logWords, List.length_map, List.length_range]

theorem logWords_getElem? (s : State) (n : Nat) {k : Nat} (hk : k < 8) :
    (logWords s n)[k]? = some (word32 (s.saf.log.getD n 0) k) := by
  rw [logWords, List.getElem?_map, List.getElem?_range hk, Option.map_some]

theorem rptLogWords_length (s : State) : (rptLogWords s).length = 128 := by
  simp [rptLogWords, List.length_flatMap, logWords_length]

theorem rptLogWords_getElem? (s : State) {n k : Nat} (hn : n < 16) (hk : k < 8) :
    (rptLogWords s)[8 * n + k]? = some (word32 (s.saf.log.getD n 0) k) := by
  rw [rptLogWords, flatMap_getElem?_block (logWords_length s) hk, List.getElem?_range hn, Option.bind_some,
    logWords_getElem? s n hk]

/-- Settles O11: a selected instrument changes only the scan chain; the words that FUSE_IMAGE and RPT_LOG show there are those of the
stream and of the records. -/
theorem instrumentsChangeNoState : Obligations.InstrumentsChangeNoState := by
  unfold Obligations.InstrumentsChangeNoState
  intro s hw hp hi
  simp only [exec_cfgRead, exec_fuseImage, exec_rptLog, instrument_next hw hp hi]
  refine ⟨?cfgRead, ⟨fuseWords s, rfl, fuseWords_length s, ?fuseImage⟩, ⟨rptLogWords s, rfl, rptLogWords_length s, ?rptLog⟩⟩
  case cfgRead => exact fun addr => rfl
  case fuseImage => exact fun n w h => fuseWords_getElem? h
  case rptLog =>
    intro n k w hn hk h
    rw [rptLogWords_getElem? s hn hk] at h
    exact (Option.some.inj h).symm

end Sys2Proof.Proofs
end

section
/-! SUPPORT. What no command changes but the writes of registers (17_register_map R445, R450), the lengths of frame and window (R18,
R340), and that no step gives a configuration field a value out of its range. -/

namespace Sys2Proof.Proofs

open Sys2Proof.Machine Sys2Proof.Safety Sys2Proof.Laws

set_option Elab.async false

/-! ### The lengths of frame and window -/

/-- Of a length in force and a pending one, both stay or the pending one is taken up. -/
def PeriodKept (now : BitVec 5) (next : Option (BitVec 5)) (now' : BitVec 5) (next' : Option (BitVec 5)) : Prop :=
  (now' = now ∧ next' = next) ∨ (next = some now' ∧ next' = none)

/-- From s to t neither length changes but to one that was pending. -/
structure PeriodsKept (s t : State) : Prop where
  frame : PeriodKept s.tick.frameLog2 s.tick.framePend t.tick.frameLog2 t.tick.framePend
  window : PeriodKept s.reg.winLog2 s.reg.winPend t.reg.winLog2 t.reg.winPend

theorem PeriodKept.rfl {now : BitVec 5} {next : Option (BitVec 5)} : PeriodKept now next now next := .inl ⟨by rfl, by rfl⟩

theorem PeriodsKept.rfl {s : State} : PeriodsKept s s := ⟨.rfl, .rfl⟩

theorem periodKept_settled (now : BitVec 5) (next next' : Option (BitVec 5)) :
    PeriodKept now next (if next.isSome && next'.isNone then next.getD now else now)
      (if next.isSome && next'.isNone then none else next) := by
  cases next <;> cases next' <;> simp [PeriodKept]

theorem settlePassed_periodsKept (s t : State) : PeriodsKept s (settle s (settlePassed s t)) :=
  ⟨periodKept_settled _ _ _, periodKept_settled _ _ _⟩

theorem takePending_periodKept (s : State) (now : BitVec 5) (next : Option (BitVec 5)) :
    PeriodKept now next (takePending s now next).1 (takePending s now next).2 := by
  cases next with
  | none => exact .rfl
  | some n => by_cases h : onMultiple s n.toNat <;> simp [takePending, PeriodKept, h]

theorem counterEvent_body (s : State) (f : State → State) :
    ∃ body, counterEvent s f = inService s body ∧ PeriodsKept s (settle s (body s)) :=
  ⟨fun s => settlePassed s (f s), rfl, settlePassed_periodsKept s _⟩

/-- The body of a command that ends a frame or a window, or moves a parked counter, keeps both lengths but a pending one. -/
theorem exec_boundary_body {c : Instr} (s : State) (h : kindOf c = .boundary) :
    ∃ body, exec c s = inService s body ∧ PeriodsKept s (settle s (body s)) := by
  cases c
  case frameBoundary =>
    refine ⟨_, rfl, ?_⟩
    split
    · exact ⟨takePending_periodKept _ _ _, .rfl⟩
    · exact .rfl
  case regWindowEnd =>
    refine ⟨_, rfl, ?_⟩
    split
    · exact ⟨.rfl, takePending_periodKept _ _ _⟩
    · exact .rfl
  case tkStrobe v => unfold exec execTkStrobe; exact counterEvent_body s _
  case aonTick => unfold exec execAonTick; exact counterEvent_body s _
  all_goals cases h

/-- A message, an event or an instruction leaves what software alone writes as `settle` keeps it, and both lengths. -/
theorem exec_event_settled {c : Instr} {s t : State} (h : kindOf c = .event) (he : exec c s = .next t) :
    ∃ u, t = settle s u ∧ t.tick.frameLog2 = s.tick.frameLog2 ∧ t.tick.framePend = s.tick.framePend
      ∧ t.reg.winLog2 = s.reg.winLog2 ∧ t.reg.winPend = s.reg.winPend := by
  obtain ⟨body, hb⟩ := exec_event s h
  obtain rfl | rfl := event_cases (hb.symm.trans he)
  · exact ⟨_, rfl, rfl, rfl, rfl, rfl⟩
  · exact ⟨_, rfl, rfl, rfl, rfl, rfl⟩

theorem exec_boundary_settled {c : Instr} {s t : State} (h : kindOf c = .boundary) (he : exec c s = .next t) :
    ∃ u, t = settle s u ∧ PeriodsKept s t := by
  obtain ⟨body, hb, hp⟩ := exec_boundary_body s h
  obtain rfl | rfl := inService_cases (hb.symm.trans he)
  · exact ⟨_, rfl, .rfl⟩
  · exact ⟨_, rfl, hp⟩

/-- Settles O7: every such command answers a state that `settle` has made of some other; the lengths stay, or one that was pending
is taken up at a boundary. -/
theorem eventsKeepSoftwareRegisters : Obligations.EventsKeepSoftwareRegisters := by
  unfold Obligations.EventsKeepSoftwareRegisters
  intro c s t h he
  have settled : ∃ u, t = settle s u
      ∧ ((t.tick.frameLog2 = s.tick.frameLog2 ∧ t.tick.framePend = s.tick.framePend)
        ∨ (kindOf c = .boundary ∧ s.tick.framePend = some t.tick.frameLog2 ∧ t.tick.framePend = none))
      ∧ ((t.reg.winLog2 = s.reg.winLog2 ∧ t.reg.winPend = s.reg.winPend)
        ∨ (kindOf c = .boundary ∧ s.reg.winPend = some t.reg.winLog2 ∧ t.reg.winPend = none)) := by
    rcases h with h | h
    · obtain ⟨u, hu, frame, framePend, window, winPend⟩ := exec_event_settled h he
      exact ⟨u, hu, .inl ⟨frame, framePend⟩, .inl ⟨window, winPend⟩⟩
    · obtain ⟨u, hu, frame, window⟩ := exec_boundary_settled h he
      exact ⟨u, hu, frame.imp_right fun taken => ⟨h, taken⟩, window.imp_right fun taken => ⟨h, taken⟩⟩
  obtain ⟨u, rfl, frame, window⟩ := settled
  refine ⟨rfl, rfl, rfl, rfl, rfl, rfl, rfl, rfl, rfl, frame, window, ?_⟩
  and_intros <;> rfl

/-! ### The queue -/

/-- Settles O1: it is the first case of a step. -/
theorem stepRunsFrontCommand : Obligations.StepRunsFrontCommand := by
  unfold Obligations.StepRunsFrontCommand
  intro c s rest h
  rw [step, h]

/-- From s to t the sequencer alone changes. -/
def OnlySeq (s t : State) : Prop := ∃ q, t = { s with seq := q }

theorem OnlySeq.rfl {s : State} : OnlySeq s s := ⟨s.seq, by rfl⟩

theorem OnlySeq.trans {s t u : State} (h : OnlySeq s t) (k : OnlySeq t u) : OnlySeq s u := by
  obtain ⟨_, rfl⟩ := h
  obtain ⟨q, rfl⟩ := k
  exact ⟨q, by rfl⟩

theorem foldl_onlySeq {α : Type} {f : State → α → State} (hf : ∀ s a, OnlySeq s (f s a)) (l : List α) (s : State) :
    OnlySeq s (l.foldl f s) :=
  List.foldlRecOn l f .rfl fun t h a _ => h.trans (hf t a)

theorem tryRelease_onlySeq (s : State) (c : Nat) : OnlySeq s (tryRelease c s) := by
  simp only [tryRelease]
  split
  · split
    · split <;> exact ⟨_, rfl⟩
    · exact .rfl
  · exact .rfl

theorem wake_onlySeq (s : State) : OnlySeq s (wake s) := foldl_onlySeq tryRelease_onlySeq _ s

theorem exec_bringUp_pending {c : Instr} {s t : State} (h : kindOf c = .bringUp) (he : exec c s = .next t) :
    t.pending = s.pending := by
  cases c
  case resetAssert => cases he; rfl
  case powerLoss => cases he; rfl
  case resetRelease =>
    simp only [exec, execResetRelease] at he
    split at he <;> cases he <;> rfl
  case fuseLoadEnd =>
    simp only [exec, execFuseLoadEnd] at he
    split at he
    · cases he; rfl
    · split at he <;> cases he <;> rfl
  case rsReady =>
    simp only [exec, execRsReady] at he
    split at he <;> cases he <;> rfl
  all_goals cases h

/-- A command of the test wrapper acts on its registers alone. -/
theorem exec_wrapper {c : Instr} (s : State) (h : kindOf c = .wrapper) : ∃ e, exec c s = .next { s with env := e } := by
  cases c
  case wsBypass => exact ⟨_, rfl⟩
  case wsExtest => exact ⟨_, rfl⟩
  case wsIntest => exact ⟨_, rfl⟩
  case wsPreload cells => exact ⟨_, rfl⟩
  case wsClamp => exact ⟨_, rfl⟩
  case wsSafe => exact ⟨_, rfl⟩
  case wxIjtag => exact ⟨_, rfl⟩
  all_goals cases h

/-- No command touches the queue behind it. -/
theorem exec_pending {c : Instr} {s t : State} (he : exec c s = .next t) : t.pending = s.pending := by
  cases hk : kindOf c with
  | bringUp => exact exec_bringUp_pending hk he
  | wrapper =>
    obtain ⟨e, hw⟩ := exec_wrapper s hk
    obtain rfl := Host.Outcome.next.inj (hw.symm.trans he)
    rfl
  | instrument =>
    obtain ⟨content, hc⟩ := exec_instrument s hk
    obtain rfl | rfl := instrument_cases (hc.symm.trans he) <;> rfl
  | sideband =>
    obtain ⟨body, hb⟩ := exec_sideband s hk
    obtain rfl | rfl | rfl := sideband_cases (hb.symm.trans he) <;> rfl
  | boundary =>
    obtain ⟨u, rfl, -⟩ := exec_boundary_settled hk he
    rfl
  | event =>
    obtain ⟨u, rfl, -⟩ := exec_event_settled hk he
    rfl

/-- The passing of an sc: in service the registers that software alone writes stay, and the lengths but a pending one. -/
theorem tick_cases (s : State) : tick s = s ∨ tick s = { s with env := { s.env with sc := s.env.sc + 1 } }
    ∨ ∃ u, tick s = settle s (settlePassed s u) := by
  cases hp : s.env.phase with
  | ready => exact .inr (.inr ⟨passSc s, by simp only [tick, hp]⟩)
  | fuseLoad => exact .inr (.inl (by simp only [tick, hp]))
  | tagClear => exact .inr (.inl (by simp only [tick, hp]))
  | held => exact .inl (by simp only [tick, hp])
  | stuck => exact .inl (by simp only [tick, hp])

/-! ### A step on an empty queue -/

theorem step_empty {s : State} (h : s.pending = []) : step s = idle s := by rw [step, h]

theorem idle_undefined {s : State} (hw : s.env.wsUndefined = true) : idle s = .fault .wrapperUndefined := by
  rw [idle, if_pos hw]

section
variable {s : State} (hw : s.env.wsUndefined = false)
include hw

theorem idle_held {c : Instr} {rest : List Instr} (hh : heldNext s = some (c, rest)) : idle s = execHeld c rest s := by
  rw [idle, if_neg (by simp [hw]), hh]

theorem idle_compare (hh : heldNext s = none) (hc : s.env.done.compare = true) : idle s = .next (compareFlags s) := by
  rw [idle, if_neg (by simp [hw]), hh]
  exact if_pos hc

theorem idle_due {c : Instr} (hh : heldNext s = none) (hc : s.env.done.compare = false) (hd : dueEvent s = some c) :
    idle s = exec c s := by
  rw [idle, if_neg (by simp [hw]), hh, hd]
  exact if_neg (by simp [hc])

theorem idle_passes (hh : heldNext s = none) (hc : s.env.done.compare = false) (hd : dueEvent s = none) :
    idle s = .next (tick s) := by
  rw [idle, if_neg (by simp [hw]), hh, hd]
  exact if_neg (by simp [hc])

end

theorem execHeld_next {s u : State} {c : Instr} (rest : List Instr)
    (h : exec c { s with fg := { s.fg with held := [] } } = .next u) :
    execHeld c rest s = .next { u with fg := { u.fg with held := rest } } := by rw [execHeld, h]

theorem execHeld_cases {s t : State} {c : Instr} {rest : List Instr} (h : execHeld c rest s = .next t) :
    ∃ u, exec c { s with fg := { s.fg with held := [] } } = .next u ∧ t = { u with fg := { u.fg with held := rest } } := by
  cases hu : exec c { s with fg := { s.fg with held := [] } } with
  | next u => exact ⟨u, rfl, (Host.Outcome.next.inj ((execHeld_next rest hu).symm.trans h)).symm⟩
  | fault r => rw [execHeld, hu] at h; cases h
  | refused r => rw [execHeld, hu] at h; cases h

/-- What a step on an empty queue does: a message that has waited registers, the flags are compared, an event that is due happens, or
an sc passes. -/
theorem idle_cases {s t : State} (h : idle s = .next t) :
    (∃ c rest u, exec c { s with fg := { s.fg with held := [] } } = .next u ∧ t = { u with fg := { u.fg with held := rest } })
    ∨ t = compareFlags s ∨ (∃ c, exec c s = .next t) ∨ t = tick s := by
  cases hw : s.env.wsUndefined with
  | true => rw [idle_undefined hw] at h; cases h
  | false =>
    cases hh : heldNext s with
    | some p =>
      obtain ⟨u, hu, ht⟩ := execHeld_cases ((idle_held hw hh).symm.trans h)
      exact .inl ⟨_, _, u, hu, ht⟩
    | none =>
      cases hc : s.env.done.compare with
      | true => exact .inr (.inl (Host.Outcome.next.inj ((idle_compare hw hh hc).symm.trans h)).symm)
      | false =>
        cases hd : dueEvent s with
        | some c => exact .inr (.inr (.inl ⟨c, (idle_due hw hh hc hd).symm.trans h⟩))
        | none => exact .inr (.inr (.inr (Host.Outcome.next.inj ((idle_passes hw hh hc hd).symm.trans h)).symm))

/-- Settles O2: no command touches the queue behind it, and an empty queue stays empty. -/
theorem stepTakesOneCommand : Obligations.StepTakesOneCommand := by
  unfold Obligations.StepTakesOneCommand
  intro s t h
  unfold step at h
  split at h
  · rename_i c rest hq
    rw [exec_pending h, hq, List.tail_cons]
  · rename_i hq
    have kept : t.pending = s.pending := by
      obtain ⟨c, rest, u, hu, ht⟩ | ht | ⟨c, hc⟩ | ht := idle_cases h
      · rw [ht]
        exact (exec_pending hu :)
      · obtain ⟨q, hq⟩ := wake_onlySeq { s with env := { s.env with done := { s.env.done with compare := false } } }
        rw [ht, compareFlags, hq]
      · exact exec_pending hc
      · obtain hp | hp | ⟨u, hp⟩ := tick_cases s <;> rw [ht, hp]
        rfl
    rw [kept, hq, List.tail_nil]

/-! ### Legal configurations -/

/-- t holds in every configuration field of `ConfigLegal` what s holds. Where t is s with other fields changed, each condition is true
by rfl: write `{}`. -/
structure SameConfig (s t : State) : Prop where
  frame : t.tick.frameLog2 = s.tick.frameLog2 := by rfl
  framePend : t.tick.framePend = s.tick.framePend := by rfl
  window : t.reg.winLog2 = s.reg.winLog2 := by rfl
  winPend : t.reg.winPend = s.reg.winPend := by rfl
  clusters : t.coh.nclust = s.coh.nclust := by rfl
  homeTmo : t.coh.homeTmo = s.coh.homeTmo := by rfl
  grant : t.reg.grant = s.reg.grant := by rfl
  ring : t.saf.ringLog2 = s.saf.ringLog2 := by rfl
  scrub : t.bg.scrubLog2 = s.bg.scrubLog2 := by rfl
  telRing : t.bg.telRing = s.bg.telRing := by rfl

theorem legal_of_same {s t : State} (h : ConfigLegal s) (k : SameConfig s t := by exact {}) : ConfigLegal t where
  frame := k.frame ▸ h.frame
  framePend := k.framePend ▸ h.framePend
  window := k.window ▸ h.window
  winPend := k.winPend ▸ h.winPend
  clusters := k.clusters ▸ h.clusters
  homeTmo := k.homeTmo ▸ h.homeTmo
  grant := k.grant ▸ h.grant
  ring := k.ring ▸ h.ring
  scrub := k.scrub ▸ h.scrub
  telRing := k.telRing ▸ h.telRing

/-- A pending length is legal already, so taking it up keeps the configuration legal. -/
theorem legal_of_settled {s u : State} (h : ConfigLegal s) (k : PeriodsKept s (settle s u)) :
    ConfigLegal (settle s u) := by
  obtain ⟨frame, window⟩ := k
  have legalFrame : (15 ≤ (settle s u).tick.frameLog2.toNat ∧ (settle s u).tick.frameLog2.toNat ≤ 25)
      ∧ ∀ n, (settle s u).tick.framePend = some n → 15 ≤ n.toNat ∧ n.toNat ≤ 25 := by
    rcases frame with ⟨hnow, hnext⟩ | ⟨htaken, hnext⟩
    · exact ⟨hnow ▸ h.frame, hnext ▸ h.framePend⟩
    · exact ⟨h.framePend _ htaken, by simp [hnext]⟩
  have legalWindow : (8 ≤ (settle s u).reg.winLog2.toNat ∧ (settle s u).reg.winLog2.toNat ≤ 20)
      ∧ ∀ n, (settle s u).reg.winPend = some n → 8 ≤ n.toNat ∧ n.toNat ≤ 20 := by
    rcases window with ⟨hnow, hnext⟩ | ⟨htaken, hnext⟩
    · exact ⟨hnow ▸ h.window, hnext ▸ h.winPend⟩
    · exact ⟨h.winPend _ htaken, by simp [hnext]⟩
  exact { frame := legalFrame.1, framePend := legalFrame.2, window := legalWindow.1, winPend := legalWindow.2
          clusters := h.clusters, homeTmo := h.homeTmo, grant := h.grant, ring := h.ring, scrub := h.scrub, telRing := h.telRing }

/-- Settles O4: every value after reset lies in its range. -/
theorem resetConfigurationIsLegal : Obligations.ResetConfigurationIsLegal :=
  { frame := by decide, framePend := nofun, window := by decide, winPend := nofun, clusters := by decide, homeTmo := by decide
    grant := by decide, ring := by decide, scrub := by decide, telRing := by decide }

end Sys2Proof.Proofs
end

section
/-! SUPPORT. No write of a register gives a configuration field a value that its rule forbids (17_register_map R445 to R450), and with
that no step does. -/

namespace Sys2Proof.Proofs

open Sys2Proof.Machine Sys2Proof.Safety Sys2Proof.Laws

set_option Elab.async false

/-! ### The writes of registers -/

/-- What a write leads to keeps the configuration legal. -/
def KeepsLegal (body : State → State) : Prop := ∀ s, ConfigLegal s → ConfigLegal (body s)

theorem keepsLegal_keepConfig (body : State → State) : KeepsLegal (keepConfig body) := fun _ h => legal_of_same h

theorem keepsLegal_frameCfg (v : Word32) : KeepsLegal (writeFrameCfg v) := by
  intro s h
  by_cases hl : s.tick.lock = true
  · rwa [writeFrameCfg_locked v hl]
  rw [Bool.not_eq_true] at hl
  by_cases hn : 15 ≤ (part v 0 5).toNat ∧ (part v 0 5).toNat ≤ 25
  · rw [writeFrameCfg_inRange hl hn]
    refine { h with frame := ?_, framePend := ?_ }
    · show 15 ≤ (if s.tick.cntValid then s.tick.frameLog2 else part v 0 5).toNat ∧ _
      split
      · exact h.frame
      · exact hn
    · intro n hp
      simp only [Option.ite_none_right_eq_some] at hp
      exact Option.some.inj hp.2 ▸ hn
  · rw [writeFrameCfg_outOfRange hl (by omega)]
    exact legal_of_same h

theorem keepsLegal_regCfg (v : Word32) : KeepsLegal (writeRegCfg v) := by
  intro s h
  by_cases hl : s.reg.lock = true
  · rwa [writeRegCfg_locked v hl]
  rw [Bool.not_eq_true] at hl
  by_cases hn : 8 ≤ (part v 0 5).toNat ∧ (part v 0 5).toNat ≤ 20
  · rw [writeRegCfg_inRange hl hn]
    refine { h with window := ?_, winPend := ?_ }
    · show 8 ≤ (if s.tick.cntValid then s.reg.winLog2 else part v 0 5).toNat ∧ _
      split
      · exact h.window
      · exact hn
    · intro n hp
      simp only [Option.ite_none_right_eq_some] at hp
      exact Option.some.inj hp.2 ▸ hn
  · rw [writeRegCfg_outOfRange hl (by omega)]
    exact legal_of_same h

theorem keepsLegal_cohCfg (v : Word32) : KeepsLegal (writeCohCfg v) := by
  intro s h
  by_cases hl : s.coh.lock = true
  · rwa [writeCohCfg_locked v hl]
  rw [Bool.not_eq_true] at hl
  by_cases hv : (part v 20 8).toNat < 1 ∨ 160 < (part v 20 8).toNat ∨ (part v 0 20).toNat < 256
  · rw [writeCohCfg_illegal hl hv]
    exact legal_of_same h
  · push Not at hv
    obtain ⟨hlo, hhi, htmo⟩ := hv
    rw [writeCohCfg_legal hl ⟨hlo, hhi⟩ htmo]
    exact { h with clusters := ⟨hlo, hhi⟩, homeTmo := htmo }

theorem keepsLegal_grant (v : Word32) : KeepsLegal (writeGrant v) := by
  intro s h
  simp only [writeGrant]
  split
  · exact h
  split
  · exact legal_of_same h
  split
  · exact legal_of_same h
  · rename_i _ hg _
    exact { h with grant := not_lt.1 hg }

theorem keepsLegal_class (second : Bool) (v : Word32) : KeepsLegal (writeClass second v) := by
  intro s h
  unfold writeClass
  split
  · exact h
  · by_cases ha : admitted (setClass s s.reg.clsSel.toNat fun k =>
      if second then { k with xres := part v 0 9 }
      else { k with prio := part v 30 2, res := part v 22 8, leash := part v 0 22
                    leftLeash := k.leftLeash || (s.tick.cntValid && k.within k.leash.toNat && !k.within (fld v 0 22)) }) = true
    · rw [if_pos ha]
      exact legal_of_same h
    · rw [if_neg ha]
      exact legal_of_same h

theorem keepsLegal_range (word : Nat) (f : Range → Range) : KeepsLegal (writeRange word f) := by
  intro s h
  simp only [writeRange]
  split
  · exact h
  · exact legal_of_same h

theorem keepsLegal_bgCfg (v : Word32) : KeepsLegal (writeBgCfg v) := by
  intro s h
  refine { h with scrub := ?_ }
  simp only [writeBgCfg, Bool.or_eq_true, decide_eq_true_eq]
  split
  · exact h.scrub
  · omega

theorem keepsLegal_telCfg (v : Word32) : KeepsLegal (writeTelCfg v) := by
  intro s h
  refine { h with telRing := ?_ }
  simp only [writeTelCfg, decide_eq_true_eq]
  split
  · exact h.telRing
  · omega

theorem keepsLegal_safeCfg (v : Word32) : KeepsLegal (writeSafeCfg v) := by
  intro s h
  simp only [writeSafeCfg]
  split
  · exact h
  · refine { h with ring := ?_ }
    simp only [remadeParity, decide_eq_true_eq]
    split
    · exact h.ring
    · omega

theorem keepsLegal_safAddr (word : Nat) (f : Saf → Saf) (hf : ∀ m, (f m).ringLog2 = m.ringLog2) :
    KeepsLegal (writeSafAddr word f) := by
  intro s h
  simp only [writeSafAddr]
  split
  · exact h
  · exact legal_of_same h { ring := hf s.saf }

theorem keepsLegal_spare (v : Word32) : KeepsLegal (writeSpare v) := by
  intro s h
  simp only [writeSpare]
  split <;> exact legal_of_same h

theorem keepsLegal_cacheCfg (v : Word32) : KeepsLegal (writeCacheCfg v) := by
  intro s h
  simp only [writeCacheCfg]
  split <;> exact legal_of_same h

theorem keepsLegal_wayLock (v : Word32) : KeepsLegal (writeWayLock v) := by
  intro s h
  simp only [writeWayLock]
  split
  · exact legal_of_same h
  split
  · split <;> exact legal_of_same h
  split
  · split <;> exact legal_of_same h
  · exact h

theorem keepsLegal_wayGate (v : Word32) : KeepsLegal (writeWayGate v) := by
  intro s h
  simp only [writeWayGate]
  split
  · exact legal_of_same h
  split <;> split <;> exact legal_of_same h

theorem keepsLegal_kennelBase (v : Word32) : KeepsLegal (writeKennelBase v) := by
  intro s h
  simp only [writeKennelBase]
  split
  · exact h
  · exact legal_of_same h

theorem keepsLegal_stageCfg (v : Word32) : KeepsLegal (writeStageCfg v) := by
  intro s h
  simp only [writeStageCfg]
  split
  · split
    · exact legal_of_same h
    split <;> exact legal_of_same h
  · split <;> exact legal_of_same h

theorem keepsLegal_chCfg0 (v : Word32) : KeepsLegal (writeChCfg0 v) := by
  intro s h
  simp only [writeChCfg0]
  repeat' split
  all_goals exact legal_of_same h

theorem keepsLegal_channel (f : Channel → Channel) : KeepsLegal (writeChannel f) := by
  intro s h
  simp only [writeChannel]
  split <;> exact legal_of_same h

theorem keepsLegal_target (f : Target → Target) : KeepsLegal (writeTarget f) := by
  intro s h
  simp only [writeTarget]
  split
  · exact legal_of_same h
  split <;> exact legal_of_same h

theorem keepsLegal_seqCtl (v : Word32) : KeepsLegal (writeSeqCtl v) := by
  intro s h
  simp only [writeSeqCtl]
  repeat' split
  all_goals exact legal_of_same h

theorem keepsLegal_ctxEffect (permitted : State → Nat → Bool) (effect : Nat → State → State) :
    KeepsLegal (ctxEffect permitted effect) := keepsLegal_keepConfig _

theorem keepsLegal_ctxCmd (v : Word32) : KeepsLegal (writeCtxCmd v) := by
  intro s h
  unfold writeCtxCmd
  split
  case h_6 => exact keepsLegal_keepConfig _ s h
  case h_8 => exact legal_of_same h
  all_goals exact keepsLegal_ctxEffect _ _ s h

theorem keepsLegal_pstoreLo (v : Word32) : KeepsLegal (writePstoreLo v) := by
  intro s h
  simp only [writePstoreLo]
  split <;> exact legal_of_same h

theorem keepsLegal_pstoreHi (i : Nat) (v : Word32) : KeepsLegal (writePstoreHi i v) := by
  intro s h
  simp only [writePstoreHi]
  split <;> exact legal_of_same h

theorem keepsLegal_stream (f : Stream → Stream) : KeepsLegal (writeStream f) := by
  intro s h
  simp only [writeStream]
  split
  · exact h
  · exact legal_of_same h

theorem keepsLegal_clearStream : KeepsLegal clearStream := by
  intro s h
  simp only [clearStream]
  split <;> exact legal_of_same h

/-! ### SB_WRITE -/

theorem keepsLegal_tick (w : Nat) (v : Word32) : KeepsLegal (writeTick w v) := by
  intro s h
  unfold writeTick
  split
  · exact keepsLegal_frameCfg v s h
  · exact legal_of_same h
  · exact h

theorem keepsLegal_array (w : Nat) (v : Word32) : KeepsLegal (writeArray w v) := by
  intro s h
  unfold writeArray
  split
  case h_4 => exact keepsLegal_spare v s h
  case h_5 => exact h
  all_goals exact legal_of_same h

theorem keepsLegal_cache (w : Nat) (v : Word32) : KeepsLegal (writeCache w v) := by
  intro s h
  unfold writeCache
  split
  · exact keepsLegal_cacheCfg v s h
  · exact keepsLegal_wayLock v s h
  · exact keepsLegal_wayGate v s h
  · exact legal_of_same h
  · exact h

theorem keepsLegal_kennel (w : Nat) (v : Word32) : KeepsLegal (writeKennel w v) := by
  intro s h
  unfold writeKennel
  split
  · exact keepsLegal_kennelBase v s h
  · exact keepsLegal_stageCfg v s h
  · exact legal_of_same h
  · exact keepsLegal_chCfg0 v s h
  · exact keepsLegal_channel _ s h
  · exact keepsLegal_channel _ s h
  · exact legal_of_same h
  · exact legal_of_same h
  · exact keepsLegal_target _ s h
  · exact keepsLegal_target _ s h
  · exact keepsLegal_target _ s h
  · exact h

theorem keepsLegal_coherence (w : Nat) (v : Word32) : KeepsLegal (writeCoherence w v) := by
  intro s h
  unfold writeCoherence
  split
  · exact keepsLegal_cohCfg v s h
  · exact legal_of_same h
  · exact legal_of_same h
  · exact keepsLegal_keepConfig _ s h
  · exact h

theorem keepsLegal_regulator (w : Nat) (v : Word32) : KeepsLegal (writeRegulator w v) := by
  intro s h
  unfold writeRegulator
  split
  · exact keepsLegal_regCfg v s h
  · exact keepsLegal_grant v s h
  · exact legal_of_same h
  · exact legal_of_same h
  · exact keepsLegal_class _ v s h
  · exact keepsLegal_class _ v s h
  · exact legal_of_same h
  · exact keepsLegal_range _ _ s h
  · exact keepsLegal_range _ _ s h
  · exact keepsLegal_range _ _ s h
  · exact h

theorem keepsLegal_background (w : Nat) (v : Word32) : KeepsLegal (writeBackground w v) := by
  intro s h
  unfold writeBackground
  split
  · exact keepsLegal_bgCfg v s h
  · exact keepsLegal_telCfg v s h
  · exact legal_of_same h
  · split
    · exact legal_of_same h
    · exact h
  · exact legal_of_same h
  · exact h

theorem keepsLegal_units (w : Nat) (v : Word32) : KeepsLegal (writeUnits w v) := by
  intro s h
  unfold writeUnits
  split
  · exact keepsLegal_keepConfig _ s h
  split
  · exact legal_of_same h
  · exact h

theorem keepsLegal_sequencer (w : Nat) (v : Word32) : KeepsLegal (writeSequencer w v) := by
  intro s h
  have noise : ConfigLegal (noisy s) := legal_of_same h
  simp only [writeSequencer]
  split
  case h_1 => exact keepsLegal_seqCtl v _ noise
  case h_7 => exact keepsLegal_ctxCmd v _ noise
  case h_10 => exact keepsLegal_keepConfig _ _ noise
  case h_11 => exact keepsLegal_keepConfig _ _ noise
  all_goals exact legal_of_same noise

theorem keepsLegal_determinism (w : Nat) (v : Word32) : KeepsLegal (writeDeterminism w v) := by
  intro s h
  unfold writeDeterminism
  split
  · split
    · exact h
    · exact legal_of_same h
  · exact legal_of_same h
  · exact legal_of_same h
  · split
    · exact keepsLegal_clearStream s h
    · exact h
  · exact keepsLegal_stream _ s h
  · exact keepsLegal_stream _ s h
  · exact keepsLegal_stream _ s h
  · exact keepsLegal_stream _ s h
  · exact h

theorem keepsLegal_containment (w : Nat) (v : Word32) : KeepsLegal (writeContainment w v) := by
  intro s h
  unfold writeContainment
  split
  · exact keepsLegal_safeCfg v s h
  · exact legal_of_same h
  · refine keepsLegal_safAddr _ _ ?_ s h; exact fun _ => rfl
  · refine keepsLegal_safAddr _ _ ?_ s h; exact fun _ => rfl
  · refine keepsLegal_safAddr _ _ ?_ s h; exact fun _ => rfl
  · refine keepsLegal_safAddr _ _ ?_ s h; exact fun _ => rfl
  · exact legal_of_same h
  · exact h

theorem keepsLegal_links (w : Nat) (v : Word32) : KeepsLegal (writeLinks w v) := by
  intro s h
  unfold writeLinks
  split
  · exact legal_of_same h
  split
  · exact legal_of_same h
  · exact h

theorem keepsLegal_tags (w : Nat) (v : Word32) : KeepsLegal (writeTags w v) := by
  intro s h
  unfold writeTags
  split
  · exact legal_of_same h
  · exact h

theorem keepsLegal_reg (addr : Nat) (v : Word32) : KeepsLegal (writeReg addr v) := by
  intro s h
  simp only [writeReg]
  split
  · split
    · exact keepsLegal_pstoreLo v s h
    · exact keepsLegal_pstoreHi _ v s h
  split
  · exact keepsLegal_tick _ v s h
  · exact keepsLegal_array _ v s h
  · exact keepsLegal_cache _ v s h
  · exact keepsLegal_kennel _ v s h
  · exact keepsLegal_coherence _ v s h
  · exact keepsLegal_regulator _ v s h
  · exact keepsLegal_background _ v s h
  · exact keepsLegal_units _ v s h
  · exact keepsLegal_sequencer _ v s h
  · exact keepsLegal_determinism _ v s h
  · exact keepsLegal_containment _ v s h
  · exact keepsLegal_links _ v s h
  · exact keepsLegal_tags _ v s h
  · exact h

/-! ### Every command -/

theorem sideband_legal {s t : State} {c : Instr} {body : State → State} (hb : KeepsLegal body) (h : ConfigLegal s)
    (he : sideband c s body = .next t) : ConfigLegal t := by
  obtain rfl | rfl | rfl := sideband_cases he
  · exact h
  · exact legal_of_same h
  · exact legal_of_same (hb s h)

theorem sbWriteOk_legal {s t : State} {c : Instr} {body : State → State} (hb : KeepsLegal body) (h : ConfigLegal s)
    (he : sbWriteOk c s body = .next t) : ConfigLegal t := by
  refine sideband_legal (fun s h => ?_) h he
  split
  · exact legal_of_same h
  · exact legal_of_same (hb s h)

theorem keepsLegal_sbRespond {body : State → State} (hb : KeepsLegal body) (resp : BitVec 2) (data : Word32) :
    KeepsLegal fun s => sbRespond resp data (body s) := fun s h => legal_of_same (hb s h)

theorem keepsLegal_dump : KeepsLegal dumpSelected := keepsLegal_keepConfig _

theorem sbReadOk_legal {s t : State} {c : Instr} {k : SbRead} (h : ConfigLegal s) (he : sbReadOk c k s = .next t) :
    ConfigLegal t := sideband_legal (fun _ h => legal_of_same h) h he

theorem sbWrite_legal {s t : State} {addr : BitVec 18} {v : Word32} (h : ConfigLegal s)
    (he : exec (.sbWrite addr v) s = .next t) : ConfigLegal t := by
  simp only [exec, execSbWrite] at he
  split at he
  · exact sideband_legal (fun _ h => legal_of_same h) h he
  split at he
  · exact sideband_legal (keepsLegal_sbRespond keepsLegal_dump 0 0) h he
  · exact sbWriteOk_legal (keepsLegal_reg _ v) h he

theorem hold_legal {s t : State} {v : Word32} (h : ConfigLegal s) (he : exec (.hold v) s = .next t) : ConfigLegal t := by
  simp only [exec, execHold] at he
  refine sideband_legal (fun s h => ?_) h he
  split
  · exact legal_of_same h
  split
  · exact legal_of_same h
  split <;> exact legal_of_same h

theorem release_legal {s t : State} {v : Word32} (h : ConfigLegal s) (he : exec (.release v) s = .next t) : ConfigLegal t := by
  simp only [exec, execRelease] at he
  refine sideband_legal (fun s h => ?_) h he
  split
  · exact legal_of_same h
  split <;> exact legal_of_same h

theorem exec_sideband_legal {c : Instr} {s t : State} (hk : kindOf c = .sideband) (h : ConfigLegal s)
    (he : exec c s = .next t) : ConfigLegal t := by
  cases c
  case sbWrite => exact sbWrite_legal h he
  case hold => exact hold_legal h he
  case release => exact release_legal h he
  case counterLoRead => exact sbReadOk_legal h he
  case seedLoRead => exact sbReadOk_legal h he
  case stepLoRead => exact sbReadOk_legal h he
  case scent0Read => exact sbReadOk_legal h he
  case pscent0Read => exact sbReadOk_legal h he
  case tagData0Read => exact sbReadOk_legal h he
  case pstoreLoRead => exact sbReadOk_legal h he
  case frameCfgWrite => exact sbWriteOk_legal (keepsLegal_frameCfg _) h he
  case cohCfgWrite => exact sbWriteOk_legal (keepsLegal_cohCfg _) h he
  case agentDownWrite => exact sbWriteOk_legal (keepsLegal_keepConfig _) h he
  case wayLock => exact sbWriteOk_legal (keepsLegal_wayLock _) h he
  case wayUnlock => exact sbWriteOk_legal (keepsLegal_wayLock _) h he
  case wayGate => exact sbWriteOk_legal (keepsLegal_wayGate _) h he
  case wayPower => exact sbWriteOk_legal (keepsLegal_wayGate _) h he
  case cacheCfgWrite => exact sbWriteOk_legal (keepsLegal_cacheCfg _) h he
  case spareRtWrite => exact sbWriteOk_legal (keepsLegal_spare _) h he
  case stageCfgWrite => exact sbWriteOk_legal (keepsLegal_stageCfg _) h he
  case channelEnable => exact sbWriteOk_legal (keepsLegal_chCfg0 _) h he
  case channelDisable => exact sbWriteOk_legal (keepsLegal_chCfg0 _) h he
  case targetValid => exact sbWriteOk_legal (keepsLegal_target _) h he
  case seqEnable => exact sbWriteOk_legal (keepsLegal_seqCtl _) h he
  case seqDisable => exact sbWriteOk_legal (keepsLegal_seqCtl _) h he
  case halt => exact sbWriteOk_legal (keepsLegal_ctxEffect _ _) h he
  case resume => exact sbWriteOk_legal (keepsLegal_ctxEffect _ _) h he
  case step => exact sbWriteOk_legal (keepsLegal_ctxEffect _ _) h he
  case suspend => exact sbWriteOk_legal (keepsLegal_ctxEffect _ _) h he
  case restore => exact sbWriteOk_legal (keepsLegal_ctxEffect _ _) h he
  case stop => exact sbWriteOk_legal (keepsLegal_ctxEffect _ _) h he
  case dump => exact sideband_legal (keepsLegal_sbRespond keepsLegal_dump 0 0) h he
  case evtClear => exact sbWriteOk_legal (fun _ h => legal_of_same h) h he
  case evtSet => exact sbWriteOk_legal (fun s h => keepsLegal_keepConfig _ _ (legal_of_same (t := noisy s) h)) h he
  case mvGo => exact sbWriteOk_legal (keepsLegal_keepConfig _) h he
  case regCfgWrite => exact sbWriteOk_legal (keepsLegal_regCfg _) h he
  case clsCfgWrite => exact sbWriteOk_legal (keepsLegal_class _ _) h he
  case xpGrantWrite => exact sbWriteOk_legal (keepsLegal_grant _) h he
  case seedLoWrite => exact sbWriteOk_legal (keepsLegal_stream _) h he
  case seedHiWrite => exact sbWriteOk_legal (keepsLegal_stream _) h he
  case stepLoWrite => exact sbWriteOk_legal (keepsLegal_stream _) h he
  case stepHiWrite => exact sbWriteOk_legal (keepsLegal_stream _) h he
  case strClr => exact sbWriteOk_legal keepsLegal_clearStream h he
  case celClr => exact sbWriteOk_legal (fun _ h => legal_of_same h) h he
  case pstoreLoWrite => exact sbWriteOk_legal (keepsLegal_pstoreLo _) h he
  case pstoreHiWrite => exact sbWriteOk_legal (keepsLegal_pstoreHi _ _) h he
  case bgCfgWrite => exact sbWriteOk_legal (keepsLegal_bgCfg _) h he
  case telCfgWrite => exact sbWriteOk_legal (keepsLegal_telCfg _) h he
  all_goals cases hk

theorem exec_bringUp_legal {c : Instr} {s t : State} (hk : kindOf c = .bringUp) (h : ConfigLegal s)
    (he : exec c s = .next t) : ConfigLegal t := by
  cases c
  case resetAssert => cases he; exact legal_of_same resetConfigurationIsLegal
  case powerLoss => cases he; exact legal_of_same resetConfigurationIsLegal
  case resetRelease =>
    simp only [exec, execResetRelease] at he
    split at he <;> cases he <;> exact legal_of_same h
  case fuseLoadEnd =>
    simp only [exec, execFuseLoadEnd] at he
    split at he
    · cases he; exact h
    · split at he <;> cases he <;> exact legal_of_same h
  case rsReady =>
    simp only [exec, execRsReady] at he
    split at he <;> cases he <;> exact legal_of_same h
  all_goals cases hk

theorem exec_legal {c : Instr} {s t : State} (h : ConfigLegal s) (he : exec c s = .next t) : ConfigLegal t := by
  cases hk : kindOf c with
  | bringUp => exact exec_bringUp_legal hk h he
  | wrapper =>
    obtain ⟨e, hw⟩ := exec_wrapper s hk
    obtain rfl := Host.Outcome.next.inj (hw.symm.trans he)
    exact legal_of_same h
  | instrument =>
    obtain ⟨content, hc⟩ := exec_instrument s hk
    obtain rfl | rfl := instrument_cases (hc.symm.trans he)
    · exact h
    · exact legal_of_same h
  | sideband => exact exec_sideband_legal hk h he
  | boundary =>
    obtain ⟨u, rfl, hp⟩ := exec_boundary_settled hk he
    exact legal_of_settled h hp
  | event =>
    obtain ⟨u, rfl, hframe, hpend, hwin, hnext⟩ := exec_event_settled hk he
    exact legal_of_same h { frame := hframe, framePend := hpend, window := hwin, winPend := hnext }

/-- Settles O5: each command keeps the configuration legal, a write of a register by its range check, and so does the passing of an sc. -/
theorem everyStepKeepsConfigurationLegal : Obligations.EveryStepKeepsConfigurationLegal := by
  unfold Obligations.EveryStepKeepsConfigurationLegal
  intro s t hs h
  unfold step at h
  split at h
  · exact exec_legal (legal_of_same hs) h
  · obtain ⟨c, rest, u, hu, ht⟩ | ht | ⟨c, hc⟩ | ht := idle_cases h
    · have heard : ConfigLegal u := exec_legal (legal_of_same hs) hu
      rw [ht]
      exact legal_of_same heard
    · obtain ⟨q, hq⟩ := wake_onlySeq { s with env := { s.env with done := { s.env.done with compare := false } } }
      rw [ht, compareFlags, hq]
      exact legal_of_same hs
    · exact exec_legal hs hc
    · obtain hp | hp | ⟨u, hp⟩ := tick_cases s <;> rw [ht, hp]
      · exact hs
      · exact legal_of_same hs
      · exact legal_of_settled hs (settlePassed_periodsKept s u)

end Sys2Proof.Proofs
end

section
/-! SUPPORT. The Boleri code (02_data_array_and_boleri_code R44 to R52): multiplication by x modulo g, the syndrome as a linear map of
the inverted positions, what the corrector makes of a syndrome, and the statement about the errors it corrects. -/

namespace Sys2Proof.Proofs

open Sys2Proof.Machine Sys2Proof.Safety Sys2Proof.Laws

set_option Elab.async false

/-! ### Multiplication by x modulo g -/

/-- A remainder times x, modulo g. -/
def mulX (t : BitVec 24) : BitVec 24 := remStep t false

theorem remStep_eq (r : BitVec 24) (b : Bool) :
    remStep r b = (r <<< 1) ^^^ (if r.getLsbD 23 ^^ b then gLow else 0#24) := by
  unfold remStep
  split <;> simp

theorem ite_gLow_xor (a b : Bool) :
    (if a ^^ b then gLow else 0#24) = (if a then gLow else 0#24) ^^^ (if b then gLow else 0#24) := by
  cases a <;> cases b <;> decide

theorem remStep_xor (r q : BitVec 24) (b c : Bool) : remStep (r ^^^ q) (b ^^ c) = remStep r b ^^^ remStep q c := by
  simp only [remStep_eq, BitVec.shiftLeft_xor_distrib, BitVec.getLsbD_xor]
  have swap : ((r.getLsbD 23 ^^ q.getLsbD 23) ^^ (b ^^ c)) = ((r.getLsbD 23 ^^ b) ^^ (q.getLsbD 23 ^^ c)) := by
    cases r.getLsbD 23 <;> cases q.getLsbD 23 <;> cases b <;> cases c <;> rfl
  rw [swap, ite_gLow_xor]
  ac_rfl

theorem mulX_xor (a b : BitVec 24) : mulX (a ^^^ b) = mulX a ^^^ mulX b := remStep_xor a b false false

theorem iterate_mulX_xor (n : Nat) (a b : BitVec 24) : mulX^[n] (a ^^^ b) = mulX^[n] a ^^^ mulX^[n] b := by
  induction n generalizing a b with
  | zero => rfl
  | succ n ih => rw [Function.iterate_succ_apply, mulX_xor, ih, ← Function.iterate_succ_apply, ← Function.iterate_succ_apply]

theorem mulX_zero : mulX 0#24 = 0#24 := by decide

theorem remStep_bit0 (r : BitVec 24) (b : Bool) : (remStep r b).getLsbD 0 = (r.getLsbD 23 ^^ b) := by
  have g0 : gLow.getLsbD 0 = true := by decide
  rw [remStep_eq, BitVec.getLsbD_xor, apply_ite (BitVec.getLsbD · 0)]
  simp only [g0, BitVec.getLsbD_shiftLeft, BitVec.getLsbD_zero]
  cases r.getLsbD 23 ^^ b <;> rfl

/-- Bit 23 of a remainder, as a mask. -/
theorem highBit_getLsbD (i : Nat) : (0x800000#24).getLsbD i = decide (i = 23) := by
  rw [show 0x800000#24 = BitVec.twoPow 24 23 by decide, BitVec.getLsbD_twoPow]
  grind

theorem divX_mulX (t : BitVec 24) : divX (mulX t) = t := by
  apply BitVec.eq_of_getLsbD_eq
  intro i hi
  rw [divX, mulX, remStep_bit0, remStep_eq, Bool.xor_false]
  cases h : t.getLsbD 23 with
  | false =>
    simp only [Bool.false_eq_true, if_false, BitVec.xor_zero, BitVec.getLsbD_ushiftRight, BitVec.getLsbD_shiftLeft]
    grind
  | true =>
    simp only [if_true, BitVec.xor_assoc, BitVec.xor_self, BitVec.xor_zero, BitVec.getLsbD_or, BitVec.getLsbD_ushiftRight,
      BitVec.getLsbD_shiftLeft, highBit_getLsbD]
    grind

theorem mulX_divX (t : BitVec 24) : mulX (divX t) = t := by
  apply BitVec.eq_of_getLsbD_eq
  intro i hi
  rw [mulX, remStep_eq, Bool.xor_false, divX]
  cases h : t.getLsbD 0 with
  | false =>
    have high : (t >>> 1).getLsbD 23 = false := by rw [BitVec.getLsbD_ushiftRight]; exact BitVec.getLsbD_of_ge _ _ (by decide)
    simp only [Bool.false_eq_true, if_false, high, BitVec.xor_zero, BitVec.getLsbD_ushiftRight, BitVec.getLsbD_shiftLeft]
    grind
  | true =>
    have high : ((t ^^^ gLow) >>> 1 ||| 0x800000#24).getLsbD 23 = true := by
      rw [BitVec.getLsbD_or, highBit_getLsbD, decide_eq_true rfl, Bool.or_true]
    have g0 : gLow.getLsbD 0 = true := by decide
    simp only [if_true, high, BitVec.getLsbD_xor, BitVec.getLsbD_shiftLeft, BitVec.getLsbD_or, BitVec.getLsbD_ushiftRight,
      highBit_getLsbD]
    grind

theorem mulX_injective : Function.Injective mulX := Function.LeftInverse.injective divX_mulX

theorem divX_xor (a b : BitVec 24) : divX (a ^^^ b) = divX a ^^^ divX b :=
  mulX_injective (by rw [mulX_divX, mulX_xor, mulX_divX, mulX_divX])

theorem iterate_divX_xor (n : Nat) (a b : BitVec 24) : divX^[n] (a ^^^ b) = divX^[n] a ^^^ divX^[n] b := by
  induction n generalizing a b with
  | zero => rfl
  | succ n ih => rw [Function.iterate_succ_apply, divX_xor, ih, ← Function.iterate_succ_apply, ← Function.iterate_succ_apply]

theorem divX_mulX_comm : Function.Commute divX mulX := fun t => by rw [divX_mulX, mulX_divX]

theorem iterate_divX_mulX (n : Nat) (t : BitVec 24) : divX^[n] (mulX^[n] t) = t := Function.LeftInverse.iterate divX_mulX n t

theorem iterate_mulX_divX (n : Nat) (t : BitVec 24) : mulX^[n] (divX^[n] t) = t := Function.LeftInverse.iterate mulX_divX n t

theorem iterate_mulX_zero (n : Nat) : mulX^[n] 0#24 = 0#24 := Function.iterate_fixed mulX_zero n

theorem iterate_mulX_ne_zero {t : BitVec 24} (h : t ≠ 0#24) (n : Nat) : mulX^[n] t ≠ 0#24 := fun e =>
  h ((mulX_injective.iterate n) (e.trans (iterate_mulX_zero n).symm))

/-! ### The remainder is linear -/

theorem remFrom_xor (d e : Code) (n : Nat) (r q : BitVec 24) :
    remFrom (d ^^^ e) (r ^^^ q) n = remFrom d r n ^^^ remFrom e q n := by
  induction n generalizing r q with
  | zero => rfl
  | succ n ih => rw [remFrom, remFrom, remFrom, BitVec.getLsbD_xor, remStep_xor, ih]

theorem boleriRem_xor (d e : Code) : boleriRem (d ^^^ e) = boleriRem d ^^^ boleriRem e := by
  have h := remFrom_xor d e 256 0#24 0#24
  rwa [BitVec.xor_self] at h

theorem remFrom_zero (n : Nat) : remFrom 0#256 0#24 n = 0#24 := by
  induction n with
  | zero => rfl
  | succ n ih =>
    rw [remFrom, BitVec.getLsbD_zero, show remStep 0#24 false = 0#24 from mulX_zero, ih]

theorem boleriRem_zero : boleriRem 0#256 = 0#24 := remFrom_zero 256

/-- Below the only one among the data bits, every step multiplies by x. -/
theorem remFrom_oneBit_below {k n : Nat} (h : n ≤ k) (r : BitVec 24) : remFrom (1#256 <<< k) r n = mulX^[n] r := by
  induction n generalizing r with
  | zero => rfl
  | succ n ih =>
    have zero : (1#256 <<< k).getLsbD n = false := by
      rw [BitVec.getLsbD_shiftLeft, decide_eq_true (show n < k by omega)]
      simp
    rw [remFrom, zero, ih (by omega), Function.iterate_succ_apply]
    rfl

/-- A single data bit k contributes x^(24 + k). -/
theorem remFrom_oneBit {k n : Nat} (hk : k < n) (hn : n ≤ 256) : remFrom (1#256 <<< k) 0#24 n = mulX^[k] gLow := by
  induction n with
  | zero => omega
  | succ n ih =>
    by_cases hkn : k = n
    · subst hkn
      have one : (1#256 <<< k).getLsbD k = true := by
        rw [BitVec.getLsbD_shiftLeft]
        simp
        omega
      rw [remFrom, one, show remStep 0#24 true = gLow by decide, remFrom_oneBit_below le_rfl]
    · have zero : (1#256 <<< k).getLsbD n = false := by
        rw [BitVec.getLsbD_shiftLeft, BitVec.getLsbD_one]
        simp
        omega
      rw [remFrom, zero, show remStep 0#24 false = 0#24 from mulX_zero, ih (by omega) (by omega)]

theorem boleriRem_oneBit {k : Nat} (hk : k < 256) : boleriRem (1#256 <<< k) = mulX^[k] gLow := remFrom_oneBit hk le_rfl

/-! ### What inverted positions add to the syndrome -/

/-- The syndrome of the cells of e with the fold 0. -/
def errorSyndrome (e : Cells) : BitVec 24 := e.extractLsb' 0 24 ^^^ boleriRem (cellData e)

theorem cellData_xor (a b : Cells) : cellData (a ^^^ b) = cellData a ^^^ cellData b := BitVec.extractLsb'_xor

theorem errorSyndrome_xor (a b : Cells) : errorSyndrome (a ^^^ b) = errorSyndrome a ^^^ errorSyndrome b := by
  simp only [errorSyndrome, cellData_xor, boleriRem_xor, BitVec.extractLsb'_xor]
  ac_rfl

theorem errorSyndrome_zero : errorSyndrome 0#280 = 0#24 := by
  have data : cellData 0#280 = 0#256 := BitVec.extractLsb'_zero
  rw [errorSyndrome, data, boleriRem_zero, BitVec.extractLsb'_zero, BitVec.xor_zero]

theorem cellData_boleriEncode (f : BitVec 24) (d : Code) : cellData (boleriEncode f d) = d := by
  apply BitVec.eq_of_getLsbD_eq
  intro i hi
  rw [cellData, BitVec.getLsbD_extractLsb', decide_eq_true hi, Bool.true_and, boleriEncode, BitVec.getLsbD_append]
  simp

theorem checkBits_boleriEncode (f : BitVec 24) (d : Code) : (boleriEncode f d).extractLsb' 0 24 = boleriRem d ^^^ f := by
  apply BitVec.eq_of_getLsbD_eq
  intro i hi
  rw [BitVec.getLsbD_extractLsb', decide_eq_true hi, Bool.true_and, boleriEncode, BitVec.getLsbD_append]
  simp [hi]

/-- The stored word cancels out: the syndrome is that of the inverted positions, and of the two folds. -/
theorem syndrome_boleriEncode_xor (f g : BitVec 24) (d : Code) (e : Cells) :
    syndrome g (boleriEncode f d ^^^ e) = (f ^^^ g) ^^^ errorSyndrome e := by
  rw [syndrome, cellData_xor, boleriRem_xor, BitVec.extractLsb'_xor, checkBits_boleriEncode, cellData_boleriEncode, errorSyndrome]
  have cancel : boleriRem d ^^^ boleriRem d = 0#24 := BitVec.xor_self
  calc boleriRem d ^^^ f ^^^ BitVec.extractLsb' 0 24 e ^^^ g ^^^ (boleriRem d ^^^ boleriRem (cellData e))
      = (boleriRem d ^^^ boleriRem d) ^^^ ((f ^^^ g) ^^^ (BitVec.extractLsb' 0 24 e ^^^ boleriRem (cellData e))) := by ac_rfl
    _ = _ := by rw [cancel, BitVec.zero_xor]

theorem syndrome_error (f : BitVec 24) (d : Code) (e : Cells) : syndrome f (boleriEncode f d ^^^ e) = errorSyndrome e := by
  rw [syndrome_boleriEncode_xor, BitVec.xor_self, BitVec.zero_xor]

theorem syndrome_boleriEncode (f g : BitVec 24) (d : Code) : syndrome g (boleriEncode f d) = f ^^^ g := by
  have h := syndrome_boleriEncode_xor f g d 0#280
  rwa [BitVec.xor_zero, errorSyndrome_zero, BitVec.xor_zero] at h

/-- Position i inverted adds x^i. -/
theorem errorSyndrome_position {i : Nat} (hi : i < 280) : errorSyndrome (1#280 <<< i) = mulX^[i] 1#24 := by
  by_cases low : i < 24
  · have data : cellData (1#280 <<< i) = 0#256 := by
      apply BitVec.eq_of_getLsbD_eq
      intro k hk
      rw [cellData, BitVec.getLsbD_extractLsb', BitVec.getLsbD_shiftLeft, BitVec.getLsbD_one, BitVec.getLsbD_zero]
      simp
      omega
    rw [errorSyndrome, data, boleriRem_zero, BitVec.xor_zero]
    interval_cases i <;> decide +kernel
  · obtain ⟨k, rfl⟩ := Nat.exists_eq_add_of_le (not_lt.1 low)
    have check : (1#280 <<< (24 + k)).extractLsb' 0 24 = 0#24 := by
      apply BitVec.eq_of_getLsbD_eq
      intro j hj
      rw [BitVec.getLsbD_extractLsb', BitVec.getLsbD_shiftLeft]
      simp
      omega
    have data : cellData (1#280 <<< (24 + k)) = 1#256 <<< k := by
      apply BitVec.eq_of_getLsbD_eq
      intro j hj
      rw [cellData, BitVec.getLsbD_extractLsb', BitVec.getLsbD_shiftLeft, BitVec.getLsbD_shiftLeft, BitVec.getLsbD_one,
        BitVec.getLsbD_one]
      simp
      grind
    have gen : gLow = mulX^[24] 1#24 := by decide +kernel
    rw [errorSyndrome, check, data, boleriRem_oneBit (by omega), gen, BitVec.zero_xor, ← Function.iterate_add_apply, Nat.add_comm]

end Sys2Proof.Proofs
end

section
/-! SUPPORT. The corrector of the Boleri code (02_data_array_and_boleri_code R49 to R51, Table 2.3): which syndromes it takes for a
correctable pattern, and which sums of patterns are patterns again. -/

namespace Sys2Proof.Proofs

open Sys2Proof.Machine Sys2Proof.Safety Sys2Proof.Laws

set_option Elab.async false

/-! ### The search for a pattern (R49) -/

/-- The mask of a pattern: odd, within four positions. -/
def IsMask (m : BitVec 24) : Prop := m.toNat % 2 = 1 ∧ m.toNat < 16

theorem patternFits_iff {i m : Nat} : patternFits i m = true ↔ m % 2 = 1 ∧ m < 16 ∧ i + Nat.log2 m ≤ 279 := by
  simp [patternFits, and_assoc]

/-- What the search finds is a pattern with that syndrome. -/
theorem patternFrom_sound {t : BitVec 24} {i k j p : Nat} (h : patternFrom t i k = some (j, p)) :
    ∃ n m, j = i + n ∧ n < k ∧ p = m.toNat ∧ patternFits j p = true ∧ t = mulX^[n] m := by
  induction k generalizing t i with
  | zero => cases h
  | succ k ih =>
    rw [patternFrom] at h
    split at h
    · rename_i fits
      obtain ⟨rfl, rfl⟩ := Prod.mk.inj (Option.some.inj h)
      exact ⟨0, t, rfl, k.succ_pos, rfl, fits, rfl⟩
    · obtain ⟨n, m, rfl, hn, rfl, fits, ht⟩ := ih h
      refine ⟨n + 1, m, by omega, by omega, rfl, fits, ?_⟩
      rw [Function.iterate_succ_apply', ← ht, mulX_divX]

/-- The search finds a pattern that no later power of x makes one of. -/
theorem patternFrom_complete {m : BitVec 24} {i n k : Nat} (hn : n < k) (hf : patternFits (i + n) m.toNat = true)
    (hx : ∀ r, 1 ≤ r → r ≤ n → ¬ IsMask (mulX^[r] m)) : patternFrom (mulX^[n] m) i k = some (i + n, m.toNat) := by
  induction n generalizing i k with
  | zero =>
    obtain ⟨k, rfl⟩ := Nat.exists_eq_succ_of_ne_zero (Nat.ne_zero_of_lt hn)
    rw [patternFrom, if_pos (by exact hf)]
    rfl
  | succ n ih =>
    obtain ⟨k, rfl⟩ := Nat.exists_eq_succ_of_ne_zero (Nat.ne_zero_of_lt hn)
    have misfit : ¬ patternFits i (mulX^[n + 1] m).toNat = true := fun fits =>
      hx (n + 1) (by omega) le_rfl ⟨(patternFits_iff.1 fits).1, (patternFits_iff.1 fits).2.1⟩
    rw [patternFrom, if_neg misfit, Function.iterate_succ_apply', divX_mulX,
      ih (by omega) (by rwa [show i + 1 + n = i + (n + 1) by omega]) (fun r h1 h2 => hx r h1 (by omega))]
    rw [show i + 1 + n = i + (n + 1) by omega]

theorem pattern_sound {t : BitVec 24} (h : (pattern t).isSome = true) :
    ∃ n m, n < 280 ∧ IsMask m ∧ t = mulX^[n] m := by
  obtain ⟨⟨j, p⟩, hp⟩ := Option.isSome_iff_exists.1 h
  obtain ⟨n, m, -, hn, rfl, fits, ht⟩ := patternFrom_sound hp
  obtain ⟨odd, small, -⟩ := patternFits_iff.1 fits
  exact ⟨n, m, hn, ⟨odd, small⟩, ht⟩

/-! ### Windows of four positions -/

/-- The ones of a remainder lie within four adjacent positions: it is at most 15 times its lowest one. -/
def near (t : BitVec 24) : Bool := decide (t.toNat ≤ 15 * (t.toNat - (t.toNat &&& (t.toNat - 1))))

theorem near_mulX_mask : ∀ m : Fin 16, m.val % 2 = 1 → ∀ b : Fin 21, near (mulX^[b.val] (BitVec.ofNat 24 m.val)) = true := by
  decide +kernel

theorem near_zero : near 0#24 = true := by decide

theorem IsMask.near {m : BitVec 24} (h : IsMask m) {b : Nat} (hb : b < 21) : near (mulX^[b] m) = true := by
  have e : BitVec.ofNat 24 m.toNat = m := by rw [BitVec.ofNat_toNat, BitVec.setWidth_eq]
  have k := near_mulX_mask ⟨m.toNat, h.2⟩ h.1 ⟨b, hb⟩
  rwa [e] at k

/-- No ones of t x^k ^^^ c within four adjacent positions, for n powers from 0 on that `but` does not except. -/
def clearOrbit (but : Nat → Bool) (c : BitVec 24) : Nat → Nat → BitVec 24 → Bool
  | 0, _, _ => true
  | n + 1, k, t => (but k || !near (t ^^^ c)) && clearOrbit but c n (k + 1) (mulX t)

theorem clearOrbit_spec {but : Nat → Bool} {c : BitVec 24} {n k : Nat} {t : BitVec 24} (h : clearOrbit but c n k t = true)
    {j : Nat} (hj : j < n) (hb : but (k + j) = false) : near (mulX^[j] t ^^^ c) = false := by
  induction n generalizing k t j with
  | zero => omega
  | succ n ih =>
    rw [clearOrbit, Bool.and_eq_true] at h
    cases j with
    | zero =>
      have h0 := h.1
      rw [Nat.add_zero] at hb
      rw [hb, Bool.false_or, Bool.not_eq_true'] at h0
      exact h0
    | succ j => exact ih h.2 (by omega) (by rwa [show k + 1 + j = k + (j + 1) by omega])

/-- Every power of x is a power of x^21 divided by at most x^20. -/
theorem exists_power_of_21 (n : Nat) : ∃ q b, b < 21 ∧ n + b = 21 * q := ⟨(n + 20) / 21, 21 * ((n + 20) / 21) - n, by omega, by omega⟩

/-! ### Sums of patterns that are no pattern

Two patterns are near one another when one of them, times a power of x^21, comes within the 24 positions of a remainder. Each table
below says that none does. -/

theorem mask_moved_little : ∀ m : Fin 16, m.val % 2 = 1 → ∀ r : Fin 21,
    ¬ ((mulX^[r.val + 1] (BitVec.ofNat 24 m.val)).toNat % 2 = 1 ∧ (mulX^[r.val + 1] (BitVec.ofNat 24 m.val)).toNat < 16) := by
  decide +kernel

theorem mask_moved_far : ∀ m : Fin 16, m.val % 2 = 1 → ∀ q : Fin 13,
    near (mulX^[21 * (q.val + 2)] (BitVec.ofNat 24 m.val)) = false := by
  decide +kernel

/-- A pattern moved by 1 to 279 positions is no mask again. -/
theorem not_isMask_mulX {m : BitVec 24} (h : IsMask m) {r : Nat} (h1 : 1 ≤ r) (h2 : r ≤ 279) : ¬ IsMask (mulX^[r] m) := by
  have hm : BitVec.ofNat 24 m.toNat = m := by rw [BitVec.ofNat_toNat, BitVec.setWidth_eq]
  intro k
  by_cases little : r ≤ 21
  · obtain ⟨r, rfl⟩ := Nat.exists_eq_succ_of_ne_zero (show r ≠ 0 by omega)
    have moved := mask_moved_little ⟨m.toNat, h.2⟩ h.1 ⟨r, by omega⟩
    rw [hm] at moved
    exact moved k
  · obtain ⟨q, b, hb, hq⟩ := exists_power_of_21 r
    obtain ⟨q, rfl⟩ := Nat.exists_eq_add_of_le' (show 2 ≤ q by omega)
    have moved := mask_moved_far ⟨m.toNat, h.2⟩ h.1 ⟨q, by omega⟩
    have close := k.near hb
    rw [← Function.iterate_add_apply, Nat.add_comm, hq] at close
    rw [hm, close] at moved
    cases moved

theorem pair_apart : ∀ q : Fin 28,
    clearOrbit (fun _ => false) (mulX^[21 * q.val] (divX^[273] 1#24)) 276 0 (mulX^[4] (mulX^[21 * q.val] (divX^[273] 1#24)))
      = true := by
  decide +kernel

/-- 1 + x^a, times a power of x from x^-273 on, has its ones not within four positions. -/
theorem pair_far {a q : Nat} (ha : 4 ≤ a) (ha' : a < 280) (hq : q < 28) :
    near (mulX^[21 * q] (divX^[273] (1#24 ^^^ mulX^[a] 1#24))) = false := by
  have far := clearOrbit_spec (pair_apart ⟨q, hq⟩) (show a - 4 < 276 by omega) rfl
  rw [← Function.iterate_add_apply, Nat.sub_add_cancel ha] at far
  have comm : mulX^[21 * q] (divX^[273] (mulX^[a] 1#24)) = mulX^[a] (mulX^[21 * q] (divX^[273] 1#24)) := by
    rw [((divX_mulX_comm.iterate_left 273).iterate_right a).eq, ← Function.iterate_add_apply, Nat.add_comm,
      Function.iterate_add_apply]
  rw [iterate_divX_xor, iterate_mulX_xor, comm, BitVec.xor_comm]
  exact far

/-- The patterns that Table 2.3 takes for a poison mark with an error (entry 22). -/
def taken (m k : Nat) : Bool := m == 9 && (k == 5 || k == 33)

/-- Bits 23:0 of the cells of a poison mark, but for the fold (R52). -/
def poisonSyndrome : BitVec 24 := 0xFFFFFF#24

theorem mark_apart : ∀ q : Fin 14, ∀ m : Fin 16, m.val % 2 = 1 →
    clearOrbit (taken m.val) (divX^[21 * q.val] poisonSyndrome) 280 0 (divX^[21 * q.val] (BitVec.ofNat 24 m.val)) = true := by
  decide +kernel

/-- A pattern and a poison mark differ in no pattern, but for two. -/
theorem mark_far {m : BitVec 24} {i q : Nat} (hm : IsMask m) (hi : i < 280) (hq : q < 14) (ht : taken m.toNat i = false) :
    near (divX^[21 * q] (mulX^[i] m ^^^ poisonSyndrome)) = false := by
  have far := clearOrbit_spec (mark_apart ⟨q, hq⟩ ⟨m.toNat, hm.2⟩ hm.1) hi (by rwa [Nat.zero_add])
  rw [BitVec.ofNat_toNat, BitVec.setWidth_eq] at far
  rwa [iterate_divX_xor, ((divX_mulX_comm.iterate_left (21 * q)).iterate_right i).eq]

end Sys2Proof.Proofs
end

section
/-! SUPPORT. The errors that the Boleri code corrects, those that it finds, and what the corrector makes of a word at another location
(02_data_array_and_boleri_code R47 to R52). -/

namespace Sys2Proof.Proofs

open Sys2Proof.Machine Sys2Proof.Safety Sys2Proof.Laws

set_option Elab.async false

/-! ### The rows of Table 2.3 -/

/-- A syndrome that row 2 takes for a poison mark, with an error or without. -/
def TakenForMark (s : BitVec 24) : Prop := s ^^^ poisonSyndrome = 0#24 ∨ (pattern (s ^^^ poisonSyndrome)).isSome = true

section
variable {f : BitVec 24} {c : Cells}

theorem correct_clean (h : syndrome f c = 0#24) : correct f c = { cls := .clean, data := cellData c, pos := 0, pmask := 0 } :=
  if_pos h

theorem correct_mark (h : syndrome f c ≠ 0#24) (hm : TakenForMark (syndrome f c)) :
    correct f c = { cls := .pmark, data := 0, pos := 0, pmask := 0 } :=
  (if_neg h).trans (if_pos hm)

theorem correct_pattern {i p : Nat} (h : syndrome f c ≠ 0#24) (hm : ¬ TakenForMark (syndrome f c))
    (hp : pattern (syndrome f c) = some (i, p)) :
    correct f c = { cls := if p = 1 then .ceBit else .ceBurst, data := cellData (c ^^^ (BitVec.ofNat 280 p <<< i)), pos := i,
                    pmask := p } := by
  rw [correct, hp]
  exact (if_neg h).trans (if_neg hm)

theorem correct_none (h : syndrome f c ≠ 0#24) (hm : ¬ TakenForMark (syndrome f c)) (hp : pattern (syndrome f c) = none) :
    correct f c = { cls := .ue, data := 0, pos := 0, pmask := 0 } := by
  rw [correct, hp]
  exact (if_neg h).trans (if_neg hm)

/-- A syndrome that is neither 0 nor a pattern's is never corrected. -/
theorem correct_found (h : syndrome f c ≠ 0#24) (hp : pattern (syndrome f c) = none) :
    (correct f c).cls = .ue ∨ (correct f c).cls = .pmark := by
  by_cases hm : TakenForMark (syndrome f c)
  · exact .inr (by rw [correct_mark h hm])
  · exact .inl (by rw [correct_none h hm hp])

end

/-! ### Inverted positions -/

theorem mask_bits : ∀ m : Fin 16, ∀ w ∈ [24, 280], BitVec.ofNat w m.val
    = (if m.val.testBit 0 then 1#w <<< 0 else 0#w) ^^^ (if m.val.testBit 1 then 1#w <<< 1 else 0#w)
      ^^^ (if m.val.testBit 2 then 1#w <<< 2 else 0#w) ^^^ (if m.val.testBit 3 then 1#w <<< 3 else 0#w) := by
  decide +kernel

theorem mulX_bit : ∀ b : Fin 4, mulX^[b.val] 1#24 = 1#24 <<< b.val := by decide +kernel

theorem errorSyndrome_bit {c : Bool} {b i : Nat} (hb : b < 4) (hc : c = true → i + b < 280) :
    errorSyndrome ((if c then 1#280 <<< b else 0#280) <<< i) = mulX^[i] (if c then 1#24 <<< b else 0#24) := by
  cases c with
  | false => simp only [Bool.false_eq_true, if_false, BitVec.zero_shiftLeft, errorSyndrome_zero, iterate_mulX_zero]
  | true =>
    have h := hc rfl
    rw [if_pos rfl, if_pos rfl, ← BitVec.shiftLeft_add, Nat.add_comm, errorSyndrome_position h, ← mulX_bit ⟨b, hb⟩,
      Function.iterate_add_apply]

/-- A mask from position i on adds the mask times x^i. -/
theorem errorSyndrome_mask {m i : Nat} (hm : m < 16) (hi : i + Nat.log2 m ≤ 279) :
    errorSyndrome (BitVec.ofNat 280 m <<< i) = mulX^[i] (BitVec.ofNat 24 m) := by
  have inside (b : Nat) (h : m.testBit b = true) : i + b < 280 := by
    have hb : b ≤ Nat.log2 m := by
      by_contra hlt
      have small : m < 2 ^ b := (Nat.log2_lt (by rintro rfl; simp at h)).1 (by omega)
      rw [Nat.testBit_lt_two_pow small] at h
      cases h
    omega
  have wide := mask_bits ⟨m, hm⟩ 280 (by simp)
  have short := mask_bits ⟨m, hm⟩ 24 (by simp)
  dsimp only at wide short
  rw [wide, short]
  simp only [BitVec.shiftLeft_xor_distrib, errorSyndrome_xor, iterate_mulX_xor]
  rw [errorSyndrome_bit (by decide) (inside 0), errorSyndrome_bit (by decide) (inside 1),
    errorSyndrome_bit (by decide) (inside 2), errorSyndrome_bit (by decide) (inside 3)]

/-! ### Patterns within four adjacent positions -/

theorem isMask_ofNat {m : Nat} (odd : m % 2 = 1) (hm : m < 16) : IsMask (BitVec.ofNat 24 m) := by
  have h : (BitVec.ofNat 24 m).toNat = m := by rw [BitVec.toNat_ofNat]; omega
  exact ⟨by rw [h, odd], by rwa [h]⟩

theorem IsMask.ne_zero {m : BitVec 24} (h : IsMask m) : m ≠ 0#24 := by
  rintro rfl
  exact absurd h.1 (by decide)

/-- A power of x from 0 to 279, within 21 of a multiple of 21. -/
theorem divX_power {n : Nat} (m : BitVec 24) : divX^[21 * (n / 21)] (mulX^[n] m) = mulX^[n % 21] m := by
  have split : mulX^[n] m = mulX^[21 * (n / 21)] (mulX^[n % 21] m) := by
    rw [← Function.iterate_add_apply, Nat.div_add_mod]
  rw [split, iterate_divX_mulX]

theorem not_takenForMark {m : BitVec 24} {i : Nat} (hm : IsMask m) (hi : i < 280) (ht : taken m.toNat i = false) :
    ¬ TakenForMark (mulX^[i] m) := by
  rintro (mark | marked)
  · have far := mark_far (q := 0) hm hi (by decide) ht
    rw [mark] at far
    exact absurd (near_zero.symm.trans far) (by decide)
  · obtain ⟨n, p, hn, hp, he⟩ := pattern_sound marked
    have far := mark_far (q := n / 21) hm hi (by omega) ht
    rw [he, divX_power, hp.near (Nat.mod_lt n (by decide))] at far
    cases far

theorem pattern_mask {m : BitVec 24} {i : Nat} (hm : IsMask m) (hi : i + Nat.log2 m.toNat ≤ 279) :
    pattern (mulX^[i] m) = some (i, m.toNat) := by
  have h := patternFrom_complete (m := m) (i := 0) (n := i) (k := 280) (by omega)
    (patternFits_iff.2 ⟨hm.1, hm.2, by omega⟩) (fun r h1 h2 => not_isMask_mulX hm h1 (by omega))
  rwa [Nat.zero_add] at h

theorem takenForMark_of_taken : TakenForMark (mulX^[5] 9#24) ∧ TakenForMark (mulX^[33] 9#24) :=
  ⟨.inr (by decide +kernel), .inr (by decide +kernel)⟩

theorem correct_mask (f : BitVec 24) (d : Code) {i m : Nat} (odd : m % 2 = 1) (hm : m < 16) (hi : i + Nat.log2 m ≤ 279) :
    correct f (boleriEncode f d ^^^ (BitVec.ofNat 280 m <<< i))
      = if m = 9 ∧ (i = 5 ∨ i = 33) then { cls := .pmark, data := 0, pos := 0, pmask := 0 }
        else { cls := if m = 1 then .ceBit else .ceBurst, data := d, pos := i, pmask := m } := by
  have mask := isMask_ofNat odd hm
  have number : (BitVec.ofNat 24 m).toNat = m := by rw [BitVec.toNat_ofNat]; omega
  have syn : syndrome f (boleriEncode f d ^^^ (BitVec.ofNat 280 m <<< i)) = mulX^[i] (BitVec.ofNat 24 m) := by
    rw [syndrome_error, errorSyndrome_mask hm hi]
  have nonzero : syndrome f (boleriEncode f d ^^^ (BitVec.ofNat 280 m <<< i)) ≠ 0#24 := by
    rw [syn]
    exact iterate_mulX_ne_zero mask.ne_zero i
  by_cases ht : m = 9 ∧ (i = 5 ∨ i = 33)
  · rw [if_pos ht]
    refine correct_mark nonzero ?_
    rw [syn]
    obtain ⟨rfl, rfl | rfl⟩ := ht
    · exact takenForMark_of_taken.1
    · exact takenForMark_of_taken.2
  · rw [if_neg ht]
    have free : taken (BitVec.ofNat 24 m).toNat i = false := by
      rw [number, taken, ← Bool.not_eq_true]
      simpa using ht
    have found : pattern (mulX^[i] (BitVec.ofNat 24 m)) = some (i, m) := by
      rw [pattern_mask mask (by rwa [number]), number]
    rw [correct_pattern nonzero (by rw [syn]; exact not_takenForMark mask (by omega) free) (by rw [syn]; exact found),
      BitVec.xor_assoc, BitVec.xor_self, BitVec.xor_zero, cellData_boleriEncode]

/-! ### Two inverted positions -/

theorem pair_offset {i n : Nat} (hi : i < 280) (hn : n < 280) : ∃ q b, q < 28 ∧ b < 21 ∧ 21 * q + n = 273 + i + b := by
  by_cases h : n ≤ 273 + i
  · obtain ⟨q, b, hb, hq⟩ := exists_power_of_21 (273 + i - n)
    exact ⟨q, b, by omega, hb, by omega⟩
  · exact ⟨0, n - 273 - i, by omega, by omega, by omega⟩

/-- Two positions four or more apart have no pattern's syndrome. -/
theorem pair_no_pattern {i a : Nat} (ha : 4 ≤ a) (ha' : a < 280) (hi : i < 280) :
    pattern (mulX^[i] (1#24 ^^^ mulX^[a] 1#24)) = none := by
  rw [← Option.not_isSome_iff_eq_none]
  intro some
  obtain ⟨n, p, hn, hp, he⟩ := pattern_sound some
  obtain ⟨q, b, hq, hb, hqb⟩ := pair_offset hi hn
  have close : mulX^[21 * q] (divX^[273] (1#24 ^^^ mulX^[a] 1#24)) = mulX^[b] p := by
    apply mulX_injective.iterate n
    calc mulX^[n] (mulX^[21 * q] (divX^[273] (1#24 ^^^ mulX^[a] 1#24)))
        = mulX^[b] (mulX^[i] (mulX^[273] (divX^[273] (1#24 ^^^ mulX^[a] 1#24)))) := by
          simp only [← Function.iterate_add_apply]
          rw [show n + 21 * q = b + (i + 273) by omega]
      _ = mulX^[b] (mulX^[n] p) := by rw [iterate_mulX_divX, he]
      _ = mulX^[n] (mulX^[b] p) := by simp only [← Function.iterate_add_apply, Nat.add_comm]
  have far := pair_far ha ha' hq
  rw [close, hp.near hb] at far
  cases far

theorem correct_pair (f : BitVec 24) (d : Code) {i j : Nat} (hij : i + 4 ≤ j) (hj : j < 280) :
    (correct f (boleriEncode f d ^^^ (BitVec.ofNat 280 1 <<< i) ^^^ (BitVec.ofNat 280 1 <<< j))).cls = .ue
    ∨ (correct f (boleriEncode f d ^^^ (BitVec.ofNat 280 1 <<< i) ^^^ (BitVec.ofNat 280 1 <<< j))).cls = .pmark := by
  obtain ⟨a, rfl⟩ := Nat.exists_eq_add_of_le (show i ≤ j by omega)
  have syn : syndrome f (boleriEncode f d ^^^ (1#280 <<< i) ^^^ (1#280 <<< (i + a)))
      = mulX^[i] (1#24 ^^^ mulX^[a] 1#24) := by
    rw [BitVec.xor_assoc, syndrome_error, errorSyndrome_xor, errorSyndrome_position (by omega), errorSyndrome_position hj,
      iterate_mulX_xor, Function.iterate_add_apply]
  have apart : 1#24 ^^^ mulX^[a] 1#24 ≠ 0#24 := by
    intro e
    have far := pair_far (a := a) (q := 0) (by omega) (by omega) (by decide)
    have zero : near (mulX^[21 * 0] (divX^[273] 0#24)) = true := by decide +kernel
    rw [e, zero] at far
    cases far
  exact correct_found (by rw [syn]; exact iterate_mulX_ne_zero apart i)
    (by rw [syn]; exact pair_no_pattern (by omega) (by omega) (by omega))

/-! ### A word at another location -/

/-- Group j of the parity: the exclusive or of every fourth bit from j on (R49). -/
theorem groupParity_getLsbD (t : BitVec 24) {j : Nat} (hj : j < 4) : (groupParity t).getLsbD j
    = (t.getLsbD j ^^ t.getLsbD (4 + j) ^^ t.getLsbD (8 + j) ^^ t.getLsbD (12 + j) ^^ t.getLsbD (16 + j)
      ^^ t.getLsbD (20 + j)) := by
  have nibble : (0xF#24).getLsbD j = true := by interval_cases j <;> decide
  simp only [groupParity, BitVec.getLsbD_and, nibble, Bool.and_true, BitVec.getLsbD_xor, BitVec.getLsbD_ushiftRight]

theorem groupParity_high (t : BitVec 24) {j : Nat} (hj : 4 ≤ j) : (groupParity t).getLsbD j = false := by
  have nibble : (0xF#24).getLsbD j = false := by
    rw [show 0xF#24 = BitVec.ofNat 24 (2 ^ 4 - 1) by decide, BitVec.getLsbD_ofNat, Nat.testBit_two_pow_sub_one]
    simp
    omega
  rw [groupParity, BitVec.getLsbD_and, nibble, Bool.and_false]

theorem groupParity_eq_zero_iff (t : BitVec 24) : groupParity t = 0#24 ↔ ∀ j, j < 4 → (groupParity t).getLsbD j = false := by
  constructor
  · rintro h j -
    rw [h, BitVec.getLsbD_zero]
  · intro h
    apply BitVec.eq_of_getLsbD_eq
    intro j _
    rw [BitVec.getLsbD_zero]
    by_cases hj : j < 4
    · exact h j hj
    · exact groupParity_high t (by omega)

theorem xor_and_distrib (a b m : BitVec 24) : (a ^^^ b) &&& m = (a &&& m) ^^^ (b &&& m) := by
  apply BitVec.eq_of_getLsbD_eq
  intro j _
  simp only [BitVec.getLsbD_and, BitVec.getLsbD_xor, Bool.and_xor_distrib_right]

theorem groupParity_xor (a b : BitVec 24) : groupParity (a ^^^ b) = groupParity a ^^^ groupParity b := by
  rw [groupParity, groupParity, groupParity, ← xor_and_distrib]
  simp only [BitVec.ushiftRight_xor_distrib]
  congr 1
  ac_rfl

/-- g is a multiple of x^4 + 1, so multiplication by x moves the groups round. -/
theorem groupParity_mulX (t : BitVec 24) :
    (groupParity (mulX t)).getLsbD 0 = (groupParity t).getLsbD 3
    ∧ ∀ j, j < 3 → (groupParity (mulX t)).getLsbD (j + 1) = (groupParity t).getLsbD j := by
  have generator : groupParity (if t.getLsbD 23 ^^ false then gLow else 0#24) = if t.getLsbD 23 then 1#24 else 0#24 := by
    cases t.getLsbD 23 <;> decide
  rw [mulX, remStep_eq, groupParity_xor, generator]
  constructor
  · rw [BitVec.getLsbD_xor, groupParity_getLsbD _ (by decide), groupParity_getLsbD _ (by decide)]
    simp only [BitVec.getLsbD_shiftLeft]
    cases h : t.getLsbD 23 <;> simp
  · intro j hj
    rw [BitVec.getLsbD_xor, groupParity_getLsbD _ (by omega), groupParity_getLsbD _ (by omega)]
    simp only [BitVec.getLsbD_shiftLeft]
    interval_cases j <;> cases h : t.getLsbD 23 <;> simp

theorem groupParity_mulX_eq_zero (t : BitVec 24) : groupParity (mulX t) = 0#24 ↔ groupParity t = 0#24 := by
  obtain ⟨first, rest⟩ := groupParity_mulX t
  have h0 := rest 0 (by decide)
  have h1 := rest 1 (by decide)
  have h2 := rest 2 (by decide)
  rw [groupParity_eq_zero_iff, groupParity_eq_zero_iff]
  constructor
  · intro h j hj
    interval_cases j
    · rw [← h0, h 1 (by decide)]
    · rw [← h1, h 2 (by decide)]
    · rw [← h2, h 3 (by decide)]
    · rw [← first, h 0 (by decide)]
  · intro h j hj
    interval_cases j
    · rw [first, h 3 (by decide)]
    · rw [h0, h 0 (by decide)]
    · rw [h1, h 1 (by decide)]
    · rw [h2, h 2 (by decide)]

theorem groupParity_iterate_eq_zero (n : Nat) (t : BitVec 24) : groupParity (mulX^[n] t) = 0#24 ↔ groupParity t = 0#24 := by
  induction n with
  | zero => rfl
  | succ n ih => rw [Function.iterate_succ_apply', groupParity_mulX_eq_zero, ih]

theorem groupParity_mask : ∀ m : Fin 16, m.val % 2 = 1 → groupParity (BitVec.ofNat 24 m.val) ≠ 0#24 := by decide

/-- A pattern never has even groups. -/
theorem pattern_of_even {t : BitVec 24} (h : groupParity t = 0#24) : pattern t = none := by
  rw [← Option.not_isSome_iff_eq_none]
  intro some
  obtain ⟨n, m, -, hm, rfl⟩ := pattern_sound some
  have odd := groupParity_mask ⟨m.toNat, hm.2⟩ hm.1
  rw [BitVec.ofNat_toNat, BitVec.setWidth_eq] at odd
  exact odd ((groupParity_iterate_eq_zero n m).1 h)

/-- The 20 bits of the hash that a fold holds. -/
theorem boleriFold_low (slice loc : Nat) {j : Nat} (hj : j < 20) :
    (boleriFold slice loc).getLsbD j = (BitVec.ofNat 24 (boleriHash slice loc % 2 ^ 20)).getLsbD j := by
  have outside : decide (j < 20) = true := decide_eq_true hj
  simp only [boleriFold, BitVec.getLsbD_or, BitVec.getLsbD_shiftLeft, outside, Bool.not_true, Bool.and_false, Bool.false_and,
    Bool.false_or]

theorem hash_getLsbD_high (slice loc : Nat) (j : Nat) :
    (BitVec.ofNat 24 (boleriHash slice loc % 2 ^ 20)).getLsbD (20 + j) = false := by
  rw [BitVec.getLsbD_ofNat, Nat.testBit_mod_two_pow]
  simp

/-- The four high bits of a fold are the parities of the groups below them. -/
theorem boleriFold_high (slice loc : Nat) {j : Nat} (hj : j < 4) :
    let u := BitVec.ofNat 24 (boleriHash slice loc % 2 ^ 20)
    (boleriFold slice loc).getLsbD (20 + j)
      = (u.getLsbD j ^^ u.getLsbD (4 + j) ^^ u.getLsbD (8 + j) ^^ u.getLsbD (12 + j) ^^ u.getLsbD (16 + j)) := by
  have nibble : (0xF#24).getLsbD j = true := by interval_cases j <;> decide
  have inside : decide (20 + j < 24) = true := decide_eq_true (by omega)
  have below : decide (20 + j < 20) = false := decide_eq_false (by omega)
  dsimp only [boleriFold]
  rw [BitVec.getLsbD_or, hash_getLsbD_high, Bool.or_false, BitVec.getLsbD_shiftLeft, inside, below, Nat.add_sub_cancel_left]
  simp only [BitVec.getLsbD_and, nibble, Bool.and_true, BitVec.getLsbD_xor, BitVec.getLsbD_ushiftRight, Bool.not_false,
    Bool.true_and]

theorem groupParity_boleriFold (slice loc : Nat) : groupParity (boleriFold slice loc) = 0#24 := by
  rw [groupParity_eq_zero_iff]
  intro j hj
  rw [groupParity_getLsbD _ hj, boleriFold_low _ _ (by omega), boleriFold_low _ _ (by omega), boleriFold_low _ _ (by omega),
    boleriFold_low _ _ (by omega), boleriFold_low _ _ (by omega), boleriFold_high _ _ hj]
  exact Bool.xor_self _

/-- The hash of a slice's location, and with it the fold, is another for every location. -/
theorem boleriFold_ne {slice a b : Nat} (ha : a < 2 ^ 19) (hb : b < 2 ^ 19) (hab : a ≠ b) :
    boleriFold slice a ≠ boleriFold slice b := by
  intro e
  have bits (j : Nat) (hj : j < 20) : (boleriHash slice a).testBit j = (boleriHash slice b).testBit j := by
    have h := congrArg (BitVec.getLsbD · j) e
    simp only [boleriFold_low _ _ hj, BitVec.getLsbD_ofNat, Nat.testBit_mod_two_pow, hj, decide_true, Bool.true_and] at h
    rwa [decide_eq_true (show j < 24 by omega), Bool.true_and, Bool.true_and] at h
  have hash : boleriHash slice a % 2 ^ 20 = boleriHash slice b % 2 ^ 20 := by
    apply Nat.eq_of_testBit_eq
    intro j
    rw [Nat.testBit_mod_two_pow, Nat.testBit_mod_two_pow]
    by_cases hj : j < 20
    · rw [bits j hj]
    · rw [decide_eq_false hj, Bool.false_and, Bool.false_and]
  have product : (slice * 2 ^ 19 + a) * 0x6C8E9CF5 ≡ (slice * 2 ^ 19 + b) * 0x6C8E9CF5 [MOD 2 ^ 20] := by
    unfold boleriHash at hash
    rwa [Nat.mod_mod_of_dvd _ (by decide), Nat.mod_mod_of_dvd _ (by decide)] at hash
  have same : slice * 2 ^ 19 + a ≡ slice * 2 ^ 19 + b [MOD 2 ^ 20] := product.cancel_right_of_coprime (by decide)
  unfold Nat.ModEq at same
  omega

theorem correct_elsewhere {slice a b : Nat} (d : Code) (ha : a < 2 ^ 19) (hb : b < 2 ^ 19) (hab : a ≠ b) :
    (correct (boleriFold slice a) (boleriEncode (boleriFold slice b) d)).cls = .ue
    ∨ (correct (boleriFold slice a) (boleriEncode (boleriFold slice b) d)).cls = .pmark := by
  have even : groupParity (boleriFold slice b ^^^ boleriFold slice a) = 0#24 := by
    rw [groupParity_xor, groupParity_boleriFold, groupParity_boleriFold, BitVec.xor_self]
  refine correct_found ?_ ?_
  · rw [syndrome_boleriEncode]
    intro e
    exact boleriFold_ne hb ha hab.symm (BitVec.xor_eq_zero_iff.1 e)
  · rw [syndrome_boleriEncode]
    exact pattern_of_even even

/-- Settles O29: the syndrome of an inverted pattern is its mask times a power of x, and the tables say which sums of such products
the corrector could confuse; the folds of two locations differ by a word of even groups. -/
theorem boleriCorrectsErrors : Obligations.BoleriCorrectsErrors := by
  unfold Obligations.BoleriCorrectsErrors
  refine ⟨?patterns, ?pairs, ?locations⟩
  case patterns => exact fun f d i m odd hm hi => correct_mask f d odd hm hi
  case pairs => exact fun f d i j hij hj => correct_pair f d hij hj
  case locations => exact fun slice a b d ha hb hab => correct_elsewhere d ha hb hab

end Sys2Proof.Proofs
end

section
/-! SUPPORT. The encoding of Zellek (10_zellek_instruction_set R268 to R270, R283, Tables 10.1 and 10.2): a word and its fields, each
small field and what it encodes, and that decoding and encoding agree. -/

namespace Sys2Proof.Proofs

open Sys2Proof.Machine Sys2Proof.Safety Sys2Proof.Laws

set_option Elab.async false

/-! ### Parts of a vector -/

theorem extractLsb'_append_high {m n : Nat} (a : BitVec m) (b : BitVec n) : (a ++ b).extractLsb' n m = a := by
  apply BitVec.eq_of_getLsbD_eq
  intro i hi
  rw [BitVec.getLsbD_extractLsb', BitVec.getLsbD_append]
  simp [hi]

theorem extractLsb'_append_low {m n : Nat} (a : BitVec m) (b : BitVec n) : (a ++ b).extractLsb' 0 n = b := by
  apply BitVec.eq_of_getLsbD_eq
  intro i hi
  rw [BitVec.getLsbD_extractLsb', BitVec.getLsbD_append]
  simp [hi]

/-- A vector of m + n bits is a high part and a low part. -/
theorem append_eq_iff {m n : Nat} (x : BitVec (m + n)) (a : BitVec m) (b : BitVec n) :
    a ++ b = x ↔ x.extractLsb' n m = a ∧ x.extractLsb' 0 n = b := by
  constructor
  · rintro rfl
    exact ⟨extractLsb'_append_high a b, extractLsb'_append_low a b⟩
  · rintro ⟨rfl, rfl⟩
    apply BitVec.eq_of_getLsbD_eq
    intro i hi
    rw [BitVec.getLsbD_append, BitVec.getLsbD_extractLsb', BitVec.getLsbD_extractLsb']
    by_cases h : i < n
    · simp [h]
    · have e : n + (i - n) = i := by omega
      simp [h, e]
      omega

/-! ### A word and its fields -/

theorem ofWord_word (x : ZFields) : ZFields.ofWord x.word = x := by
  obtain ⟨op, d, a, b, c, f, imm⟩ := x
  simp only [ZFields.ofWord, ZFields.word, ZFields.mk.injEq]
  refine ⟨?_, ?_, ?_, ?_, ?_, ?_, ?_⟩
  all_goals
    apply BitVec.eq_of_getLsbD_eq
    intro i hi
    simp only [BitVec.getLsbD_extractLsb', BitVec.getLsbD_append, hi, decide_true, Bool.true_and]
    grind

theorem word_ofWord (w : Word64) : (ZFields.ofWord w).word = w := by
  apply BitVec.eq_of_getLsbD_eq
  intro i hi
  simp only [ZFields.ofWord, ZFields.word, BitVec.getLsbD_extractLsb', BitVec.getLsbD_append]
  grind

/-! ### Small fields -/

theorem grpOf_eq_some {r : BitVec 4} {g : BitVec 2} : grpOf r = some g ↔ grp g = r := by
  revert r g; decide

theorem pairOf_eq_some {r : BitVec 4} {p : BitVec 3} : pairOf r = some p ↔ pairReg p = r := by
  revert r p; decide

theorem tileOf_eq_some {r : BitVec 4} {t : BitVec 3} : tileOf r = some t ↔ tileField t = r := by
  revert r t; decide

theorem targetOf_eq_some {v : BitVec 32} {t : BitVec 14} : targetOf v = some t ↔ target32 t = v := by
  rw [targetOf, target32, append_eq_iff (m := 18) (n := 14), Option.ite_none_right_eq_some, Option.some_inj]
  rfl

theorem low8Of_eq_some {v : BitVec 32} {x : BitVec 8} : low8Of v = some x ↔ low8 x = v := by
  rw [low8Of, low8, append_eq_iff (m := 24) (n := 8), Option.ite_none_right_eq_some, Option.some_inj]
  rfl

theorem condOf_eq_some {f : BitVec 8} {k : Cond} : condOf f = some k ↔ k.code = f := by
  revert f; cases k <;> decide

theorem aluOf_eq_some {f : BitVec 4} {o : AluOp} : aluOf f = some o ↔ o.code = f := by
  revert f; cases o <;> decide

theorem formOf_eq_some {f : BitVec 4} {k : TileForm} : formOf f = some k ↔ k.code = f := by
  revert f; cases k <;> decide

theorem flagOf_eq_some {f : BitVec 8} {b : Bool} : flagOf f = some b ↔ flag8 b = f := by
  revert f; cases b <;> decide

@[simp] theorem grpOf_grp (g : BitVec 2) : grpOf (grp g) = some g := grpOf_eq_some.mpr rfl
@[simp] theorem pairOf_pairReg (p : BitVec 3) : pairOf (pairReg p) = some p := pairOf_eq_some.mpr rfl
@[simp] theorem tileOf_tileField (t : BitVec 3) : tileOf (tileField t) = some t := tileOf_eq_some.mpr rfl
@[simp] theorem targetOf_target32 (t : BitVec 14) : targetOf (target32 t) = some t := targetOf_eq_some.mpr rfl
@[simp] theorem low8Of_low8 (x : BitVec 8) : low8Of (low8 x) = some x := low8Of_eq_some.mpr rfl
@[simp] theorem condOf_code (k : Cond) : condOf k.code = some k := condOf_eq_some.mpr rfl
@[simp] theorem aluOf_code (o : AluOp) : aluOf o.code = some o := aluOf_eq_some.mpr rfl
@[simp] theorem formOf_code (k : TileForm) : formOf k.code = some k := formOf_eq_some.mpr rfl
@[simp] theorem flagOf_flag8 (b : Bool) : flagOf (flag8 b) = some b := flagOf_eq_some.mpr rfl

/-! ### Function fields made of several parts -/

@[simp] theorem high_nibbles (a b : BitVec 4) : (a ++ b).extractLsb' 4 4 = a := extractLsb'_append_high a b
@[simp] theorem low_nibbles (a b : BitVec 4) : (a ++ b).extractLsb' 0 4 = b := extractLsb'_append_low a b

theorem nibbles_eq {f : BitVec 8} {a : BitVec 4} (h : f.extractLsb' 4 4 = a) : a ++ f.extractLsb' 0 4 = f :=
  (append_eq_iff (m := 4) (n := 4) f a _).mpr ⟨h, rfl⟩

theorem grp_eq_zero {g : BitVec 2} : grp g = 0#4 ↔ g = 0#2 := by
  revert g; decide

theorem srForm_eq {f : BitVec 8} {n : Nat} (lt : n < 4) (h : f.extractLsb' 4 4 = 1#4) (hn : f.toNat % 16 = n + 1) :
    1#4 ++ srForm (BitVec.ofNat 2 n) = f := by
  interval_cases n
  all_goals revert f; decide

theorem label_parts (k : BitVec 4) : (0#28 ++ k).extractLsb' 4 28 = 0#28 ∧ (0#28 ++ k).extractLsb' 0 4 = k :=
  ⟨extractLsb'_append_high _ k, extractLsb'_append_low _ k⟩

theorem label_eq {v : BitVec 32} (h : v.extractLsb' 4 28 = 0#28) : 0#28 ++ v.extractLsb' 0 4 = v :=
  (append_eq_iff (m := 28) (n := 4) v _ _).mpr ⟨h, rfl⟩

theorem evwait_parts (use all : Bool) :
    let f := 0#6 ++ BitVec.ofBool use ++ BitVec.ofBool all
    f.extractLsb' 2 6 = 0#6 ∧ bit f 0 = all ∧ bit f 1 = use := by
  revert use all; decide

theorem evwait_eq {f : BitVec 8} (h : f.extractLsb' 2 6 = 0#6) : 0#6 ++ BitVec.ofBool (bit f 1) ++ BitVec.ofBool (bit f 0) = f := by
  revert f; decide

theorem atom_parts (f w : Bool) (o : BitVec 4) :
    let x := 0#2 ++ BitVec.ofBool f ++ BitVec.ofBool w ++ o
    x.extractLsb' 6 2 = 0#2 ∧ x.extractLsb' 0 4 = o ∧ bit x 4 = w ∧ bit x 5 = f := by
  revert f w o; decide

theorem atom_eq {f : BitVec 8} (h : f.extractLsb' 6 2 = 0#2) :
    0#2 ++ BitVec.ofBool (bit f 5) ++ BitVec.ofBool (bit f 4) ++ f.extractLsb' 0 4 = f := by
  revert f; decide

/-- The function field of BST with no flag number, and with one. -/
theorem bst_none_parts (n : Bool) :
    let f := BitVec.ofBool n ++ 1#1 ++ 0#6
    bit f 5 = false ∧ bit f 6 = true ∧ bit f 7 = n ∧ f.extractLsb' 0 5 = 0#5 := by
  revert n; decide

theorem bst_some_parts (n : Bool) (x : BitVec 5) :
    let f := BitVec.ofBool n ++ 0#2 ++ x
    bit f 5 = false ∧ bit f 6 = false ∧ bit f 7 = n ∧ f.extractLsb' 0 5 = x := by
  revert n x; decide

theorem bst_none_eq {f : BitVec 8} (h5 : bit f 5 = false) (h6 : bit f 6 = true) (h : f.extractLsb' 0 5 = 0#5) :
    BitVec.ofBool (bit f 7) ++ 1#1 ++ 0#6 = f := by
  revert f; decide

theorem bst_some_eq {f : BitVec 8} (h5 : bit f 5 = false) (h6 : bit f 6 = false) :
    BitVec.ofBool (bit f 7) ++ 0#2 ++ f.extractLsb' 0 5 = f := by
  revert f; decide

theorem start_parts (k : BitVec 4) (pc : BitVec 14) :
    let v := 0#12 ++ k ++ 0#2 ++ pc
    v.extractLsb' 14 2 = 0#2 ∧ v.extractLsb' 20 12 = 0#12 ∧ v.extractLsb' 0 14 = pc ∧ v.extractLsb' 16 4 = k := by
  refine ⟨?_, ?_, extractLsb'_append_low _ pc, ?_⟩
  all_goals
    apply BitVec.eq_of_getLsbD_eq
    intro i hi
    simp only [BitVec.getLsbD_extractLsb', BitVec.getLsbD_append, hi]
    grind

theorem start_eq {v : BitVec 32} (h : v.extractLsb' 14 2 = 0#2) (h' : v.extractLsb' 20 12 = 0#12) :
    0#12 ++ v.extractLsb' 16 4 ++ 0#2 ++ v.extractLsb' 0 14 = v := by
  rw [← h, ← h']
  apply BitVec.eq_of_getLsbD_eq
  intro i hi
  simp only [BitVec.getLsbD_extractLsb', BitVec.getLsbD_append]
  grind

theorem pool_parts (p : BitVec 15) :
    let v := 0#16 ++ p ++ 0#1
    v.extractLsb' 0 1 = 0#1 ∧ v.extractLsb' 16 16 = 0#16 ∧ v.extractLsb' 1 15 = p := by
  refine ⟨extractLsb'_append_low _ 0#1, ?_, ?_⟩
  all_goals
    apply BitVec.eq_of_getLsbD_eq
    intro i hi
    simp only [BitVec.getLsbD_extractLsb', BitVec.getLsbD_append, hi]
    grind

theorem pool_eq {v : BitVec 32} (h : v.extractLsb' 0 1 = 0#1) (h' : v.extractLsb' 16 16 = 0#16) :
    0#16 ++ v.extractLsb' 1 15 ++ 0#1 = v := by
  rw [← h, ← h']
  apply BitVec.eq_of_getLsbD_eq
  intro i hi
  simp only [BitVec.getLsbD_extractLsb', BitVec.getLsbD_append]
  grind

/-! ### What decodes -/

/-- The fields that are looked at: an ALU instruction that takes its second operand from a register has no IMM (R283). -/
def normal (x : ZFields) : ZFields := if x.op = 0x10 ∧ x.f.extractLsb' 4 4 = 0 then { x with imm := 0 } else x

theorem decode_normal (x : ZFields) : (normal x).decode = x.decode := by
  unfold normal
  split
  case isTrue h =>
    obtain ⟨hop, hf⟩ := h
    simp [ZFields.decode, hop, hf]
  case isFalse => rfl

/-- An instruction in its one encoded form is what its encoding decodes to. -/
theorem decode_fields {z : Zellek} (h : z.canonical = true) : z.fields.decode = some z := by
  cases z
  case bst n r t =>
    cases r
    case none =>
      obtain ⟨h5, h6, h7, h0⟩ := bst_none_parts n
      simp [Zellek.fields, zf, ZFields.decode, unused, h5, h6, h7, h0]
    case some x =>
      obtain ⟨h5, h6, h7, h0⟩ := bst_some_parts n x
      simp [Zellek.fields, zf, ZFields.decode, unused, h5, h6, h7, h0]
  case alu o d a src =>
    cases src
    all_goals simp [Zellek.fields, zf, ZFields.decode, unused]
  case tst => simp [Zellek.fields, zf, ZFields.decode, unused]
  case tstSr d t b s k v =>
    simp only [Zellek.fields, zf, ZFields.decode, unused, high_nibbles, low_nibbles, tileOf_tileField]
    obtain ⟨k, hk⟩ := k
    interval_cases k
    all_goals rfl
  case pctb a b src =>
    cases src
    all_goals simp [Zellek.fields, zf, ZFields.decode, unused]
  case evwait a all use =>
    obtain ⟨h2, h0, h1⟩ := evwait_parts use all
    simp [Zellek.fields, zf, ZFields.decode, unused, h2, h0, h1]
  case atom o w f g a x y m =>
    obtain ⟨h6, h0, h4, h5⟩ := atom_parts f w o
    simp only [Zellek.canonical, Bool.and_eq_true, Bool.or_eq_true, beq_iff_eq] at h
    obtain ⟨hg, hy⟩ := h
    have eg : (if atomOld o f then grp g else 0) = grp g := by
      split
      · rfl
      · simp_all [grp]
    have ey : (if o = 9 then grp y else 0) = grp y := by
      split
      · rfl
      · simp_all [grp]
    simp only [Zellek.fields, eg, ey]
    have hd : atomOld o f = false → grp g = 0#4 := fun e => by
      rw [show g = 0#2 by simpa [e] using hg]; rfl
    have hc : ¬ o = 9#4 → grp y = 0#4 := fun e => by
      rw [show y = 0#2 by simpa [e] using hy]; rfl
    simpa [zf, ZFields.decode, h6, h0, h4, h5] using ⟨hd, hc⟩
  case labelI k =>
    obtain ⟨h4, h0⟩ := label_parts k
    simp [Zellek.fields, zf, ZFields.decode, unused, h4, h0]
  case ctxc o =>
    cases o
    case start a g pc k =>
      obtain ⟨h14, h20, h0, h16⟩ := start_parts k pc
      simp [Zellek.fields, zf, ZFields.decode, unused, h14, h20, h0, h16]
    case pool p =>
      obtain ⟨h0, h16, h1⟩ := pool_parts p
      simp [Zellek.fields, zf, ZFields.decode, unused, h0, h16, h1]
    all_goals simp [Zellek.fields, zf, ZFields.decode, unused]
  all_goals simp [Zellek.fields, zf, ZFields.decode, unused]

/-- What decodes is in its one encoded form, and is encoded by the fields that are looked at. -/
theorem fields_of_decode {x : ZFields} {z : Zellek} (h : x.decode = some z) : z.fields = normal x ∧ z.canonical = true := by
  obtain ⟨op, d, a, b, c, f, imm⟩ := x
  unfold ZFields.decode at h
  split at h
  case h_46 => cases h
  all_goals
    rename_i hop
    replace hop := congrArg (BitVec.ofNat 8) hop
    simp only [BitVec.ofNat_toNat, BitVec.setWidth_eq] at hop
    simp [unused, Option.bind_eq_some_iff, grpOf_eq_some, pairOf_eq_some, tileOf_eq_some, targetOf_eq_some,
      low8Of_eq_some, condOf_eq_some, formOf_eq_some, flagOf_eq_some] at h
    simp only [normal]
  case h_5 =>
    obtain ⟨⟨⟨rfl, rfl, rfl, rfl⟩, h5⟩, h⟩ := h
    split at h
    case isTrue h6 =>
      simp only [Option.ite_none_right_eq_some, Option.map_eq_some_iff, targetOf_eq_some] at h
      obtain ⟨h0, t, rfl, rfl⟩ := h
      simp [Zellek.fields, zf, Zellek.canonical, hop, bst_none_eq h5 h6 h0]
    case isFalse h6 =>
      simp only [Option.map_eq_some_iff, targetOf_eq_some] at h
      obtain ⟨t, rfl, rfl⟩ := h
      simp [Zellek.fields, zf, Zellek.canonical, hop, bst_some_eq h5 (by simpa using h6)]
  case h_9 =>
    obtain ⟨rfl, h⟩ := h
    split at h
    case isTrue h4 =>
      simp only [Option.map_eq_some_iff, aluOf_eq_some] at h
      obtain ⟨o, ho, rfl⟩ := h
      simp [Zellek.fields, zf, Zellek.canonical, hop, ho, h4, nibbles_eq h4]
    case isFalse h4 =>
      simp only [Option.ite_none_right_eq_some, Option.map_eq_some_iff, aluOf_eq_some] at h
      obtain ⟨h8, rfl, o, ho, rfl⟩ := h
      simp [Zellek.fields, zf, Zellek.canonical, hop, ho, h8, nibbles_eq h8]
  case h_17 =>
    split at h
    case isTrue h4 =>
      simp [Option.bind_eq_some_iff, tileOf_eq_some, formOf_eq_some] at h
      obtain ⟨rfl, t, rfl, k, hk, rfl⟩ := h
      simp [Zellek.fields, zf, Zellek.canonical, hop, hk, nibbles_eq h4]
    case isFalse =>
      obtain ⟨h4, h⟩ := Option.ite_none_right_eq_some.mp h
      split at h
      case h_5 => cases h
      all_goals
        rename_i hk
        simp only [Option.map_eq_some_iff, tileOf_eq_some] at h
        obtain ⟨t, rfl, rfl⟩ := h
        simp [Zellek.fields, zf, Zellek.canonical, hop, srForm_eq (by decide) h4 hk]
  case h_23 =>
    obtain ⟨⟨rfl, rfl⟩, h⟩ := h
    split at h
    case isTrue hf =>
      simp only [Option.some_inj] at h
      simp [← h, Zellek.fields, zf, Zellek.canonical, hop, hf]
    case isFalse =>
      simp only [Option.ite_none_right_eq_some, Option.map_eq_some_iff, tileOf_eq_some] at h
      obtain ⟨hf, t, rfl, rfl⟩ := h
      simp [Zellek.fields, zf, Zellek.canonical, hop, hf]
  case h_36 =>
    obtain ⟨h6, hd, hc, g, rfl, x, rfl, y, rfl, m, rfl, rfl⟩ := h
    have hg : atomOld (f.extractLsb' 0 4) (bit f 5) = true ∨ g = 0#2 := by
      by_cases e : atomOld (f.extractLsb' 0 4) (bit f 5) = true
      · exact .inl e
      · exact .inr (grp_eq_zero.mp (hd (by simpa using e)))
    have hy : f.extractLsb' 0 4 = 9#4 ∨ y = 0#2 := by
      by_cases e : f.extractLsb' 0 4 = 9#4
      · exact .inl e
      · exact .inr (grp_eq_zero.mp (hc e))
    have eg : (if atomOld (f.extractLsb' 0 4) (bit f 5) = true then grp g else 0#4) = grp g := by
      split
      · rfl
      · rename_i e; exact (hd (by simpa using e)).symm
    have ey : (if f.extractLsb' 0 4 = 9#4 then grp y else 0#4) = grp y := by
      split
      · rfl
      · rename_i e; exact (hc e).symm
    simp [Zellek.fields, zf, Zellek.canonical, hop, atom_eq h6, hg, hy, eg, ey]
  case h_45 =>
    obtain ⟨⟨rfl, rfl⟩, h⟩ := h
    split at h
    case h_6 => cases h
    all_goals
      rename_i hf
      replace hf := congrArg (BitVec.ofNat 8) hf
      simp only [BitVec.ofNat_toNat, BitVec.setWidth_eq] at hf
    case h_1 =>
      simp only [Option.ite_none_right_eq_some, Option.map_eq_some_iff, grpOf_eq_some] at h
      obtain ⟨⟨h14, h20⟩, g, rfl, rfl⟩ := h
      simp [Zellek.fields, zf, Zellek.canonical, hop, hf, start_eq h14 h20]
    case h_5 =>
      simp only [Option.ite_none_right_eq_some, Option.some_inj] at h
      obtain ⟨⟨rfl, rfl, h0, h16⟩, rfl⟩ := h
      simp [Zellek.fields, zf, Zellek.canonical, hop, hf, pool_eq h0 h16]
    all_goals
      simp only [Option.ite_none_right_eq_some, Option.some_inj] at h
      obtain ⟨⟨rfl, rfl⟩, rfl⟩ := h
      simp [Zellek.fields, zf, Zellek.canonical, hop, hf]
  all_goals casesm* _ ∧ _, ∃ _, _, _ ∨ _
  all_goals subst_vars
  all_goals simp_all [Zellek.fields, zf, Zellek.canonical, nibbles_eq, label_eq, evwait_eq]

theorem decode_iff (x : ZFields) (z : Zellek) : x.decode = some z ↔ z.fields = normal x ∧ z.canonical = true := by
  constructor
  · exact fields_of_decode
  · rintro ⟨hf, hc⟩
    rw [← decode_normal, ← hf, decode_fields hc]

theorem clear_low (a b : BitVec 32) : (a ++ b) &&& 0xFFFFFFFF00000000#64 = a ++ 0#32 := by
  rw [show 0xFFFFFFFF00000000#64 = BitVec.allOnes 32 ++ 0#32 by decide, BitVec.and_append, BitVec.and_allOnes, BitVec.and_zero]

theorem word_normal (w : Word64) : (normal (ZFields.ofWord w)).word
    = if w.extractLsb' 56 8 = 0x10 ∧ w.extractLsb' 36 4 = 0 then w &&& 0xFFFFFFFF00000000 else w := by
  by_cases h : w.extractLsb' 56 8 = 0x10 ∧ w.extractLsb' 36 4 = 0
  · have hn : normal (ZFields.ofWord w) = { ZFields.ofWord w with imm := 0 } := by
      refine if_pos ⟨h.1, ?_⟩
      rw [← h.2]
      apply BitVec.eq_of_getLsbD_eq
      intro i hi
      simp only [ZFields.ofWord, BitVec.getLsbD_extractLsb']
      grind
    rw [if_pos h, hn]
    conv_rhs => rw [← word_ofWord w]
    exact (clear_low _ _).symm
  · rw [if_neg h, normal, if_neg, word_ofWord]
    rintro ⟨hop, hf⟩
    refine h ⟨hop, ?_⟩
    rw [← hf]
    apply BitVec.eq_of_getLsbD_eq
    intro i hi
    simp only [ZFields.ofWord, BitVec.getLsbD_extractLsb']
    grind

/-- Settles O55, from decode_iff: the fields that are looked at, packed again, are the word that is read. -/
theorem zellekEncodingIsExact : Obligations.ZellekEncodingIsExact := by
  unfold Obligations.ZellekEncodingIsExact
  intro c w z
  dsimp only
  have hw : z.encode = (normal (ZFields.ofWord w)).word ↔ z.fields = normal (ZFields.ofWord w) := by
    constructor
    · intro h
      rw [← ofWord_word z.fields, ← ofWord_word (normal _), ← h]
      rfl
    · intro h
      rw [Zellek.encode, h]
  rw [← word_normal, hw, ← and_assoc, ← decode_iff]
  unfold zdecode
  split
  case h_1 o h =>
    by_cases hc : c = 0
    · simp [hc, h]
    · rw [if_neg hc, h]
      refine iff_of_false (by simp) ?_
      rintro ⟨e, hz⟩
      exact (hz.resolve_left hc) o (Option.some_inj.1 e).symm
  case h_2 hne =>
    constructor
    · exact fun h => ⟨h, .inr fun o e => hne o (e ▸ h)⟩
    · exact fun h => h.1

end Sys2Proof.Proofs
end

section
/-! SUPPORT. Bring-up (18_bringup_and_power R415, R416, R423, R435, R457, R458), the wrapper (16_ports_and_signals Table 16.13, R442),
and what acts in no other state than service. -/

namespace Sys2Proof.Proofs

open Sys2Proof.Machine Sys2Proof.Safety Sys2Proof.Laws

set_option Elab.async false

/-! ### Bring-up -/

/-- The sense codes that fuse load writes, bank after bank. -/
theorem tget_foldl_tset (f : Nat → Nat) (n b : Nat) (t : Table Nat) (h : b < n) :
    tget 0 ((List.range n).foldl (fun t b => tset 0 t b (f b)) t) b = f b := by
  induction n with
  | zero => cases h
  | succ n ih =>
    rw [List.range_succ, List.foldl_append]
    by_cases e : b = n
    · subst e; exact tget_tset_self ..
    · exact (tget_tset_ne _ _ _ e).trans (ih (by omega))

theorem fuseLoadEnd_fails {s : State} {stream : BitVec 3000} {stray : Bool} (h : s.env.phase = .fuseLoad)
    (hf : fuseCheck stream = false ∨ stray = true) : exec (.fuseLoadEnd stream stray) s = .next { s with
      env := { s.env with phase := .stuck, sc := 12000 }, fuse := { stream := stream, loaded := false, bad := true } } := by
  have hc : (fuseCheck stream && !stray) = false := by
    rcases hf with hf | hf <;> simp [hf]
  simp [exec, execFuseLoadEnd, h, hc]

theorem fuseLoadEnd_loads {s : State} {stream : BitVec 3000} (h : s.env.phase = .fuseLoad) (hf : fuseCheck stream = true) :
    exec (.fuseLoadEnd stream false) s = .next { s with
      env := { s.env with phase := .tagClear, sc := 12000 }
      fuse := { stream := stream, loaded := true, bad := false }
      bg := { s.bg with codes := (List.range 16).foldl (fun t b => tset 0 t b (fusedCode stream b)) [] } } := by
  simp [exec, execFuseLoadEnd, h, hf]

/-- Settles O8: each command by its definition; the fused codes are written bank after bank. -/
theorem bringUpCommandsAnswer : Obligations.BringUpCommandsAnswer := by
  unfold Obligations.BringUpCommandsAnswer
  refine ⟨⟨?reset, ?loss, ?release⟩, ?fuses, ?ready⟩
  case reset =>
    intro s
    simp [exec, execResetAssert, resetState, wrapperDisturbs, Bool.decide_or, Bool.beq_eq_decide_eq, Bool.or_assoc]
  case loss => intro s; rfl
  case release =>
    intro s slice die agent sub h
    simp [exec, execResetRelease, h]
  case fuses =>
    intro s stream stray h
    constructor
    · intro hf
      exact ⟨_, fuseLoadEnd_fails h hf, rfl, rfl, rfl⟩
    · rintro hf rfl
      refine ⟨_, fuseLoadEnd_loads h hf, rfl, rfl, ?_, rfl⟩
      intro b hb
      exact tget_foldl_tset (fusedCode stream) 16 b [] hb
  case ready =>
    intro s h
    simp [exec, execRsReady, h]

/-! ### The wrapper -/

theorem inService_undefined {s : State} (h : s.env.wsUndefined = true) (body : State → State) :
    inService s body = .fault .wrapperUndefined := by
  simp [inService, h]

theorem exec_undefined {c : Instr} {s : State} (hb : kindOf c ≠ .bringUp) (hw : kindOf c ≠ .wrapper)
    (h : s.env.wsUndefined = true) : exec c s = .fault .wrapperUndefined := by
  cases hk : kindOf c with
  | bringUp => exact absurd hk hb
  | wrapper => exact absurd hk hw
  | instrument =>
    obtain ⟨content, hc⟩ := exec_instrument s hk
    rw [hc, instrument, if_pos h]
  | sideband =>
    obtain ⟨body, hc⟩ := exec_sideband s hk
    rw [hc, sideband, if_pos h]
  | boundary =>
    obtain ⟨body, hc⟩ := exec_boundary s hk
    rw [hc, inService_undefined h]
  | event =>
    obtain ⟨body, hc⟩ := exec_event s hk
    rw [hc, event, inService_undefined h]

theorem inService_answers {s : State} (h : s.env.wsUndefined = false) (body : State → State) : ∃ t, inService s body = .next t := by
  rw [inService, if_neg (by simp [h])]
  split <;> exact ⟨_, rfl⟩

theorem exec_bringUp_answers {c : Instr} (s : State) (h : kindOf c = .bringUp) : ∃ t, exec c s = .next t := by
  cases c
  case resetAssert => exact ⟨_, rfl⟩
  case powerLoss => exact ⟨_, rfl⟩
  case resetRelease =>
    simp only [exec, execResetRelease]
    split <;> exact ⟨_, rfl⟩
  case fuseLoadEnd =>
    simp only [exec, execFuseLoadEnd]
    repeat' split
    all_goals exact ⟨_, rfl⟩
  case rsReady =>
    simp only [exec, execRsReady]
    split <;> exact ⟨_, rfl⟩
  all_goals cases h

theorem exec_answers {c : Instr} {s : State} (h : s.env.wsUndefined = false) : ∃ t, exec c s = .next t := by
  cases hk : kindOf c with
  | bringUp => exact exec_bringUp_answers s hk
  | wrapper =>
    obtain ⟨e, hc⟩ := exec_wrapper s hk
    exact ⟨_, hc⟩
  | instrument =>
    obtain ⟨content, hc⟩ := exec_instrument s hk
    rw [hc, instrument, if_neg (by simp [h])]
    split <;> exact ⟨_, rfl⟩
  | sideband =>
    obtain ⟨body, hc⟩ := exec_sideband s hk
    rw [hc, sideband, if_neg (by simp [h])]
    split <;> exact ⟨_, rfl⟩
  | boundary =>
    obtain ⟨body, hc⟩ := exec_boundary s hk
    rw [hc]
    exact inService_answers h body
  | event =>
    obtain ⟨body, hc⟩ := exec_event s hk
    rw [hc]
    exact inService_answers h _

theorem selectWrapper_quiet {code : BitVec 5} (s : State) (h : wrapperDisturbs code = false) :
    selectWrapper code s = { s with env := { s.env with wir := code } } := by
  simp [selectWrapper, h]

theorem selectWrapper_disturbs {code : BitVec 5} (s : State) (h : wrapperDisturbs code = true) :
    selectWrapper code s = { s with env := { s.env with wir := code, wsUndefined := true } } := by
  simp [selectWrapper, h]

/-- Settles O9, by the kinds of the commands: each kind but bring-up and the wrapper asks first whether the state is undefined. -/
theorem wrapperCommandsAnswer : Obligations.WrapperCommandsAnswer := by
  unfold Obligations.WrapperCommandsAnswer
  refine ⟨?held, ?stops, ?answers⟩
  case held =>
    intro s cells
    refine ⟨?_, ?_, ?_, ?_, ?_, ?_, ?_⟩
    case refine_4 =>
      simp only [exec, execWsPreload, selectWrapper_quiet s (show wrapperDisturbs 3 = false by decide)]
    case refine_1 | refine_7 => exact congrArg Host.Outcome.next (selectWrapper_quiet s (by decide))
    all_goals exact congrArg Host.Outcome.next (selectWrapper_disturbs s (by decide))
  case stops => exact fun c s hb hw h => exec_undefined hb hw h
  case answers => exact fun c s h => exec_answers h

/-! ### Before rs_ready -/

theorem inService_before {s : State} (hw : s.env.wsUndefined = false) (hp : s.env.phase ≠ .ready) (body : State → State) :
    inService s body = .next s := by
  simp [inService, hw, hp]

/-- Settles O10: messages, events, boundaries and the sideband bus act in service alone. -/
theorem nothingActsBeforeReady : Obligations.NothingActsBeforeReady := by
  unfold Obligations.NothingActsBeforeReady
  intro c s hk hw hp
  rcases hk with hk | hk | hk
  · obtain ⟨body, hc⟩ := exec_event s hk
    rw [hc, event, inService_before hw hp]
  · obtain ⟨body, hc⟩ := exec_boundary s hk
    rw [hc, inService_before hw hp]
  · obtain ⟨body, hc⟩ := exec_sideband s hk
    simp [hc, sideband, hw, hp]

/-! ### The program store -/

theorem writePstoreLo_enabled {s : State} {v : Word32} (h : s.seq.en = true) :
    writePstoreLo v s = { s with seq := { s.seq with cmdRej := true } } := if_pos h

theorem writePstoreHi_enabled {s : State} {i : Nat} {v : Word32} (h : s.seq.en = true) :
    writePstoreHi i v s = { s with seq := { s.seq with cmdRej := true } } := if_pos h

theorem writePstoreLo_off {s : State} {v : Word32} (h : s.seq.en = false) :
    writePstoreLo v s = { s with seq := { s.seq with psPending := v } } := if_neg (by simp [h])

theorem writePstoreHi_off {s : State} {i : Nat} {v : Word32} (h : s.seq.en = false) :
    writePstoreHi i v s
      = { s with seq := { s.seq with pstore := tput s.seq.pstore i { word := v ++ s.seq.psPending, flips := 0 } } } :=
  if_neg (by simp [h])

/-- Settles O16, by whether the sequencer is enabled. -/
theorem programStoreWritesAnswer : Obligations.ProgramStoreWritesAnswer := by
  unfold Obligations.ProgramStoreWritesAnswer
  intro s i v h
  constructor
  · intro en
    exact ⟨sbWriteOk_answers h (writePstoreLo_enabled en), sbWriteOk_answers h (writePstoreHi_enabled en)⟩
  · intro en
    refine ⟨sbWriteOk_answers h (writePstoreLo_off en), _, sbWriteOk_answers h (writePstoreHi_off en), ?stored, ?others, rfl⟩
    case stored => exact tfind_tput_self ..
    case others => exact fun j hj => tfind_tput_ne _ _ hj

end Sys2Proof.Proofs
end

section
/-! SUPPORT. Writes of the background, telemetry and stream registers (13_background_work R362, R374; 14_determinism_and_audit R381,
R386), of the ways (03_cache_behaviour R99 to R106), of the cache configuration, a runtime spare and the staging region (R69, R83, R95,
R162), and of SL_SEQ_CTL (09_sequencer_architecture R243, R265). -/

namespace Sys2Proof.Proofs

open Sys2Proof.Machine Sys2Proof.Safety Sys2Proof.Laws

set_option Elab.async false

/-! ### Background and telemetry -/

theorem writeBgCfg_eq (v : Word32) (s : State) :
    let n : BitVec 5 := v.extractLsb' 0 5
    let ok := 5 ≤ n.toNat ∧ n.toNat ≤ 25
    writeBgCfg v s = { s with bg := { s.bg with
      scrubEn := v.getLsbD 31, calFrames := v.extractLsb' 16 8
      scrubLog2 := if ok then n else s.bg.scrubLog2
      cfgRej := if ok then s.bg.cfgRej else true } } := by
  intro n ok
  unfold writeBgCfg part bit
  generalize hn : v.extractLsb' 0 5 = m
  have hbad : (decide (m.toNat < 5) || decide (25 < m.toNat)) = decide (¬ ok) := by
    subst hn
    grind
  simp only [hbad]
  by_cases h : ok <;> simp [h, n, hn]

theorem writeTelCfg_eq (v : Word32) (s : State) :
    let n : BitVec 4 := v.extractLsb' 16 4
    writeTelCfg v s = { s with bg := { s.bg with
      telEn := v.getLsbD 31, telBase := v.extractLsb' 0 16
      telRing := if n.toNat ≤ 8 then n else s.bg.telRing
      cfgRej := if n.toNat ≤ 8 then s.bg.cfgRej else true } } := by
  intro n
  unfold writeTelCfg part bit
  generalize hn : v.extractLsb' 16 4 = m
  by_cases h : m.toNat ≤ 8
  · simp [n, hn, Nat.not_lt.2 h, h]
  · simp [n, hn, Nat.lt_of_not_le h, h]

/-! ### Streams -/

theorem writeStream_locked {s : State} (f : Stream → Stream) (h : s.det.lock = true) : writeStream f s = s := if_pos h

theorem writeStream_open {s : State} (f : Stream → Stream) (h : s.det.lock = false) :
    writeStream f s = setStream s.det.strSel.toNat f s := if_neg (by simp [h])

theorem clearStream_busy {s : State} (h : streamBusy s s.det.strSel.toNat = true) :
    clearStream s = { s with det := { s.det with cmdRej := true } } := if_pos h

theorem clearStream_idle {s : State} (h : streamBusy s s.det.strSel.toNat = false) :
    clearStream s = setStream s.det.strSel.toNat
      (fun x => { x with acc := 0, leaves := 0, spoiled := false, scentBad := false }) s := if_neg (by simp [h])

/-- A write that changes one stream as f says answers with that stream, the others as they were. -/
theorem setStream_answers {s : State} {c : Instr} {body : State → State} {k : Nat} {f : Stream → Stream} (h : sbActs s)
    (hb : body s = setStream k f s) :
    ∃ t, sbWriteOk c s body = .next t ∧ getStream t k = f (getStream s k) ∧ (∀ j, j ≠ k → getStream t j = getStream s j)
      ∧ t = { s with det := { s.det with streams := t.det.streams }, out := responded s 0 0 } :=
  ⟨_, sbWriteOk_answers h hb, getStream_setStream_self s k f, fun _ hj => getStream_setStream_ne s f hj, rfl⟩

/-- Settles O15, by register; the writes of a stream that is not locked are one lemma. -/
theorem backgroundAndStreamWritesAnswer : Obligations.BackgroundAndStreamWritesAnswer := by
  unfold Obligations.BackgroundAndStreamWritesAnswer
  constructor
  · intro s v h
    exact ⟨sbWriteOk_answers h (writeBgCfg_eq v s), sbWriteOk_answers h (writeTelCfg_eq v s), sbWriteOk_answers h rfl⟩
  · intro s v h
    refine ⟨?locked, ?opened, ?busy, ?idle⟩
    case locked =>
      intro hl
      exact ⟨sbWriteOk_answers h (writeStream_locked _ hl), sbWriteOk_answers h (writeStream_locked _ hl),
        sbWriteOk_answers h (writeStream_locked _ hl), sbWriteOk_answers h (writeStream_locked _ hl)⟩
    case opened =>
      intro hl
      exact ⟨setStream_answers h (writeStream_open _ hl), setStream_answers h (writeStream_open _ hl),
        setStream_answers h (writeStream_open _ hl), setStream_answers h (writeStream_open _ hl)⟩
    case busy =>
      intro hb
      exact sbWriteOk_answers h (clearStream_busy hb)
    case idle =>
      intro hb
      exact setStream_answers h (clearStream_idle hb)

/-! ### Ways -/

theorem writeWayLock_rejected {s : State} {v : Word32} (h : waysBusy s = true ∨ 16 < v.toNat % 32) :
    writeWayLock v s = { s with cache := { s.cache with cmdRej := true } } := by
  refine if_pos ?_
  simpa [fld] using h

theorem writeWayLock_more {s : State} {v : Word32} (hb : waysBusy s = false) (hc : s.cache.locked < v.toNat % 32)
    (hk : v.toNat % 32 ≤ 16) :
    let k := v.toNat % 32
    let ways := waysBetween s.cache.locked k
    writeWayLock v s = if ways.any (wayGated s) then { s with cache := { s.cache with cmdRej := true } }
      else { s with cache := { s.cache with
        kways := BitVec.ofNat 5 k, walk := some { lock := true, ways := ways, set := 0, all := ways, target := k } } } := by
  simp [writeWayLock, rejectWay, fld, hb, hc, hk]

theorem writeWayLock_fewer {s : State} {v : Word32} (hb : waysBusy s = false) (hc : v.toNat % 32 < s.cache.locked)
    (hk : v.toNat % 32 ≤ 16) :
    let k := v.toNat % 32
    let c := s.cache.locked
    writeWayLock v s = if kennelInUse s (k * 2 ^ 20) (c * 2 ^ 20) then { s with cache := { s.cache with cmdRej := true } }
      else { s with cache := { s.cache with
        kways := BitVec.ofNat 5 k, locked := k
        unlocking := some (s.env.sc + 4096, maskOf 16 (waysBetween k c)) } } := by
  simp [writeWayLock, rejectWay, fld, hb, hc, hk, Nat.lt_asymm hc]

/-- The bits that a write clears. -/
theorem cleared_eq (g gate : BitVec 16) : g ^^^ (g ||| gate) = gate &&& ~~~g := by
  ext i hi
  simp only [BitVec.getElem_xor, BitVec.getElem_or, BitVec.getElem_and, BitVec.getElem_not]
  cases g[i] <;> cases gate[i] <;> rfl

theorem bitsOf_new (g gate : BitVec 16) :
    bitsOf (g &&& ~~~gate) = (List.range 16).filter fun w => g.getLsbD w && !gate.getLsbD w := by
  refine List.filter_congr fun w hw => ?_
  simp [bit, List.mem_range.1 hw]

theorem writeWayGate_rejected {s : State} {v : Word32}
    (h : waysBusy s = true ∨ ∃ w, w < 16 ∧ (v.extractLsb' 0 16).getLsbD w = true ∧ 16 ≤ w + s.cache.locked) :
    writeWayGate v s = { s with cache := { s.cache with cmdRej := true } } := by
  refine if_pos ?_
  simpa [bitsOf, bit, wayLocked, and_assoc] using h

theorem gate_free {s : State} {v : Word32} (hb : waysBusy s = false)
    (hl : ∀ w, w < 16 → (v.extractLsb' 0 16).getLsbD w = true → w + s.cache.locked < 16) :
    ¬ (waysBusy s || (bitsOf (v.extractLsb' 0 16)).any (wayLocked s)) = true := by
  simpa [hb, bitsOf, bit, wayLocked] using hl

theorem writeWayGate_gates {s : State} {v : Word32} (hb : waysBusy s = false)
    (hl : ∀ w, w < 16 → (v.extractLsb' 0 16).getLsbD w = true → w + s.cache.locked < 16) :
    let g : BitVec 16 := v.extractLsb' 0 16
    let new := (List.range 16).filter fun w => g.getLsbD w && !s.cache.gate.getLsbD w
    s.cache.gate &&& ~~~g &&& s.cache.gated = 0 → new ≠ [] → writeWayGate v s = { s with cache := { s.cache with
      gate := g, walk := some { lock := false, ways := new, set := 0, all := new, target := 0 } } } := by
  intro g new hoff hnew
  have some : ¬ new.isEmpty = true := by simpa using hnew
  simp only [writeWayGate, cleared_eq, bitsOf_new]
  rw [if_neg (gate_free hb hl), if_neg some, if_pos hoff]

theorem writeWayGate_powers {s : State} {v : Word32} (hb : waysBusy s = false)
    (hl : ∀ w, w < 16 → (v.extractLsb' 0 16).getLsbD w = true → w + s.cache.locked < 16) :
    let g : BitVec 16 := v.extractLsb' 0 16
    let new := (List.range 16).filter fun w => g.getLsbD w && !s.cache.gate.getLsbD w
    let off := s.cache.gate &&& ~~~g &&& s.cache.gated
    off ≠ 0 → new = [] → writeWayGate v s = { s with cache := { s.cache with
      gate := g, powering := off, powerAt := s.env.sc + 4096 } } := by
  intro g new off hoff hnew
  have none : new.isEmpty = true := by simpa using hnew
  simp only [writeWayGate, cleared_eq, bitsOf_new]
  rw [if_neg (gate_free hb hl), if_pos none, if_neg hoff]

/-- Settles O17, by the branch that the write takes. -/
theorem wayWritesAnswer : Obligations.WayWritesAnswer := by
  unfold Obligations.WayWritesAnswer
  constructor
  · intro s v h
    refine ⟨?rejected, ?more, ?fewer⟩
    case rejected =>
      intro hr
      exact ⟨sbWriteOk_answers h (writeWayLock_rejected hr), sbWriteOk_answers h (writeWayLock_rejected hr)⟩
    case more =>
      intro hb hc hk
      have hw := writeWayLock_more hb hc hk
      constructor
      · rintro ⟨w, hm, hg⟩
        exact sbWriteOk_answers h (hw.trans (if_pos (List.any_eq_true.2 ⟨w, hm, hg⟩)))
      · intro hg
        refine sbWriteOk_answers h (hw.trans (if_neg fun ha => ?_))
        obtain ⟨w, hm, ht⟩ := List.any_eq_true.1 ha
        exact Bool.false_ne_true ((hg w hm).symm.trans ht)
    case fewer =>
      intro hb hc hk
      have hw := writeWayLock_fewer hb hc hk
      constructor
      · intro hu
        exact sbWriteOk_answers h (hw.trans (if_pos hu))
      · intro hu
        exact sbWriteOk_answers h (hw.trans (if_neg (Bool.eq_false_iff.1 hu)))
  · intro s v h
    constructor
    · intro hr
      exact ⟨sbWriteOk_answers h (writeWayGate_rejected hr), sbWriteOk_answers h (writeWayGate_rejected hr)⟩
    · intro hb hl
      exact ⟨fun hoff hnew => sbWriteOk_answers h (writeWayGate_gates hb hl hoff hnew),
        fun hoff hnew => sbWriteOk_answers h (writeWayGate_powers hb hl hoff hnew)⟩

/-! ### The cache configuration -/

/-- What clearing FB_EN leaves of a fetch buffer entry. -/
def fbDropped (f : Prefetched) : Option Prefetched := if f.asked = f.got then none else some { f with doomed := true }

theorem dropFb_fb (k : Nat) (s : State) : ∃ fb, dropFb k s = { s with cache := { s.cache with fb := fb } }
    ∧ tfind fb k = (tfind s.cache.fb k).bind fbDropped ∧ ∀ j, j ≠ k → tfind fb j = tfind s.cache.fb j := by
  unfold dropFb
  split
  case h_1 hf => exact ⟨s.cache.fb, rfl, by rw [hf]; rfl, fun _ _ => rfl⟩
  case h_2 f hf =>
    refine ⟨_, rfl, ?_, ?_⟩
    · rw [hf, Option.bind_some, fbDropped]
      split
      · exact tfind_terase_self ..
      · exact tfind_tput_self ..
    · intro j hj
      split
      · exact tfind_terase_ne _ hj
      · exact tfind_tput_ne _ _ hj

theorem fbDropped_twice (f : Option Prefetched) : (f.bind fbDropped).bind fbDropped = f.bind fbDropped := by
  cases f with
  | none => rfl
  | some f =>
    by_cases h : f.asked = f.got <;> simp [fbDropped, h]

theorem foldl_dropFb (ks : List Nat) (s : State) :
    ∃ fb, ks.foldl (fun s k => dropFb k s) s = { s with cache := { s.cache with fb := fb } }
      ∧ ∀ j, tfind fb j = if j ∈ ks then (tfind s.cache.fb j).bind fbDropped else tfind s.cache.fb j := by
  induction ks generalizing s with
  | nil => exact ⟨s.cache.fb, rfl, fun _ => rfl⟩
  | cons k ks ih =>
    obtain ⟨fb, hd, hk, hne⟩ := dropFb_fb k s
    obtain ⟨fb', hd', hj'⟩ := ih (dropFb k s)
    refine ⟨fb', ?_, fun j => ?_⟩
    · rw [List.foldl_cons, hd', hd]
    · rw [hj', hd]
      by_cases e : j = k
      · subst e
        simp only [List.mem_cons_self, if_true, hk, fbDropped_twice, ite_self]
      · simp only [List.mem_cons, e, false_or, hne j e]

theorem mem_keys_of_tfind {α : Type} {t : Table α} {k : Nat} {a : α} (h : tfind t k = some a) : k ∈ t.map Prod.fst := by
  induction t with
  | nil => cases h
  | cons p r ih =>
    obtain ⟨i, b⟩ := p
    unfold tfind at h
    split at h
    case isTrue e => simp [e]
    case isFalse => exact List.mem_cons_of_mem _ (ih h)

/-- Every entry of the fetch buffer is dropped. -/
theorem dropAll_fb (s : State) :
    ∃ fb, keepConfig (fun s => (s.cache.fb.map Prod.fst).foldl (fun s k => dropFb k s) s) s
        = { s with cache := { s.cache with fb := fb } }
      ∧ ∀ j, tfind fb j = (tfind s.cache.fb j).bind fbDropped := by
  obtain ⟨fb, hd, hj⟩ := foldl_dropFb (s.cache.fb.map Prod.fst) s
  refine ⟨fb, ?_, fun j => ?_⟩
  · rw [keepConfig, hd]
    rfl
  · rw [hj]
    split
    case isTrue => rfl
    case isFalse hm =>
      cases hf : tfind s.cache.fb j with
      | none => rfl
      | some f => exact absurd (mem_keys_of_tfind hf) hm

/-- The configuration that a write of SL_CACHE_CFG takes, before the fetch buffer is emptied. -/
def cacheConfigured (v : Word32) (s : State) : State :=
  { s with cache := { s.cache with
    cleanClass := v.extractLsb' 4 4, fbEn := v.getLsbD 1, sdEn := v.getLsbD 0
    streamCnt := if v.getLsbD 0 then s.cache.streamCnt else [] } }

theorem writeCacheCfg_eq (v : Word32) (s : State) :
    ∃ fb, writeCacheCfg v s = { cacheConfigured v s with cache := { (cacheConfigured v s).cache with fb := fb } }
      ∧ (v.getLsbD 1 = true → fb = s.cache.fb)
      ∧ (v.getLsbD 1 = false → ∀ k, tfind fb k = (tfind s.cache.fb k).bind fbDropped) := by
  by_cases h : v.getLsbD 1 = true
  · exact ⟨s.cache.fb, if_pos h, fun _ => rfl, fun h' => absurd (h.symm.trans h') (by decide)⟩
  · obtain ⟨fb, hd, hk⟩ := dropAll_fb (cacheConfigured v s)
    exact ⟨fb, (if_neg h).trans hd, fun h' => absurd h' h, fun _ => hk⟩

theorem cacheCfgWrite_answers {s : State} (h : sbActs s) (v : Word32) :
    ∃ t, exec (.cacheCfgWrite v) s = .next t
      ∧ t = { cacheConfigured v s with cache := { (cacheConfigured v s).cache with fb := t.cache.fb }, out := responded s 0 0 }
      ∧ (v.getLsbD 1 = true → t.cache.fb = s.cache.fb)
      ∧ (v.getLsbD 1 = false → ∀ k, tfind t.cache.fb k = (tfind s.cache.fb k).bind fbDropped) := by
  obtain ⟨fb, hw, hon, hoff⟩ := writeCacheCfg_eq v s
  exact ⟨_, sbWriteOk_answers h hw, rfl, hon, hoff⟩

/-! ### A runtime spare -/

/-- Another valid entry of the selected bank names the row that a valid entry is to take (entry 23). -/
def rowTaken (v : Word32) (s : State) : Prop :=
  v.getLsbD 31 = true ∧ ∃ j, j < 8 ∧ j ≠ s.arr.spareEntry.toNat ∧ (spareOf s s.arr.spareBank.toNat j).valid = true
    ∧ (spareOf s s.arr.spareBank.toNat j).row = v.extractLsb' 0 9

/-- What the write of a runtime spare entry asks before it is ignored. -/
theorem spareRefused_iff (v : Word32) (s : State) :
    let b := s.arr.spareBank.toNat
    let e := s.arr.spareEntry.toNat
    let named := (List.range 8).any fun j => decide (j ≠ e) && (spareOf s b j).valid && (spareOf s b j).row == part v 0 9
    (bit s.arr.written b || (spareOf s b e).hw || (bit v 31 && named)) = true
      ↔ s.arr.written.getLsbD b = true ∨ (spareOf s b e).hw = true ∨ rowTaken v s := by
  simp only [rowTaken, bit, part, Bool.or_eq_true, Bool.and_eq_true, List.any_eq_true, List.mem_range, decide_eq_true_eq,
    beq_iff_eq, or_assoc, and_assoc]

theorem writeSpare_refused {s : State} {v : Word32} (h : s.arr.written.getLsbD s.arr.spareBank.toNat = true
    ∨ (spareOf s s.arr.spareBank.toNat s.arr.spareEntry.toNat).hw = true ∨ rowTaken v s) :
    writeSpare v s = { s with arr := { s.arr with spareRej := true } } := if_pos ((spareRefused_iff v s).2 h)

theorem writeSpare_taken {s : State} {v : Word32} (h : ¬ (s.arr.written.getLsbD s.arr.spareBank.toNat = true
    ∨ (spareOf s s.arr.spareBank.toNat s.arr.spareEntry.toNat).hw = true ∨ rowTaken v s)) :
    let k := s.arr.spareBank.toNat * 8 + s.arr.spareEntry.toNat
    let x : Spare := { valid := v.getLsbD 31, hw := false, row := v.extractLsb' 0 9 }
    writeSpare v s = { s with arr := { s.arr with spares := tset default s.arr.spares k x } } :=
  if_neg (mt (spareRefused_iff v s).1 h)

/-! ### The staging region -/

theorem writeStageCfg_enabled {s : State} (v : Word32) (h : s.ken.stageEn = true) :
    let en := v.getLsbD 31
    let size : BitVec 9 := v.extractLsb' 8 9
    let base : BitVec 8 := v.extractLsb' 0 8
    writeStageCfg v s = if size ≠ s.ken.stageSize ∨ base ≠ s.ken.stageBase ∨ (en = false ∧ s.red.packs ≠ []) then
        { s with ken := { s.ken with chRej := true } }
      else { s with ken := { s.ken with stageEn := en } } := by
  intro en size base
  refine (if_pos h).trans ?_
  by_cases moved : size ≠ s.ken.stageSize ∨ base ≠ s.ken.stageBase
  · exact (if_pos moved).trans (if_pos (or_assoc.1 (.inl moved))).symm
  · refine (if_neg moved).trans ?_
    by_cases armed : en = false ∧ s.red.packs ≠ []
    · exact (if_pos (by simpa [en, bit] using armed)).trans (if_pos (.inr (.inr armed))).symm
    · refine (if_neg (by simpa [en, bit] using armed)).trans (if_neg ?_).symm
      rw [← or_assoc]
      exact not_or.2 ⟨moved, armed⟩

theorem writeStageCfg_disabled {s : State} (v : Word32) (h : s.ken.stageEn = false) :
    let en := v.getLsbD 31
    let size : BitVec 9 := v.extractLsb' 8 9
    let base : BitVec 8 := v.extractLsb' 0 8
    let lo := base.toNat * 65536
    let hi := (base.toNat + size.toNat) * 65536
    writeStageCfg v s = if en = true ∧ (size.toNat < 8 ∨ 256 < size.toNat ∨ s.cache.locked * 2 ^ 20 < hi ∨ inSlots s lo hi = true)
      then { s with ken := { s.ken with chRej := true } }
      else { s with ken := { s.ken with stageEn := en, stageSize := size, stageBase := base } } := by
  intro en size base lo hi
  refine (if_neg (Bool.eq_false_iff.1 h)).trans (ite_congr (propext ?_) (fun _ => rfl) (fun _ => rfl))
  simp only [Bool.and_eq_true, Bool.or_eq_true, decide_eq_true_eq, or_assoc]
  rfl

/-- Settles O18, register by register. -/
theorem arrayConfigurationWritesAnswer : Obligations.ArrayConfigurationWritesAnswer := by
  unfold Obligations.ArrayConfigurationWritesAnswer
  refine ⟨?config, fun s v h => ⟨⟨?ignored, ?installed⟩, ?enabled, ?disabled⟩⟩
  case config =>
    intro s v h
    obtain ⟨t, he, ht, hon, hoff⟩ := cacheCfgWrite_answers h v
    refine ⟨t, he, ht, hon, fun h' k => ?_⟩
    rw [hoff h' k]
    cases tfind s.cache.fb k <;> rfl
  case ignored => exact fun hr => sbWriteOk_answers h (writeSpare_refused hr)
  case installed =>
    intro hw hh ht
    have hr : ¬ (_ ∨ _ ∨ rowTaken v s) := not_or.2 ⟨Bool.eq_false_iff.1 hw, not_or.2 ⟨Bool.eq_false_iff.1 hh, ht⟩⟩
    exact ⟨_, sbWriteOk_answers h (writeSpare_taken hr), tget_tset_self .., fun k hk => tget_tset_ne _ _ _ hk, rfl⟩
  case enabled =>
    intro hen
    have hw := writeStageCfg_enabled v hen
    constructor
    · exact fun hr => sbWriteOk_answers h (hw.trans (if_pos hr))
    · intro hs hb ho
      refine sbWriteOk_answers h (hw.trans (if_neg ?_))
      rintro (hr | hr | ⟨hr, hp⟩)
      · exact hr hs
      · exact hr hb
      · exact ho.elim (fun e => Bool.false_ne_true (hr.symm.trans e)) hp
  case disabled =>
    intro hen
    have hw := writeStageCfg_disabled v hen
    constructor
    · exact fun he hr => sbWriteOk_answers h (hw.trans (if_pos ⟨he, hr⟩))
    · intro ho
      refine sbWriteOk_answers h (hw.trans (if_neg ?_))
      rintro ⟨he, hr⟩
      rcases ho with ho | ⟨h8, h256, hend, hslots⟩
      · exact Bool.false_ne_true (ho.symm.trans he)
      · rcases hr with hr | hr | hr | hr
        · omega
        · omega
        · omega
        · exact Bool.false_ne_true (hslots.symm.trans hr)

/-! ### SL_SEQ_CTL -/

/-- The master, as a write of SL_SEQ_CTL starts it. -/
def mastered (s : State) (v : Word32) : Ctx :=
  { Ctx.idle with pc := v.extractLsb' 0 14, cls := v.toNat / 2 ^ 16 % 16, state := .ready, after := s.env.sc + 2 }

theorem writeSeqCtl_ignored {s : State} {v : Word32}
    (h : (v.getLsbD 31 = true ∧ s.seq.muz = true) ∨ (v.getLsbD 31 = false ∧ noneLive s = false)) :
    writeSeqCtl v s = { s with seq := { s.seq with
      quiet := false, cmdRej := true, mclass := v.extractLsb' 16 4, m0pc := v.extractLsb' 0 14 } } := by
  refine if_pos ?_
  rcases h with ⟨hv, hm⟩ | ⟨hv, hl⟩
  · exact Bool.or_eq_true_iff.2 (.inl (Bool.and_eq_true_iff.2 ⟨hv, hm⟩))
  · refine Bool.or_eq_true_iff.2 (.inr (Bool.and_eq_true_iff.2 ⟨?_, ?_⟩))
    · exact congrArg not hv
    · exact congrArg not hl

theorem noneLive_iff (s : State) : noneLive s = true ↔ ∀ c, c < 16 → (getCtx s c).live = false := by
  simp [noneLive, List.all_eq_true]

theorem writeSeqCtl_disables {s : State} {v : Word32} (hv : v.getLsbD 31 = false) (hl : noneLive s = true) :
    writeSeqCtl v s = { s with
      det := { s.det with psValid := false }
      seq := { s.seq with en := false, mclass := v.extractLsb' 16 4, m0pc := v.extractLsb' 0 14, quiet := false } } := by
  have off : bit v 31 = false := hv
  refine (if_neg ?_).trans ?_
  · rw [off]
    exact Bool.eq_false_iff.1 (congrArg not hl)
  · simp only [off, Bool.false_and, Bool.not_false, if_true, Bool.false_eq_true, if_false]
    rfl

/-- The contexts after the master has been started in context 0. -/
def mastering (s : State) (v : Word32) : Table Ctx :=
  (setCtx 0 (fun x => { x with after := s.env.sc + 2 })
    (startCtx 0 (v.extractLsb' 0 14) (part v 16 4).toNat [] 0 none s)).seq.ctx

theorem writeSeqCtl_starts {s : State} {v : Word32} (hv : v.getLsbD 31 = true) (hm : s.seq.muz = false)
    (hi : (getCtx s 0).state = .idle) :
    writeSeqCtl v s = { s with
      det := if s.seq.en then s.det else { s.det with psBusy := s.env.sc + 4097 }
      seq := { s.seq with
        en := true, mclass := v.extractLsb' 16 4, m0pc := v.extractLsb' 0 14, quiet := false, ctx := mastering s v } } := by
  have on : bit v 31 = true := hv
  refine (if_neg ?_).trans ?_
  · rw [on]
    simpa [noisy] using hm
  · simp only [on, Bool.true_and, Bool.not_true, Bool.false_eq_true, if_false]
    refine (if_pos ?_).trans ?_
    · exact beq_iff_eq.2 hi
    · cases hen : s.seq.en <;> simp [noisy, hen] <;> rfl

theorem getCtx_startCtx_self (s : State) (c : Nat) (pc : BitVec 14) (cls : Nat) (args : List Word64) (g4 : Word64)
    (call : Option CallRec) :
    getCtx (startCtx c pc cls args g4 call s) c
      = ({ Ctx.idle with pc := pc, cls := cls, call := call, state := .ready } : Ctx).setRegs
          ((args.zipIdx.map fun p => (p.2, p.1)) ++ [(4, g4)]) := by
  simp [getCtx, startCtx, tget, tfind_tput_self]

theorem getCtx_startCtx_ne (s : State) {c k : Nat} (pc : BitVec 14) (cls : Nat) (args : List Word64) (g4 : Word64)
    (call : Option CallRec) (h : k ≠ c) : getCtx (startCtx c pc cls args g4 call s) k = getCtx s k := by
  simp [getCtx, startCtx, tget, tfind_tput_ne _ _ h]

theorem getCtx_mastering (s : State) (v : Word32) : tget Ctx.idle (mastering s v) 0 = mastered s v := by
  refine (getCtx_setCtx_self _ 0 _).trans ?_
  rw [getCtx_startCtx_self]
  simp [mastered, part, Ctx.setRegs, Ctx.setReg, Ctx.idle, Nat.shiftRight_eq_div_pow, tset, terase]

theorem getCtx_mastering_ne (s : State) (v : Word32) {c : Nat} (h : c ≠ 0) :
    tget Ctx.idle (mastering s v) c = getCtx s c := by
  refine (getCtx_setCtx_ne _ _ h).trans ?_
  exact getCtx_startCtx_ne s _ _ _ _ _ h

/-- Settles O20, by EN as written. -/
theorem sequencerControlWritesAnswer : Obligations.SequencerControlWritesAnswer := by
  unfold Obligations.SequencerControlWritesAnswer
  intro s v h
  refine ⟨?muzzled, ?starts, ?live, ?stops⟩
  case muzzled => exact fun hv hm => sbWriteOk_answers h (writeSeqCtl_ignored (.inl ⟨hv, hm⟩))
  case starts =>
    intro hv hm hi
    refine ⟨_, sbWriteOk_answers h (writeSeqCtl_starts hv hm hi), rfl, rfl, rfl, getCtx_mastering s v,
      fun c hc => getCtx_mastering_ne s v hc, fun he => if_neg (by simp [he]), fun he => if_pos he, rfl⟩
  case live =>
    rintro hv ⟨c, hc, hl⟩
    refine sbWriteOk_answers h (writeSeqCtl_ignored (.inr ⟨hv, Bool.eq_false_iff.2 fun hn => ?_⟩))
    exact Bool.false_ne_true (((noneLive_iff s).1 hn c hc).symm.trans hl)
  case stops => exact fun hv hn => sbWriteOk_answers h (writeSeqCtl_disables hv ((noneLive_iff s).2 hn))

end Sys2Proof.Proofs
end

section
/-! SUPPORT. The passing of an sc where nothing is under way (01_frame_and_timing_contract; entry 1): what lands is nothing, and only the
clock, the turn of the issue slot and the counts of the sc move on. -/

namespace Sys2Proof.Proofs

open Sys2Proof.Machine Sys2Proof.Safety Sys2Proof.Laws

set_option Elab.async false

/-! ### What a quiet state holds -/

/-- The conditions of R437, one by one, without the sideband responses. -/
structure Drained (s : State) : Prop where
  trackers : s.coh.trk = []
  active : s.coh.active = []
  misses : s.cache.miss = []
  evictions : s.cache.ev = []
  victims : s.cache.victims = []
  waiters : s.cache.waiters = []
  waits : s.ken.waits = []
  atomics : s.atom.pend = []
  fetched : ∀ f ∈ s.cache.fb, f.2.asked = f.2.got
  packs : s.red.packs = []
  engines : ∀ e ∈ s.mov.eng, e.2.busy = false
  pushes : ∀ c ∈ s.ken.ch, c.2.push = .idle
  contexts : ∀ c ∈ s.seq.ctx, c.2.drained = true
  walk : s.cache.walk = none
  sent : s.out.orig = []
  reports : s.saf.rptEn = false ∨ s.saf.queue = []
  egress : s.out.egress = []
  wire : s.out.wire = []
  ports : ∀ p ∈ s.lnk.txFree, p.2 ≤ s.env.sc
  xpOut : s.fg.xpq = []
  accesses : s.fg.accs = []
  reads : s.fg.reads = []
  xpIn : s.fg.xpIn = []
  held : s.fg.held = []
  checks : s.coh.checks = []

theorem drained_iff (s : State) : drained s = true ↔ Drained s ∧ s.out.sb = [] := by
  unfold drained
  simp only [Bool.and_eq_true, List.isEmpty_iff, List.all_eq_true, beq_iff_eq, Bool.not_eq_true', Bool.or_eq_true,
    decide_eq_true_eq, Option.isNone_iff_eq_none]
  constructor
  · rintro ⟨⟨⟨⟨⟨⟨⟨⟨⟨⟨⟨⟨⟨⟨⟨⟨⟨⟨⟨⟨⟨⟨⟨⟨⟨h1, h2⟩, h3⟩, h4⟩, h5⟩, h6⟩, h7⟩, h8⟩, h9⟩, h10⟩, h11⟩, h12⟩, h13⟩, h14⟩, h15⟩, h16⟩, sb⟩, h17⟩,
      h18⟩, h19⟩, h20⟩, h21⟩, h22⟩, h23⟩, h24⟩, h25⟩
    exact ⟨⟨h1, h2, h3, h4, h5, h6, h7, h8, h9, h10, h11, h12, h13, h14, h15, h16, h17, h18, h19, h20, h21, h22, h23, h24, h25⟩, sb⟩
  · rintro ⟨⟨h1, h2, h3, h4, h5, h6, h7, h8, h9, h10, h11, h12, h13, h14, h15, h16, h17, h18, h19, h20, h21, h22, h23, h24, h25⟩, sb⟩
    exact ⟨⟨⟨⟨⟨⟨⟨⟨⟨⟨⟨⟨⟨⟨⟨⟨⟨⟨⟨⟨⟨⟨⟨⟨⟨h1, h2⟩, h3⟩, h4⟩, h5⟩, h6⟩, h7⟩, h8⟩, h9⟩, h10⟩, h11⟩, h12⟩, h13⟩, h14⟩, h15⟩, h16⟩, sb⟩, h17⟩,
      h18⟩, h19⟩, h20⟩, h21⟩, h22⟩, h23⟩, h24⟩, h25⟩

theorem quiet_rest {s : State} (h : Quiet s) : Drained s := by
  obtain ⟨d, -⟩ := (drained_iff _).1 h.drained
  exact { d with }

theorem drained_state {x : Ctx} (h : x.drained = true) : x.state = .idle ∨ x.state = .susp ∨ x.state = .fault := by
  unfold Ctx.drained at h
  cases e : x.state <;> simp [e] at h ⊢

theorem mem_of_tfind {α : Type} {t : Table α} {k : Nat} {a : α} (h : tfind t k = some a) : (k, a) ∈ t := by
  induction t with
  | nil => cases h
  | cons p r ih =>
    obtain ⟨i, b⟩ := p
    unfold tfind at h
    split at h
    case isTrue e =>
      subst e
      obtain rfl := Option.some_inj.1 h
      exact List.mem_cons_self
    case isFalse => exact List.mem_cons_of_mem _ (ih h)

/-- A property of the unlisted value and of every listed one holds at every index. -/
theorem tget_of_mem {α : Type} [DecidableEq α] {P : α → Prop} {d : α} {t : Table α} (hd : P d) (ht : ∀ p ∈ t, P p.2) (k : Nat) :
    P (tget d t k) := by
  unfold tget
  cases h : tfind t k with
  | none => exact hd
  | some a => exact ht _ (mem_of_tfind h)

theorem getCtx_drained {s : State} (h : Drained s) (c : Nat) : (getCtx s c).drained = true :=
  tget_of_mem (P := fun x : Ctx => x.drained = true) rfl h.contexts c

/-! ### What lands is nothing -/

/-- Nothing is to land at the beginning of an sc, and no check fails. -/
structure Landed (s : State) : Prop where
  events : s.seq.evNext = 0
  xpIn : s.fg.xpIn = []
  reads : s.fg.reads = []
  writes : s.mov.written = []
  nodes : s.red.forming = []
  words : s.red.contribs = []
  checks : s.coh.checks = []
  egress : s.out.egress = []
  config : s.saf.cfgBad = []
  monitor : s.saf.monBad = false

section
variable {s : State} (h : Landed s)
include h

theorem raiseEvents_landed : raiseEvents s = s := by
  rw [raiseEvents, h.events, setFlags, if_pos rfl, ← h.events]

theorem landXp_landed : landXp s = s := by
  simp only [landXp, h.xpIn, List.filter_nil, List.foldl_nil]
  rw [← h.xpIn]

theorem landReads_landed : landReads s = s := by
  simp only [landReads, h.reads, List.filter_nil, List.foldl_nil]
  rw [← h.reads]

theorem landMoves_landed : landMoves s = s := by
  simp only [landMoves, h.writes, List.filter_nil, List.foldl_nil]
  rw [← h.writes]

theorem landRoots_landed : landRoots s = s := by
  rw [landRoots, h.nodes]
  rfl

theorem landContribs_landed : landContribs s = s := by
  simp only [landContribs, h.words, List.filter_nil, List.foldl_nil]
  rw [← h.words]

theorem landChecks_landed : landChecks s = s := by
  simp only [landChecks, h.checks, List.filter_nil, List.foldl_nil]
  rw [← h.checks]

theorem landings_landed : landings s = s := by
  rw [landings, landXp_landed h, landReads_landed h, landMoves_landed h, landRoots_landed h, landContribs_landed h,
    landChecks_landed h]

theorem checkUses_landed : checkUses s = s := by
  rw [checkUses, useConfig_eq (.inr h.config)]
  simp [h.monitor]

theorem startPort_landed (p : Port) : startPort p s = s := by
  simp [startPort, portNext, h.egress, earliest]

end

theorem passSc_landed {s : State} (h : Landed (openSc (closeSc s))) : passSc s = openSc (closeSc s) := by
  rw [passSc, raiseEvents_landed h, landings_landed h, checkUses_landed h, startPort_landed h, startPort_landed h]

/-! ### The end of a quiet sc -/

/-- What the end of a quiet sc moves on: the turn of the issue slot, the counts of the classes, the reservations, the credits. -/
structure Turns where
  cur : Option Nat
  notBefore : Nat
  departed : Nat
  heelQ : List (Nat × Nat)
  heelAll : List Nat
  cls : Table Machine.Class
  suspNow : BitVec 16
  resv : List Resv
  initPulses : Nat
  rxOwed : Table Nat

/-- s with what moves on. -/
def Turns.over (x : Turns) (s : State) : State :=
  { s with
    seq := { s.seq with cur := x.cur, notBefore := x.notBefore, departed := x.departed, heelQ := x.heelQ, heelAll := x.heelAll }
    reg := { s.reg with cls := x.cls, suspNow := x.suspNow }
    coh := { s.coh with resv := x.resv }
    lnk := { s.lnk with initPulses := x.initPulses, rxOwed := x.rxOwed } }

/-- From s to t nothing else changes. -/
def TurnsOnly (s t : State) : Prop := ∃ x : Turns, t = x.over s

/-- What moves on, as it stands in a state. -/
def turnsOf (t : State) : Turns :=
  ⟨t.seq.cur, t.seq.notBefore, t.seq.departed, t.seq.heelQ, t.seq.heelAll, t.reg.cls, t.reg.suspNow, t.coh.resv,
    t.lnk.initPulses, t.lnk.rxOwed⟩

/-- To show it of a given t, the fields that are not named must be those of s: true by rfl. -/
theorem TurnsOnly.of {s t : State} (h : t = (turnsOf t).over s := by rfl) : TurnsOnly s t := ⟨_, h⟩

theorem TurnsOnly.rfl {s : State} : TurnsOnly s s := .of

theorem TurnsOnly.trans {s t u : State} (h : TurnsOnly s t) (k : TurnsOnly t u) : TurnsOnly s u := by
  obtain ⟨x, hx⟩ := h
  obtain ⟨y, hy⟩ := k
  exact ⟨y, by rw [hy, hx]; rfl⟩

theorem applyDue_quiet {s : State} (h : s.seq.done = []) : applyDue s = s := by
  simp only [applyDue, h, List.filter_nil, List.foldl_nil]
  rw [← h]

theorem endStalls_drained {s : State} (h : Drained s) : endStalls s = s := by
  refine List.foldlRecOn (motive := fun t => t = s) _ _ rfl fun t ht c _ => ?_
  subst ht
  refine if_neg fun hc => ?_
  rcases drained_state (getCtx_drained h c) with e | e | e <;> simp [e] at hc

theorem endHeelTurn_turns (s : State) : TurnsOnly s (endHeelTurn s) := by
  unfold endHeelTurn
  split
  case h_1 c hc =>
    split
    case isTrue =>
      rw [(heelIssued_spec c s).2.1]
      exact .of
    case isFalse => exact .rfl
  case h_2 => exact .rfl

theorem chooseCurrent_turns {s : State} (h : Drained s) : TurnsOnly s (chooseCurrent s) := by
  have notReady (c : Nat) : (getCtx s c).state ≠ .ready := fun hc => by
    rcases drained_state (getCtx_drained h c) with e | e | e <;> simp [e] at hc
  unfold chooseCurrent
  split
  case isTrue => exact .rfl
  case isFalse =>
    split
    case h_1 c hc =>
      simp only [notReady c, false_and, if_false]
      exact .of
    case h_2 =>
      split
      case h_1 => exact .of
      case h_2 => exact .rfl

theorem allClasses_turns (f : Nat → Machine.Class → Machine.Class) (s : State) : TurnsOnly s (allClasses f s) :=
  List.foldlRecOn _ _ .rfl fun _ h _ _ => h.trans .of

theorem suspended_turns (s : State) : TurnsOnly s { s with reg := { s.reg with suspNow := s.reg.suspNow ||| s.env.smHold } } := .of

theorem endRegulation_turns (s : State) : TurnsOnly s (endRegulation s) := by
  unfold endRegulation
  split
  case isTrue => exact (allClasses_turns _ s).trans (suspended_turns _)
  case isFalse => exact .rfl

theorem advanceHome_turns {s : State} (h : Drained s) : TurnsOnly s (advanceHome s) := by
  refine .of ?_
  simp only [advanceHome, h.trackers, List.map_nil, turnsOf, Turns.over]

theorem returnPulses_turns (s : State) : TurnsOnly s (returnPulses s) := by
  unfold returnPulses
  split
  case isTrue => exact .of
  case isFalse => exact .of

theorem drained_over {s : State} (h : Drained s) (x : Turns) : Drained (x.over s) :=
  { h with }

theorem TurnsOnly.drained {s t : State} (k : TurnsOnly s t) (h : Drained s) : Drained t := by
  obtain ⟨x, rfl⟩ := k
  exact drained_over h x

theorem formAdds_quiet {s : State} (h : s.red.forming = []) : formAdds s = s := by
  rw [formAdds, h]
  rfl

theorem takeDescriptors_quiet {s : State} (h : s.red.contribs = []) : takeDescriptors s = s := by
  simp only [takeDescriptors, h, List.filter_nil, List.foldl_nil]
  rw [← h]

theorem orderReports_quiet {s : State} (h : s.saf.formed = []) : orderReports s = s := by
  simp only [orderReports, h]

/-- At the end of a quiet sc, what moves on moves on, and the reads of the sc are sampled. -/
theorem closeSc_quiet {s : State} (h : Quiet s) : ∃ x : Turns, closeSc s = sampleReads (x.over s) := by
  have d := quiet_rest h
  have issue : TurnsOnly s (endIssueSlot s) := by
    rw [endIssueSlot, applyDue_quiet h.results, endStalls_drained d]
    have turn := endHeelTurn_turns s
    exact turn.trans (chooseCurrent_turns (turn.drained d))
  have counts := issue.trans (endRegulation_turns _)
  obtain ⟨x, hx⟩ := (counts.trans (advanceHome_turns (counts.drained d))).trans (returnPulses_turns _)
  refine ⟨x, ?_⟩
  rw [closeSc, formAdds_quiet h.words.2, takeDescriptors_quiet h.words.1, orderReports_quiet h.formed, hx]

/-! ### The reads of the sc -/

theorem readValue_counterLo (s : State) : readValue s 0x402 = word32 (shownCounter s) 0 := by
  simp [readValue, readReg, readTick]

theorem readValue_seedLo (s : State) : readValue s 0x2805 = word32 (selectedStream s).seed 0 := by
  simp [readValue, readReg, readDeterminism]

theorem readValue_stepLo (s : State) : readValue s 0x2807 = word32 (selectedStream s).step 0 := by
  simp [readValue, readReg, readDeterminism]

theorem readValue_scent0 (s : State) : readValue s 0x280C = word32 (shownDigest (selectedStream s)) 0 := by
  simp [readValue, readReg, readDeterminism]

theorem readValue_pscent0 (s : State) : readValue s 0x2810 = word32 (shownProgramScent s) 0 := by
  simp [readValue, readReg, readDeterminism]

theorem readValue_tagData0 (s : State) : readValue s 0x3801 = word32 (tagSample s) 0 := by
  simp [readValue, readReg, readTags]

theorem readValue_pstoreLo (s : State) (i : BitVec 14) :
    readValue s (0x20000 + 2 * i.toNat) = if psBusyNow s then 0 else word32 (storedInsn s i.toNat) 0 := by
  have hi := i.isLt
  have lo : 0x20000 ≤ 0x20000 + 2 * i.toNat ∧ 0x20000 + 2 * i.toNat < 0x28000 := by omega
  have even : (0x20000 + 2 * i.toNat - 0x20000) % 2 = 0 := by omega
  have half : (0x20000 + 2 * i.toNat - 0x20000) / 2 = i.toNat := by omega
  rw [readValue, readReg, if_pos lo, readWindow, if_pos even, half]
  split <;> simp

section
variable {s : State} {i : BitVec 14}

theorem sampleRead_pstore_busy (hb : psBusyNow s = true) :
    sampleRead (.pstoreLo i) s = (0, seqReject (capture (fun h => { h with pstore := 0 }) s)) := by
  rw [sampleRead, readValue_pstoreLo, if_pos hb, if_pos hb]

theorem sampleRead_pstore_listed (hb : psBusyNow s = false) (hs : (tfind s.seq.pstore i.toNat).isSome = true) :
    sampleRead (.pstoreLo i) s = (word32 (storedInsn s i.toNat) 0,
      capture (fun h => { h with pstore := word32 (storedInsn s i.toNat) 1 }) s) := by
  rw [sampleRead, readValue_pstoreLo, if_neg (Bool.eq_false_iff.1 hb), if_neg (Bool.eq_false_iff.1 hb)]
  exact congrArg _ (if_pos hs)

theorem sampleRead_pstore_free (hb : psBusyNow s = false) (hs : (tfind s.seq.pstore i.toNat).isSome = false) :
    sampleRead (.pstoreLo i) s = (word32 (storedInsn s i.toNat) 0,
      { capture (fun h => { h with pstore := word32 (storedInsn s i.toNat) 1 }) s with fresh := s.fresh + 1 }) := by
  rw [sampleRead, readValue_pstoreLo, if_neg (Bool.eq_false_iff.1 hb), if_neg (Bool.eq_false_iff.1 hb)]
  exact congrArg _ (if_neg (Bool.eq_false_iff.1 hs))

end

/-- What moves on has no part in what the reads sample. -/
theorem sampleRead_over (x : Turns) (k : SbRead) (s : State) :
    sampleRead k (x.over s) = ((sampleRead k s).1, x.over (sampleRead k s).2) := by
  cases k
  case pstoreLo i =>
    cases hb : psBusyNow s with
    | true =>
      rw [sampleRead_pstore_busy hb, sampleRead_pstore_busy (s := x.over s) hb]
      rfl
    | false =>
      cases hs : (tfind s.seq.pstore i.toNat).isSome with
      | true =>
        rw [sampleRead_pstore_listed hb hs, sampleRead_pstore_listed (s := x.over s) hb hs]
        rfl
      | false =>
        rw [sampleRead_pstore_free hb hs, sampleRead_pstore_free (s := x.over s) hb hs]
        rfl
  all_goals
    simp only [sampleRead, readValue_counterLo, readValue_seedLo, readValue_stepLo, readValue_scent0, readValue_pscent0,
      readValue_tagData0]
    rfl

theorem sampleResponse_over (x : Turns) (p : SbResp × Nat) (s : State) :
    sampleResponse (x.over s) p = x.over (sampleResponse s p) := by
  unfold sampleResponse
  split
  case h_1 => rfl
  case h_2 k _ =>
    rw [sampleRead_over]
    rfl

theorem sampleReads_over (x : Turns) (s : State) : sampleReads (x.over s) = x.over (sampleReads s) := by
  have all (l : List (SbResp × Nat)) (s : State) : l.foldl sampleResponse (x.over s) = x.over (l.foldl sampleResponse s) := by
    induction l generalizing s with
    | nil => rfl
    | cons p l ih => rw [List.foldl_cons, List.foldl_cons, sampleResponse_over, ih]
  exact all _ s

/-- From s to t the reads change nothing but what they capture, and the responses leave when they would have left. -/
structure Sampled (s t : State) : Prop where
  same : t = { s with fresh := t.fresh, seq := { s.seq with cmdRej := t.seq.cmdRej }
                      det := { s.det with shadows := t.det.shadows }, out := { s.out with sb := t.out.sb } }
  leaves : ∀ n, (∀ r ∈ s.out.sb, n < r.leaves) → ∀ r ∈ t.out.sb, n < r.leaves

theorem sampleRead_same (k : SbRead) (s : State) :
    let t := (sampleRead k s).2
    t = { s with fresh := t.fresh, seq := { s.seq with cmdRej := t.seq.cmdRej }, det := { s.det with shadows := t.det.shadows } } := by
  cases k
  case pstoreLo i =>
    cases hb : psBusyNow s with
    | true =>
      rw [sampleRead_pstore_busy hb]
      rfl
    | false =>
      cases hs : (tfind s.seq.pstore i.toNat).isSome with
      | true =>
        rw [sampleRead_pstore_listed hb hs]
        rfl
      | false =>
        rw [sampleRead_pstore_free hb hs]
        rfl
  all_goals rfl

theorem sampleReads_sampled (s : State) : Sampled s (sampleReads s) := by
  have all (l : List (SbResp × Nat)) (t : State) (ht : Sampled s t) (hl : ∀ p ∈ l, p.1 ∈ s.out.sb) :
      Sampled s (l.foldl sampleResponse t) := by
    induction l generalizing t with
    | nil => exact ht
    | cons p l ih =>
      rw [List.foldl_cons]
      refine ih _ ?_ fun q hq => hl q (List.mem_cons_of_mem _ hq)
      unfold sampleResponse
      split
      case h_1 => exact ht
      case h_2 k _ =>
        have hr := sampleRead_same k t
        have sb : (sampleRead k t).2.out.sb = t.out.sb := by rw [hr]
        refine ⟨?_, fun n hn r hm => ?_⟩
        · simp only
          rw [hr, ht.same]
        · rcases List.mem_or_eq_of_mem_set hm with hm | hm
          · exact ht.leaves n hn r (sb ▸ hm)
          · rw [hm]
            exact hn p.1 (hl p List.mem_cons_self)
  refine all _ s ⟨rfl, fun _ h => h⟩ fun p hp => ?_
  exact (List.mem_zipIdx' hp).2 ▸ List.getElem_mem _

/-! ### The next sc -/

theorem PeriodKept.trans {a b c : BitVec 5} {x y z : Option (BitVec 5)} (h : PeriodKept a x b y) (k : PeriodKept b y c z) :
    PeriodKept a x c z := by
  rcases h with ⟨rfl, rfl⟩ | ⟨hx, rfl⟩
  · exact k
  · rcases k with ⟨rfl, rfl⟩ | ⟨hn, -⟩
    · exact .inr ⟨hx, Eq.refl _⟩
    · cases hn

/-- From s to t the passing of boundaries of a parked slice changes what it counts, and takes up pending lengths. -/
structure Passed (s t : State) : Prop where
  same : t = { s with
    tick := { s.tick with parkFrames := t.tick.parkFrames, frameLog2 := t.tick.frameLog2, framePend := t.tick.framePend }
    bg := { s.bg with tel := t.bg.tel, calDeferred := t.bg.calDeferred }
    coh := { s.coh with nackPrev := t.coh.nackPrev, nackNow := t.coh.nackNow }
    atom := t.atom
    reg := { s.reg with cls := t.reg.cls, suspNow := t.reg.suspNow, suspPrev := t.reg.suspPrev
                        winLog2 := t.reg.winLog2, winPend := t.reg.winPend } } := by rfl
  frame : PeriodKept s.tick.frameLog2 s.tick.framePend t.tick.frameLog2 t.tick.framePend := by exact .rfl
  window : PeriodKept s.reg.winLog2 s.reg.winPend t.reg.winLog2 t.reg.winPend := by exact .rfl

theorem Passed.refl (s : State) : Passed s s := {}

theorem Passed.trans {s t u : State} (h : Passed s t) (k : Passed t u) : Passed s u where
  same := by rw [k.same, h.same]
  frame := h.frame.trans k.frame
  window := h.window.trans k.window

theorem skipSlots_passed (n : Nat) (s : State) : Passed s (skipSlots n s) := {}

theorem setClass_passed (s : State) (c : Nat) (f : Machine.Class → Machine.Class) : Passed s (setClass s c f) := {}

theorem allClasses_passed (f : Nat → Machine.Class → Machine.Class) (s : State) : Passed s (allClasses f s) :=
  List.foldlRecOn _ _ (.refl s) fun _ h _ _ => h.trans (setClass_passed _ _ _)

theorem rollCounts_passed (s : State) : Passed s (rollCounts s) := by
  have shown (s : State) : Passed s { s with
      coh := { s.coh with nackPrev := s.coh.nackNow, nackNow := 0 }
      atom := { s.atom with donePrev := s.atom.doneNow, poisPrev := s.atom.poisNow, doneNow := 0, poisNow := 0 }
      reg := { s.reg with suspPrev := s.reg.suspNow, suspNow := 0 } } := {}
  exact (allClasses_passed _ s).trans (shown _)

theorem coverFrame_passed (s : State) : Passed s (coverFrame s) := {}

theorem parkedBoundary_passed (n : Nat) (s : State) : Passed s (parkedBoundary n s) := by
  have counted (s : State) : Passed s { s with
      tick := { s.tick with parkFrames := satAdd 65535 s.tick.parkFrames 1 }
      bg := { s.bg with calDeferred := s.bg.calDeferred || calFrame s n, tel := { s.bg.tel with missIn := true } } } := {}
  exact ((rollCounts_passed s).trans (coverFrame_passed _)).trans (counted _)

theorem passFrames_passed (l a b : Nat) (s : State) : Passed s (passFrames l a b s) := by
  have after (due : Bool) (k : Nat) (s : State) : Passed s { s with
      tick := { s.tick with parkFrames := satAdd 65535 s.tick.parkFrames k }
      bg := { s.bg with calDeferred := s.bg.calDeferred || due
                        tel := { s.bg.tel with span := satAdd 65535 s.bg.tel.span k } } } := {}
  unfold passFrames
  dsimp only
  split
  · exact .refl s
  · split
    · exact parkedBoundary_passed _ s
    · exact ((parkedBoundary_passed _ s).trans (parkedBoundary_passed _ _)).trans (after _ _ _)

theorem allClasses_keeps {α : Type} (g : State → α) (hg : ∀ s c f, g (setClass s c f) = g s) (f : Nat → Machine.Class → Machine.Class)
    (s : State) : g (allClasses f s) = g s :=
  List.foldlRecOn (motive := fun t : State => g t = g s) _ _ rfl fun _ h _ _ => (hg _ _ _).trans h

theorem parkedBoundary_pend (n : Nat) (s : State) : (parkedBoundary n s).tick.framePend = s.tick.framePend := by
  simp only [parkedBoundary, coverFrame, rollCounts]
  exact allClasses_keeps (fun s => s.tick.framePend) (fun _ _ _ => rfl) _ s

theorem passFrames_pend (l a b : Nat) (s : State) : (passFrames l a b s).tick.framePend = s.tick.framePend := by
  unfold passFrames
  dsimp only
  split
  · rfl
  · split
    · exact parkedBoundary_pend _ s
    · simp only [parkedBoundary_pend]

theorem passBoundaries_passed (a b : Nat) (s : State) : Passed s (passBoundaries a b s) := by
  unfold passBoundaries
  dsimp only
  split
  · exact passFrames_passed _ _ _ s
  · next n hn =>
    have taken (s : State) (h : s.tick.framePend = some n) : Passed s { s with
        tick := { s.tick with frameLog2 := n, framePend := none } } := { frame := .inr ⟨h, rfl⟩ }
    split
    · exact passFrames_passed _ _ _ s
    · exact ((passFrames_passed _ _ _ s).trans (taken _ ((passFrames_pend ..).trans hn))).trans (passFrames_passed _ _ _ _)

theorem parkedWindow_passed (m : Nat) (s : State) : Passed s (parkedWindow m s) := by
  unfold parkedWindow
  dsimp only
  split
  · exact allClasses_passed _ s
  · next n hn =>
    have taken (s : State) (h : s.reg.winPend = some n) : Passed s { s with reg := { s.reg with winLog2 := n, winPend := none } } :=
      { window := .inr ⟨h, rfl⟩ }
    split
    · exact (allClasses_passed _ s).trans (taken _ hn)
    · exact allClasses_passed _ s

theorem passWhileParked_passed (a b : Nat) (s : State) : Passed s (passWhileParked a b s) := by
  have skipped := skipSlots_passed (slotsBetween a b) s
  unfold passWhileParked
  dsimp only
  split
  · exact skipped.trans (passBoundaries_passed _ _ _)
  · exact ((skipped.trans (passBoundaries_passed _ _ _)).trans (parkedWindow_passed _ _)).trans (passBoundaries_passed _ _ _)

theorem passParked_passed (was s : State) : Passed s (passParked was s) := by
  unfold passParked
  dsimp only
  split
  · exact passWhileParked_passed _ _ s
  · exact .refl s

/-- The next sc before pk_ack takes its new value. -/
def opened (was : State) : State :=
  let quiet := was.seq.quiet && quietNow was
  let s := ageStrobe was
  let t := nextCounter s
  let begins := t.cntValid && decide (t.counter.toNat % 2 ^ t.frameLog2.toNat = 0)
  { s with
    tick := t
    env := { s.env with sc := s.env.sc + 1, sbOpen := s.env.sbRdy, done := { Done.none with deadlock := begins && quiet } }
    seq := { s.seq with quiet := begins || quiet, evArr := 0 }
    saf := { s.saf with alert := s.saf.pend, formed := [] }
    coh := { s.coh with declared := 0 }
    bg := { s.bg with celNow := [] }
    red := { s.red with slots := s.red.slots.filter fun p => decide (s.env.sc < p.1) }
    out := { s.out with wire := [], sb := s.out.sb.filter fun r => decide (s.env.sc < r.leaves) } }

theorem openSc_eq (was : State) : openSc was = passParked was (driveSbRdy was (parkEdge was (opened was))) := rfl

theorem ageStrobe_eq (s : State) : ageStrobe s = { s with tick := { s.tick with strobeAge := (ageStrobe s).tick.strobeAge } } := by
  unfold ageStrobe
  split <;> rfl

/-- pk_ack takes its new value, and its edges touch only what they start or stop. -/
theorem parkEdge_eq (was s : State) : ∃ scRun reload parkFrames bg hbFirst, parkEdge was s = { s with
    env := { s.env with pkAck := s.env.ackNext, scRun := scRun, reload := reload }
    tick := { s.tick with parkFrames := parkFrames }, bg := bg, saf := { s.saf with hbFirst := hbFirst } } := by
  unfold parkEdge
  split
  case isTrue h =>
    have ack : s.env.ackNext = true := (Bool.and_eq_true_iff.1 h).1
    refine ⟨false, true, 0, { s.bg with tel := { s.bg.tel with parkIn := true } }, true, ?_⟩
    rw [ack]
    rfl
  case isFalse h =>
    split
    case isTrue => exact ⟨s.env.scRun, s.env.reload, s.tick.parkFrames, _, s.saf.hbFirst, rfl⟩
    case isFalse h' =>
      have same : s.env.ackNext = s.env.pkAck := by
        cases ha : s.env.ackNext <;> cases hp : s.env.pkAck <;> simp [ha, hp] at h h' ⊢
      refine ⟨s.env.scRun, s.env.reload, s.tick.parkFrames, s.bg, s.saf.hbFirst, ?_⟩
      rw [same]

/-- What the beginning of an sc leaves as it was: all but the clock, the counts and the outputs of the sc. -/
theorem openSc_frame (was : State) : ∃ scRun reload tick bg atom reg hbFirst nackNow nackPrev,
    openSc was = { was with
      env := { was.env with
        sc := was.env.sc + 1, sbOpen := was.env.sbRdy, done := (opened was).env.done
        pkAck := was.env.ackNext, scRun := scRun, reload := reload, sbRdy := !(was.env.pkAck && was.env.ackNext) }
      tick := tick, bg := bg, atom := atom, reg := reg
      saf := { was.saf with alert := was.saf.pend, formed := [], hbFirst := hbFirst }
      seq := { was.seq with quiet := (opened was).seq.quiet, evArr := 0 }
      coh := { was.coh with declared := 0, nackNow := nackNow, nackPrev := nackPrev }
      red := { was.red with slots := (opened was).red.slots }
      out := { was.out with wire := [], sb := was.out.sb.filter fun r => decide (was.env.sc < r.leaves) } } := by
  obtain ⟨scRun, reload, parkFrames, bg, hbFirst, he⟩ := parkEdge_eq was (opened was)
  have hp := (passParked_passed was (driveSbRdy was (parkEdge was (opened was)))).same
  refine ⟨scRun, reload, (openSc was).tick, (openSc was).bg, (openSc was).atom, (openSc was).reg, hbFirst,
    (openSc was).coh.nackNow, (openSc was).coh.nackPrev, ?_⟩
  rw [openSc_eq]
  generalize passParked was (driveSbRdy was (parkEdge was (opened was))) = t at hp
  rw [he] at hp
  rw [hp]
  simp only [driveSbRdy, opened]
  rw [ageStrobe_eq]

theorem sampled_over {s : State} (x : Turns) : ∃ fresh cmdRej shadows sb, x.over (sampleReads s) = { x.over s with
    fresh := fresh, seq := { (x.over s).seq with cmdRej := cmdRej }, det := { s.det with shadows := shadows }
    out := { s.out with sb := sb } } :=
  ⟨(sampleReads s).fresh, (sampleReads s).seq.cmdRej, (sampleReads s).det.shadows, (sampleReads s).out.sb,
    (congrArg x.over (sampleReads_sampled s).same).trans rfl⟩

theorem landed_openSc {s : State} (h : Quiet s) (x : Turns) : Landed (openSc (x.over (sampleReads s))) := by
  have d := quiet_rest h
  obtain ⟨fresh, cmdRej, shadows, sb, hw⟩ := sampled_over (s := s) x
  obtain ⟨scRun, reload, tick, bg, atom, reg, hbFirst, nackNow, nackPrev, ho⟩ := openSc_frame (x.over (sampleReads s))
  rw [ho, hw]
  exact { events := h.flags, xpIn := d.xpIn, reads := d.reads, writes := h.writes, nodes := h.words.2, words := h.words.1
          checks := d.checks, egress := d.egress, config := h.sound.1, monitor := h.sound.2 }

/-- The passing of a quiet sc. -/
theorem tick_quiet {s : State} (h : Quiet s) :
    ∃ x : Turns, tick s = settle s (settlePassed s (openSc (x.over (sampleReads s)))) := by
  obtain ⟨x, hx⟩ := closeSc_quiet h
  rw [sampleReads_over] at hx
  refine ⟨x, ?_⟩
  have hl : Landed (openSc (closeSc s)) := hx ▸ landed_openSc h x
  simp only [tick, h.ready]
  rw [passSc_landed hl, hx]

/-- Where the slice is neither parked nor about to be, the counter goes on. -/
theorem openSc_tick {was : State} (hp : was.env.pkAck = false) (ha : was.env.ackNext = false) :
    (openSc was).tick = nextCounter (ageStrobe was) := by
  have ack : (opened was).env.ackNext = false := by rw [opened, ageStrobe_eq]; exact ha
  have park : (opened was).env.pkAck = false := by rw [opened, ageStrobe_eq]; exact hp
  have edge : (parkEdge was (opened was)).tick = (opened was).tick ∧ (parkEdge was (opened was)).env.pkAck = false := by
    unfold parkEdge
    simp only [ack, park, Bool.false_and, Bool.false_eq_true, if_false]
    split
    · exact ⟨rfl, rfl⟩
    · exact ⟨rfl, park⟩
  rw [openSc_eq, passParked]
  simp only [driveSbRdy, edge.2, Bool.false_and, Bool.false_eq_true, if_false]
  exact edge.1

theorem nextCounter_running {s : State} (hp : s.env.pkAck = false) :
    (nextCounter (ageStrobe s)).counter = (match s.tick.load with
      | some v => v + 1
      | none => if s.tick.cntValid then s.tick.counter + 1 else s.tick.counter)
    ∧ (nextCounter (ageStrobe s)).cntValid = (s.tick.load.isSome || s.tick.cntValid) ∧ (nextCounter (ageStrobe s)).load = none := by
  rw [ageStrobe_eq]
  unfold nextCounter
  cases hl : s.tick.load with
  | some v => simp
  | none => cases hv : s.tick.cntValid <;> simp [hp, hl, hv]

theorem sampleReads_none {s : State} (h : s.out.sb = []) : sampleReads s = s := by
  rw [sampleReads, h]
  rfl

theorem tick_off {s : State} (h : s.env.phase = .held ∨ s.env.phase = .stuck) : Machine.tick s = s := by
  rcases h with h | h <;> simp only [Machine.tick, h]

theorem tick_rises {s : State} (h : s.env.phase = .fuseLoad ∨ s.env.phase = .tagClear) :
    Machine.tick s = { s with env := { s.env with sc := s.env.sc + 1 } } := by
  rcases h with h | h <;> simp only [Machine.tick, h]

theorem heldNext_some {s : State} {c : Instr} {rest : List Instr} (h : heldNext s = some (c, rest)) : s.fg.held = c :: rest := by
  unfold heldNext at h
  split at h
  case h_1 => cases h
  case h_2 c' rest' hf =>
    obtain ⟨-, he⟩ := Option.ite_none_right_eq_some.1 h
    simp only [Option.some_inj, Prod.mk.injEq] at he
    rw [hf, he.1, he.2]

/-- A message acts through `receive`. -/
theorem exec_receive {c : Instr} {a : Arrival} (s : State) (h : arrivalOf c = some a) : ∃ body, exec c s = receive c s body := by
  cases c
  case rds => unfold exec execRds; exact ⟨_, rfl⟩
  case rdx => unfold exec execRdx; exact ⟨_, rfl⟩
  case upg => unfold exec execUpg; exact ⟨_, rfl⟩
  case rdu => unfold exec execRdu; exact ⟨_, rfl⟩
  case wrfull => unfold exec execWrfull; exact ⟨_, rfl⟩
  case wrpart => unfold exec execWrpart; exact ⟨_, rfl⟩
  case prefetch => unfold exec execPrefetch; exact ⟨_, rfl⟩
  case reqUnassigned => unfold exec execReqUnassigned; exact ⟨_, rfl⟩
  case wbUnassigned => unfold exec execWbUnassigned; exact ⟨_, rfl⟩
  case wbd => unfold exec execWbd; exact ⟨_, rfl⟩
  case evc => unfold exec execEvc; exact ⟨_, rfl⟩
  case snprsp => unfold exec execSnprsp; exact ⟨_, rfl⟩
  case xrsp => unfold exec execXrsp; exact ⟨_, rfl⟩
  case xack => unfold exec execXack; exact ⟨_, rfl⟩
  case memUnassigned => unfold exec execMemUnassigned; exact ⟨_, rfl⟩
  case atreq => unfold exec execAtreq; exact ⟨_, rfl⟩
  case reserve => unfold exec execReserve; exact ⟨_, rfl⟩
  case commit => unfold exec execCommit; exact ⟨_, rfl⟩
  case take => unfold exec execTake; exact ⟨_, rfl⟩
  case free => unfold exec execFree; exact ⟨_, rfl⟩
  case credit => unfold exec execCredit; exact ⟨_, rfl⟩
  case chopReserved => unfold exec execChopReserved; exact ⟨_, rfl⟩
  case callMessage => unfold exec execCallMessage; exact ⟨_, rfl⟩
  case pkctb => unfold exec execPkctb; exact ⟨_, rfl⟩
  case datau => unfold exec execDatau; exact ⟨_, rfl⟩
  case cmp => unfold exec execCmp; exact ⟨_, rfl⟩
  case sts => unfold exec execSts; exact ⟨_, rfl⟩
  case atrsp => unfold exec execAtrsp; exact ⟨_, rfl⟩
  case pkrsp => unfold exec execPkrsp; exact ⟨_, rfl⟩
  case callrsp => unfold exec execCallrsp; exact ⟨_, rfl⟩
  all_goals cases h

theorem receive_waits {s : State} {c : Instr} {a : Arrival} (h : inUse s) (ha : arrivalOf c = some a) (ht : inTurn s a = false)
    (body : State → State) : receive c s body = .next { s with fg := { s.fg with held := s.fg.held ++ [c] } } := by
  rw [receive, event_next h]
  simp only [keepConfig, ha, ht, Bool.false_eq_true, if_false]
  rfl

/-- Settles O3: `step` on an empty queue is `idle`, whose cases are the first four; the passing of a quiet sc is what `tick_quiet`
says; a message or a transaction out of turn is held. -/
theorem emptyQueueLetsTimePass : Obligations.EmptyQueueLetsTimePass := by
  unfold Obligations.EmptyQueueLetsTimePass
  constructor
  · intro s hq hw
    dsimp only
    rw [step_empty hq]
    refine ⟨?held, ?compare, ?due, ?still, ?rises, ?passes⟩
    case held => exact fun c rest t hn he => ⟨heldNext_some hn, (idle_held hw hn).trans (execHeld_next rest he)⟩
    case compare => exact fun hn hc => idle_compare hw hn hc
    case due => exact fun c hn hc hd => idle_due hw hn hc hd
    case still => exact fun ⟨hn, hc, hd⟩ hp => (idle_passes hw hn hc hd).trans (congrArg _ (tick_off hp))
    case rises => exact fun ⟨hn, hc, hd⟩ hp => (idle_passes hw hn hc hd).trans (congrArg _ (tick_rises hp))
    case passes =>
      rintro ⟨hn, hc, hd⟩ h hsb hp ha
      obtain ⟨x, hx⟩ := tick_quiet h
      rw [sampleReads_none hsb] at hx
      have ht := openSc_tick (was := x.over s) hp ha
      have egress := (quiet_rest h).egress
      obtain ⟨counter, valid, load⟩ := nextCounter_running (s := x.over s) hp
      obtain ⟨scRun, reload, tick, bg, atom, reg, hbFirst, nackNow, nackPrev, ho⟩ := openSc_frame (x.over s)
      refine ⟨_, idle_passes hw hn hc hd, ?_⟩
      rw [hx]
      refine ⟨congrArg (·.env.sc) ho, ?_, ?_, ?_, ?_, ?_, ?_, ?_, ?_, ?_, ?_, ?_, ?_, ?_⟩
      case refine_1 => exact (congrArg (·.counter) ht).trans counter
      case refine_2 => exact (congrArg (·.cntValid) ht).trans valid
      case refine_3 => exact (congrArg (·.load) ht).trans load
      case refine_13 => rw [ho]; exact egress
      all_goals rw [ho]; rfl
  · intro c s h
    refine ⟨fun a ha ht => ?_, fun hk ho ht => ?_, fun hk ho => ?_⟩
    · obtain ⟨body, hb⟩ := exec_receive s ha
      rw [hb, receive_waits h ha ht]
    · obtain ⟨body, hb⟩ := exec_sideband s hk
      rw [hb, sideband, if_neg (by simp [h.1]), if_pos ⟨h.2, ho⟩, if_neg (by simp [ht])]
    · obtain ⟨body, hb⟩ := exec_sideband s hk
      rw [hb, sideband, if_neg (by simp [h.1]), if_neg (by simp [ho])]

end Sys2Proof.Proofs
end

section
/-! SUPPORT. Reads that capture a shadow (17_register_map R446, R448, R454, R455) and park (16_ports_and_signals R436 to R439), from the
passing of a quiet sc. -/

namespace Sys2Proof.Proofs

open Sys2Proof.Machine Sys2Proof.Safety Sys2Proof.Laws

set_option Elab.async false

/-! ### Words of a sample -/

theorem extractLsb'_eq {n : Nat} (x : BitVec n) (lo w : Nat) : x.extractLsb' lo w = BitVec.ofNat w (x.toNat / 2 ^ lo) := by
  rw [BitVec.extractLsb', Nat.shiftRight_eq_div_pow]

theorem word32_zero {n : Nat} (x : BitVec n) : word32 x 0 = BitVec.ofNat 32 x.toNat := by
  rw [word32, extractLsb'_eq, Nat.mul_zero, pow_zero, Nat.div_one]

theorem word32_one {n : Nat} (x : BitVec n) : word32 x 1 = BitVec.ofNat 32 (x.toNat / 2 ^ 32) := extractLsb'_eq x 32 32

theorem shownCounter_toNat (s : State) : (shownCounter s).toNat = if s.tick.cntValid then s.tick.counter.toNat else 0 := by
  rw [shownCounter, apply_ite BitVec.toNat]
  rfl

theorem shownDigest_toNat (x : Stream) : (shownDigest x).toNat = if x.spoiled then 0 else (digest x.acc x.leaves).toNat := by
  rw [shownDigest, apply_ite BitVec.toNat]
  rfl

theorem shownProgramScent_toNat (s : State) : (shownProgramScent s).toNat = if s.det.psValid then s.det.psDigest.toNat else 0 := by
  rw [shownProgramScent, apply_ite BitVec.toNat]
  rfl

theorem storedInsn_sound {s : State} {i : Nat} {w : Word64} (h : tfind s.seq.pstore i = some { word := w, flips := 0 }) :
    storedInsn s i = w := by
  rw [storedInsn, h]
  simp

/-! ### Sampling one read -/

theorem sampleReads_one {s : State} {k : SbRead} {r : SbResp} (h : s.out.sb = [{ r with read := some k }]) :
    sampleReads s = { (sampleRead k s).2 with
      out := { s.out with sb := [{ r with data := (sampleRead k s).1, read := none }] } } := by
  have sb : (sampleRead k s).2.out = s.out := by rw [sampleRead_same k s]
  rw [sampleReads, h]
  simp only [List.zipIdx_cons, List.zipIdx_nil, List.foldl_cons, List.foldl_nil, sampleResponse, sb, h, List.set_cons_zero]

/-- A read that captures h and answers data. -/
theorem sampleReads_captures {s : State} {k : SbRead} {r : SbResp} {f : Shadows → Shadows} {data : Word32}
    (h : s.out.sb = [{ r with read := some k }]) (hk : sampleRead k s = (data, capture f s)) :
    sampleReads s = { s with
      det := { s.det with shadows := f s.det.shadows }, out := { s.out with sb := [{ r with data := data, read := none }] } } := by
  rw [sampleReads_one h, hk]
  rfl

section
variable (s : State)

theorem sampleRead_counterLo : sampleRead .counterLo s
    = (BitVec.ofNat 32 (shownCounter s).toNat,
      capture (fun h => { h with counter := BitVec.ofNat 32 ((shownCounter s).toNat / 2 ^ 32) }) s) := by
  simp only [sampleRead, readValue_counterLo, word32_zero, word32_one]

theorem sampleRead_seedLo : sampleRead .seedLo s
    = (BitVec.ofNat 32 (selectedStream s).seed.toNat,
      capture (fun h => { h with seed := BitVec.ofNat 32 ((selectedStream s).seed.toNat / 2 ^ 32) }) s) := by
  simp only [sampleRead, readValue_seedLo, word32_zero, word32_one]

theorem sampleRead_stepLo : sampleRead .stepLo s
    = (BitVec.ofNat 32 (selectedStream s).step.toNat,
      capture (fun h => { h with step := BitVec.ofNat 16 ((selectedStream s).step.toNat / 2 ^ 32) }) s) := by
  simp only [sampleRead, readValue_stepLo, word32_zero, extractLsb'_eq]

theorem sampleRead_scent0 : sampleRead .scent0 s
    = (BitVec.ofNat 32 (shownDigest (selectedStream s)).toNat,
      capture (fun h => { h with scent := BitVec.ofNat 96 ((shownDigest (selectedStream s)).toNat / 2 ^ 32) }) s) := by
  simp only [sampleRead, readValue_scent0, word32_zero, extractLsb'_eq]

theorem sampleRead_pscent0 : sampleRead .pscent0 s
    = (BitVec.ofNat 32 (shownProgramScent s).toNat,
      capture (fun h => { h with pscent := BitVec.ofNat 96 ((shownProgramScent s).toNat / 2 ^ 32) }) s) := by
  simp only [sampleRead, readValue_pscent0, word32_zero, extractLsb'_eq]

theorem sampleRead_tagData0 : sampleRead .tagData0 s
    = (BitVec.ofNat 32 (tagSample s).toNat,
      capture (fun h => { h with tag := BitVec.ofNat 52 ((tagSample s).toNat / 2 ^ 32) }) s) := by
  simp only [sampleRead, readValue_tagData0, word32_zero, extractLsb'_eq]

end

theorem sampleRead_pstoreLo {s : State} {i : BitVec 14} {w : Word64} (hb : psBusyNow s = false)
    (hw : tfind s.seq.pstore i.toNat = some { word := w, flips := 0 }) :
    sampleRead (.pstoreLo i) s
      = (BitVec.ofNat 32 w.toNat, capture (fun h => { h with pstore := BitVec.ofNat 32 (w.toNat / 2 ^ 32) }) s) := by
  rw [sampleRead_pstore_listed hb (by rw [hw]; rfl), storedInsn_sound hw, word32_zero, word32_one]

/-- The sampling of the reads is all that a quiet sc does to shadows and responses. -/
theorem tick_samples {s : State} (h : Quiet s) (hl : ∀ r ∈ s.out.sb, s.env.sc < r.leaves) :
    (tick s).det.shadows = (sampleReads s).det.shadows ∧ (tick s).out.sb = (sampleReads s).out.sb := by
  obtain ⟨x, hx⟩ := tick_quiet h
  obtain ⟨scRun, reload, tick, bg, atom, reg, hbFirst, nackNow, nackPrev, ho⟩ := openSc_frame (x.over (sampleReads s))
  have sampled := sampleReads_sampled s
  have now : (sampleReads s).env.sc = s.env.sc := congrArg (·.env.sc) sampled.same
  rw [hx, ho]
  refine ⟨rfl, List.filter_eq_self.2 fun r hr => decide_eq_true ?_⟩
  exact now ▸ sampled.leaves s.env.sc hl r hr

/-- Settles O25: a read is asked for at its register, answered by `sampleRead` at the end of the sc, and a quiet sc does no more. -/
theorem shadowReadsAnswer : Obligations.ShadowReadsAnswer := by
  unfold Obligations.ShadowReadsAnswer
  refine ⟨?asks, ?captures, fun s h _ _ hl => tick_samples h hl⟩
  case asks =>
    intro s h
    exact ⟨sbReadOk_next h _ _, sbReadOk_next h _ _, sbReadOk_next h _ _, sbReadOk_next h _ _, sbReadOk_next h _ _,
      sbReadOk_next h _ _, fun i => sbReadOk_next h _ _⟩
  case captures =>
    intro s k r h
    refine ⟨?_, ?_, ?_, ?_, ?_, ?_, ?_⟩
    · rintro rfl
      rw [sampleReads_captures h (sampleRead_counterLo s), shownCounter_toNat]
    · rintro rfl
      exact sampleReads_captures h (sampleRead_seedLo s)
    · rintro rfl
      exact sampleReads_captures h (sampleRead_stepLo s)
    · rintro rfl
      rw [sampleReads_captures h (sampleRead_scent0 s), shownDigest_toNat]
      rfl
    · rintro rfl
      rw [sampleReads_captures h (sampleRead_pscent0 s), shownProgramScent_toNat]
    · rintro rfl
      exact sampleReads_captures h (sampleRead_tagData0 s)
    · rintro i rfl
      constructor
      · intro hb
        rw [sampleReads_one h, sampleRead_pstore_busy hb]
        rfl
      · exact fun w hb hw => sampleReads_captures h (sampleRead_pstoreLo hb hw)

/-! ### Park -/

/-- In service, an event whose effect is t, with what software alone writes as it was, answers t. -/
theorem event_answers {s t : State} {body : State → State} (h : inUse s) (hb : body s = t) (hu : Untouched s t := by exact {}) :
    event s body = .next t := by
  rw [event_next h, keepConfig_eq (hb ▸ hu), hb]

theorem eventIf_answers {s t : State} {due : State → Bool} {body : State → State} (h : inUse s) (hd : due s = true)
    (hb : body s = t) (hu : Untouched s t := by exact {}) : eventIf due s body = .next t :=
  event_answers h ((if_pos hd).trans hb) hu

theorem drainComplete_needs {s t : State} (he : exec .drainComplete s = .next t) (ht : t.env.ackNext = true)
    (hs : s.env.ackNext = false) : drainDue s = true := by
  by_contra hd
  have hb : exec .drainComplete s = event s fun s => if drainDue s then { s with env := { s.env with ackNext := true } } else s := rfl
  rcases event_cases (hb.symm.trans he) with rfl | rfl
  · exact Bool.false_ne_true (hs.symm.trans ht)
  · simp [keepConfig, hd, settle, settlePeriods, hs] at ht

theorem drainDue_iff (s : State) : drainDue s = true ↔ s.env.pkReq = true ∧ s.env.drainAt < s.env.sc ∧ s.env.pkAck = false
    ∧ s.env.ackNext = false ∧ drained s = true := by
  simp only [drainDue, Bool.and_eq_true, decide_eq_true_eq, Bool.not_eq_true', and_assoc]

/-- pk_ack rises: what begins with the park, where the counter does not run yet. -/
theorem openSc_parks {was : State} (ha : was.env.ackNext = true) (hp : was.env.pkAck = false) (hv : was.tick.cntValid = false)
    (hl : was.tick.load = none) : openSc was = driveSbRdy was (park (opened was)) := by
  have ack : (opened was).env.ackNext = true := by rw [opened, ageStrobe_eq]; exact ha
  have down : (opened was).env.pkAck = false := by rw [opened, ageStrobe_eq]; exact hp
  have stopped : (opened was).tick.cntValid = false := by
    rw [opened, ageStrobe_eq]
    simp [nextCounter, hl, hv]
  have edge : parkEdge was (opened was) = park (opened was) := if_pos (by rw [ack, down]; rfl)
  rw [openSc_eq, edge, passParked]
  refine if_neg ?_
  simp [driveSbRdy, park, stopped]

/-- Settles O31: the commands as they are defined; the edges of pk_ack from the passing of a quiet sc; the grant by what `drained`
asks for. -/
theorem parkCommandsAnswer : Obligations.ParkCommandsAnswer := by
  unfold Obligations.ParkCommandsAnswer
  refine ⟨?commands, ?edges, ?granted⟩
  case commands =>
    intro s h
    refine ⟨?request, ?complete, ?release, ?hold⟩
    case request =>
      intro hp
      unfold exec execParkRequest
      exact event_answers h (if_neg (by simp [hp]))
    case complete =>
      intro hr hd hp ha hdr
      unfold exec execDrainComplete
      exact eventIf_answers h ((drainDue_iff s).2 ⟨hr, hd, hp, ha, hdr⟩) rfl
    case release =>
      intro hp
      unfold exec execParkRelease
      exact event_answers h (if_pos hp)
    case hold =>
      intro bits
      unfold exec execSmHold
      exact event_answers h rfl
  case edges =>
    intro s h hsb
    obtain ⟨x, hx⟩ := tick_quiet h
    rw [sampleReads_none hsb] at hx
    obtain ⟨scRun, reload, tick, bg, atom, reg, hbFirst, nackNow, nackPrev, ho⟩ := openSc_frame (x.over s)
    refine ⟨?_, ?_, fun ha hp hv hl => ?_⟩
    · rw [hx, ho]
      rfl
    · rw [hx, ho]
      rfl
    · rw [hx, openSc_parks (was := x.over s) ha hp hv hl]
      exact ⟨rfl, rfl, rfl, rfl, rfl⟩
  case granted =>
    intro s t he ht hs
    obtain ⟨hr, hd, hp, -, hdr⟩ := (drainDue_iff s).1 (drainComplete_needs he ht hs)
    obtain ⟨d, hsb⟩ := (drained_iff s).1 hdr
    exact ⟨hr, hd, hp, d.trackers, d.active, d.misses, d.evictions, d.victims, d.waiters, d.waits, d.checks, d.atomics, d.packs,
      d.walk, d.sent,
      fun e => tget_of_mem (P := fun g : Engine => g.busy = false) rfl d.engines e,
      fun c => tget_of_mem (P := fun c : Channel => c.push = .idle) rfl d.pushes c,
      fun c => drained_state (getCtx_drained d c),
      fun n f hf => d.fetched _ (mem_of_tfind hf),
      fun hr => d.reports.resolve_left (by simp [hr]),
      d.egress, d.wire, hsb, d.xpOut, d.xpIn, d.accesses, d.reads, d.held,
      fun p => tget_of_mem (P := fun n => n ≤ s.env.sc) (Nat.zero_le _) d.ports p⟩

end Sys2Proof.Proofs
end

section
/-! SUPPORT. The cells of the data array (02_data_array_and_boleri_code R43, R46, R50, R52, R54, R66): what a written code word delivers,
that no other word changes, and that code words of kennel space have locations of their own (06_kennels_and_channels R159). -/

namespace Sys2Proof.Proofs

open Sys2Proof.Machine Sys2Proof.Safety Sys2Proof.Laws

set_option Elab.async false

/-! ### One bit of a vector -/

theorem getLsbD_setBit {n : Nat} (x : BitVec n) {i : Nat} (hi : i < n) (b : Bool) (j : Nat) :
    (setBit x i b).getLsbD j = if j = i then b else x.getLsbD j := by
  simp only [setBit, setFld, BitVec.getLsbD_or, BitVec.getLsbD_and, BitVec.getLsbD_not, BitVec.getLsbD_ofNat, pow_one]
  by_cases e : j = i
  · subst e
    cases b <;> simp [b01, hi]
  · have ne : ¬ i = j := fun h => e h.symm
    by_cases hj : j < n
    · cases b <;> simp [b01, hj, e, ne]
    · simp [hj, e, BitVec.getLsbD_of_ge x j (by omega)]

theorem setBit_bit {n : Nat} (x : BitVec n) {i : Nat} (hi : i < n) : setBit x i (bit x i) = x := by
  apply BitVec.eq_of_getLsbD_eq
  intro j _
  rw [getLsbD_setBit x hi]
  split
  · next e => rw [e, bit]
  · rfl

/-! ### Keys of the cells -/

/-- A physical row is that of a runtime spare entry, of a static one, or the logical row itself. -/
theorem physRow_cases (s : State) (sec : Nat) :
    (∃ k, k < 8 ∧ physRow s sec = 520 + k ∧ spareApplies s (secBank sec) (secRow sec) (secInRow sec) k = true)
    ∨ (∃ k, k < 8 ∧ physRow s sec = 512 + k ∧ staticRow s (secBank sec) k = some (secRow sec))
    ∨ physRow s sec = secRow sec := by
  unfold physRow
  dsimp only
  split
  · next k hk => exact .inl ⟨k, List.mem_range.1 (List.mem_of_find?_eq_some hk), rfl, List.find?_some hk⟩
  · split
    · next k hk =>
      have named := List.find?_some hk
      exact .inr (.inl ⟨k, List.mem_range.1 (List.mem_of_find?_eq_some hk), rfl, beq_iff_eq.1 named⟩)
    · exact .inr (.inr rfl)

theorem secRow_lt (sec : Nat) : secRow sec < 512 := Nat.mod_lt _ (by decide)

theorem physRow_lt (s : State) (sec : Nat) : physRow s sec < 528 := by
  have := secRow_lt sec
  obtain ⟨k, hk, h, -⟩ | ⟨k, hk, h, -⟩ | h := physRow_cases s sec <;> omega

theorem spareApplies_row {s : State} {bank row sir k : Nat} (h : spareApplies s bank row sir k = true) :
    (spareOf s bank k).row.toNat = row := by
  simp only [spareApplies, Bool.and_eq_true, decide_eq_true_eq] at h
  obtain ⟨⟨-, h⟩, -⟩ := h
  exact h

/-- A physical row of a bank stands for one logical row. -/
theorem secRow_of_physRow {s : State} {a b : Nat} (hb : secBank a = secBank b) (h : physRow s a = physRow s b) :
    secRow a = secRow b := by
  have ra := secRow_lt a
  have rb := secRow_lt b
  obtain ⟨k, hk, ea, sa⟩ | ⟨k, hk, ea, sa⟩ | ea := physRow_cases s a
  · obtain ⟨l, hl, eb, sb⟩ | ⟨l, hl, eb, sb⟩ | eb := physRow_cases s b
    · obtain rfl : k = l := by omega
      exact (spareApplies_row sa).symm.trans (hb ▸ spareApplies_row sb)
    · omega
    · omega
  · obtain ⟨l, hl, eb, sb⟩ | ⟨l, hl, eb, sb⟩ | eb := physRow_cases s b
    · omega
    · obtain rfl : k = l := by omega
      exact Option.some_inj.1 (sa.symm.trans (hb ▸ sb))
    · omega
  · obtain ⟨l, hl, eb, sb⟩ | ⟨l, hl, eb, sb⟩ | eb := physRow_cases s b <;> omega

theorem locBank_secBank (loc : Nat) : secBank (loc / 2) = locBank loc := by
  unfold secBank locBank; omega

theorem locRow_secRow (loc : Nat) : secRow (loc / 2) = locRow loc := by
  unfold secRow locRow; omega

theorem cellKey_parts (loc : Nat) {prow : Nat} (h : prow < 528) :
    cellKey loc prow % 64 = locWord loc ∧ cellKey loc prow / 64 % 528 = prow ∧ cellKey loc prow / 64 / 528 = locBank loc := by
  have hw : locWord loc < 64 := Nat.mod_lt _ (by decide)
  unfold cellKey
  omega

/-- The key that a code word's cells have now. -/
def keyOf (s : State) (loc : Nat) : Nat := cellKey loc (physRow s (loc / 2))

theorem keyOf_injective {s : State} {a b : Nat} (ha : a < 2 ^ 19) (hb : b < 2 ^ 19) (h : keyOf s a = keyOf s b) : a = b := by
  obtain ⟨wa, ra, ba⟩ := cellKey_parts a (physRow_lt s (a / 2))
  obtain ⟨wb, rb, bb⟩ := cellKey_parts b (physRow_lt s (b / 2))
  unfold keyOf at h
  rw [h] at wa ra ba
  have word : locWord a = locWord b := wa.symm.trans wb
  have bank : locBank a = locBank b := ba.symm.trans bb
  have row : secRow (a / 2) = secRow (b / 2) := by
    refine secRow_of_physRow (s := s) ?_ (ra.symm.trans rb)
    rw [locBank_secBank, locBank_secBank, bank]
  rw [locRow_secRow, locRow_secRow] at row
  unfold locWord at word
  unfold locBank at bank
  unfold locRow at row
  omega

/-! ### Spare bit lines -/

theorem mem_replaced {s : State} {bank half : Nat} {p : Nat × Nat} (h : p ∈ replaced s bank half) :
    p.1 < 280 ∧ p.2 < 4 ∧ ∃ j, columnLane s bank p.2 = some j ∧ j / 280 = half ∧ p.1 = j % 280 := by
  unfold replaced at h
  obtain ⟨k, hk, h⟩ := List.mem_filterMap.1 h
  split at h
  · next j hj =>
    obtain ⟨⟨hh, -⟩, he⟩ := Option.ite_none_right_eq_some.1 h
    obtain rfl := Option.some_inj.1 he
    exact ⟨Nat.mod_lt _ (by decide), List.mem_range.1 hk, j, hj, hh, rfl⟩
  · cases h

theorem replaced_nodup (s : State) (bank half : Nat) : ((replaced s bank half).map Prod.snd).Nodup := by
  unfold replaced
  rw [List.map_filterMap]
  refine List.Nodup.filterMap (fun a b k ha hb => ?_) List.nodup_range
  have own (a : Nat) (h : k ∈ (match columnLane s bank a with
      | some j => if j / 280 = half ∧ (List.range 4).find? (fun i => columnLane s bank i == some j) = some a then
          some (j % 280, a) else none
      | none => none : Option (Nat × Nat)).map Prod.snd) : a = k := by
    obtain ⟨p, hp, hk⟩ := Option.map_eq_some_iff.1 h
    split at hp
    · obtain ⟨-, he⟩ := Option.ite_none_right_eq_some.1 hp
      rw [← Option.some_inj.1 he] at hk
      exact hk
    · cases hp
  exact (own a ha).trans (own b hb).symm

/-- The two halves of a sector have spare bit lines of their own. -/
theorem replaced_disjoint {s : State} {bank a b : Nat} {p q : Nat × Nat} (hp : p ∈ replaced s bank a)
    (hq : q ∈ replaced s bank b) (ne : a ≠ b) : p.2 ≠ q.2 := by
  obtain ⟨-, -, i, hi, ha, -⟩ := mem_replaced hp
  obtain ⟨-, -, j, hj, hb, -⟩ := mem_replaced hq
  intro e
  rw [e, hj] at hi
  obtain rfl := Option.some_inj.1 hi
  exact ne (ha.symm.trans hb)

/-- The spare bit lines of a sector after the bits of some lanes have been stored on them. -/
def linesStored (c : Cells) (ps : List (Nat × Nat)) (l : BitVec 4) : BitVec 4 := ps.foldl (fun l p => setBit l p.2 (bit c p.1)) l

/-- The cells that come out where some lanes come from spare bit lines. -/
def linesRead (l : BitVec 4) (ps : List (Nat × Nat)) (c : Cells) : Cells := ps.foldl (fun c p => setBit c p.1 (bit l p.2)) c

theorem linesStored_other {c : Cells} {ps : List (Nat × Nat)} {l : BitVec 4} {k : Nat} (hk : ∀ p ∈ ps, p.2 ≠ k)
    (h4 : ∀ p ∈ ps, p.2 < 4) : (linesStored c ps l).getLsbD k = l.getLsbD k := by
  induction ps generalizing l with
  | nil => rfl
  | cons p ps ih =>
    refine (ih (fun q hq => hk q (List.mem_cons_of_mem _ hq)) fun q hq => h4 q (List.mem_cons_of_mem _ hq)).trans ?_
    rw [getLsbD_setBit l (h4 p List.mem_cons_self), if_neg fun e => hk p List.mem_cons_self e.symm]

theorem linesStored_own {c : Cells} {ps : List (Nat × Nat)} {l : BitVec 4} (nd : (ps.map Prod.snd).Nodup)
    (h4 : ∀ p ∈ ps, p.2 < 4) : ∀ p ∈ ps, bit (linesStored c ps l) p.2 = bit c p.1 := by
  induction ps generalizing l with
  | nil => exact fun p hp => nomatch hp
  | cons q ps ih =>
    have tail : ∀ p ∈ ps, p.2 < 4 := fun p hp => h4 p (List.mem_cons_of_mem _ hp)
    rw [List.map_cons, List.nodup_cons] at nd
    intro p hp
    rcases List.mem_cons.1 hp with rfl | hp
    · refine (linesStored_other (fun r hr e => nd.1 (List.mem_map.2 ⟨r, hr, e⟩)) tail).trans ?_
      rw [getLsbD_setBit l (h4 p List.mem_cons_self), if_pos rfl]
    · exact ih nd.2 tail p hp

theorem linesRead_same {l : BitVec 4} {ps : List (Nat × Nat)} {c : Cells} (h : ∀ p ∈ ps, bit l p.2 = bit c p.1)
    (hp : ∀ p ∈ ps, p.1 < 280) : linesRead l ps c = c := by
  induction ps with
  | nil => rfl
  | cons q ps ih =>
    have first : setBit c q.1 (bit l q.2) = c := by
      rw [h q List.mem_cons_self]
      exact setBit_bit c (hp q List.mem_cons_self)
    refine (congrArg (linesRead l ps) first).trans ?_
    exact ih (fun p h' => h p (List.mem_cons_of_mem _ h')) fun p h' => hp p (List.mem_cons_of_mem _ h')

theorem linesRead_congr {l m : BitVec 4} {ps : List (Nat × Nat)} {c : Cells} (h : ∀ p ∈ ps, bit l p.2 = bit m p.2) :
    linesRead l ps c = linesRead m ps c := by
  induction ps generalizing c with
  | nil => rfl
  | cons q ps ih =>
    refine (congrArg (fun b => linesRead l ps (setBit c q.1 b)) (h q List.mem_cons_self)).trans ?_
    exact ih fun p h' => h p (List.mem_cons_of_mem _ h')

/-! ### What a written code word delivers -/

theorem delivered_eq (s : State) (loc prow : Nat) : delivered s loc prow = (tfind s.arr.cells (cellKey loc prow)).map
    (linesRead (tget 0 s.arr.lines (cellKey loc prow / 2)) (replaced s (locBank loc) (loc % 2))) := rfl

theorem storeCells_eq (loc prow : Nat) (c : Cells) (s : State) : storeCells loc prow c s = { s with arr := { s.arr with
      cells := tput s.arr.cells (cellKey loc prow) c
      lines := tmod 0 s.arr.lines (cellKey loc prow / 2) (linesStored c (replaced s (locBank loc) (loc % 2)))
      written := setBit s.arr.written (locBank loc) true } } := rfl

theorem delivered_storeCells_self (loc prow : Nat) (c : Cells) (s : State) :
    delivered (storeCells loc prow c s) loc prow = some c := by
  rw [delivered_eq, storeCells_eq]
  simp only [tfind_tput_self, Option.map_some, tget_tmod_self]
  refine congrArg some (linesRead_same ?_ fun p hp => (mem_replaced hp).1)
  exact linesStored_own (replaced_nodup s _ _) fun p hp => (mem_replaced hp).2.1

theorem delivered_storeCells_ne {loc other prow prow' : Nat} (c : Cells) (s : State)
    (hk : cellKey other prow' ≠ cellKey loc prow) (hp : prow < 528) (hp' : prow' < 528) :
    delivered (storeCells loc prow c s) other prow' = delivered s other prow' := by
  rw [delivered_eq, delivered_eq, storeCells_eq]
  simp only [tfind_tput_ne _ _ hk]
  refine congrArg (fun f => (tfind s.arr.cells (cellKey other prow')).map f) (funext fun d => ?_)
  refine linesRead_congr fun p hm => ?_
  by_cases hl : cellKey other prow' / 2 = cellKey loc prow / 2
  · rw [hl, tget_tmod_self]
    refine linesStored_other (fun q hq e => ?_) fun q hq => (mem_replaced hq).2.1
    obtain ⟨wo, ro, bo⟩ := cellKey_parts other hp'
    obtain ⟨wl, rl, bl⟩ := cellKey_parts loc hp
    have bank : locBank other = locBank loc := by omega
    have half : loc % 2 ≠ other % 2 := by
      unfold locWord at wo wl
      omega
    exact replaced_disjoint hq (bank ▸ hm) half e
  · rw [tget_tmod_ne _ _ _ hl]

/-- A copy of a row into a spare one, as a write of the code word at a location leaves it: its buffer counts no more. -/
def unbuffered (loc : Nat) (c : Copy) : Copy :=
  if c.bank = secBank (loc / 2) ∧ c.row = secRow (loc / 2) ∧ c.next = secInRow (loc / 2) then { c with buf := none } else c

theorem putCells_eq (loc : Nat) (c : Cells) (s : State) :
    putCells loc c s = { storeCells loc (physRow s (loc / 2)) c s with
      bg := { s.bg with copies := s.bg.copies.map (unbuffered loc) } } := rfl

/-- What decides the physical row of a sector: the fuses, the runtime spare entries, and what the copies have moved. -/
theorem physRow_congr {s t : State} (hf : t.fuse = s.fuse) (hs : t.arr.spares = s.arr.spares)
    (hc : ∀ bank row sir k, (t.bg.copies.all fun c => !(c.bank == bank && c.entry == k && c.row == row) || bit c.moved sir)
      = (s.bg.copies.all fun c => !(c.bank == bank && c.entry == k && c.row == row) || bit c.moved sir)) (sec : Nat) :
    physRow t sec = physRow s sec := by
  have spare (b r i : Nat) : spareApplies t b r i = spareApplies s b r i := by
    funext k
    simp only [spareApplies, spareOf, hs, hc]
    rfl
  have static (b k : Nat) : staticRow t b k = staticRow s b k := by simp only [staticRow, hf]
  simp only [physRow, spare, static]

theorem delivered_congr {s t : State} (hf : t.fuse = s.fuse) (hc : t.arr.cells = s.arr.cells) (hl : t.arr.lines = s.arr.lines)
    (loc prow : Nat) : delivered t loc prow = delivered s loc prow := by
  have column (b k : Nat) : columnLane t b k = columnLane s b k := by simp only [columnLane, hf]
  simp only [delivered, hc, hl, replaced, column]

theorem unbuffered_moves (loc : Nat) (copies : List Copy) (bank row sir k : Nat) :
    ((copies.map (unbuffered loc)).all fun c => !(c.bank == bank && c.entry == k && c.row == row) || bit c.moved sir)
      = (copies.all fun c => !(c.bank == bank && c.entry == k && c.row == row) || bit c.moved sir) := by
  rw [List.all_map]
  congr 1
  funext c
  simp only [Function.comp, unbuffered]
  split <;> rfl

theorem physRow_putCells (loc : Nat) (c : Cells) (s : State) (sec : Nat) : physRow (putCells loc c s) sec = physRow s sec :=
  physRow_congr (s := s) (t := putCells loc c s) rfl rfl (unbuffered_moves loc s.bg.copies) sec

theorem cellsOf_putCells_self (loc : Nat) (c : Cells) (s : State) : cellsOf (putCells loc c s) loc = some c := by
  rw [cellsOf, physRow_putCells]
  refine (delivered_congr (s := storeCells loc (physRow s (loc / 2)) c s) rfl rfl rfl loc _).trans ?_
  exact delivered_storeCells_self loc _ c s

theorem cellsOf_putCells_ne {loc other : Nat} (c : Cells) (s : State) (hl : loc < 2 ^ 19) (ho : other < 2 ^ 19) (ne : other ≠ loc) :
    cellsOf (putCells loc c s) other = cellsOf s other := by
  rw [cellsOf, physRow_putCells]
  refine (delivered_congr (s := storeCells loc (physRow s (loc / 2)) c s) rfl rfl rfl other _).trans ?_
  exact delivered_storeCells_ne c s (fun e => ne (keyOf_injective ho hl e)) (physRow_lt s _) (physRow_lt s _)

/-- A write drops what is queued or read of the word, which no location's cells depend on. -/
def outrun (loc : Nat) (s : State) : State :=
  { s with bg := { s.bg with work := s.bg.work.filterMap (BgWork.without loc) }
           fg := { s.fg with reads := s.fg.reads.map (Reading.outrun loc) } }

theorem writeWord_eq (loc : Nat) (w : CodeWord) (s : State) :
    writeWord loc w s = putCells loc (wordCells s loc w) (outrun loc s) := rfl

theorem cellsOf_outrun (loc other : Nat) (s : State) : cellsOf (outrun loc s) other = cellsOf s other := rfl

theorem cellsOf_writeWord_self (loc : Nat) (w : CodeWord) (s : State) :
    cellsOf (writeWord loc w s) loc = some (wordCells s loc w) := by
  rw [writeWord_eq, cellsOf_putCells_self]

theorem cellsOf_writeWord_ne {loc other : Nat} (w : CodeWord) (s : State) (hl : loc < 2 ^ 19) (ho : other < 2 ^ 19)
    (ne : other ≠ loc) : cellsOf (writeWord loc w s) other = cellsOf s other := by
  rw [writeWord_eq, cellsOf_putCells_ne _ _ hl ho ne, cellsOf_outrun]

/-! ### What the corrector delivers of it -/

theorem correct_encoded (f : BitVec 24) (d : Code) :
    correct f (boleriEncode f d) = { cls := .clean, data := d, pos := 0, pmask := 0 } := by
  rw [correct_clean (by rw [syndrome_boleriEncode, BitVec.xor_self]), cellData_boleriEncode]

theorem syndrome_poisonCells (f : BitVec 24) : syndrome f (poisonCells f) = poisonSyndrome := by
  have data : cellData (poisonCells f) = 0#256 := extractLsb'_append_high 0#256 _
  have check : (poisonCells f).extractLsb' 0 24 = f ^^^ 0xFFFFFF#24 := extractLsb'_append_low 0#256 _
  rw [syndrome, data, check, boleriRem_zero, BitVec.xor_zero, BitVec.xor_comm, ← BitVec.xor_assoc, BitVec.xor_self, BitVec.zero_xor]
  rfl

theorem correct_poison (f : BitVec 24) : correct f (poisonCells f) = { cls := .pmark, data := 0, pos := 0, pmask := 0 } := by
  refine correct_mark ?_ ?_
  · rw [syndrome_poisonCells]; decide
  · rw [syndrome_poisonCells, TakenForMark, BitVec.xor_self]
    exact .inl rfl

/-! ### The locations of kennel space -/

theorem location_lt (set way a : Nat) : location set way a < 2 ^ 19 := by
  have hx := (BitVec.ofNat 2 (a / 64 % 4) ^^^ BitVec.ofNat 2 set).isLt
  unfold location
  dsimp only
  omega

theorem digits {bank row sector half : Nat} (hr : row < 512) (hs : sector < 32) (hh : half < 2) :
    let n := bank * 2 ^ 15 + row * 2 ^ 6 + sector * 2 + half
    n / 2 ^ 15 = bank ∧ n / 64 % 512 = row ∧ n / 2 % 32 = sector ∧ n % 2 = half := by
  omega

/-- The digits of a location (Table 2.2). -/
theorem location_parts (set way a : Nat) :
    let x := (BitVec.ofNat 2 (a / 64 % 4) ^^^ BitVec.ofNat 2 set).toNat
    location set way a / 2 ^ 15 = set / 4 % 4 * 4 + x ∧ location set way a / 64 % 512 = way % 16 * 32 + set / 128 % 32
    ∧ location set way a / 2 % 32 = set / 16 % 8 * 4 + set % 4 ∧ location set way a % 2 = a / 32 % 2 :=
  digits (by omega) (by omega) (by omega)

theorem location_injective {set way a set' way' a' : Nat} (hs : set < 4096) (hs' : set' < 4096) (hw : way < 16) (hw' : way' < 16)
    (ha : a < 256) (ha' : a' < 256) (h : location set way a = location set' way' a') :
    set = set' ∧ way = way' ∧ a / 32 = a' / 32 := by
  obtain ⟨bank, row, sector, half⟩ := location_parts set way a
  obtain ⟨bank', row', sector', half'⟩ := location_parts set' way' a'
  rw [h] at bank row sector half
  replace bank := bank.symm.trans bank'
  replace row := row.symm.trans row'
  replace sector := sector.symm.trans sector'
  replace half := half.symm.trans half'
  have hx := (BitVec.ofNat 2 (a / 64 % 4) ^^^ BitVec.ofNat 2 set).isLt
  have hx' := (BitVec.ofNat 2 (a' / 64 % 4) ^^^ BitVec.ofNat 2 set').isLt
  clear bank' row' sector' half' h
  have hset : set = set' := by omega
  have hxor : (BitVec.ofNat 2 (a / 64 % 4) ^^^ BitVec.ofNat 2 set).toNat
      = (BitVec.ofNat 2 (a' / 64 % 4) ^^^ BitVec.ofNat 2 set').toNat := by omega
  subst hset
  have hsct : BitVec.ofNat 2 (a / 64 % 4) = BitVec.ofNat 2 (a' / 64 % 4) := by
    have e := congrArg (· ^^^ BitVec.ofNat 2 set) (BitVec.eq_of_toNat_eq hxor)
    simpa only [BitVec.xor_assoc, BitVec.xor_self, BitVec.xor_zero] using e
  have hsct' := congrArg BitVec.toNat hsct
  simp only [BitVec.toNat_ofNat] at hsct'
  omega

theorem kennelLoc_lt (a : Nat) : kennelLoc a < 2 ^ 19 := location_lt ..

theorem kennelLoc_injective {a b : Nat} (ha : a < 2 ^ 24) (hb : b < 2 ^ 24) (ma : a % 32 = 0) (mb : b % 32 = 0)
    (h : kennelLoc a = kennelLoc b) : a = b := by
  obtain ⟨set, way, word⟩ := location_injective (by omega) (by omega) (by omega) (by omega) (by omega) (by omega) h
  omega

/-- Settles O28. -/
theorem arrayWordsReadBack : Obligations.ArrayWordsReadBack := by
  unfold Obligations.ArrayWordsReadBack
  refine ⟨fun s loc w hl => ?stored, fun s loc d => ?clean, fun s loc d => ?poisoned, fun a b ha hb ma mb => ?places⟩
  case stored => exact ⟨cellsOf_writeWord_self loc w s, fun other ho ne => cellsOf_writeWord_ne w s hl ho ne⟩
  case clean => exact correct_encoded _ d
  case poisoned => exact correct_poison _
  case places => exact ⟨kennelLoc_lt a, kennelLoc_injective ha hb ma mb⟩

end Sys2Proof.Proofs
end

section
/-! SUPPORT. The strobes and the always-on clock (01_frame_and_timing_contract R11 to R13, R35 to R38; 13_background_work R370)
and the end of a regulation window (12_regulation R340, R351). -/

namespace Sys2Proof.Proofs

open Sys2Proof.Machine Sys2Proof.Safety Sys2Proof.Laws

set_option Elab.async false

/-! ### Effects that may take up a pending length -/

/-- s with the lengths of frame and window left out. -/
def timeless (s : State) : State :=
  { s with tick := { s.tick with frameLog2 := 0, framePend := none }, reg := { s.reg with winLog2 := 0, winPend := none } }

/-- t holds what software alone writes as s does, but for a length that was pending. -/
structure Kept (s t : State) : Prop where
  rest : Untouched (timeless s) (timeless t)
  periods : PeriodsKept s t

theorem Untouched.refl (s : State) : Untouched s s := {}

theorem timeless_untouched {s t : State} (h : Untouched s t) : Untouched (timeless s) (timeless t) :=
  { h with t1 := rfl, t2 := rfl, r8 := rfl, r9 := rfl }

theorem kept_of_untouched {s t : State} (h : Untouched s t) : Kept s t where
  rest := timeless_untouched h
  periods := ⟨.inl ⟨h.t1.symm, h.t2.symm⟩, .inl ⟨h.r8.symm, h.r9.symm⟩⟩

theorem kept_of_passed {s t : State} (h : Passed s t) : Kept s t where
  rest := by
    rw [h.same]
    exact {}
  periods := ⟨h.frame, h.window⟩

theorem Kept.trans {s t u : State} (h : Kept s t) (k : Kept t u) : Kept s u where
  rest := h.rest.trans k.rest
  periods := ⟨h.periods.frame.trans k.periods.frame, h.periods.window.trans k.periods.window⟩

theorem periodKept_eq {now now' : BitVec 5} {next next' : Option (BitVec 5)} (h : PeriodKept now next now' next') :
    (if next.isSome && next'.isNone then next.getD now else now) = now'
    ∧ (if next.isSome && next'.isNone then none else next) = next' := by
  rcases h with ⟨rfl, rfl⟩ | ⟨rfl, rfl⟩
  · cases next' <;> simp
  · simp

theorem settle_kept {s t : State} (h : Kept s t) : settle s (settlePassed s t) = t := by
  obtain ⟨log2, pend⟩ := periodKept_eq h.periods.frame
  obtain ⟨winLog2, winPend⟩ := periodKept_eq h.periods.window
  have e := keep_untouched h.rest
  have split : settle s (settlePassed s t) = { settle (timeless s) (settlePeriods (timeless s) (timeless t)) with
      tick := { (settle (timeless s) (settlePeriods (timeless s) (timeless t))).tick with
        frameLog2 := if s.tick.framePend.isSome && t.tick.framePend.isNone then s.tick.framePend.getD s.tick.frameLog2
          else s.tick.frameLog2
        framePend := if s.tick.framePend.isSome && t.tick.framePend.isNone then none else s.tick.framePend }
      reg := { (settle (timeless s) (settlePeriods (timeless s) (timeless t))).reg with
        winLog2 := if s.reg.winPend.isSome && t.reg.winPend.isNone then s.reg.winPend.getD s.reg.winLog2 else s.reg.winLog2
        winPend := if s.reg.winPend.isSome && t.reg.winPend.isNone then none else s.reg.winPend } } := rfl
  rw [split, e, log2, pend, winLog2, winPend]
  rfl

/-- In service, what moves the counter of a parked slice answers the state that its effect leads to. -/
theorem counterEvent_answers {s t : State} {body : State → State} (h : inUse s) (hb : body s = t) (hk : Kept s t) :
    counterEvent s body = .next t := by
  rw [counterEvent, inService_next h, hb, settle_kept hk]

/-! ### Every class -/

/-- A change of every class changes each of the 16 by itself. -/
theorem getClass_allClasses (f : Nat → Machine.Class → Machine.Class) (s : State) {c : Nat} (hc : c < 16) :
    getClass (allClasses f s) c = f c (getClass s c) := by
  have upto (n : Nat) : getClass ((List.range n).foldl (fun s c => setClass s c (f c)) s) c
      = if c < n then f c (getClass s c) else getClass s c := by
    induction n with
    | zero => simp
    | succ n ih =>
      rw [List.range_succ, List.foldl_append]
      simp only [List.foldl_cons, List.foldl_nil]
      rcases Nat.lt_trichotomy c n with h | rfl | h
      · rw [getClass_setClass_ne _ _ (Nat.ne_of_lt h), ih, if_pos h, if_pos (Nat.lt_succ_of_lt h)]
      · rw [getClass_setClass_self, ih, if_neg (Nat.lt_irrefl c), if_pos (Nat.lt_succ_self c)]
      · rw [getClass_setClass_ne _ _ (Nat.ne_of_gt h), ih, if_neg (by omega), if_neg (by omega)]
  exact (upto 16).trans (if_pos hc)

/-- A change of every class changes nothing else. -/
theorem allClasses_eq (f : Nat → Machine.Class → Machine.Class) (s : State) :
    allClasses f s = { s with reg := { s.reg with cls := (allClasses f s).reg.cls } } :=
  List.foldlRecOn (motive := fun t : State => t = { s with reg := { s.reg with cls := t.reg.cls } }) _ _ rfl
    fun t h c _ => by
      rw [setClass]
      simp only
      rw [h]

/-! ### Boundaries that the counter of a parked slice passes -/

theorem slots_within : ∀ r < 512, ((List.range 16).map fun k => if 32 * k ≤ r then 1 else 0).sum = r / 32 + 1 := by
  decide +kernel

theorem slots_upto (a : Nat) : ((List.range 16).map fun k => (a + 512 - 32 * k) / 512).sum = a / 32 + 1 := by
  have each : ∀ k ∈ List.range 16, (a + 512 - 32 * k) / 512 = a / 512 + if 32 * k ≤ a % 512 then 1 else 0 := by
    intro k hk
    have := List.mem_range.mp hk
    split <;> omega
  rw [List.map_congr_left each, List.sum_map_add, slots_within _ (Nat.mod_lt a (by decide))]
  simp only [List.map_const', List.sum_replicate, List.length_range, smul_eq_mul]
  omega

theorem slotsBetween_eq {a b : Nat} (h : a ≤ b) : slotsBetween a b = b / 32 - a / 32 := by
  have split (l : List Nat) (n : Nat) : l.foldl (fun n k => n + ((b + 512 - 32 * k) / 512 - (a + 512 - 32 * k) / 512)) n
      + (l.map fun k => (a + 512 - 32 * k) / 512).sum = n + (l.map fun k => (b + 512 - 32 * k) / 512).sum := by
    induction l generalizing n with
    | nil => rfl
    | cons k l ih =>
      have mono : (a + 512 - 32 * k) / 512 ≤ (b + 512 - 32 * k) / 512 := Nat.div_le_div_right (by omega)
      have rest := ih (n + ((b + 512 - 32 * k) / 512 - (a + 512 - 32 * k) / 512))
      simp only [List.foldl_cons, List.map_cons, List.sum_cons]
      omega
  have all := split (List.range 16) 0
  rw [slots_upto, slots_upto] at all
  unfold slotsBetween
  omega

theorem firstMultiple_none {l a b : Nat} : firstMultiple l a b = none ↔ b / 2 ^ l ≤ a / 2 ^ l := by
  simp only [firstMultiple, ← Nat.le_div_iff_mul_le (Nat.two_pow_pos l), ite_eq_right_iff, reduceCtorEq, imp_false]
  omega

theorem firstMultiple_some {l a b m : Nat} (h : firstMultiple l a b = some m) : a < m ∧ m ≤ b := by
  simp only [firstMultiple, Option.ite_none_right_eq_some, Option.some.injEq] at h
  obtain ⟨hb, rfl⟩ := h
  exact ⟨Nat.lt_mul_of_div_lt (Nat.lt_succ_self _) (Nat.two_pow_pos l), hb⟩

/-- A span that holds no multiple of 2^l holds none of a greater power. -/
theorem div_two_pow_max {l n a b : Nat} (h : b / 2 ^ l = a / 2 ^ l) : b / 2 ^ max l n ≤ a / 2 ^ max l n := by
  obtain ⟨k, hk⟩ := Nat.exists_eq_add_of_le (Nat.le_max_left l n)
  rw [hk, Nat.pow_add, ← Nat.div_div_eq_div_mul, ← Nat.div_div_eq_div_mul, h]

theorem passFrames_none {l a b : Nat} (s : State) (h : b / 2 ^ l ≤ a / 2 ^ l) : passFrames l a b s = s := if_pos h

theorem passFrames_one {l a b : Nat} (s : State) (h : b / 2 ^ l = a / 2 ^ l + 1) :
    passFrames l a b s = parkedBoundary (b / 2 ^ l % 2 ^ (64 - l)) s :=
  (if_neg (by omega)).trans (if_pos h)

theorem passBoundaries_settled {a b : Nat} {s : State} (h : s.tick.framePend = none) :
    passBoundaries a b s = passFrames s.tick.frameLog2.toNat a b s := by
  simp only [passBoundaries, h]

theorem passBoundaries_none {a b : Nat} {s : State} (h : b / 2 ^ s.tick.frameLog2.toNat = a / 2 ^ s.tick.frameLog2.toNat) :
    passBoundaries a b s = s := by
  unfold passBoundaries
  dsimp only
  split
  · exact passFrames_none s h.le
  · next n _ =>
    rw [firstMultiple_none.mpr (div_two_pow_max h)]
    exact passFrames_none s h.le

theorem passBoundaries_one {a b : Nat} {s : State} (hp : s.tick.framePend = none)
    (h : b / 2 ^ s.tick.frameLog2.toNat = a / 2 ^ s.tick.frameLog2.toNat + 1) :
    passBoundaries a b s = parkedBoundary (b / 2 ^ s.tick.frameLog2.toNat % 2 ^ (64 - s.tick.frameLog2.toNat)) s :=
  (passBoundaries_settled hp).trans (passFrames_one s h)

theorem passWhileParked_within {a b : Nat} {s : State} (h : firstMultiple s.reg.winLog2.toNat a b = none) :
    passWhileParked a b s = passBoundaries a b (skipSlots (slotsBetween a b) s) := by
  unfold passWhileParked
  dsimp only [skipSlots]
  rw [h]

theorem passWhileParked_split {a b m : Nat} {s : State} (h : firstMultiple s.reg.winLog2.toNat a b = some m) :
    ∃ k, passWhileParked a b s
      = passBoundaries (m - 1) b (parkedWindow k (passBoundaries a (m - 1) (skipSlots (slotsBetween a b) s))) := by
  unfold passWhileParked
  dsimp only [skipSlots]
  rw [h]
  exact ⟨_, rfl⟩

/-- A span of the counter without a boundary of frame or window counts its calendar slots alone. -/
theorem passWhileParked_none {a b : Nat} {s : State} (hf : b / 2 ^ s.tick.frameLog2.toNat = a / 2 ^ s.tick.frameLog2.toNat)
    (hw : b / 2 ^ s.reg.winLog2.toNat = a / 2 ^ s.reg.winLog2.toNat) :
    passWhileParked a b s = skipSlots (slotsBetween a b) s :=
  (passWhileParked_within (firstMultiple_none.mpr hw.le)).trans (passBoundaries_none hf)

theorem parkedWindow_eq (m : Nat) (s : State) : ∃ reg, parkedWindow m s = { s with reg := reg } := by
  unfold parkedWindow
  dsimp only
  rw [allClasses_eq]
  split
  · exact ⟨_, rfl⟩
  · split
    · exact ⟨_, rfl⟩
    · exact ⟨_, rfl⟩

/-- From s to t one frame boundary, that of frame n, has passed while the slice is parked (R37, R370, R438). -/
structure BoundaryPassed (n : Nat) (s t : State) : Prop where
  tick : t.tick = { s.tick with parkFrames := min 65535 (s.tick.parkFrames + 1) }
  skipped : t.bg.tel.skipped = s.bg.tel.skipped
  missIn : t.bg.tel.missIn = true
  coh : t.coh = { s.coh with nackPrev := s.coh.nackNow, nackNow := 0 }
  cal : t.bg.calDeferred = (s.bg.calDeferred || (s.bg.calFrames ≠ 0 && n % s.bg.calFrames.toNat = 0))
  rest : t = { s with tick := t.tick, bg := t.bg, coh := t.coh, atom := t.atom, reg := t.reg }

theorem parkedBoundary_passes (n : Nat) (s : State) : BoundaryPassed n s (parkedBoundary n s) := by
  unfold parkedBoundary rollCounts
  rw [allClasses_eq]
  exact { tick := rfl, skipped := rfl, missIn := rfl, coh := rfl, cal := rfl, rest := rfl }

theorem BoundaryPassed.after_reg {n : Nat} {s t : State} {reg : Reg} (h : BoundaryPassed n { s with reg := reg } t) :
    BoundaryPassed n s t := { h with }

theorem BoundaryPassed.then_reg {n : Nat} {s t : State} (h : BoundaryPassed n s t) (reg : Reg) :
    BoundaryPassed n s { t with reg := reg } :=
  { h with rest := by rw [h.rest] }

/-- A span of the counter with one frame boundary, whether or not a window ends in it, passes that boundary. -/
theorem passWhileParked_one {a b : Nat} {s : State} (hp : s.tick.framePend = none)
    (hf : b / 2 ^ s.tick.frameLog2.toNat = a / 2 ^ s.tick.frameLog2.toNat + 1) :
    BoundaryPassed (b / 2 ^ s.tick.frameLog2.toNat % 2 ^ (64 - s.tick.frameLog2.toNat)) (skipSlots (slotsBetween a b) s)
      (passWhileParked a b s) := by
  rcases hw : firstMultiple s.reg.winLog2.toNat a b with _ | m
  · rw [passWhileParked_within hw, passBoundaries_one (s := skipSlots _ s) hp hf]
    exact parkedBoundary_passes _ _
  · obtain ⟨ham, hmb⟩ := firstMultiple_some hw
    obtain ⟨k, hk⟩ := passWhileParked_split hw
    rw [hk]
    have lower : a / 2 ^ s.tick.frameLog2.toNat ≤ (m - 1) / 2 ^ s.tick.frameLog2.toNat := Nat.div_le_div_right (by omega)
    have upper : (m - 1) / 2 ^ s.tick.frameLog2.toNat ≤ b / 2 ^ s.tick.frameLog2.toNat := Nat.div_le_div_right (by omega)
    rcases Nat.eq_or_lt_of_le lower with before | after
    · rw [passBoundaries_none (s := skipSlots _ s) before.symm]
      obtain ⟨reg, hr⟩ := parkedWindow_eq k (skipSlots (slotsBetween a b) s)
      rw [hr, passBoundaries_one (s := { skipSlots (slotsBetween a b) s with reg := reg }) hp (before ▸ hf)]
      exact (parkedBoundary_passes _ _).after_reg
    · have same : (m - 1) / 2 ^ s.tick.frameLog2.toNat = b / 2 ^ s.tick.frameLog2.toNat := by omega
      rw [passBoundaries_one (s := skipSlots _ s) hp (same.trans hf)]
      have passed := parkedBoundary_passes
        ((m - 1) / 2 ^ s.tick.frameLog2.toNat % 2 ^ (64 - s.tick.frameLog2.toNat)) (skipSlots (slotsBetween a b) s)
      obtain ⟨reg, hr⟩ := parkedWindow_eq k
        (parkedBoundary ((m - 1) / 2 ^ s.tick.frameLog2.toNat % 2 ^ (64 - s.tick.frameLog2.toNat)) (skipSlots (slotsBetween a b) s))
      have after : BoundaryPassed _ _ _ := passed.then_reg reg
      rw [show (skipSlots (slotsBetween a b) s).tick = s.tick from rfl, hr, passBoundaries_none, ← same]
      · exact after
      · rw [after.tick]
        exact same.symm

/-! ### The counts of a window that ends while the slice is parked -/

/-- No class of s has counted anything in the present window. -/
def Uncounted (s : State) : Prop :=
  ∀ c, c < 16 → (getClass s c).bytes = 0 ∧ (getClass s c).xpWords = 0 ∧ (getClass s c).starts = []
    ∧ (getClass s c).leftLeash = false ∧ (getClass s c).asking = false

theorem Uncounted.congr {s t : State} (h : Uncounted s) (e : t.reg.cls = s.reg.cls) : Uncounted t := fun c hc => by
  unfold getClass
  rw [e]
  exact h c hc

theorem parkedWindow_uncounted (m : Nat) (s : State) : Uncounted (parkedWindow m s) := by
  have ended : Uncounted (allClasses (fun c k => { endWindow (resWords s c) k with asking := false }) s) := fun c hc => by
    rw [getClass_allClasses _ _ hc]
    exact ⟨rfl, rfl, rfl, rfl, rfl⟩
  unfold parkedWindow
  dsimp only
  split
  · exact ended
  · split
    · refine ended.congr ?_
      dsimp only
    · exact ended

theorem getClass_rollCounts (s : State) {c : Nat} (hc : c < 16) :
    getClass (rollCounts s) c = rollClass (bit s.reg.suspNow c) (getClass s c) := by
  rw [← getClass_allClasses (fun c k => rollClass (bit s.reg.suspNow c) k) s hc]
  dsimp only [getClass, rollCounts]

theorem parkedBoundary_uncounted (n : Nat) {s : State} (h : Uncounted s) : Uncounted (parkedBoundary n s) := by
  have rolled : Uncounted (rollCounts s) := fun c hc => by
    rw [getClass_rollCounts s hc]
    exact h c hc
  refine rolled.congr ?_
  dsimp only [parkedBoundary, coverFrame]

theorem passFrames_uncounted (l a b : Nat) {s : State} (h : Uncounted s) : Uncounted (passFrames l a b s) := by
  unfold passFrames
  dsimp only
  split
  · exact h
  · split
    · exact parkedBoundary_uncounted _ h
    · refine (parkedBoundary_uncounted (a / 2 ^ l + 2) (parkedBoundary_uncounted (a / 2 ^ l + 1) h)).congr ?_
      dsimp only

theorem passBoundaries_uncounted (a b : Nat) {s : State} (h : Uncounted s) : Uncounted (passBoundaries a b s) := by
  unfold passBoundaries
  dsimp only
  split
  · exact passFrames_uncounted _ _ _ h
  · split
    · exact passFrames_uncounted _ _ _ h
    · exact passFrames_uncounted _ _ _ (passFrames_uncounted _ _ _ h)

theorem passWhileParked_uncounted {a b : Nat} {s : State} (h : a / 2 ^ s.reg.winLog2.toNat < b / 2 ^ s.reg.winLog2.toNat) :
    Uncounted (passWhileParked a b s) := by
  rcases hw : firstMultiple s.reg.winLog2.toNat a b with _ | m
  · exact absurd (firstMultiple_none.mp hw) (Nat.not_le.mpr h)
  · obtain ⟨k, hk⟩ := passWhileParked_split hw
    rw [hk]
    exact passBoundaries_uncounted _ _ (parkedWindow_uncounted _ _)

/-- 17 counter values pass one multiple of 2^l at most, for frames and windows of 32 sc and more. -/
theorem succ_of_passed {l a : Nat} (hl : 5 ≤ l) (h : (a + 17) / 2 ^ l ≠ a / 2 ^ l) : (a + 17) / 2 ^ l = a / 2 ^ l + 1 := by
  have wide : 2 ^ 5 ≤ 2 ^ l := Nat.pow_le_pow_right (by decide) hl
  have lower : a / 2 ^ l ≤ (a + 17) / 2 ^ l := Nat.div_le_div_right (by omega)
  have upper : (a + 17) / 2 ^ l ≤ (a + 2 ^ l) / 2 ^ l := Nat.div_le_div_right (by omega)
  rw [Nat.add_div_right a (Nat.two_pow_pos l)] at upper
  omega

/-! ### Strobes -/

/-- A strobe registers: the lapse since the last one is over, and a counter that awaits its reload runs on. -/
def strobed (s : State) : State :=
  { s with tick := { s.tick with strobeAge := 0 }, env := { s.env with scRun := s.env.scRun || s.env.reload, reload := false } }

theorem counterFault_kept {s t : State} (own shown : Word64) (h : Kept s t) : Kept s (counterFault own shown t) :=
  h.trans (kept_of_untouched (report_untouched 1 4 0 _ (s := t) {}))

theorem passReload_kept (kept shown : Word64) (s : State) : Kept s (passReload kept shown s) := by
  unfold passReload
  dsimp only
  split
  · exact kept_of_passed (passWhileParked_passed _ _ s)
  · exact kept_of_untouched (Untouched.refl s)

theorem passReload_eq (kept shown : Word64) (s : State) :
    passReload kept shown s = if s.env.pkAck = true ∧ (shown - kept).toNat < 2 ^ 63
      then passWhileParked kept.toNat (kept.toNat + (shown - kept).toNat) s else s := by
  simp only [passReload, Bool.and_eq_true, decide_eq_true_eq]

theorem strobed_kept (s : State) : Kept s (strobed s) := kept_of_untouched {}

section
variable {s : State} (h : inUse s) (v : Word64)
include h

theorem tkStrobe_loads (hv : s.tick.cntValid = false) (hl : s.tick.load = none) :
    exec (.tkStrobe v) s = .next { strobed s with tick := { (strobed s).tick with load := some v } } := by
  unfold exec execTkStrobe
  refine counterEvent_answers h ?_ (kept_of_untouched {})
  refine (if_pos (by simp [hv])).trans ?_
  simp only [hl, strobed]

theorem tkStrobe_checks_load {w : Word64} (hv : s.tick.cntValid = false) (hl : s.tick.load = some w) :
    exec (.tkStrobe v) s = .next (if w = v then strobed s else counterFault w v (strobed s)) := by
  unfold exec execTkStrobe
  refine counterEvent_answers h ?_ ?_
  · refine (if_pos (by simp [hv])).trans ?_
    simp only [hl, strobed]
  · split
    · exact strobed_kept s
    · exact counterFault_kept w v (strobed_kept s)

theorem tkStrobe_checks (hv : s.tick.cntValid = true) (hr : s.env.reload = false) :
    exec (.tkStrobe v) s = .next (if s.tick.counter = v then strobed s else counterFault s.tick.counter v (strobed s)) := by
  unfold exec execTkStrobe
  refine counterEvent_answers h ?_ ?_
  · exact (if_neg (by simp [hv])).trans (if_neg (by simp [hr]))
  · split
    · exact strobed_kept s
    · exact counterFault_kept _ v (strobed_kept s)

/-- The reloaded counter, and what the reload passes over. -/
def reloaded (v : Word64) (s : State) : State :=
  passReload s.tick.counter v { strobed s with tick := { (strobed s).tick with counter := v } }

theorem tkStrobe_reloads (hv : s.tick.cntValid = true) (hr : s.env.reload = true) :
    exec (.tkStrobe v) s = .next (if 16 < (s.tick.counter - v).toNat ∧ 16 < (v - s.tick.counter).toNat
      then counterFault s.tick.counter v (reloaded v s) else reloaded v s) := by
  have kept : Kept s (reloaded v s) := Kept.trans (kept_of_untouched {}) (passReload_kept s.tick.counter v _)
  unfold exec execTkStrobe
  refine counterEvent_answers h ?_ ?_
  · refine (if_neg (by simp [hv])).trans ((if_pos hr).trans ?_)
    simp only [farApart, Bool.and_eq_true, decide_eq_true_eq]
    rfl
  · split
    · exact counterFault_kept _ v kept
    · exact kept

theorem strobeLate_reports (hv : s.tick.cntValid = true) (hk : s.env.pkAck = false) (ha : s.tick.strobeAge = 32768) :
    exec .strobeLate s = .next (report 2 0 0 (detailT s.tick.counter 0)
      { s with tick := { s.tick with strobeLate := true, strobeAge := 32769 } }) := by
  unfold exec execStrobeLate
  exact eventIf_answers h (by simp [strobeLateDue, hv, hk, ha]) rfl (report_untouched 2 0 0 _ {})

theorem aonTick_passes (hv : s.tick.cntValid = true) (hk : s.env.pkAck = true) (hr : s.env.scRun = false) :
    exec .aonTick s = .next (passWhileParked s.tick.counter.toNat (s.tick.counter.toNat + 17)
      { s with tick := { s.tick with counter := s.tick.counter + 17 } }) := by
  unfold exec execAonTick
  exact counterEvent_answers h (if_pos (by simp [hv, hk, hr]))
    (Kept.trans (kept_of_untouched {}) (kept_of_passed (passWhileParked_passed _ _ _)))

end

/-! ### The end of a window in service -/

theorem endWindow_eq (words : Nat) (k : Machine.Class) : endWindow words k = { k with
    shortNow := min 65535 (k.shortNow + if k.asking = true ∧ k.xpWords < words then words - k.xpWords else 0)
    overNow := min 65535 (k.overNow + if k.leftLeash then 1 else 0)
    bytes := 0, starts := [], xpWords := 0, leftLeash := false, asking := true } := by
  have short : (if decide (0 < words) && k.asking && decide (k.xpWords < words) then words - k.xpWords else 0)
      = if k.asking = true ∧ k.xpWords < words then words - k.xpWords else 0 := by
    refine if_congr ?_ rfl rfl
    simp only [Bool.and_eq_true, decide_eq_true_eq]
    exact ⟨fun ⟨⟨_, ha⟩, hw⟩ => ⟨ha, hw⟩, fun ⟨ha, hw⟩ => ⟨⟨by omega, ha⟩, hw⟩⟩
  unfold endWindow
  dsimp only
  rw [short]
  rfl

theorem onMultiple_iff {s : State} (hv : s.tick.cntValid = true) (l : Nat) :
    onMultiple s l = true ↔ s.tick.counter.toNat % 2 ^ l = 0 := by
  simp [onMultiple, hv]

theorem takePending_some {w : Nat} {s : State} (hv : s.tick.cntValid = true) (now n : BitVec w) :
    takePending s now (some n)
      = if s.tick.counter.toNat % 2 ^ n.toNat = 0 then (n, none) else (now, some n) := by
  simp only [takePending, onMultiple_iff hv]

theorem takePending_eq {w : Nat} {s : State} (hv : s.tick.cntValid = true) (now : BitVec w) (next : Option (BitVec w)) :
    takePending s now next =
      (match next with
        | some n => if s.tick.counter.toNat % 2 ^ n.toNat = 0 then n else now
        | none => now,
       match next with
        | some n => if s.tick.counter.toNat % 2 ^ n.toNat = 0 then none else some n
        | none => none) := by
  cases next with
  | none => rfl
  | some n =>
    rw [takePending_some hv]
    split <;> simp [*]

/-- The classes at the end of a window. -/
def windowEnded (s : State) : Table Machine.Class := (allClasses (fun c k => endWindow (resWords s c) k) s).reg.cls

theorem regWindowEnd_answers {s : State} (h : inUse s) (hd : windowDue s = true) :
    exec .regWindowEnd s = .next { s with
      env := { s.env with done := { s.env.done with window := true } }
      reg := { s.reg with cls := windowEnded s, winLog2 := (takePending s s.reg.winLog2 s.reg.winPend).1
                          winPend := (takePending s s.reg.winLog2 s.reg.winPend).2 } } := by
  have hc := allClasses_eq (fun c k => endWindow (resWords s c) k) s
  unfold exec execRegWindowEnd windowEnded
  rw [inService_next h, if_pos hd]
  dsimp only
  generalize allClasses (fun c k => endWindow (resWords s c) k) s = ended at hc
  rw [hc]
  rfl

/-- Settles O33: the counts of every class restart at the end of a window, and a pending length is taken up at a multiple of
it. -/
theorem windowEndAnswers : Obligations.WindowEndAnswers := by
  unfold Obligations.WindowEndAnswers
  intro s h hv hk hd hm
  have due : windowDue s = true := by simp [windowDue, onMultiple, hv, hk, hd, hm]
  refine ⟨_, regWindowEnd_answers h due, fun c hc => ?_, ?_⟩
  · dsimp only
    rw [← endWindow_eq, ← getClass_allClasses (fun c k => endWindow (resWords s c) k) s hc]
    dsimp only [getClass, windowEnded]
  · rw [takePending_eq hv]
    generalize windowEnded s = ended
    cases s.reg.winPend with
    | none => rfl
    | some n => rfl

/-- Settles O30: the strobes register as checks, loads or reloads, and the always-on clock counts what it passes. -/
theorem tickCommandsAnswer : Obligations.TickCommandsAnswer := by
  unfold Obligations.TickCommandsAnswer
  intro s h
  refine ⟨fun v => ?_, fun hv hk ha => strobeLate_reports h hv hk ha, fun hv hk hr => ?_⟩
  · refine ⟨tkStrobe_loads h v, fun w => tkStrobe_checks_load h v, tkStrobe_checks h v, fun hv hr => ?_⟩
    rw [tkStrobe_reloads h v hv hr, reloaded, passReload_eq]
    rfl
  · intro a f w tel
    rw [aonTick_passes h hv hk hr]
    have slots : slotsBetween a (a + 17) = (a + 17) / 32 - a / 32 := slotsBetween_eq (Nat.le_add_right a 17)
    refine ⟨fun hf hw => ?_, fun hl hp hf => ?_, fun hl hp hw => ?_⟩
    · rw [passWhileParked_none (s := { s with tick := { s.tick with counter := s.tick.counter + 17 } }) hf hw, slots]
      rfl
    · have one : (a + 17) / f = a / f + 1 := succ_of_passed hl hf
      have passed := passWhileParked_one (s := { s with tick := { s.tick with counter := s.tick.counter + 17 } }) hp one
      rw [slots] at passed
      exact ⟨_, rfl, passed.tick, passed.skipped, passed.missIn, passed.coh, passed.cal, passed.rest⟩
    · refine ⟨_, rfl, ?_, ?_⟩
      · rw [(passWhileParked_passed ..).same]
      · exact passWhileParked_uncounted (s := { s with tick := { s.tick with counter := s.tick.counter + 17 } })
          (Nat.lt_of_le_of_ne (Nat.div_le_div_right (Nat.le_add_right a 17)) (Ne.symm hw))

end Sys2Proof.Proofs
end

section
/-! SUPPORT. Writes of event flags and the compare that follows (09_sequencer_architecture R255, R257; 17_register_map R446). -/

namespace Sys2Proof.Proofs

open Sys2Proof.Machine Sys2Proof.Safety Sys2Proof.Laws

set_option Elab.async false

/-- The same for a write that also notes that a compare is due. -/
theorem sbWriteOk_settled {s t : State} {c : Instr} {body : State → State} (h : sbActs s) (hb : body s = t)
    (hs : sbSettle s t = t := by rfl) :
    sbWriteOk c s body = .next { t with out := responded t 0 0 } := by
  rw [sbWriteOk_next h, hb]
  have same : sbSettle s (sbRespond 0 0 t) = sbRespond 0 0 (sbSettle s t) := rfl
  rw [same, hs]
  rfl

theorem evtClear_answers {s : State} (h : sbActs s) (high : Bool) (v : Word32) :
    exec (.evtClear high v) s = .next { s with
      seq := { s.seq with quiet := false, events := s.seq.events &&& ~~~(flagHalf high v &&& ~~~s.seq.evArr) }
      out := responded s 0 0 } := by
  unfold exec execEvtClear
  exact sbWriteOk_answers h rfl

theorem evtSet_answers {s : State} (h : sbActs s) (high : Bool) (v : Word32) (hm : flagHalf high v ≠ 0) :
    exec (.evtSet high v) s = .next { s with
      seq := { s.seq with quiet := false, events := s.seq.events ||| flagHalf high v, evArr := s.seq.evArr ||| flagHalf high v }
      env := { s.env with done := { s.env.done with compare := true } }, out := responded s 0 0 } := by
  unfold exec execEvtSet
  refine sbWriteOk_settled h (t := { s with
      seq := { s.seq with quiet := false, events := s.seq.events ||| flagHalf high v, evArr := s.seq.evArr ||| flagHalf high v }
      env := { s.env with done := { s.env.done with compare := true } } }) ?_
  have set : setFlags (flagHalf high v) (noisy s) = noisy { noisy s with
      seq := { (noisy s).seq with events := s.seq.events ||| flagHalf high v, evArr := s.seq.evArr ||| flagHalf high v }
      env := { s.env with done := { s.env.done with compare := true } } } := if_neg hm
  rw [keepConfig, set]
  rfl

theorem evtSet_nothing {s : State} (h : sbActs s) (high : Bool) (v : Word32) (hm : flagHalf high v = 0) :
    exec (.evtSet high v) s = .next { s with seq := { s.seq with quiet := false }, out := responded s 0 0 } := by
  unfold exec execEvtSet
  refine sbWriteOk_answers h (t := noisy s) ?_
  rw [keepConfig, setFlags, if_pos hm]
  rfl

/-! ### The compare -/

/-- The flags after context x has been examined with flags e. -/
def flagsAfter (x : Ctx) (e : Word64) : Word64 :=
  match flagWait x with
  | some (m, _, true) => e &&& ~~~m
  | _ => e

theorem flagsSeen_succ (s : State) (e : Word64) (c : Nat) : flagsSeen s e (c + 1)
    = if fulfilled s (flagsSeen s e c) c = true then flagsAfter (getCtx s c) (flagsSeen s e c) else flagsSeen s e c := by
  rw [flagsSeen, flagsAfter]
  generalize flagsSeen s e c = f
  cases fulfilled s f c with
  | false => rfl
  | true =>
    generalize flagWait (getCtx s c) = w
    match w with
    | none => rfl
    | some (m, all, true) => rfl
    | some (m, all, false) => rfl

theorem released_eq (id : Nat) (x : Ctx) : (x.setSts (statusCode .ok) id).wakeUp = released id x := by
  cases hx : x.haltPend with
  | true => simp [Ctx.wakeUp, Ctx.setSts, released, hx, statusCode]
  | false => simp [Ctx.wakeUp, Ctx.setSts, released, hx, statusCode]

theorem releaseWait_ok (c : Nat) (u : State) : releaseWait c .ok u
    = { u with seq := { u.seq with ctx := (setCtx c (released u.seq.nextId) u).seq.ctx, nextId := u.seq.nextId + 1 } } := by
  simp only [releaseWait, released_eq]
  rfl

theorem flagWait_some {x : Ctx} {m : Word64} {all use : Bool} :
    flagWait x = some (m, all, use) ↔ x.state = .wait ∧ x.wait = .events m all use := by
  constructor
  · intro h
    simp only [flagWait] at h
    split at h
    · next hx =>
      split at h
      · next hw =>
        cases h
        exact ⟨hx, hw⟩
      · cases h
    · cases h
  · intro ⟨hx, hw⟩
    simp only [flagWait, hx, hw, if_true]

theorem fulfilled_some {u : State} {c : Nat} {m : Word64} {all use : Bool} (e : Word64)
    (h : flagWait (getCtx u c) = some (m, all, use)) : fulfilled u e c = waitHolds e m all := by
  rw [fulfilled, h]
  cases all with
  | true => rfl
  | false => rfl

theorem tryRelease_none {u : State} {c : Nat} (h : flagWait (getCtx u c) = none) : tryRelease c u = u := by
  unfold tryRelease
  dsimp only
  split
  · next hx hw => cases h.symm.trans (flagWait_some.mpr ⟨hx, hw⟩)
  · rfl

theorem tryRelease_some {u : State} {c : Nat} {m : Word64} {all use : Bool} (h : flagWait (getCtx u c) = some (m, all, use)) :
    tryRelease c u = if waitHolds u.seq.events m all
      then releaseWait c .ok { u with seq := { u.seq with events := flagsAfter (getCtx u c) u.seq.events } } else u := by
  have after (e : Word64) : flagsAfter (getCtx u c) e = if use then e &&& ~~~m else e := by
    rw [flagsAfter, h]
    cases use with
    | true => rfl
    | false => rfl
  obtain ⟨hx, hw⟩ := flagWait_some.mp h
  rw [after]
  unfold tryRelease
  dsimp only
  rw [hx, hw]
  cases use with
  | true => rfl
  | false => rfl

theorem tryRelease_eq (u : State) (c : Nat) : tryRelease c u = if fulfilled u u.seq.events c = true
    then releaseWait c .ok { u with seq := { u.seq with events := flagsAfter (getCtx u c) u.seq.events } } else u := by
  match hw : flagWait (getCtx u c) with
  | none =>
    rw [tryRelease_none hw, if_neg]
    simp [fulfilled, hw]
  | some (m, all, use) => rw [tryRelease_some hw, fulfilled_some _ hw]

theorem fulfilled_congr {s u : State} {c : Nat} (h : getCtx u c = getCtx s c) (e : Word64) : fulfilled u e c = fulfilled s e c := by
  simp only [fulfilled, h]

/-- What the compare has done when the contexts below n have been examined. -/
structure Compared (s : State) (n : Nat) (t : State) : Prop where
  events : t.seq.events = flagsSeen s s.seq.events n
  free : ∀ c, c < n → fulfilled s (flagsSeen s s.seq.events c) c = true → ∃ id, getCtx t c = released id (getCtx s c)
  stay : ∀ c, n ≤ c ∨ fulfilled s (flagsSeen s s.seq.events c) c = false → getCtx t c = getCtx s c
  rest : t = { s with seq := { s.seq with events := t.seq.events, ctx := t.seq.ctx, nextId := t.seq.nextId }
                      env := { s.env with done := { s.env.done with compare := false } } }

theorem Compared.next {s t : State} {n : Nat} (h : Compared s n t) : Compared s (n + 1) (tryRelease n t) := by
  obtain ⟨events, free, stay, rest⟩ := h
  have here : getCtx t n = getCtx s n := stay n (.inl (Nat.le_refl n))
  have full : fulfilled t t.seq.events n = fulfilled s (flagsSeen s s.seq.events n) n := by rw [events, fulfilled_congr here]
  rw [tryRelease_eq, full]
  by_cases hf : fulfilled s (flagsSeen s s.seq.events n) n = true
  · rw [if_pos hf, releaseWait_ok]
    have ctx (c : Nat) : getCtx (setCtx n (released t.seq.nextId) t) c
        = if c = n then released t.seq.nextId (getCtx s n) else getCtx t c := by
      split
      · next hc => rw [hc, getCtx_setCtx_self, here]
      · next hc => rw [getCtx_setCtx_ne _ _ hc]
    refine ⟨?_, fun c hc hfc => ?_, fun c hc => ?_, ?_⟩
    · rw [flagsSeen_succ, if_pos hf, ← events, ← here]
    · rcases Nat.lt_succ_iff_lt_or_eq.mp hc with hlt | rfl
      · obtain ⟨id, hid⟩ := free c hlt hfc
        exact ⟨id, (ctx c).trans ((if_neg (Nat.ne_of_lt hlt)).trans hid)⟩
      · exact ⟨t.seq.nextId, (ctx c).trans (if_pos rfl)⟩
    · have hne : c ≠ n := by
        rintro rfl
        rcases hc with hc | hc
        · omega
        · exact absurd hf (by simp [hc])
      exact (ctx c).trans ((if_neg hne).trans (stay c (hc.imp_left Nat.le_of_succ_le)))
    · dsimp only
      rw [rest]
  · rw [if_neg hf]
    refine ⟨by rw [flagsSeen_succ, if_neg hf, events], fun c hc hfc => ?_, fun c hc => ?_, rest⟩
    · rcases Nat.lt_succ_iff_lt_or_eq.mp hc with hlt | rfl
      · exact free c hlt hfc
      · exact absurd hfc hf
    · exact stay c (hc.imp_left Nat.le_of_succ_le)

theorem compareFlags_compared (s : State) : Compared s 16 (compareFlags s) := by
  have upto (n : Nat) : Compared s n ((List.range n).foldl (fun s c => tryRelease c s)
      { s with env := { s.env with done := { s.env.done with compare := false } } }) := by
    induction n with
    | zero => exact ⟨rfl, fun _ hc => absurd hc (Nat.not_lt_zero _), fun _ _ => rfl, rfl⟩
    | succ n ih =>
      rw [List.range_succ, List.foldl_append]
      exact ih.next
  exact upto 16

/-- Settles O23: a write of flags acts at once, and the compare of the sc examines the contexts in ascending number. -/
theorem eventFlagWritesAnswer : Obligations.EventFlagWritesAnswer := by
  unfold Obligations.EventFlagWritesAnswer
  refine ⟨fun s high v h => ⟨evtClear_answers h high v, evtSet_nothing h high v, evtSet_answers h high v⟩, ?_⟩
  intro s hp hw hh hc e
  obtain ⟨events, free, stay, rest⟩ := compareFlags_compared s
  refine ⟨_, (step_empty hp).trans (idle_compare hw hh hc), events, free, fun c hlt hf => stay c (.inr hf), rest⟩

end Sys2Proof.Proofs
end

section
/-! SUPPORT. Messages that register, and requests that are refused (04_coherence_protocol R107, R113, R145; 06_kennels_and_channels
R169; 15_containment_and_safety R403; 16_ports_and_signals R420, R436). -/

namespace Sys2Proof.Proofs

open Sys2Proof.Machine Sys2Proof.Safety Sys2Proof.Laws

set_option Elab.async false

/-! ### What a message that registers answers -/

theorem setClass_untouched (c : Nat) (f : Machine.Class → Machine.Class) {s u : State} (h : Untouched s u) :
    Untouched s (setClass u c f) := h.trans {}

theorem chargeXp_untouched (c n : Nat) {s u : State} (h : Untouched s u) : Untouched s (chargeXp c n u) := by
  unfold chargeXp
  split
  · exact setClass_untouched c _ (charge_untouched c _ h)
  · exact h

theorem registered_untouched (a : Arrival) {s u : State} (h : Untouched s u) : Untouched s (registered a u) := by
  have crossing : Untouched s (chargeCrossing a u) := by
    unfold chargeCrossing
    split
    · exact chargeXp_untouched _ _ h
    · exact h
  exact crossing.trans {}

/-- In service, a message that can register and whose effect leaves alone what software alone writes has just that effect. -/
theorem receive_answers {s t : State} {c : Instr} {a : Arrival} {body : State → State} (h : inUse s) (hh : hears s c)
    (ha : arrivalOf c = some a) (hb : body s = t) (hu : Untouched s t) : receive c s body = .next (arrived c t) := by
  have fields : Untouched s (registered a (body s)) := by
    rw [hb]
    exact registered_untouched a hu
  rw [receive_next h hh ha, keepConfig_eq (body := fun s => registered a (body s)) fields]
  simp only [arrived, ha, hb]

/-! ### Refusals -/

theorem reqRefused_fatal {s : State} (h : Hdr) (parks framed : Bool) (hf : s.saf.fatal = true) :
    reqRefused s h parks framed = some .muzzled := if_pos hf

theorem reqRefused_draining {s : State} (h : Hdr) {parks : Bool} (framed : Bool) (hf : s.saf.fatal = false) (hp : parks = true)
    (hd : draining s = true) : reqRefused s h parks framed = some .parked := by
  simp [reqRefused, hf, hp, hd]

theorem reqRefused_bounds {s : State} {h : Hdr} {parks framed : Bool} (hf : s.saf.fatal = false)
    (hp : parks = true → draining s = false) (hb : badSource s h.agent h.die = true ∨ framed = false) :
    reqRefused s h parks framed = some .bounds := by
  have awake : (parks && draining s) = false := by
    cases parks with
    | false => rfl
    | true => exact hp rfl
  rcases hb with hb | hb
  · simp [reqRefused, hf, awake, hb]
  · simp [reqRefused, hf, awake, hb]

theorem answerSts_eq {h : Hdr} {st : Status} (s : State) (hn : st ≠ .nackRetry) :
    answerSts h st s = emit (answerMsg h 8 (.status st) [] (s.env.sc + 9) .none) s := by
  rw [answerSts, countNack, if_neg hn]
  rfl

/-- A request of the forms that Sts answers is taken or refused; one of an unassigned opcode gets BOUNDS where it is taken. -/
theorem exec_reqForm {c : Instr} {h : Hdr} {full parks framed : Bool} (s : State) (hc : reqForm c = some (h, full, parks, framed)) :
    ∃ serve, exec c s = receive c s (fun s => takeReq h parks framed s serve)
      ∧ ((∃ op, c = .reqUnassigned h op) → parks = false ∧ framed = true ∧ serve = answerSts h .bounds) := by
  cases c <;> cases hc
  case rds => exact ⟨_, rfl, nofun⟩
  case rdx => exact ⟨_, rfl, nofun⟩
  case rdu => exact ⟨_, rfl, nofun⟩
  case upg => exact ⟨_, rfl, nofun⟩
  case wrfull =>
    rw [Bool.decide_and]
    exact ⟨_, rfl, nofun⟩
  case wrpart =>
    rw [Bool.decide_and]
    exact ⟨_, rfl, nofun⟩
  case reqUnassigned => exact ⟨_, rfl, fun _ => ⟨rfl, rfl, rfl⟩⟩

/-- A channel request is taken or refused; one with a reserved CHOP gets BOUNDS where it is taken. -/
theorem exec_chForm {c : Instr} {h : Hdr} {parks : Bool} (s : State) (hc : chForm c = some (h, parks)) :
    ∃ serve, exec c s = receive c s (fun s => takeChannel h parks s serve)
      ∧ ((∃ op, c = .chopReserved h op) → parks = false ∧ serve = chAnswer (.agent h) .bounds 0 0) := by
  cases c <;> cases hc
  case reserve => exact ⟨_, rfl, nofun⟩
  case take => exact ⟨_, rfl, nofun⟩
  case commit => exact ⟨_, rfl, nofun⟩
  case free => exact ⟨_, rfl, nofun⟩
  case credit => exact ⟨_, rfl, nofun⟩
  case chopReserved => exact ⟨_, rfl, fun _ => ⟨rfl, rfl⟩⟩

theorem arrivalOf_reqForm {c : Instr} {f : Hdr × Bool × Bool × Bool} (hc : reqForm c = some f) : ∃ a, arrivalOf c = some a := by
  cases c <;> cases hc <;> exact ⟨_, rfl⟩

theorem arrivalOf_chForm {c : Instr} {f : Hdr × Bool} (hc : chForm c = some f) : ∃ a, arrivalOf c = some a := by
  cases c <;> cases hc <;> exact ⟨_, rfl⟩

section
variable {c : Instr} {s : State} {h : Hdr} (hu : inUse s) (hh : hears s c)
include hu hh

theorem takeReq_refused {parks framed : Bool} {st : Status} {serve : State → State} {a : Arrival} (ha : arrivalOf c = some a)
    (hr : reqRefused s h parks framed = some st) (hn : st ≠ .nackRetry) :
    receive c s (fun s => takeReq h parks framed s serve)
      = .next (arrived c (emit (answerMsg h 8 (.status st) [] (s.env.sc + 9) .none) s)) := by
  refine receive_answers hu hh ha ?_ (emit_untouched _ {})
  rw [takeReq, hr]
  exact answerSts_eq s hn

theorem takeChannel_refused {parks : Bool} {st : Status} {serve : State → State} {a : Arrival} (ha : arrivalOf c = some a)
    (hr : reqRefused s h parks (decide (h.ndf = 0)) = some st) :
    receive c s (fun s => takeChannel h parks s serve)
      = .next (arrived c (emit (answerMsg h 0xC (.chRsp st 0 0) [] (s.env.sc + 9) .none) (noisy s))) := by
  refine receive_answers hu hh ha ?_ (emit_untouched _ {})
  have same : reqRefused (noisy s) h parks (decide (h.ndf = 0)) = some st := hr
  rw [takeChannel, same]
  rfl

end

theorem reqRefused_none {s : State} {h : Hdr} {parks framed : Bool} (hf : s.saf.fatal = false)
    (hp : parks = true → draining s = false) (hb : badSource s h.agent h.die = false) (hr : framed = true) :
    reqRefused s h parks framed = none := by
  have awake : (parks && draining s) = false := by
    cases parks with
    | false => rfl
    | true => exact hp rfl
  simp [reqRefused, hf, awake, hb, hr]

/-- Settles O37: a refused request is answered with the first status that applies, and nothing else. -/
theorem refusedRequestsAnswer : Obligations.RefusedRequestsAnswer := by
  unfold Obligations.RefusedRequestsAnswer
  refine fun c s h hu hh => ⟨fun full parks framed hc => ?_, fun parks hc => ?_⟩
  · obtain ⟨a, ha⟩ := arrivalOf_reqForm hc
    obtain ⟨serve, he, hs⟩ := exec_reqForm s hc
    refine ⟨fun hf => ?_, fun hf hp hd => ?_, fun hf hp hb => ?_⟩
    · exact he.trans (takeReq_refused hu hh ha (reqRefused_fatal h parks framed hf) nofun)
    · exact he.trans (takeReq_refused hu hh ha (reqRefused_draining h framed hf hp hd) nofun)
    · by_cases hr : badSource s h.agent h.die = true ∨ framed = false
      · exact he.trans (takeReq_refused hu hh ha (reqRefused_bounds hf hp hr) nofun)
      · obtain ⟨hsrc, hfr⟩ := not_or.mp hr
        obtain ⟨-, -, rfl⟩ := hs ((hb.resolve_left hsrc).resolve_left hfr)
        refine he.trans (receive_answers hu hh ha ?_ (emit_untouched _ {}))
        rw [takeReq, reqRefused_none hf hp (Bool.eq_false_iff.mpr hsrc) (Bool.not_eq_false _ ▸ hfr)]
        exact answerSts_eq s nofun
  · obtain ⟨a, ha⟩ := arrivalOf_chForm hc
    obtain ⟨serve, he, hs⟩ := exec_chForm s hc
    refine ⟨fun hf => ?_, fun hf hp hd => ?_, fun hf hp hb => ?_⟩
    · exact he.trans (takeChannel_refused hu hh ha (reqRefused_fatal h parks _ hf))
    · exact he.trans (takeChannel_refused hu hh ha (reqRefused_draining h _ hf hp hd))
    · by_cases hr : badSource s h.agent h.die = true ∨ h.ndf ≠ 0
      · exact he.trans (takeChannel_refused hu hh ha (reqRefused_bounds hf hp (hr.imp_right decide_eq_false)))
      · obtain ⟨hsrc, hfr⟩ := not_or.mp hr
        obtain ⟨-, rfl⟩ := hs ((hb.resolve_left hsrc).resolve_left hfr)
        refine he.trans (receive_answers hu hh ha ?_ (emit_untouched _ {}))
        have none : reqRefused (noisy s) h parks (decide (h.ndf = 0)) = none :=
          reqRefused_none (s := noisy s) hf hp (Bool.eq_false_iff.mpr hsrc) (decide_eq_true (not_not.mp hfr))
        rw [takeChannel, none]
        rfl

end Sys2Proof.Proofs
end

section
/-! SUPPORT. Moves started through the sideband (11_bulk_mover R316, R317, Table 11.2). -/

namespace Sys2Proof.Proofs

open Sys2Proof.Machine Sys2Proof.Safety Sys2Proof.Laws

set_option Elab.async false

/-! ### The cases of the acceptance in their order -/

/-- One more move has been accepted. -/
def counted (s : State) : State := { s with mov := { s.mov with serial := s.mov.serial + 1 } }

/-- The engine of a move accepted in this sc. -/
def begun (s : State) (g : Engine) : Engine :=
  { g with busy := true, serial := s.mov.serial + 1, next := s.env.sc + 1, takenAt := s.env.sc }

section
variable {s : State} (hf : s.saf.fatal = false)
include hf

theorem engineMuzzled_eq (g : Engine) : engineMuzzled s g = g.muz := by
  rw [engineMuzzled, hf, Bool.or_false]

theorem freeEngine_none (h : ∀ e, e < 8 → (engineOf s e).busy = true ∨ (engineOf s e).muz = true) : freeEngine s = none := by
  simp only [freeEngine, List.find?_eq_none, List.mem_range, engineMuzzled_eq hf]
  intro e he
  rcases h e he with h | h
  · simp [h]
  · simp [h]

theorem freeEngine_some {e : Nat} (he : e < 8) (hb : (engineOf s e).busy = false) (hm : (engineOf s e).muz = false)
    (h : ∀ f, f < e → (engineOf s f).busy = true ∨ (engineOf s f).muz = true) : freeEngine s = some e := by
  simp only [freeEngine, List.find?_range_eq_some, engineMuzzled_eq hf]
  refine ⟨by simp [hb, hm], List.mem_range.mpr he, fun f hfe => ?_⟩
  rcases h f hfe with h | h
  · simp [h]
  · simp [h]

theorem allMuzzled_iff : ((List.range 8).all fun e => engineMuzzled s (engineOf s e)) = true
    ↔ ∀ e, e < 8 → (engineOf s e).muz = true := by
  simp only [List.all_eq_true, List.mem_range, engineMuzzled_eq hf]

theorem acceptMove_muzzled (g : Engine) (h : ∀ e, e < 8 → (engineOf s e).muz = true) : acceptMove g s = (.muzzled, none, s) :=
  if_pos ((allMuzzled_iff hf).mpr h)

section
variable (ha : ∃ e, e < 8 ∧ (engineOf s e).muz = false)
include ha

theorem acceptMove_awake : ¬ ((List.range 8).all fun e => engineMuzzled s (engineOf s e)) = true := fun h => by
  obtain ⟨e, he, hm⟩ := ha
  exact absurd ((allMuzzled_iff hf).mp h e he) (by simp [hm])

theorem acceptMove_bounds {g : Engine} (hm : moveAllowed s g = false) : acceptMove g s = (.bounds, none, s) :=
  (if_neg (acceptMove_awake hf ha)).trans (if_pos (by simp [hm]))

theorem acceptMove_empty {g : Engine} (hm : moveAllowed s g = true) (hl : g.len = 0) : acceptMove g s
    = (.emptyMove, none, signalMove g (moveRecord s none g { status := .emptyMove, cause := 0, line := 0 } 0) s) :=
  (if_neg (acceptMove_awake hf ha)).trans ((if_neg (by simp [hm])).trans (if_pos hl))

theorem acceptMove_busy {g : Engine} (hm : moveAllowed s g = true) (hl : g.len ≠ 0) (hn : freeEngine s = none) :
    acceptMove g s = (.nackRetry, none, s) := by
  refine (if_neg (acceptMove_awake hf ha)).trans ((if_neg (by simp [hm])).trans ((if_neg hl).trans ?_))
  rw [hn]

theorem acceptMove_starts {g : Engine} {e : Nat} (hm : moveAllowed s g = true) (hl : g.len ≠ 0) (he : freeEngine s = some e) :
    acceptMove g s = (.ok, some e, setEngine e (fun _ => begun s g) (counted s)) := by
  refine (if_neg (acceptMove_awake hf ha)).trans ((if_neg (by simp [hm])).trans ((if_neg hl).trans ?_))
  rw [he]
  rfl

end
end

/-! ### SL_MV_GO -/

/-- The move that a write of SL_MV_GO asks for. -/
def askedMove (v : Word32) (s : State) : Engine := moveOf s.mov.desc 0 true (v.toNat % 16) none

theorem writeMvGo_idle {s : State} {v : Word32} (hv : v.getLsbD 31 = false) : writeMvGo v s = s := by
  have off : bit v 31 = false := hv
  simp only [writeMvGo, keepConfig, off, Bool.false_eq_true, if_false]
  rfl

theorem writeMvGo_answers {s t : State} {v : Word32} {st : Status} {e : Option Nat} (hv : v.getLsbD 31 = true)
    (ha : acceptMove (askedMove v s) s = (st, e, t)) : writeMvGo v s
      = settle s (settlePeriods s { t with mov := { t.mov with
          resValid := true, resEngine := BitVec.ofNat 3 (e.getD 0), resStatus := st } }) := by
  have on : bit v 31 = true := hv
  have low : fld v 0 4 = v.toNat % 16 := by simp [fld]
  unfold askedMove at ha
  simp only [writeMvGo, keepConfig, on, if_true, low, ha]

/-- Where the acceptance leaves alone what software alone writes, the whole answer is what it leaves and its status. -/
theorem mvGo_answers {s t : State} {v : Word32} {st : Status} {e : Option Nat} (h : sbActs s) (hv : v.getLsbD 31 = true)
    (ha : acceptMove (askedMove v s) s = (st, e, t)) (hu : Untouched s t := by exact {}) (hf : s.fuse = t.fuse := by rfl)
    (he : s.env = t.env := by rfl) : exec (.mvGo v) s = .next { t with
      mov := { t.mov with resValid := true, resEngine := BitVec.ofNat 3 (e.getD 0), resStatus := st }
      out := responded t 0 0 } := by
  unfold exec execMvGo
  refine sbWriteOk_answers h ((writeMvGo_answers hv ha).trans (keep_untouched (hu.trans {}))) hu.q hf he

/-- Settles O24: the first case of Table 11.2 that applies is the status, and only OK starts a move. -/
theorem moveGoAnswers : Obligations.MoveGoAnswers := by
  unfold Obligations.MoveGoAnswers
  intro s v h g answered
  obtain ⟨-, hf⟩ := id h
  refine ⟨fun hv => ?_, fun hv => ⟨fun hm => ?_, fun ha => ⟨fun hm => ?_, fun hm hl => ?_, fun hm hl hb => ?_, ?_⟩⟩⟩
  · unfold exec execMvGo
    exact sbWriteOk_answers h (writeMvGo_idle hv)
  · exact mvGo_answers h hv (acceptMove_muzzled hf g hm)
  · exact mvGo_answers h hv (acceptMove_bounds hf ha hm)
  · refine ⟨_, sbWriteOk_next h _ _, ?_⟩
    rw [writeMvGo_answers hv (acceptMove_empty hf ha hm hl)]
    exact ⟨rfl, rfl, rfl⟩
  · exact mvGo_answers h hv (acceptMove_busy hf ha hm hl (freeEngine_none hf hb))
  · intro e hm hl he hb hz hlow
    refine ⟨_, mvGo_answers h hv (acceptMove_starts hf ha hm hl (freeEngine_some hf he hb hz hlow)), ?_, ?_, rfl⟩
    · exact engineOf_setEngine_self (counted s) e fun _ => begun s (askedMove v s)
    · exact fun f hfe => engineOf_setEngine_ne (counted s) (fun _ => begun s (askedMove v s)) hfe

end Sys2Proof.Proofs
end

section
/-! SUPPORT. A context that gives up a channel operation (09_sequencer_architecture R259, R267), in a state whose slot table lists a key
twice: nothing in the model or in the statement rules such a table out. -/

namespace Sys2Proof.Proofs

open Sys2Proof.Machine Sys2Proof.Safety Sys2Proof.Laws

set_option Elab.async false

/-- A slot with a COMMIT of context 1, instruction 7, on a push channel. -/
def committedSlot : Slot :=
  { state := .full, holder := none, age := 0, commit := some (.ctx 1 7, 0), parityBad := false }

/-- In service, context 1 waits on the channel operation of instruction 7, and slot 0 of channel 0 is listed twice. -/
def slotListedTwice : State := { State.reset with
  env := { Env.reset with phase := .ready, sc := 20000, sbRdy := true, sbOpen := true }
  seq := { State.reset.seq with ctxSel := 1, ctx := [(1, { Ctx.idle with state := .wait, wait := .channel 7 })] }
  ken := { State.reset.ken with slots := [(0, committedSlot), (0, committedSlot)] } }

theorem slotListedTwice_acts : sbActs slotListedTwice :=
  ⟨⟨⟨rfl, rfl⟩, rfl, by decide +kernel⟩, rfl⟩

/-- The slots that a command leaves. -/
def slotsAfter : Host.Outcome State Fault Refusal → Table Slot
  | .next t => t.ken.slots
  | _ => []

theorem halt_leaves_second_entry : (0, committedSlot) ∈ slotsAfter (exec .halt slotListedTwice) := by decide +kernel

/-- Refutes O21: HALT gives up the channel operation of a waiting context at the first entry of its slot. In a state that lists the
slot twice the second entry keeps the COMMIT of the context. -/
theorem not_contextCommandsAnswer : ¬ Obligations.ContextCommandsAnswer := by
  unfold Obligations.ContextCommandsAnswer
  intro h
  obtain ⟨-, -, -, waits, -⟩ := h slotListedTwice slotListedTwice_acts
  obtain ⟨t, he, -, -, -, -, -, -, gone⟩ := (waits 7 rfl rfl).2 (by rintro ⟨r, hr, -⟩; cases hr)
  have left : (0, committedSlot) ∈ t.ken.slots := by
    have := halt_leaves_second_entry
    rwa [he] at this
  exact gone _ left 7 0 rfl

end Sys2Proof.Proofs
end

section
/-! SUPPORT. Writes of SL_CH_CFG0 and SL_TGT_CFG0 (06_kennels_and_channels R165, R166, R176). -/

namespace Sys2Proof.Proofs

open Sys2Proof.Machine Sys2Proof.Safety Sys2Proof.Laws

set_option Elab.async false

/-! ### The selected channel -/

/-- The selected channel with the fields of a write of SL_CH_CFG0. -/
def writtenChan (v : Word32) (s : State) : Channel :=
  { chanOf s s.ken.chSel.toNat with litCnt := part v 23 7, litFirst := part v 13 10, wdog := part v 5 8, lb := part v 1 4 }

theorem slotAt_emptySlots {ch k : Nat} (s : State) (hk : k < 65536) : slotAt (emptySlots ch s) ch k = default := by
  have none : tfind (emptySlots ch s).ken.slots (ch * 65536 + k) = none := by
    refine tfind_none_of_keys fun hm => ?_
    obtain ⟨p, hp, he⟩ := List.mem_map.mp hm
    obtain ⟨-, hne⟩ := List.mem_filter.mp hp
    simp only [bne_iff_ne, ne_eq] at hne
    omega
  rw [slotAt, tget, none]
  rfl

/-- What answers the waits of a channel leaves of the channels and waits. -/
structure Answered (s t : State) : Prop where
  ch : t.ken.ch = s.ken.ch
  waits : t.ken.waits = s.ken.waits

theorem chAnswer_ken (p : ChParty) (st : Status) (slot off : Nat) (s : State) : (chAnswer p st slot off s).ken = s.ken := by
  cases p with
  | agent h =>
    simp only [chAnswer, answer, emit, countNack]
    split <;> split <;> rfl
  | ctx c id => rfl
  | gone _ => rfl

theorem answerWaiting_answered (ch : Nat) (st : Status) (s : State) :
    Answered { s with ken := { s.ken with waits := s.ken.waits.filter fun w => w.ch != ch } } (answerWaiting ch st s) := by
  unfold answerWaiting
  dsimp only
  refine List.foldlRecOn (motive := Answered _) _ _ ?_ fun t ht w _ => ?_
  · refine List.foldlRecOn (motive := Answered _) _ _ ⟨rfl, rfl⟩ fun t ht q _ => ?_
    exact ⟨by rw [chAnswer_ken]; exact ht.ch, by rw [chAnswer_ken]; exact ht.waits⟩
  · exact ⟨by rw [chAnswer_ken]; exact ht.ch, by rw [chAnswer_ken]; exact ht.waits⟩

theorem answerWaiting_none {ch : Nat} {st : Status} {s : State} (hw : ∀ w ∈ s.ken.waits, w.ch ≠ ch)
    (hc : ∀ p ∈ s.ken.slots, p.1 / 65536 = ch → p.2.commit = none) : answerWaiting ch st s = s := by
  have waiting : s.ken.waits.filter (fun w => w.ch == ch) = [] := List.filter_eq_nil_iff.mpr fun w h => by simp [hw w h]
  have staying : s.ken.waits.filter (fun w => w.ch != ch) = s.ken.waits := List.filter_eq_self.mpr fun w h => by simp [hw w h]
  have commits : s.ken.slots.filterMap (fun p => if p.1 / 65536 = ch then p.2.commit.map fun q => (p.1 % 65536, q.1) else none)
      = [] := List.filterMap_eq_nil_iff.mpr fun p h => by
    split
    · next hp => rw [hc p h hp, Option.map_none]
    · rfl
  simp only [answerWaiting, waiting, staying, commits, List.foldl_nil]

section
variable {s : State} {v : Word32}

/-- The channel as enabled: its slots EMPTY and its indices 0. -/
def enabledChan (v : Word32) (s : State) : Channel := { writtenChan v s with en := true, pi := 0, ci := 0, push := .idle }

theorem writeChCfg0_muzzled (hm : (chanOf s s.ken.chSel.toNat).muz = true) : writeChCfg0 v s = chReject s := if_pos hm

theorem writeChCfg0_enables (hm : (chanOf s s.ken.chSel.toNat).muz = false) (he : (chanOf s s.ken.chSel.toNat).en = false)
    (hv : bit v 31 = true) (hy : mayEnable s s.ken.chSel.toNat (writtenChan v s) = true) : writeChCfg0 v s
      = emptySlots s.ken.chSel.toNat (setChan s.ken.chSel.toNat (fun _ => enabledChan v s) s) :=
  (if_neg (by simp [hm])).trans ((if_neg (by simp [he])).trans ((if_pos hv).trans (if_pos hy)))

theorem writeChCfg0_refused (hm : (chanOf s s.ken.chSel.toNat).muz = false) (he : (chanOf s s.ken.chSel.toNat).en = false)
    (hv : bit v 31 = true) (hy : mayEnable s s.ken.chSel.toNat (writtenChan v s) = false) :
    writeChCfg0 v s = chReject (setChan s.ken.chSel.toNat (fun _ => writtenChan v s) s) :=
  (if_neg (by simp [hm])).trans ((if_neg (by simp [he])).trans ((if_pos hv).trans
    (if_neg (show ¬ mayEnable s s.ken.chSel.toNat (writtenChan v s) = true by simp [hy]))))

/-- A write that clears EN, after the check of the other fields. -/
theorem writeChCfg0_clears (hm : (chanOf s s.ken.chSel.toNat).muz = false) (he : (chanOf s s.ken.chSel.toNat).en = true)
    (hv : bit v 31 = false) : ∃ q, q = (if writtenChan v s = chanOf s s.ken.chSel.toNat then s else chReject s)
      ∧ writeChCfg0 v s = if channelBusy q s.ken.chSel.toNat then chReject q else emptySlots s.ken.chSel.toNat
        (keepConfig (answerWaiting s.ken.chSel.toNat .bounds) (setChan s.ken.chSel.toNat (fun c => { c with en := false }) q)) :=
  ⟨_, rfl, (if_neg (by simp [hm])).trans ((if_pos he).trans (if_neg (by simp [hv])))⟩

/-- The state of a channel that has been disabled. -/
def disabled (ch : Nat) (s : State) : State :=
  emptySlots ch (keepConfig (answerWaiting ch .bounds) (setChan ch (fun c => { c with en := false }) s))

theorem disabled_chan (ch j : Nat) (s : State) :
    chanOf (disabled ch s) j = chanOf (setChan ch (fun c => { c with en := false }) s) j := by
  have h := (answerWaiting_answered ch .bounds (setChan ch (fun c => { c with en := false }) s)).ch
  have same : (disabled ch s).ken.ch = (answerWaiting ch .bounds (setChan ch (fun c => { c with en := false }) s)).ken.ch := rfl
  rw [chanOf, same, h]
  rfl

theorem disabled_waits (ch : Nat) (s : State) : (disabled ch s).ken.waits = s.ken.waits.filter fun w => w.ch != ch :=
  (answerWaiting_answered ch .bounds (setChan ch (fun c => { c with en := false }) s)).waits

theorem disabled_idle {ch : Nat} (hw : ∀ w ∈ s.ken.waits, w.ch ≠ ch)
    (hc : ∀ p ∈ s.ken.slots, p.1 / 65536 = ch → p.2.commit = none) :
    disabled ch s = emptySlots ch (setChan ch (fun c => { c with en := false }) s) := by
  have idle := answerWaiting_none (st := .bounds) (s := setChan ch (fun c => { c with en := false }) s) hw hc
  rw [disabled, keepConfig, idle]
  rfl

end

/-! ### The selected target entry -/

/-- The selected target entry with the fields of a write of SL_TGT_CFG0. -/
def writtenTgt (v : Word32) (t : Target) : Target :=
  { t with valid := bit v 31, bufsz := part v 13 12, die := part v 8 5, agent := part v 0 8 }

theorem writeTgtCfg0_eq (v : Word32) (s : State) : writeTgtCfg0 v s =
    if (covered s s.ken.tgtSel.toNat || ((writtenTgt v (targetAt s s.ken.tgtSel.toNat)).valid
        && !(writtenTgt v (targetAt s s.ken.tgtSel.toNat)).inRange)) = true then chReject s
    else if ((writtenTgt v (targetAt s s.ken.tgtSel.toNat)).valid && !(targetAt s s.ken.tgtSel.toNat).valid) = true then
      setTarget s.ken.tgtSel.toNat (fun _ => { writtenTgt v (targetAt s s.ken.tgtSel.toNat) with
        credits := (writtenTgt v (targetAt s s.ken.tgtSel.toNat)).nbuf.toNat, next := 0 }) s
    else setTarget s.ken.tgtSel.toNat (fun _ => writtenTgt v (targetAt s s.ken.tgtSel.toNat)) s := rfl

theorem writeTgtCfg0_rejected {s : State} {v : Word32} (h : covered s s.ken.tgtSel.toNat = true
    ∨ ((writtenTgt v (targetAt s s.ken.tgtSel.toNat)).valid = true ∧ (writtenTgt v (targetAt s s.ken.tgtSel.toNat)).inRange = false)) :
    writeTgtCfg0 v s = chReject s := by
  rw [writeTgtCfg0_eq]
  refine if_pos ?_
  rcases h with h | ⟨hv, hr⟩
  · rw [h, Bool.true_or]
  · rw [hv, hr]
    exact Bool.or_true _

/-- The entry that an accepted write leaves. -/
def acceptedTgt (v : Word32) (old : Target) : Target :=
  if old.valid = true then writtenTgt v old else { writtenTgt v old with credits := (writtenTgt v old).nbuf.toNat, next := 0 }

theorem writeTgtCfg0_accepted {s : State} {v : Word32} (hc : covered s s.ken.tgtSel.toNat = false)
    (hv : (writtenTgt v (targetAt s s.ken.tgtSel.toNat)).valid = true)
    (hr : (writtenTgt v (targetAt s s.ken.tgtSel.toNat)).inRange = true) :
    writeTgtCfg0 v s = setTarget s.ken.tgtSel.toNat (fun _ => acceptedTgt v (targetAt s s.ken.tgtSel.toNat)) s := by
  rw [writeTgtCfg0_eq, hc, hv, hr, acceptedTgt]
  cases (targetAt s s.ken.tgtSel.toNat).valid with
  | true => rfl
  | false => rfl

/-- Settles O19: SL_CH_CFG0 enables or disables the selected channel and SL_TGT_CFG0 names the selected target, or they are
rejected. -/
theorem channelAndTargetWritesAnswer : Obligations.ChannelAndTargetWritesAnswer := by
  unfold Obligations.ChannelAndTargetWritesAnswer
  intro s v h
  refine ⟨⟨fun hm => ?_, fun hm he hv hy => ?_, fun hm he hv hy => ?_, fun hm he hv hb => ?_, fun hm he hv hb hn => ?_⟩, ?_, ?_⟩
  · unfold exec execChannelEnable
    exact sbWriteOk_answers h (writeChCfg0_muzzled hm)
  · unfold exec execChannelEnable
    refine ⟨_, sbWriteOk_answers h (writeChCfg0_enables hm he hv hy), ?_, fun k hk => ?_, fun j hj => ?_, rfl⟩
    · exact chanOf_setChan_self s _ fun _ => enabledChan v s
    · exact slotAt_emptySlots (setChan s.ken.chSel.toNat (fun _ => enabledChan v s) s) hk
    · exact chanOf_setChan_ne s (fun _ => enabledChan v s) hj
  · unfold exec execChannelEnable
    refine ⟨_, sbWriteOk_answers h (writeChCfg0_refused hm he hv hy), ?_, rfl⟩
    exact (congrArg Channel.en (chanOf_setChan_self s _ fun _ => writtenChan v s)).trans he
  · obtain ⟨q, hq, hw⟩ := writeChCfg0_clears (s := s) (v := v) hm he hv
    have ch : q.ken.ch = s.ken.ch ∧ channelBusy q s.ken.chSel.toNat = channelBusy s s.ken.chSel.toNat := by
      rw [hq]
      split <;> exact ⟨rfl, rfl⟩
    rw [ch.2, if_pos hb] at hw
    unfold exec execChannelDisable
    refine ⟨_, sbWriteOk_next h _ _, ?_, ?_⟩
    · rw [hw]
      exact congrArg (fun t => tget default t s.ken.chSel.toNat) ch.1
    · rw [hw]
      rfl
  · obtain ⟨q, hq, hw⟩ := writeChCfg0_clears (s := s) (v := v) hm he hv
    rw [if_pos (show writtenChan v s = chanOf s s.ken.chSel.toNat from hn)] at hq
    subst hq
    rw [hb, if_neg Bool.false_ne_true] at hw
    unfold exec execChannelDisable
    refine ⟨_, sbWriteOk_next h _ _, ?_⟩
    rw [hw]
    refine ⟨?_, fun k hk => ?_, fun j hj => ?_, ?_, fun hwait hcommit => ?_⟩
    · exact (disabled_chan _ _ q).trans (chanOf_setChan_self q _ _)
    · exact slotAt_emptySlots (keepConfig (answerWaiting q.ken.chSel.toNat .bounds)
        (setChan q.ken.chSel.toNat (fun c => { c with en := false }) q)) hk
    · exact (disabled_chan _ _ q).trans (chanOf_setChan_ne q _ hj)
    · exact disabled_waits _ q
    · have idle := disabled_idle hwait hcommit
      rw [disabled] at idle
      rw [idle]
      rfl
  · intro hr
    unfold exec execTargetValid
    exact sbWriteOk_answers h (writeTgtCfg0_rejected hr)
  · intro hc hv hr
    unfold exec execTargetValid
    refine ⟨_, sbWriteOk_answers h (writeTgtCfg0_accepted hc hv hr), ?_, fun j hj => ?_, rfl⟩
    · exact targetAt_setTarget_self s _ fun _ => acceptedTgt v (targetAt s s.ken.tgtSel.toNat)
    · exact targetAt_setTarget_ne s (fun _ => acceptedTgt v (targetAt s s.ken.tgtSel.toNat)) hj

end Sys2Proof.Proofs
end

section
/-! SUPPORT. Writes of plain registers and debug holds (06_kennels_and_channels R185; 16_ports_and_signals R430, R431; 17_register_map). -/

namespace Sys2Proof.Proofs

open Sys2Proof.Machine Sys2Proof.Safety Sys2Proof.Laws

set_option Elab.async false

/-- A sideband transaction that leaves the pins' part of the state alone answers what it leaves. -/
theorem sideband_answers {s t : State} {c : Instr} {body : State → State} (h : sbReads s) (hb : body s = t)
    (hs : sbSettle s t = t := by rfl) : sideband c s body = .next t := by
  rw [sideband_next h, hb, hs]

/-! ### SB_WRITE -/

theorem exec_sbWrite {s : State} {a : BitVec 18} {v : Word32} (hr : (readReg s a.toNat).isSome = true) (hd : isDump a.toNat v = false) :
    exec (.sbWrite a v) s = sbWriteOk (.sbWrite a v) s (writeReg a.toNat v) := by
  have write : execSbWrite a v s = sbWriteOk (.sbWrite a v) s (writeReg a.toNat v) :=
    (if_neg (by rw [← Option.not_isSome, hr]; decide)).trans (if_neg (by simp [hd]))
  exact write

section
variable {s : State} {a : BitVec 18} {v : Word32} (h : sbReads s)
include h

theorem sbWrite_noReg (hr : readReg s a.toNat = none) : exec (.sbWrite a v) s = .next { s with out := responded s 2 0 } := by
  have write : execSbWrite a v s = sideband (.sbWrite a v) s (sbRespond 2 0) := if_pos (by rw [hr]; rfl)
  exact write.trans (sideband_answers h rfl)

theorem sbWrite_fatal (hr : (readReg s a.toNat).isSome = true) (hf : s.saf.fatal = true) (hd : isDump a.toNat v = false) :
    exec (.sbWrite a v) s = .next { s with out := responded s 0 0 } := by
  rw [exec_sbWrite hr hd]
  exact sideband_answers h (congrArg (sbRespond 0 0) (if_pos hf))

theorem sbWrite_answers {t : State} (hf : s.saf.fatal = false) (hb : writeReg a.toNat v s = t)
    (hr : (readReg s a.toNat).isSome = true := by rfl) (hd : isDump a.toNat v = false := by rfl)
    (hq : s.pending = t.pending := by rfl) (hu : s.fuse = t.fuse := by rfl) (he : s.env = t.env := by rfl) :
    exec (.sbWrite a v) s = .next { t with out := responded t 0 0 } := by
  rw [exec_sbWrite hr hd]
  exact sbWriteOk_answers ⟨h, hf⟩ hb hq hu he

end

/-! ### Debug holds -/

theorem reserved_iff (v : Word32) : fld v 14 18 ≠ 0 ↔ ¬ v.toNat < 2 ^ 14 := by
  have := v.isLt
  simp only [fld]
  omega

theorem holdOf_none {s : State} {h : BitVec 14} : holdOf s h = none ↔ ∀ p ∈ s.ken.holds, p.2 ≠ h := by
  simp [holdOf]

theorem holdOf_isSome {s : State} {h : BitVec 14} : (holdOf s h).isSome = true ↔ ∃ p ∈ s.ken.holds, p.2 = h := by
  simp [holdOf]

theorem holdOf_mem {s : State} {h : BitVec 14} {n : Nat} (he : holdOf s h = some n) : (n, h) ∈ s.ken.holds := by
  obtain ⟨p, hp, rfl⟩ := Option.map_eq_some_iff.mp he
  have holder : p.2 = h := by simpa using List.find?_some hp
  exact holder ▸ List.mem_of_find?_eq_some hp

theorem tfree_none {α : Type} {t : Table α} {n : Nat} : tfree t n = none ↔ ∀ k, k < n → (tfind t k).isSome = true := by
  simp [tfree, Option.isSome_iff_ne_none]

theorem tfree_some {α : Type} {t : Table α} {n k : Nat} (hk : k < n) (h : tfind t k = none)
    (hl : ∀ m, m < k → (tfind t m).isSome = true) : tfree t n = some k := by
  rw [tfree, List.find?_range_eq_some]
  exact ⟨by rw [h]; rfl, List.mem_range.mpr hk, fun m hm => by rw [← Option.not_isSome, hl m hm]; rfl⟩

theorem hold_taken {s : State} {v : Word32} (hv : v.toNat < 2 ^ 14) (hf : s.saf.fatal = false) :
    ¬ (fld v 14 18 ≠ 0 ∨ s.saf.fatal = true) := by
  rw [reserved_iff, hf]
  exact not_or.mpr ⟨not_not.mpr hv, Bool.false_ne_true⟩

section
variable {s : State} {v : Word32} (h : sbReads s)
include h

theorem hold_fails (hr : ¬ v.toNat < 2 ^ 14 ∨ s.saf.fatal = true) : exec (.hold v) s = .next { s with out := responded s 1 0 } := by
  unfold exec execHold
  exact sideband_answers h (if_pos (hr.imp_left (reserved_iff v).mpr))

section
variable (hv : v.toNat < 2 ^ 14) (hf : s.saf.fatal = false)
include hv hf

theorem hold_again (hp : ∃ p ∈ s.ken.holds, p.2 = v.extractLsb' 0 14) : exec (.hold v) s = .next { s with out := responded s 0 0 } := by
  unfold exec execHold
  exact sideband_answers h ((if_neg (hold_taken hv hf)).trans (if_pos (holdOf_isSome.mpr hp)))

theorem hold_full (hp : ∀ p ∈ s.ken.holds, p.2 ≠ v.extractLsb' 0 14) (hn : tfree s.ken.holds 8 = none) :
    exec (.hold v) s = .next { s with out := responded s 1 0 } := by
  unfold exec execHold
  refine sideband_answers h ((if_neg (hold_taken hv hf)).trans ((if_neg (by rw [part, holdOf_none.mpr hp]; nofun)).trans ?_))
  rw [hn]
  rfl

theorem hold_takes (hp : ∀ p ∈ s.ken.holds, p.2 ≠ v.extractLsb' 0 14) {n : Nat} (hn : tfree s.ken.holds 8 = some n) :
    exec (.hold v) s = .next { s with ken := { s.ken with holds := tput s.ken.holds n (v.extractLsb' 0 14) }
                                      out := responded s 0 0 } := by
  unfold exec execHold
  refine sideband_answers h ((if_neg (hold_taken hv hf)).trans ((if_neg (by rw [part, holdOf_none.mpr hp]; nofun)).trans ?_))
  rw [hn]
  rfl

end

theorem release_fails (hr : ¬ v.toNat < 2 ^ 14 ∨ ∀ p ∈ s.ken.holds, p.2 ≠ v.extractLsb' 0 14) :
    exec (.release v) s = .next { s with out := responded s 1 0 } := by
  unfold exec execRelease
  refine sideband_answers h ?_
  by_cases hv : v.toNat < 2 ^ 14
  · refine (if_neg fun hb => (reserved_iff v).mp hb hv).trans ?_
    rw [part, holdOf_none.mpr (hr.resolve_left (not_not.mpr hv))]
    rfl
  · exact if_pos ((reserved_iff v).mpr hv)

theorem release_frees (hv : v.toNat < 2 ^ 14) {n : Nat} (hn : holdOf s (v.extractLsb' 0 14) = some n) :
    exec (.release v) s = .next { s with ken := { s.ken with holds := terase s.ken.holds n }, out := responded s 0 0 } := by
  unfold exec execRelease
  refine sideband_answers h ((if_neg fun hb => (reserved_iff v).mp hb hv).trans ?_)
  rw [part, hn]
  rfl

end

/-- Settles O26: a plain register takes its bits, a W1C flag is cleared by a one, and holds are taken and freed. -/
theorem registerAndHoldWritesAnswer : Obligations.RegisterAndHoldWritesAnswer := by
  unfold Obligations.RegisterAndHoldWritesAnswer
  intro s v h
  refine ⟨fun addr => sbWrite_noReg h, fun addr => sbWrite_fatal h, fun hf => ?_, ?_⟩
  · exact ⟨sbWrite_answers h hf rfl, sbWrite_answers h hf rfl, sbWrite_answers h hf rfl, sbWrite_answers h hf rfl,
      sbWrite_answers h hf rfl, sbWrite_answers h hf rfl, sbWrite_answers h hf rfl, sbWrite_answers h hf rfl,
      sbWrite_answers h hf rfl, sbWrite_answers h hf rfl⟩
  · refine ⟨hold_fails h, hold_again h, fun hv hf hp => ⟨fun hn => ?_, fun n hn hfree hl => ?_⟩, release_fails h, fun hv hp => ?_⟩
    · exact hold_full h hv hf hp (tfree_none.mpr hn)
    · exact hold_takes h hv hf hp (tfree_some hn hfree hl)
    · obtain ⟨n, hn⟩ := Option.isSome_iff_exists.mp (holdOf_isSome.mpr hp)
      exact ⟨_, n, release_frees h hv hn, holdOf_mem hn, tfind_terase_self _ n, fun m hm => tfind_terase_ne _ hm, rfl⟩

end Sys2Proof.Proofs
end

section
/-! SUPPORT. Numbers laid out from fields: what a field of a record holds, and what replacing a field leaves (R5). -/

namespace Sys2Proof.Proofs

open Sys2Proof.Machine Sys2Proof.Safety Sys2Proof.Laws

set_option Elab.async false

/-! ### Fields that lie one above the other -/

/-- The fields of a layout lie in ascending order from bit l on, none overlapping, and end at bit n. -/
def laid : Nat → List (Nat × Nat × Nat) → Nat → Bool
  | l, [], n => decide (l ≤ n)
  | l, f :: r, n => decide (l ≤ f.1) && laid (f.1 + f.2.1) r n

theorem laid_le : ∀ {l n : Nat} {fs : List (Nat × Nat × Nat)}, laid l fs n = true → l ≤ n
  | _, _, [], h => of_decide_eq_true h
  | l, n, f :: r, h => by
    simp only [laid, Bool.and_eq_true, decide_eq_true_eq] at h
    have := laid_le h.2
    omega

/-- Laying out goes on from what is laid out already: below bit l lies what was there, above it what is added. -/
def layOn (a : Nat) (fs : List (Nat × Nat × Nat)) : Nat := fs.foldl (fun a f => a + (f.2.2 % 2 ^ f.2.1) * 2 ^ f.1) a

theorem layOn_above : ∀ {l n : Nat} (a : Nat) {fs : List (Nat × Nat × Nat)}, laid l fs n = true → ∃ m, layOn a fs = a + m * 2 ^ l
  | _, _, a, [], _ => ⟨0, by simp [layOn]⟩
  | l, n, a, f :: r, h => by
    simp only [laid, Bool.and_eq_true, decide_eq_true_eq] at h
    obtain ⟨m, hm⟩ := layOn_above (a + (f.2.2 % 2 ^ f.2.1) * 2 ^ f.1) h.2
    obtain ⟨d, hd⟩ := Nat.exists_eq_add_of_le h.1
    refine ⟨f.2.2 % 2 ^ f.2.1 * 2 ^ d + m * 2 ^ (d + f.2.1), ?_⟩
    have step : layOn a (f :: r) = layOn (a + (f.2.2 % 2 ^ f.2.1) * 2 ^ f.1) r := rfl
    rw [step, hm, hd, Nat.add_mul, Nat.add_assoc a, Nat.mul_assoc, Nat.mul_assoc, ← Nat.pow_add, ← Nat.pow_add]
    ring_nf

/-- A field of a layout. -/
theorem layOn_field : ∀ {l n a k lo w v : Nat} {fs : List (Nat × Nat × Nat)}, a < 2 ^ l → laid l fs n = true →
    fs[k]? = some (lo, w, v) → layOn a fs / 2 ^ lo % 2 ^ w = v % 2 ^ w ∧ lo + w ≤ n
  | l, n, a, 0, lo, w, v, f :: r, ha, h, hk => by
    simp only [laid, Bool.and_eq_true, decide_eq_true_eq] at h
    obtain rfl : f = (lo, w, v) := by simpa using hk
    obtain ⟨m, hm⟩ := layOn_above (a + (v % 2 ^ w) * 2 ^ lo) h.2
    have step : layOn a ((lo, w, v) :: r) = layOn (a + (v % 2 ^ w) * 2 ^ lo) r := rfl
    have below : a < 2 ^ lo := Nat.lt_of_lt_of_le ha (Nat.pow_le_pow_right (by decide) h.1)
    have split : a + v % 2 ^ w * 2 ^ lo + m * 2 ^ (lo + w) = a + (v % 2 ^ w + m * 2 ^ w) * 2 ^ lo := by ring
    refine ⟨?_, laid_le h.2⟩
    rw [step, hm, split, Nat.add_mul_div_right _ _ (Nat.two_pow_pos lo), Nat.div_eq_of_lt below, Nat.zero_add,
      Nat.add_mul_mod_self_right, Nat.mod_mod]
  | l, n, a, k + 1, lo, w, v, f :: r, ha, h, hk => by
    simp only [laid, Bool.and_eq_true, decide_eq_true_eq] at h
    have below : a < 2 ^ f.1 := Nat.lt_of_lt_of_le ha (Nat.pow_le_pow_right (by decide) h.1)
    have next : a + f.2.2 % 2 ^ f.2.1 * 2 ^ f.1 < 2 ^ (f.1 + f.2.1) := by
      have small : (f.2.2 % 2 ^ f.2.1 + 1) * 2 ^ f.1 ≤ 2 ^ f.2.1 * 2 ^ f.1 :=
        Nat.mul_le_mul_right _ (Nat.mod_lt _ (Nat.two_pow_pos _))
      rw [Nat.add_mul, Nat.one_mul] at small
      rw [Nat.add_comm f.1, Nat.pow_add]
      exact Nat.lt_of_lt_of_le (by rw [Nat.add_comm]; exact Nat.add_lt_add_left below _) small
    have rest : r[k]? = some (lo, w, v) := by simpa using hk
    have field := layOn_field next h.2 rest
    exact field

theorem pack_field {n k lo w v : Nat} {fs : List (Nat × Nat × Nat)} (h : laid 0 fs n = true) (hk : fs[k]? = some (lo, w, v)) :
    pack fs / 2 ^ lo % 2 ^ w = v % 2 ^ w ∧ lo + w ≤ n := layOn_field (l := 0) (a := 0) Nat.one_pos h hk

theorem mod_div_mod {x n lo w : Nat} (h : lo + w ≤ n) : x % 2 ^ n / 2 ^ lo % 2 ^ w = x / 2 ^ lo % 2 ^ w := by
  obtain ⟨d, rfl⟩ := Nat.exists_eq_add_of_le h
  rw [Nat.add_assoc, Nat.pow_add, Nat.mod_mul_right_div_self, Nat.pow_add, Nat.mod_mul_right_mod]

/-- A field of a record, as a number. -/
theorem fld_pack {n k lo w v : Nat} {fs : List (Nat × Nat × Nat)} (h : laid 0 fs n = true) (hk : fs[k]? = some (lo, w, v)) :
    fld (BitVec.ofNat n (pack fs)) lo w = v % 2 ^ w := by
  obtain ⟨hf, hn⟩ := pack_field h hk
  rw [fld, BitVec.toNat_ofNat, mod_div_mod hn, hf]

/-- A field of a record, as bits. -/
theorem extractLsb'_pack {n k lo w v : Nat} {fs : List (Nat × Nat × Nat)} (h : laid 0 fs n = true)
    (hk : fs[k]? = some (lo, w, v)) : (BitVec.ofNat n (pack fs)).extractLsb' lo w = BitVec.ofNat w v := by
  apply BitVec.eq_of_toNat_eq
  rw [BitVec.extractLsb'_toNat, Nat.shiftRight_eq_div_pow, BitVec.toNat_ofNat v w]
  exact fld_pack h hk

/-! ### Replacing a field -/

theorem getLsbD_setFld {n lo w : Nat} (x : BitVec n) (h : lo + w ≤ n) (v j : Nat) :
    (setFld x lo w v).getLsbD j = if lo ≤ j ∧ j < lo + w then v.testBit (j - lo) else x.getLsbD j := by
  simp only [setFld, BitVec.getLsbD_or, BitVec.getLsbD_and, BitVec.getLsbD_not, BitVec.getLsbD_ofNat, Nat.testBit_mul_two_pow,
    Nat.testBit_two_pow_sub_one, Nat.testBit_mod_two_pow]
  by_cases hn : j < n
  · by_cases hl : lo ≤ j
    · by_cases hw : j < lo + w
      · have : j - lo < w := by omega
        simp [hn, hl, hw, this]
      · have : ¬ j - lo < w := by omega
        simp [hn, hl, hw, this]
    · simp [hn, hl]
  · rw [BitVec.getLsbD_of_ge x j (by omega), if_neg (by omega)]
    simp [hn]

theorem extractLsb'_setFld_self {n lo w : Nat} (x : BitVec n) (h : lo + w ≤ n) (v : Nat) :
    (setFld x lo w v).extractLsb' lo w = BitVec.ofNat w v := by
  apply BitVec.eq_of_getLsbD_eq
  intro i hi
  rw [BitVec.getLsbD_extractLsb', getLsbD_setFld x h, if_pos (by omega), BitVec.getLsbD_ofNat, Nat.add_sub_cancel_left]

theorem extractLsb'_setFld_other {n lo w : Nat} (x : BitVec n) (h : lo + w ≤ n) (v : Nat) {lo' w' : Nat}
    (d : lo' + w' ≤ lo ∨ lo + w ≤ lo') : (setFld x lo w v).extractLsb' lo' w' = x.extractLsb' lo' w' := by
  apply BitVec.eq_of_getLsbD_eq
  intro i hi
  rw [BitVec.getLsbD_extractLsb', getLsbD_setFld x h, if_neg (by omega), BitVec.getLsbD_extractLsb']

end Sys2Proof.Proofs
end

section
/-! SUPPORT. Reports: how they are numbered, logged, queued and written (15_containment_and_safety R404 to R407, Table 15.5). -/

namespace Sys2Proof.Proofs

open Sys2Proof.Machine Sys2Proof.Safety Sys2Proof.Laws

set_option Elab.async false

/-! ### The fields of a record -/

/-- The fields of a record that its report gives. -/
structure RecordOf (r : Code) (seq : Word32) (ev react muz lost detail : Nat) : Prop where
  seq : r.extractLsb' 0 32 = seq
  ev : r.extractLsb' 80 8 = BitVec.ofNat 8 ev
  react : r.extractLsb' 88 8 = BitVec.ofNat 8 react
  muz : r.extractLsb' 96 16 = BitVec.ofNat 16 muz
  lost : r.extractLsb' 112 16 = BitVec.ofNat 16 (min lost 65535)
  detail : r.extractLsb' 128 128 = BitVec.ofNat 128 detail

theorem reportRecord_fields (s : State) (seq : Word32) (ev react muz lost detail : Nat) :
    RecordOf (reportRecord s seq ev react muz lost detail) seq ev react muz lost detail where
  seq := (extractLsb'_pack (k := 0) rfl rfl).trans (by simp)
  ev := extractLsb'_pack (k := 3) rfl rfl
  react := extractLsb'_pack (k := 4) rfl rfl
  muz := extractLsb'_pack (k := 5) rfl rfl
  lost := extractLsb'_pack (k := 6) rfl rfl
  detail := extractLsb'_pack (k := 7) rfl rfl

theorem fld_eq {n : Nat} (x : BitVec n) (lo w : Nat) : fld x lo w = (x.extractLsb' lo w).toNat := by
  rw [BitVec.extractLsb'_toNat, Nat.shiftRight_eq_div_pow]
  rfl

/-! ### Forming a report -/

theorem report_room {s : State} (h : s.saf.queue.length < 64) (ev react muz detail : Nat) :
    ∃ r, RecordOf r (nextSeq s.saf.seq) ev react muz s.saf.lostRun detail
      ∧ report ev react muz detail s = { s with saf := { s.saf.form r true with
          seq := nextSeq s.saf.seq, log := (r :: s.saf.log).take 16, queue := s.saf.queue ++ [r], lostRun := 0 } } :=
  ⟨_, reportRecord_fields .., if_pos h⟩

theorem report_full {s : State} (h : 64 ≤ s.saf.queue.length) (ev react muz detail : Nat) :
    ∃ r, RecordOf r (nextSeq s.saf.seq) ev react muz (s.saf.lostRun + 1) detail
      ∧ report ev react muz detail s = { s with saf := { s.saf.form r true with
          seq := nextSeq s.saf.seq, log := (r :: s.saf.log).take 16, lostRun := s.saf.lostRun + 1
          lost := min 65535 (s.saf.lost + 1) } } :=
  ⟨_, reportRecord_fields .., if_neg (Nat.not_lt.mpr h)⟩

/-! ### The order of the reports of one sc -/

theorem insertRecord_before {a b : Code} (h : fld b 80 8 < fld a 80 8) :
    insertRecord (b, true) [(a, true)] = [(b, true), (a, true)] := by
  have before : recordBefore b a = true := by
    rw [recordBefore]
    exact (if_pos (Nat.ne_of_lt h)).trans (decide_eq_true h)
  exact if_pos before

/-- A record numbered anew: the fields that its event gives stay. -/
theorem renumbered_fields {r : Code} (seq : Word32) (lost : Nat) :
    (setFld (setFld r 0 32 seq.toNat) 112 16 lost).extractLsb' 0 32 = seq
    ∧ (setFld (setFld r 0 32 seq.toNat) 112 16 lost).extractLsb' 80 8 = r.extractLsb' 80 8 := by
  constructor
  · rw [extractLsb'_setFld_other _ (by decide) _ (.inl (by decide)), extractLsb'_setFld_self _ (by decide)]
    simp
  · rw [extractLsb'_setFld_other _ (by decide) _ (.inl (by decide)), extractLsb'_setFld_other _ (by decide) _ (.inr (by decide))]

theorem enterRecord_room {m : Saf} (r : Code) (h : m.queue.length < 64) :
    ∃ x, x.extractLsb' 0 32 = nextSeq m.seq ∧ x.extractLsb' 80 8 = r.extractLsb' 80 8
      ∧ enterRecord (r, true) m
        = { m with seq := nextSeq m.seq, log := (x :: m.log).take 16, queue := m.queue ++ [x], lostRun := 0 } := by
  obtain ⟨seq, ev⟩ := renumbered_fields (r := r) (nextSeq m.seq) (min m.lostRun 65535)
  refine ⟨_, seq, ev, ?_⟩
  simp only [enterRecord, h, decide_true, Bool.and_true, if_true]

/-- The monitor as the reordering of the two reports of an sc that began in s finds it. -/
def rewound (s t : State) : Saf :=
  { t.saf with seq := s.saf.seq, lostRun := s.saf.lostRun, log := s.saf.log.take 14, queue := [], formed := [] }

/-- Two reports of one sc, the second of the lower event, change places at its end. -/
theorem orderReports_swaps {s : State} {a b da db : Nat} (hb : b < a) (ha : a < 2 ^ 8) (hf : s.saf.formed = [])
    (hq : s.saf.queue = []) : ∃ x y, (orderReports (report b 0 0 db (report a 0 0 da s))).saf.log = x :: y :: s.saf.log.take 14
      ∧ (orderReports (report b 0 0 db (report a 0 0 da s))).saf.queue = [y, x]
      ∧ y.extractLsb' 80 8 = BitVec.ofNat 8 b ∧ y.extractLsb' 0 32 = nextSeq s.saf.seq
      ∧ x.extractLsb' 80 8 = BitVec.ofNat 8 a ∧ x.extractLsb' 0 32 = nextSeq (nextSeq s.saf.seq) := by
  obtain ⟨ra, fa, first⟩ := report_room (s := s) (by simp [hq]) a 0 0 da
  obtain ⟨rb, fb, second⟩ := report_room (s := report a 0 0 da s) (by simp [first, hq]) b 0 0 db
  have order : fld rb 80 8 < fld ra 80 8 := by
    rw [fld_eq, fld_eq, fb.ev, fa.ev, BitVec.toNat_ofNat, BitVec.toNat_ofNat, Nat.mod_eq_of_lt ha, Nat.mod_eq_of_lt (hb.trans ha)]
    exact hb
  have formed : (report b 0 0 db (report a 0 0 da s)).saf.formed = [(ra, true), (rb, true)] := by
    rw [second, first]
    simp [Saf.form, hf]
  have base : (report b 0 0 db (report a 0 0 da s)).saf.base = (s.saf.seq, s.saf.lostRun) := by
    rw [second, first]
    simp [Saf.form, hf]
  have queue : (report b 0 0 db (report a 0 0 da s)).saf.queue = [ra, rb] := by
    rw [second, first]
    simp [hq]
  have log : (report b 0 0 db (report a 0 0 da s)).saf.log.drop 2 = s.saf.log.take 14 := by
    rw [second, first]
    simp [List.take_take, List.drop_take]
  generalize report b 0 0 db (report a 0 0 da s) = t at *
  obtain ⟨y, yseq, yev, hy⟩ := enterRecord_room (m := rewound s t) rb (show 0 < 64 by decide)
  obtain ⟨x, xseq, xev, hx⟩ := enterRecord_room (m := enterRecord (rb, true) (rewound s t)) ra (by rw [hy]; show 1 < 64; decide)
  have ordered : (orderReports t).saf = enterRecord (ra, true) (enterRecord (rb, true) (rewound s t)) := by
    have one : insertRecord (ra, true) [] = [(ra, true)] := rfl
    simp [orderReports, rewound, formed, one, insertRecord_before order, base, queue, log]
  rw [ordered, hx, hy]
  refine ⟨x, y, ?_, rfl, yev.trans fb.ev, yseq, xev.trans fa.ev, ?_⟩
  · simp [rewound, List.take_take]
  · rw [xseq, hy]
    rfl

/-! ### The write of a record -/

section
variable {s : State} {r : Code} {rest : List Code} (h : inUse s) (hq : s.saf.queue = r :: rest)
  (hd : reportDue s = true)
include h hq hd

theorem reportWrite_sends (hk : ownKennel s (lineOf43 (ringAddr s (fld r 0 32))) = none) :
    exec .reportWrite s = .next (originate (some .report) (monitorWrite s (ringAddr s (fld r 0 32)) r)
      { s with saf := { s.saf with rptFlight := some (monitorWrite s (ringAddr s (fld r 0 32)) r).txn } }) := by
  unfold exec execReportWrite
  refine eventIf_answers h hd ?_ (originate_untouched _ _ {})
  simp only [hq, List.headD_cons, hk, Option.isSome_none, Bool.false_eq_true, if_false, sendReport]

theorem reportWrite_fails (hk : ownKennel s (lineOf43 (ringAddr s (fld r 0 32))) ≠ none) :
    exec .reportWrite s = .next (reportUnqueued 0x71 0 0 (detailN (fld r 0 16) 0) (raise 3
      { s with saf := { s.saf with queue := rest, rptFail := true, rptFlight := none } })) := by
  unfold exec execReportWrite
  refine eventIf_answers h hd ?_ {}
  simp only [hq, List.headD_cons, Option.isSome_iff_ne_none.mpr hk, if_true, reportFailed]

end

theorem monitorWrite_port (s : State) (a : BitVec 43) (w : Code) : (monitorWrite s a w).port ≠ .xp := by
  simp only [monitorWrite, originMsg]
  split <;> split <;> decide

/-- Settles O54: a report is numbered, logged and queued, those of one sc in the order of their events, and written in turn. -/
theorem reportsAnswer : Obligations.ReportsAnswer := by
  unfold Obligations.ReportsAnswer
  refine ⟨fun s ev react muz detail _ _ _ _ => ?_, fun s a b da db hb ha hf hq => orderReports_swaps hb ha hf hq, ?_⟩
  · rcases Nat.lt_or_ge s.saf.queue.length 64 with hq | hq
    · obtain ⟨r, f, hr⟩ := report_room hq ev react muz detail
      rw [hr]
      exact ⟨rfl, rfl, rfl, r, rfl, f.seq, f.ev, f.react, f.muz, f.detail, fun _ => ⟨rfl, rfl, rfl, f.lost⟩,
        fun full => absurd hq (Nat.not_lt.mpr full)⟩
    · obtain ⟨r, f, hr⟩ := report_full hq ev react muz detail
      rw [hr]
      exact ⟨rfl, rfl, rfl, r, rfl, f.seq, f.ev, f.react, f.muz, f.detail, fun room => absurd room (Nat.not_lt.mpr hq),
        fun _ => ⟨rfl, rfl, rfl, f.lost⟩⟩
  · intro s r rest h he hk hn hq hf n place
    have numbered : (s.saf.formed.any fun p => p.1 == r) = false :=
      List.any_eq_false.mpr fun p hp => by simp [hf p hp]
    have due : reportDue s = true := by
      simp only [reportDue, he, hk, hn, hq, numbered]
      rfl
    have at_place : ringAddr s (fld r 0 32) = place := by
      rw [fld_eq]
      rfl
    refine ⟨fun hw => ?_, fun hw => ?_⟩
    · refine ⟨_, monitorWrite s place r, at_place ▸ reportWrite_sends h hq due (at_place ▸ hw), ?_⟩
      have port := monitorWrite_port s place r
      simp only [originate, emit, port, if_false]
      exact ⟨rfl, rfl, rfl, rfl, rfl, rfl, rfl, rfl, rfl⟩
    · refine ⟨_, reportWrite_fails h hq due (at_place ▸ hw), rfl, ?_⟩
      have low : fld r 0 16 = r.toNat % 2 ^ 16 := by rw [fld, pow_zero, Nat.div_one]
      rw [low]
      rfl

end Sys2Proof.Proofs
end

section
/-! SUPPORT. Memory messages from XP, and answers that nothing awaits (15_containment_and_safety R403; 16_ports_and_signals R426 to
R429). -/

namespace Sys2Proof.Proofs

open Sys2Proof.Machine Sys2Proof.Safety Sys2Proof.Laws

set_option Elab.async false

/-! ### XRsp -/

/-- The code words of an XRsp that its mask names, poisoned where its status is not 0. -/
def takenWords (status : BitVec 5) (mask : BitVec 8) (words : List (BitVec 3 × CodeWord)) : Table CodeWord :=
  (words.filter fun p => mask.getLsbD p.1.toNat).map fun p =>
    (p.1.toNat, ({ p.2 with poison := p.2.poison || decide (status ≠ 0) } : CodeWord))

theorem takenWords_eq (status : BitVec 5) (mask : BitVec 8) (words : List (BitVec 3 × CodeWord)) :
    (((words.map fun p => (p.1.toNat, p.2)).filter fun p => bit mask p.1).map fun p =>
      (p.1, ({ p.2 with poison := p.2.poison || status != 0 } : CodeWord))) = takenWords status mask words := by
  have differs : (status != 0) = decide (status ≠ 0) := Bool.eq_iff_iff.mpr (by rw [bne_iff_ne, decide_eq_true_eq])
  rw [List.filter_map, List.map_map, differs]
  rfl

section
variable {s : State} {txn : BitVec 16} {status : BitVec 5} (hu : inUse s)
include hu

section
variable {mask : BitVec 8} {words : List (BitVec 3 × CodeWord)} (hh : hears s (.xrsp txn status mask words))
include hh

theorem xrsp_answers {t : State} (hb : (if s.saf.fatal then s else xpResponse txn.toNat status
      ((words.map fun p => (p.1.toNat, p.2)).filter fun p => bit mask p.1) s) = t) (ht : Untouched s t) :
    exec (.xrsp txn status mask words) s = .next (arrived (.xrsp txn status mask words) t) := by
  unfold exec execXrsp
  exact receive_answers hu hh rfl hb ht

theorem xrsp_fatal (hf : s.saf.fatal = true) :
    exec (.xrsp txn status mask words) s = .next (arrived (.xrsp txn status mask words) s) :=
  xrsp_answers hu hh (if_pos hf) {}

theorem xrsp_unexpected (hf : s.saf.fatal = false) (hn : xpAwaited s txn.toNat = none) :
    exec (.xrsp txn status mask words) s = .next (arrived (.xrsp txn status mask words) (unexpectedMem s)) := by
  refine xrsp_answers hu hh ((if_neg (by simp [hf])).trans ?_) {}
  rw [xpResponse, hn]

theorem xrsp_taken (hf : s.saf.fatal = false) {c : Nat} (hc : xpAwaited s txn.toNat = some c) :
    exec (.xrsp txn status mask words) s = .next (arrived (.xrsp txn status mask words)
      { chargeXp c (takenWords status mask words).length s with
        fg := { s.fg with xpIn := s.fg.xpIn
          ++ [{ due := s.env.sc + 4, txn := txn.toNat, words := takenWords status mask words }] } }) := by
  have charged : (chargeXp c (takenWords status mask words).length s).fg = s.fg
      ∧ (chargeXp c (takenWords status mask words).length s).env = s.env := by
    unfold chargeXp charge
    split <;> exact ⟨rfl, rfl⟩
  refine xrsp_answers hu hh ((if_neg (by simp [hf])).trans ?_) ((chargeXp_untouched c _ (Untouched.refl s)).trans {})
  simp only [xpResponse, hc, takenWords_eq, charged]

end

/-! ### XAck -/

section
variable (hh : hears s (.xack txn status))
include hh

theorem xack_answers {t : State} (hb : (if s.saf.fatal then s else xpAck txn.toNat status s) = t) (ht : Untouched s t) :
    exec (.xack txn status) s = .next (arrived (.xack txn status) t) := by
  unfold exec execXack
  exact receive_answers hu hh rfl hb ht

theorem xack_unexpected (hf : s.saf.fatal = false)
    (hx : ∀ x ∈ s.cache.ev, txn.toNat = 64 + x.index → x.index < 16 → x.sent = false) :
    exec (.xack txn status) s = .next (arrived (.xack txn status) (unexpectedMem s)) := by
  refine xack_answers hu hh ((if_neg (by simp [hf])).trans (if_neg fun h => ?_)) {}
  simp only [Bool.and_eq_true, decide_eq_true_eq, List.any_eq_true, beq_iff_eq] at h
  obtain ⟨⟨lo, hi⟩, x, hm, hi', hs⟩ := h
  exact absurd hs (by simp [hx x hm (by omega) (by omega)])

theorem xack_frees (hf : s.saf.fatal = false) {x : Evict} (hx : x ∈ s.cache.ev) (ht : txn.toNat = 64 + x.index)
    (hi : x.index < 16) (hs : x.sent = true) (hv : ∀ v ∈ s.cache.victims, v.step ≠ .awaitBuffer) :
    exec (.xack txn status) s = .next (arrived (.xack txn status) { s with
      cache := { s.cache with ev := s.cache.ev.filter fun y => y.index != x.index }
      lnk := { s.lnk with xpWerr := if status = 0 then s.lnk.xpWerr else min 255 (s.lnk.xpWerr + 1) } }) := by
  have index : txn.toNat - 64 = x.index := by omega
  have named : (decide (64 ≤ txn.toNat) && decide (txn.toNat < 80) && s.cache.ev.any fun e => e.index == txn.toNat - 64 && e.sent)
      = true := by
    simp only [Bool.and_eq_true, decide_eq_true_eq, List.any_eq_true, beq_iff_eq]
    exact ⟨⟨by omega, by omega⟩, x, hx, index.symm, hs⟩
  have unqueued : ∀ (n : Nat) (t : State), t.cache.victims = s.cache.victims → pushVictims n t = t := fun n t h => by
    cases n with
    | zero => rfl
    | succ n =>
      have none : t.cache.victims.find? (fun v => v.step == .awaitBuffer) = none :=
        List.find?_eq_none.mpr fun v hm => by simpa using hv v (h ▸ hm)
      rw [pushVictims, none]
  refine xack_answers hu hh ((if_neg (by simp [hf])).trans ?_) {}
  rw [xpAck, if_pos named, index]
  split
  · exact unqueued 16 _ rfl
  · exact unqueued 16 _ rfl

end
end

/-! ### Answers to requests -/

/-- An answer that names no awaited request, or in FATAL none but a report or heartbeat write, changes nothing. -/
theorem onAnswer_none {s : State} {txn : BitVec 16} (h : awaiting s txn = none
    ∨ (s.saf.fatal = true ∧ ∀ x, awaiting s txn = some x → x.who ≠ .report ∧ x.who ≠ .heartbeat))
    (act : Originated → State → State) : onAnswer txn s act = s := by
  unfold onAnswer
  split
  · rfl
  · next o ho =>
    obtain ⟨hf, hw⟩ := h.resolve_left (by simp [ho])
    obtain ⟨report, heartbeat⟩ := hw o ho
    refine if_neg ?_
    simp only [takes, hf, Bool.not_true, Bool.false_or]
    exact Bool.false_ne_true

/-- Settles O52: a memory message from XP reaches the entry that awaits it or is counted, and an unawaited answer has no effect. -/
theorem xpAnswersAnswer : Obligations.XpAnswersAnswer := by
  unfold Obligations.XpAnswersAnswer
  intro s txn status mask words hu unexpected rsp ack taken
  refine ⟨fun hr ha hf => ⟨xrsp_fatal hu hr hf, ?_⟩, fun hr ha hf => ⟨?_, ?_, ?_, ?_, ?_, ?_, ?_⟩, ?_⟩
  · exact xack_answers hu ha (if_pos hf) {}
  · intro m hl hm hn
    refine xrsp_taken hu hr hf ?_
    simp [xpAwaited, hl, hm, hn]
  · intro f hl hh hm hn
    refine xrsp_taken hu hr hf ?_
    simp [xpAwaited, Nat.not_lt.mpr hl, hh, hm, hn]
  · intro hl
    refine xrsp_unexpected hu hr hf ?_
    rw [xpAwaited, if_neg (by omega), if_neg (by omega)]
  · intro hl hm
    refine xrsp_unexpected hu hr hf ?_
    rw [xpAwaited, if_pos hl, Option.bind_eq_none_iff]
    exact fun m h => if_pos (hm m h)
  · intro hl hh hm
    refine xrsp_unexpected hu hr hf ?_
    rw [xpAwaited, if_neg (by omega), if_pos hh, Option.bind_eq_none_iff]
    exact fun m h => if_pos (hm m h)
  · exact fun x hx ht hi hs hv => xack_frees hu ha hf hx ht hi hs hv
  · exact fun hx => xack_unexpected hu ha hf hx
  · intro h m data succ args c hc hn hm
    have unchanged (act : Originated → State → State) : onAnswer h.txn s act = s := onAnswer_none hn act
    simp only [List.mem_cons, List.not_mem_nil, or_false] at hm
    rcases hm with rfl | rfl | rfl | rfl | rfl | rfl
    · unfold exec execCmp
      exact receive_answers hu hc rfl (unchanged _) {}
    · unfold exec execSts
      exact receive_answers hu hc rfl (unchanged _) {}
    · unfold exec execPkrsp
      exact receive_answers hu hc rfl (unchanged _) {}
    · unfold exec execAtrsp
      exact receive_answers hu hc rfl (unchanged _) {}
    · unfold exec execCallrsp
      exact receive_answers hu hc rfl (unchanged _) {}
    · unfold exec execDatau
      exact receive_answers hu hc rfl (unchanged _) {}

end Sys2Proof.Proofs
end

section
/-! SUPPORT. Links and the flits of a message (16_ports_and_signals R417 to R419, R423, R424, R426, Tables 16.4, 16.5 and 16.7). -/

namespace Sys2Proof.Proofs

open Sys2Proof.Machine Sys2Proof.Safety Sys2Proof.Laws

set_option Elab.async false

/-! ### Fields packed with no gaps -/

/-- The low end of field k. -/
def lowEnd (fs : List (Nat × Nat)) (k : Nat) : Nat := ((fs.take k).map Prod.fst).sum

theorem packFields_mul : ∀ (lo : Nat) (fs : List (Nat × Nat)), ∃ m, packFields lo fs = m * 2 ^ lo
  | lo, [] => ⟨0, (Nat.zero_mul _).symm⟩
  | lo, (w, n) :: r => by
    obtain ⟨m, hm⟩ := packFields_mul (lo + w) r
    exact ⟨n % 2 ^ w + m * 2 ^ w, by rw [packFields, hm, Nat.pow_add]; ring⟩

theorem packFields_lt : ∀ (lo : Nat) (fs : List (Nat × Nat)), packFields lo fs + 2 ^ lo ≤ 2 ^ (lo + lowEnd fs fs.length)
  | lo, [] => by simp [packFields, lowEnd]
  | lo, (w, n) :: r => by
    have rest := packFields_lt (lo + w) r
    have head : (n % 2 ^ w + 1) * 2 ^ lo ≤ 2 ^ w * 2 ^ lo := Nat.mul_le_mul_right _ (Nat.mod_lt n (Nat.two_pow_pos w))
    have low : lowEnd ((w, n) :: r) ((w, n) :: r).length = w + lowEnd r r.length := by simp [lowEnd]
    rw [packFields, low, ← Nat.add_assoc]
    rw [Nat.add_mul, Nat.one_mul, Nat.mul_comm (2 ^ w), ← Nat.pow_add] at head
    omega

/-- A field of packed fields, with whatever lies above them all. -/
theorem packFields_field : ∀ {lo k w n : Nat} {fs : List (Nat × Nat)} (m : Nat), fs[k]? = some (w, n) →
    (packFields lo fs + m * 2 ^ (lo + lowEnd fs fs.length)) / 2 ^ (lo + lowEnd fs k) % 2 ^ w = n % 2 ^ w
  | lo, 0, w, n, f :: r, m, h => by
    obtain rfl : f = (w, n) := by simpa using h
    obtain ⟨q, hq⟩ := packFields_mul (lo + w) r
    have low : lowEnd ((w, n) :: r) ((w, n) :: r).length = w + lowEnd r r.length := by simp [lowEnd]
    have split : packFields lo ((w, n) :: r) + m * 2 ^ (lo + lowEnd ((w, n) :: r) ((w, n) :: r).length)
        = (n % 2 ^ w + (q + m * 2 ^ lowEnd r r.length) * 2 ^ w) * 2 ^ lo := by
      rw [packFields, hq, low, Nat.pow_add, Nat.pow_add, Nat.pow_add]
      ring
    rw [split, show lowEnd ((w, n) :: r) 0 = 0 from rfl, Nat.add_zero, Nat.mul_div_cancel _ (Nat.two_pow_pos lo),
      Nat.add_mul_mod_self_right, Nat.mod_mod]
  | lo, k + 1, w, n, (v, x) :: r, m, h => by
    have low (j : Nat) : lowEnd ((v, x) :: r) (j + 1) = v + lowEnd r j := by simp [lowEnd]
    have rest := packFields_field (lo := lo + v) (fs := r) m (show r[k]? = some (w, n) by simpa using h)
    obtain ⟨q, hq⟩ := packFields_mul (lo + v) r
    have head : x % 2 ^ v * 2 ^ lo < 2 ^ (lo + v) := by
      rw [Nat.add_comm, Nat.pow_add]
      exact Nat.mul_lt_mul_of_pos_right (Nat.mod_lt x (Nat.two_pow_pos v)) (Nat.two_pow_pos lo)
    have drop (y : Nat) (d : Nat) : (x % 2 ^ v * 2 ^ lo + y * 2 ^ (lo + v)) / 2 ^ (lo + v + d) = y * 2 ^ (lo + v) / 2 ^ (lo + v + d) := by
      rw [Nat.pow_add _ _ d, ← Nat.div_div_eq_div_mul, ← Nat.div_div_eq_div_mul, Nat.add_mul_div_right _ _ (Nat.two_pow_pos _),
        Nat.div_eq_of_lt head, Nat.zero_add, Nat.mul_div_cancel _ (Nat.two_pow_pos _)]
    have above : q * 2 ^ (lo + v) + m * 2 ^ (lo + v + lowEnd r r.length) = (q + m * 2 ^ lowEnd r r.length) * 2 ^ (lo + v) := by
      rw [Nat.pow_add _ (lo + v)]
      ring
    rw [packFields, List.length_cons, low, low, ← Nat.add_assoc, ← Nat.add_assoc, Nat.add_assoc (x % 2 ^ v * 2 ^ lo), hq, above, drop,
      ← above, ← hq]
    exact rest

/-- A field of a word that holds packed fields from bit 0 on, with other fields above them. -/
theorem packed_field {n k w v lo hi : Nat} {fs : List (Nat × Nat)} (m : Nat) (hk : fs[k]? = some (w, v)) (hlo : lowEnd fs k = lo)
    (hhi : lowEnd fs fs.length = hi) (hn : lo + w ≤ n) :
    (BitVec.ofNat n (packFields 0 fs + m * 2 ^ hi)).toNat / 2 ^ lo % 2 ^ w = v % 2 ^ w := by
  have field := packFields_field (lo := 0) m hk
  rw [Nat.zero_add, Nat.zero_add, hlo, hhi] at field
  rw [BitVec.toNat_ofNat, mod_div_mod hn, field]

/-! ### The flits of a message -/

section
variable (s : State) (m : OutMsg) (i : Nat)

theorem channelOf_lt (c : MsgClass) : channelOf c < 2 ^ 3 := by cases c <;> decide

theorem flit_port : (flitOf s m i).port = m.port := by
  unfold flitOf
  split <;> rfl

/-- A field of the common part of a header. -/
theorem header_field {k w v lo : Nat} (agent die : Nat)
    (hk : [(3, channelOf m.cls), (4, m.op.toNat), (8, agent), (5, die), (8, m.dstAgent), (5, m.dstDie), (16, m.txn.toNat),
      (40, m.line.toNat), (4, m.label), (3, ceilDiv m.data.length 2)][k]? = some (w, v))
    (hlo : lowEnd [(3, channelOf m.cls), (4, m.op.toNat), (8, agent), (5, die), (8, m.dstAgent), (5, m.dstDie), (16, m.txn.toNat),
      (40, m.line.toNat), (4, m.label), (3, ceilDiv m.data.length 2)] k = lo) (hn : lo + w ≤ 256) :
    ((m.header agent die).zeroExtend 512).toNat / 2 ^ lo % 2 ^ w = v % 2 ^ w := by
  obtain ⟨q, hq⟩ := packFields_mul 96 m.further
  have wide : ((m.header agent die).zeroExtend 512).toNat = (m.header agent die).toNat :=
    BitVec.toNat_setWidth_of_le (by decide)
  rw [wide, OutMsg.header, hq]
  exact packed_field q hk hlo rfl hn

theorem flit_head (h : i < m.heads) : flitOf s m i
    = { port := m.port, payload := (m.header s.env.idAgent.toNat s.env.idDie.toNat).zeroExtend 512, side := m.sideH } := if_pos h

theorem flit_data (h : m.heads ≤ i) : flitOf s m i
    = { port := m.port, side := m.sideD s.env.idAgent.toNat s.env.idDie.toNat s.fresh i
        payload := ((m.words i).getD 1 default).data ++ ((m.words i).getD 0 default).data } := if_neg (Nat.not_lt.mpr h)

theorem sideH_field {k w v lo : Nat}
    (hk : [(2, 1), (3, channelOf m.cls), (4, 0), (8, m.dstAgent), (5, m.dstDie)][k]? = some (w, v))
    (hlo : lowEnd [(2, 1), (3, channelOf m.cls), (4, 0), (8, m.dstAgent), (5, m.dstDie)] k = lo) (hn : lo + w ≤ 128) :
    m.sideH.toNat / 2 ^ lo % 2 ^ w = v % 2 ^ w := by
  have field := packed_field (n := 128) 0 hk hlo rfl hn
  rwa [Nat.zero_mul, Nat.add_zero] at field

theorem sideH_high : m.sideH.toNat / 2 ^ 22 = 0 := by
  have small : packFields 0 [(2, 1), (3, channelOf m.cls), (4, 0), (8, m.dstAgent), (5, m.dstDie)] + 2 ^ 0 ≤ 2 ^ (0 + 22) :=
    packFields_lt 0 _
  rw [OutMsg.sideH, BitVec.toNat_ofNat]
  omega

/-- The fields of the side field of a D flit below its EXT part (Table 16.4). -/
def sideFields (agent die fresh : Nat) (m : OutMsg) (i : Nat) : List (Nat × Nat) :=
  [(2, 3), (3, channelOf m.cls), (4, m.op.toNat), (8, m.dstAgent), (5, m.dstDie), (8, agent), (5, die), (16, m.txn.toNat), (4, m.label),
   (2, (m.sector fresh i).toNat), (1, b01 (decide (m.port ≠ .xp) && (m.words i).length == 1)),
   (2, b01 ((m.words i).getD 0 default).poison + 2 * b01 ((m.words i).getD 1 default).poison), (1, b01 (m.isLast i))]

theorem ext_mul : ∃ q, m.ext i = q * 2 ^ 64 := by
  unfold OutMsg.ext
  split
  · exact packFields_mul 64 _
  · split
    · exact packFields_mul 64 _
    · exact ⟨0, rfl⟩

theorem sideD_field {k w v lo : Nat} (agent die fresh : Nat) (hk : (sideFields agent die fresh m i)[k]? = some (w, v))
    (hlo : lowEnd (sideFields agent die fresh m i) k = lo) (hn : lo + w ≤ 128) :
    (m.sideD agent die fresh i).toNat / 2 ^ lo % 2 ^ w = v % 2 ^ w := by
  obtain ⟨q, hq⟩ := ext_mul m i
  obtain ⟨c, hc⟩ := packFields_mul 61 [(1, min 1 m.heads), (1, match m.body with
    | .data _ _ d => b01 d
    | _ => 0), (1, 0)]
  have split : m.sideD agent die fresh i
      = BitVec.ofNat 128 (packFields 0 (sideFields agent die fresh m i) + (c + q * 2 ^ 3) * 2 ^ 61) := by
    have whole : c * 2 ^ 61 + q * 2 ^ 64 = (c + q * 2 ^ 3) * 2 ^ 61 := by ring
    rw [← whole, ← hc, ← hq, ← Nat.add_assoc]
    simp only [OutMsg.sideD, sideFields, packFields, Nat.add_zero, Nat.add_assoc, Nat.reduceAdd]
      <;> rfl
  rw [split]
  exact packed_field _ hk hlo rfl hn

end

/-- The bit of a flag. -/
theorem bit_eq {b : Bool} {p : Prop} [Decidable p] (h : b = true ↔ p) : b01 b % 2 ^ 1 = if p then 1 else 0 := by
  rw [b01, if_congr h rfl rfl]
  split <;> rfl

theorem mod_width {w v : Nat} (x : BitVec w) (h : v = x.toNat % 2 ^ w) : v = x.toNat := h.trans (Nat.mod_eq_of_lt x.isLt)

theorem flit_common (s : State) (m : OutMsg) (i : Nat) : (flitOf s m i).side.toNat / 2 ^ 2 % 2 ^ 3 = channelOf m.cls
    ∧ (flitOf s m i).side.toNat / 2 ^ 9 % 2 ^ 8 = m.dstAgent % 256 ∧ (flitOf s m i).side.toNat / 2 ^ 17 % 2 ^ 5 = m.dstDie % 32 := by
  have chan : channelOf m.cls % 2 ^ 3 = channelOf m.cls := Nat.mod_eq_of_lt (channelOf_lt m.cls)
  rcases Nat.lt_or_ge i m.heads with h | h
  · rw [flit_head s m i h]
    exact ⟨(sideH_field m (k := 1) (lo := 2) rfl rfl (by decide)).trans chan, sideH_field m (k := 3) rfl rfl (by decide),
      sideH_field m (k := 4) rfl rfl (by decide)⟩
  · rw [flit_data s m i h]
    exact ⟨(sideD_field m i _ _ _ (k := 1) (lo := 2) rfl rfl (by decide)).trans chan, sideD_field m i _ _ _ (k := 3) rfl rfl (by decide),
      sideD_field m i _ _ _ (k := 4) rfl rfl (by decide)⟩

/-- The two poison bits of a D flit. -/
theorem poison_bit {x : Nat} (a b : Bool) (h : x / 2 ^ 58 % 2 ^ 2 = (b01 a + 2 * b01 b) % 2 ^ 2) :
    x / 2 ^ (58 + 0) % 2 ^ 1 = b01 a ∧ x / 2 ^ (58 + 1) % 2 ^ 1 = b01 b := by
  have high : x / 2 ^ (58 + 1) = x / 2 ^ 58 / 2 := by rw [pow_succ, Nat.div_div_eq_div_mul]
  rw [high, Nat.add_zero]
  cases a <;> cases b <;> simp only [b01, if_true, if_false, Bool.false_eq_true] at h ⊢ <;> omega

theorem payload_word (s : State) (m : OutMsg) (i : Nat) (h : m.heads ≤ i) {j : Nat} {w : CodeWord} (hw : (m.words i)[j]? = some w)
    (hj : j < 2) : (flitOf s m i).payload.extractLsb' (256 * j) 256 = w.data := by
  rw [flit_data s m i h]
  have word : (m.words i).getD j default = w := by rw [List.getD_eq_getElem?_getD, hw, Option.getD_some]
  rcases Nat.lt_or_ge j 1 with hz | ho
  · obtain rfl : j = 0 := by omega
    exact (extractLsb'_append_low _ _).trans (congrArg CodeWord.data word)
  · obtain rfl : j = 1 := by omega
    exact (extractLsb'_append_high _ _).trans (congrArg CodeWord.data word)

/-! ### The commands of the links -/

/-- The sixteenth failure in a row sets a STUCK bit. -/
def stuckAt (n k : Nat) (u : State) : State := if n = 16 then stickPort k u else u

theorem stuckAt_untouched (n k : Nat) {s u : State} (h : Untouched s u) : Untouched s (stuckAt n k u) := by
  unfold stuckAt
  split
  · exact h.trans {}
  · exact h

section
variable {s : State} (h : inUse s) (p : Port)
include h

theorem linkCheckFail_counts (ho : tget 0 s.lnk.rxOpen (portRank p) ≤ s.env.sc) : exec (.linkCheckFail p) s
    = .next (stuckAt (tget 0 s.lnk.rxFail (portRank p) + 1) (portRank p) { s with lnk := { s.lnk with
        rxFail := tset 0 s.lnk.rxFail (portRank p) (min 16 (tget 0 s.lnk.rxFail (portRank p) + 1))
        replays := min 255 (s.lnk.replays + 1), rxOpen := tput s.lnk.rxOpen (portRank p) (s.env.sc + 3) } }) := by
  unfold exec execLinkCheckFail
  exact eventIf_answers h (decide_eq_true ho) rfl (stuckAt_untouched _ _ {})

theorem linkCheckFail_ignored (ho : s.env.sc < tget 0 s.lnk.rxOpen (portRank p)) : exec (.linkCheckFail p) s = .next s := by
  unfold exec execLinkCheckFail
  exact event_answers h (if_neg (by simp [portOpen, ho])) {}

theorem linkReplayRequest_counts : exec (.linkReplayRequest p) s
    = .next (stuckAt (tget 0 s.lnk.txFail (portRank p) + 1) (3 + portRank p) { s with lnk := { s.lnk with
        txFail := tset 0 s.lnk.txFail (portRank p) (min 16 (tget 0 s.lnk.txFail (portRank p) + 1))
        replays := min 255 (s.lnk.replays + 1)
        txFree := tset 0 s.lnk.txFree (portRank p) (max (tget 0 s.lnk.txFree (portRank p)) (s.env.sc + 1)
          + min 3 (s.lnk.last4.filter fun f => f.port == p).length) } }) := by
  unfold exec execLinkReplayRequest
  exact event_answers h rfl (stuckAt_untouched _ _ {})

theorem linkCredit_returns {ch : Nat} (hc : ch < if p = .xp then 5 else 4) : exec (.linkCredit p ch) s
    = .next { s with lnk := { s.lnk with txCrd := tmod 0 s.lnk.txCrd (8 * portRank p + ch) (· + 1) } } := by
  unfold exec execLinkCredit
  rw [Nat.mul_comm 8]
  refine event_answers h (if_pos ?_) {}
  cases p with
  | mpa => exact hc
  | mpb => exact hc
  | xp => exact hc

theorem memUnassigned_counts {op : BitVec 4} {txn : BitVec 16} (hf : s.saf.fatal = false) (hh : hears s (.memUnassigned op txn)) :
    exec (.memUnassigned op txn) s = .next { s with
      env := { s.env with done := { s.env.done with intake := true, taken := memArrival 0 :: s.env.done.taken } }
      lnk := { s.lnk with xpUnex := min 255 (s.lnk.xpUnex + 1), rxFail := terase s.lnk.rxFail 2
                          rxOwed := tmod 0 s.lnk.rxOwed 20 (· + 1) } } := by
  have crossing (u : State) : chargeCrossing (memArrival 0) u = u := if_neg (by simp [memArrival])
  have registers : arrived (.memUnassigned op txn) (unexpectedMem s) = registered (memArrival 0) (unexpectedMem s) := rfl
  have taken : execMemUnassigned op txn s = .next (arrived (.memUnassigned op txn) (unexpectedMem s)) :=
    receive_answers h hh rfl (if_neg (by simp [hf])) {}
  refine taken.trans ?_
  rw [registers, registered, crossing]
  rfl

end

/-- Settles O32: failures and replays are counted and stick, credits return, and every header and side field lies where its table
places it. -/
theorem linkCommandsAnswer : Obligations.LinkCommandsAnswer := by
  unfold Obligations.LinkCommandsAnswer
  refine ⟨fun s p h => ⟨⟨linkCheckFail_counts h p, linkCheckFail_ignored h p⟩, linkReplayRequest_counts h p,
    fun ch hc => linkCredit_returns h p hc, fun op txn hf hh => ?_⟩, fun s m i => ?_⟩
  · have others (j : Nat) (hj : j ≠ 20) : tget 0 (tmod 0 s.lnk.rxOwed 20 (· + 1)) j = tget 0 s.lnk.rxOwed j :=
      tget_tmod_ne 0 s.lnk.rxOwed (· + 1) hj
    have channel : tget 0 (tmod 0 s.lnk.rxOwed 20 (· + 1)) 20 = tget 0 s.lnk.rxOwed 20 + 1 :=
      tget_tmod_self 0 s.lnk.rxOwed 20 (· + 1)
    exact ⟨_, memUnassigned_counts h hf hh, rfl, channel, others, rfl, rfl⟩
  · obtain ⟨chan, agent, die⟩ := flit_common s m i
    refine ⟨flit_port s m i, chan, agent, die, fun hi => ?_, fun hi => ?_⟩
    · rw [flit_head s m i hi]
      have field {k w v lo : Nat} := header_field m (k := k) (w := w) (v := v) (lo := lo) s.env.idAgent.toNat s.env.idDie.toNat
      exact ⟨sideH_field m (k := 0) rfl rfl (by decide), sideH_field m (k := 2) rfl rfl (by decide),
        (congrArg (· % 2 ^ 106) (sideH_high m)).trans (Nat.zero_mod _),
        (field (k := 0) (lo := 0) rfl rfl (by decide)).trans (Nat.mod_eq_of_lt (channelOf_lt m.cls)),
        mod_width _ (field (k := 1) (lo := 3) rfl rfl (by decide)), mod_width _ (field (k := 2) (lo := 7) rfl rfl (by decide)),
        mod_width _ (field (k := 3) (lo := 15) rfl rfl (by decide)), field (k := 4) rfl rfl (by decide),
        field (k := 5) rfl rfl (by decide), mod_width _ (field (k := 6) (lo := 33) rfl rfl (by decide)),
        mod_width _ (field (k := 7) (lo := 49) rfl rfl (by decide)), field (k := 8) rfl rfl (by decide),
        field (k := 9) rfl rfl (by decide)⟩
    · have field {k w v lo : Nat} := sideD_field m i (k := k) (w := w) (v := v) (lo := lo) s.env.idAgent.toNat s.env.idDie.toNat s.fresh
      have poison := poison_bit _ _ (field (k := 11) (lo := 58) rfl rfl (by decide))
      refine ⟨?_, ?_, ?_, ?_, ?_, ?_, ?_, fun j hj => ?_, ?_, fun j w hw hj => payload_word s m i hi hw hj⟩ <;>
        rw [flit_data s m i hi]
      · exact field (k := 0) rfl rfl (by decide)
      · exact mod_width _ (field (k := 2) (lo := 5) rfl rfl (by decide))
      · exact mod_width _ (field (k := 5) (lo := 22) rfl rfl (by decide))
      · exact mod_width _ (field (k := 6) (lo := 30) rfl rfl (by decide))
      · exact mod_width _ (field (k := 7) (lo := 35) rfl rfl (by decide))
      · exact field (k := 8) rfl rfl (by decide)
      · refine (field (k := 10) (lo := 57) rfl rfl (by decide)).trans (bit_eq ?_)
        simp
      · rcases Nat.lt_or_ge j 1 with hz | ho
        · obtain rfl : j = 0 := by omega
          exact poison.1
        · obtain rfl : j = 1 := by omega
          exact poison.2
      · exact (field (k := 12) (lo := 60) rfl rfl (by decide)).trans (bit_eq Iff.rfl)

end Sys2Proof.Proofs
end

section
/-! SUPPORT. Lookups that pass their check, and prefetches (03_cache_behaviour R75, R95, R96; 04_coherence_protocol R107, R123). -/

namespace Sys2Proof.Proofs

open Sys2Proof.Machine Sys2Proof.Safety Sys2Proof.Laws

set_option Elab.async false

/-! ### Fields that registering leaves alone -/

/-- What the registering of a message never changes. -/
structure SameBody (s t : State) : Prop where
  tick : t.tick = s.tick
  fuse : t.fuse = s.fuse
  arr : t.arr = s.arr
  bg : t.bg = s.bg
  cache : t.cache = s.cache
  coh : t.coh = s.coh
  ken : t.ken = s.ken
  red : t.red = s.red
  atom : t.atom = s.atom
  seq : t.seq = s.seq
  mov : t.mov = s.mov
  det : t.det = s.det
  saf : t.saf = s.saf
  fg : t.fg = s.fg
  out : t.out = s.out

theorem arrived_same (c : Instr) (t : State) : SameBody t (arrived c t) := by
  unfold arrived
  split
  · next a _ =>
    obtain ⟨-, -, tick, fuse, arr, bg, cache, coh, ken, red, atom, seq, mov, det, saf, fg, out⟩ := registered_fields a t
    exact ⟨tick, fuse, arr, bg, cache, coh, ken, red, atom, seq, mov, det, saf, fg, out⟩
  · exact ⟨rfl, rfl, rfl, rfl, rfl, rfl, rfl, rfl, rfl, rfl, rfl, rfl, rfl, rfl, rfl⟩

/-! ### Lookups -/

theorem admitted_refuses_none {s : State} {h : Hdr} (ha : Admitted s h) {framed : Bool} (parks : Bool) (hf : framed = true) :
    reqRefused s h parks framed = none := reqRefused_none ha.fatal (fun _ => ha.drain) ha.source hf

theorem isDead_alive {s : State} (h : s.coh.dead = 0) (a d : Nat) : isDead s a d = false := by
  simp [isDead, h, bit]

/-- With no agent dead nothing is reclaimed. -/
theorem reclaimEntry_alive {s : State} (h : s.coh.dead = 0) (set way : Nat) : reclaimEntry set way s = s := by
  have none (l : List (BitVec 8)) : (l.any fun a => isDead s a.toNat s.env.idDie.toNat) = false := by simp [isDead_alive h]
  unfold reclaimEntry
  simp only [isDead_alive h]
  simp

theorem setFails_passes {s : State} {line : LineAddr} (h : ∀ w ∈ openWays s, (tagAt s (lineSet line) w).passes = true) :
    setFails s line = false := by
  have sound : ((openWays s).any fun w => !(tagAt s (lineSet line) w).passes) = false :=
    List.any_eq_false.mpr fun w hw => by simp [h w hw]
  rw [setFails, sound, Bool.and_false]

theorem lookUp_passes {s : State} {line : LineAddr} (h : ∀ w ∈ openWays s, (tagAt s (lineSet line) w).passes = true) (c : Check)
    (act : State → State) : lookUp line c s act = act s :=
  if_neg (by simp [setFails_passes h])

/-- The streaming count changes nothing that a lookup reads. -/
theorem countStore_eq (c : Nat) (full : Bool) (s : State) :
    countStore c full s = { s with cache := { s.cache with streamCnt := (countStore c full s).cache.streamCnt } } := by
  unfold countStore
  split <;> rfl

/-- A read through XP. -/
def xpReadMsg (txn : Nat) (line : LineAddr) (c : Nat) (mask : BitVec 4) (crit : Nat) (s : State) : OutMsg :=
  { port := .xp, cls := .mem, op := 0, dstAgent := 255, dstDie := s.env.idDie.toNat, txn := BitVec.ofNat 16 txn, line := line
    label := c, body := .xrd mask (BitVec.ofNat 3 crit), data := [], ready := s.env.sc + 9, tx := .none }

theorem xpRead_eq (txn : Nat) (line : LineAddr) (c : Nat) {mask : BitVec 4} (crit : Nat) (hm : mask ≠ 0) (s : State) :
    xpRead txn line c mask crit s
      = { s with fg := { s.fg with xpq := s.fg.xpq ++ [xpReadMsg txn line c mask crit s] } } := by
  rw [xpRead, if_neg hm]
  exact if_pos rfl

/-! ### Prefetches -/

section
variable {s : State} {h : Hdr} {mask : BitVec 4}

/-- What a prefetch does by the status that would refuse a request in its place. -/
def prefetchAs (h : Hdr) (mask : BitVec 4) (s : State) : Option Status → State
  | some .parked => dropPf s
  | some _ => s
  | none => lookUp h.line (.pf h.line (classOf s h.line h.label) mask) (countStore (classOf s h.line h.label) false s)
      (prefetchLine h.line (classOf s h.line h.label) mask)

theorem prefetch_answers {t : State} {r : Option Status} (hu : inUse s) (hh : hears s (.prefetch h mask))
    (hr : reqRefused s h true (decide (h.ndf = 0)) = r) (hb : prefetchAs h mask s r = t) (ht : Untouched s t) :
    exec (.prefetch h mask) s = .next (arrived (.prefetch h mask) t) := by
  unfold exec execPrefetch
  exact receive_answers hu hh rfl ((congrArg (prefetchAs h mask s) hr).trans hb) ht

/-- A prefetch whose fetch is not wanted, not possible or not allowed is dropped. -/
theorem prefetchLine_drops {line : LineAddr} (c : Nat) (hd : s.coh.dead = 0)
    (hn : s.cache.fbEn = false ∨ mask = 0 ∨ kennelLine s line ≠ none ∨ lineActive s line = true ∨ leaving s line = true) :
    prefetchLine line c mask s = dropPf s := by
  have dropped : ∀ valid : BitVec 4, (!s.cache.fbEn || mask &&& ~~~valid == 0 || (kennelLine s line).isSome || !pfAllowed s line)
      = true := fun valid => by
    simp only [Bool.or_eq_true, Bool.not_eq_true', beq_iff_eq]
    rcases hn with he | rfl | hk | ha | hl
    · exact .inl (.inl (.inl he))
    · exact .inl (.inl (.inr (BitVec.zero_and ..)))
    · exact .inl (.inr (Option.isSome_iff_ne_none.mpr hk))
    · exact .inr (by simp [pfAllowed, ha])
    · exact .inr (by simp [pfAllowed, hl])
  rcases hw : findWay s line with _ | way
  · simp only [prefetchLine, hw]
    exact if_pos (dropped _)
  · simp only [prefetchLine, hw, reclaimEntry_alive hd]
    exact if_pos (dropped _)

/-- The fetch buffer entry of a prefetch. -/
def prefetched (line : LineAddr) (c : Nat) (mask : BitVec 4) (s : State) : Prefetched :=
  { line := line, cls := c, asked := mask, got := 0, pois := 0, buf := [], doomed := false, into := none, order := s.cache.fbOrder }

/-- A prefetch of an absent line takes a free fetch buffer entry, and is read through XP. -/
theorem prefetchLine_takes {line : LineAddr} (c k : Nat) (hf : s.cache.fbEn = true) (hw : findWay s line = none)
    (hk : kennelLine s line = none) (hm : mask ≠ 0) (hp : pfAllowed s line = true) (hfree : tfree s.cache.fb 32 = some k) :
    prefetchLine line c mask s = xpRead (32 + k) line c mask (2 * (bitsOf mask).headD 0) { s with cache := { s.cache with
      fb := tput s.cache.fb k (prefetched line c mask s), fbOrder := s.cache.fbOrder + 1 } } := by
  have whole : mask &&& ~~~(0 : BitVec 4) = mask := BitVec.and_allOnes
  have wanted : (mask == 0) = false := beq_eq_false_iff_ne.mpr hm
  unfold prefetchLine
  simp only [hw, whole, takeFb, hfree]
  refine if_neg ?_
  rw [hf, wanted, hk, hp]
  exact Bool.false_ne_true

theorem pfAllowed_atRest {line : LineAddr} (hr : AtRest s line) (hw : findWay s line = none)
    (hm : ∀ m ∈ s.cache.miss, m.2.line ≠ line) : pfAllowed s line = true := by
  have idle : lineActive s line = false := by
    rw [lineActive, hr.free.1]
    exact (Bool.false_or _).trans (List.any_eq_false.mpr fun a ha => by simp [hr.free.2 a ha])
  have miss : (s.cache.miss.any fun p => p.2.line == line) = false := List.any_eq_false.mpr fun p hp => by simp [hm p hp]
  have fetch : (s.cache.fb.all fun p => p.2.line != line) = true := List.all_eq_true.mpr fun p hp => by simp [hr.fetch p hp]
  have bank : bit s.coh.muzBanks (tagBank (lineSet line)) = false := hr.bank
  simp [pfAllowed, idle, miss, hr.stay.1, fetch, bank, hw]

end

/-- Settles O44: a prefetch is taken up where a fetch buffer entry can hold its line, and otherwise dropped, or, refused, changes
nothing. -/
theorem prefetchAnswers : Obligations.PrefetchAnswers := by
  unfold Obligations.PrefetchAnswers
  intro s h mask hu hh u dropped leaves
  have still {c : Nat} : Untouched s (countStore c false s) := countStore_untouched c false {}
  refine ⟨fun hf => ?_, fun hf hd => ?_, fun hf hd hb => ?_, fun ha hn hdead hp hdrop => ?_, fun k ha hn hr he hw hm hmiss hfree => ?_⟩
  · exact prefetch_answers hu hh (reqRefused_fatal h true _ hf) rfl {}
  · exact prefetch_answers hu hh (reqRefused_draining h _ hf rfl hd) rfl {}
  · exact prefetch_answers hu hh (reqRefused_bounds hf (fun _ => hd) (hb.imp_right decide_eq_false)) rfl {}
  · have same : u = { s with cache := { s.cache with streamCnt := u.cache.streamCnt } } := countStore_eq _ _ s
    refine prefetch_answers hu hh (admitted_refuses_none ha true (decide_eq_true hn)) (t := dropPf u) ?_ (still.trans {})
    rw [prefetchAs, lookUp_passes (s := u) (by rw [same]; exact hp)]
    refine prefetchLine_drops _ (by rw [same]; exact hdead) ?_
    rw [same]
    exact hdrop
  · have same : u = { s with cache := { s.cache with streamCnt := u.cache.streamCnt } } := countStore_eq _ _ s
    have allowed : pfAllowed s h.line = true := pfAllowed_atRest hr hw hmiss
    generalize u.cache.streamCnt = cnt at same
    let line := h.line
    let c := classOf s h.line h.label
    have takes := prefetchLine_takes (s := { s with cache := { s.cache with streamCnt := cnt } }) (line := h.line) (mask := mask)
      c k he hw hr.memory hm allowed hfree
    have lands := lookUp_passes (s := { s with cache := { s.cache with streamCnt := cnt } }) hr.tags (.pf h.line c mask)
      (prefetchLine h.line c mask)
    have body : prefetchAs h mask s none = _ := (congrArg (fun v => lookUp h.line (.pf h.line c mask) v (prefetchLine h.line c mask))
      same).trans (lands.trans takes)
    rw [xpRead_eq _ _ _ _ hm] at body
    refine ⟨_, xpReadMsg (32 + k) h.line c mask (2 * (bitsOf mask).headD 0) s,
      prefetch_answers hu hh (admitted_refuses_none ha true (decide_eq_true hn)) body {}, ?_, ?_, rfl, rfl, rfl, rfl, rfl, rfl⟩
    · rw [(arrived_same _ _).cache, same]
      rfl
    · rw [(arrived_same _ _).fg]
      rfl

end Sys2Proof.Proofs
end

section
/-! SUPPORT. Requests to the kennel window (06_kennels_and_channels R158 to R162, R173, R174, R187). -/

namespace Sys2Proof.Proofs

open Sys2Proof.Machine Sys2Proof.Safety Sys2Proof.Laws

set_option Elab.async false

/-! ### Checks that find nothing -/

theorem checkSlot_sound {s : State} (h : ChannelsSound s) (ch k : Nat) : checkSlot ch k s = s := by
  simp [checkSlot, h.chan, h.slot]

theorem checkSlots_sound {s : State} (h : ChannelsSound s) (offs : List Nat) : checkSlots offs s = s := by
  unfold checkSlots
  induction slotsNamed s offs with
  | nil => rfl
  | cons p ps ih => rw [List.foldl_cons, checkSlot_sound h, ih]

theorem checkedSlots_sound {s : State} (h : ChannelsSound s) (b : Bool) (offs : List Nat) :
    (if b = true then checkSlots offs s else s) = s := by
  rw [checkSlots_sound h, ite_self]

/-! ### The statuses that refuse an access -/

theorem writeRefused_ne_nackRetry (s : State) (holder : Option (BitVec 14)) (offs : List Nat) :
    writeRefused s holder offs ≠ some .nackRetry := by
  unfold writeRefused
  dsimp only
  split_ifs <;> nofun

theorem readRefused_ne_nackRetry (s : State) (offs : List Nat) : readRefused s offs ≠ some .nackRetry := by
  unfold readRefused
  dsimp only
  split_ifs <;> nofun

theorem kennelRefused_ne_nackRetry {s : State} {off35 : Nat} {holder : BitVec 14} {isWrite : Bool} {cw : BitVec 8} {st : Status}
    (h : kennelRefused s off35 holder isWrite cw = some st) : st ≠ .nackRetry := by
  rintro rfl
  unfold kennelRefused at h
  dsimp only at h
  split_ifs at h
  · cases h
  · cases h
  · exact writeRefused_ne_nackRetry _ _ _ h
  · exact readRefused_ne_nackRetry _ _ h

/-! ### Answers -/

theorem unheard_none (s : State) (r : Req) : unheard s r .none = r.internal :=
  (congrArg (r.internal || ·) (Bool.and_false _)).trans (Bool.or_false _)

theorem respond_answers {r : Req} (op : Nat) (body : Body) (data : List CodeWord) (ready : Nat) (s : State)
    (hi : r.internal = false) :
    respond r op body data ready .none s = emit (answerMsg r.hdr op body data ready .none) s := by
  unfold respond respondAt
  rw [unheard_none, hi]
  rfl

theorem respondSts_answers {r : Req} {st : Status} {ready : Nat} (s : State) (hk : r.kind ≠ .atom) (hi : r.internal = false)
    (hn : st ≠ .nackRetry) :
    respondSts r st ready .none s = emit (answerMsg r.hdr 8 (.status st) [] ready .none) s := by
  rw [respondSts, if_neg hk, countNack, if_neg hn]
  exact respond_answers 8 _ _ _ s hi

/-! ### The service of the kennel -/

section
variable {s : State} {off35 off : Nat} (hs : ChannelsSound s) (ho : off35 % 2 ^ 24 = off)

/-- The words that a request of a kind names in its line. -/
def namedWords (r : Req) : BitVec 8 := if r.kind == .wrfull || r.kind == .wrpart then r.cwMask else sectorWords r.mask

include hs ho in
theorem kennelServe_refused {r : Req} {st : Status}
    (hr : kennelRefused s off35 (agentHolder r.agent r.die) (r.kind == .wrfull || r.kind == .wrpart) (namedWords r) = some st) :
    kennelServe off35 r s = refuseKennel st r off s := by
  have hr' := hr
  unfold namedWords at hr'
  simp only [kennelServe, ho, checkedSlots_sound hs, hr']

include hs ho in
theorem kennelServe_reads {r : Req} (hk : r.kind = .rdu)
    (hr : kennelRefused s off35 (agentHolder r.agent r.die) false (sectorWords r.mask) = none) :
    kennelServe off35 r s = enqueue (readAccess (s.env.sc + 6) r.cls 0 true
      ((bitsOf r.mask).map fun i => kennelLoc (off + 64 * i) / 2) (.kennel r)) (countStore r.cls false s) := by
  have kind : (r.kind == .wrfull || r.kind == .wrpart) = false := by rw [hk]; rfl
  have sc : (countStore r.cls false s).env.sc = s.env.sc := by rw [countStore_eq]
  have full : decide (r.kind = .wrfull) = false := by rw [hk]; rfl
  simp only [kennelServe, ho, checkedSlots_sound hs, kind, Bool.false_eq_true, if_false, hr, countReq, if_true, full, sc]

include hs ho in
theorem kennelServe_writes {r : Req} (hk : (r.kind == .wrfull || r.kind == .wrpart) = true) (hi : r.internal = false)
    (hr : kennelRefused s off35 (agentHolder r.agent r.die) true r.cwMask = none) :
    kennelServe off35 r s = emit (answerMsg r.hdr 6 .none [] (s.env.sc + 9) .none)
      (enqueue (writeAccess (s.env.sc + 6) r.cls 0 true
        (r.words.map fun p => (kennelLoc (off + 32 * p.1), p.2)) .write)
        (countStore r.cls (decide (r.kind = .wrfull)) s)) := by
  have sc (b : Bool) : (countStore r.cls b s).env.sc = s.env.sc := by rw [countStore_eq]
  simp only [kennelServe, ho, checkedSlots_sound hs, hk, if_true, hr, countReq, sc, respond_answers _ _ _ _ _ hi]

theorem refuseKennel_delayed {r : Req} {st : Status} (off : Nat) (s : State) (hk : r.kind = .rdu)
    (hst : st = .poison ∨ st = .muzzled) :
    refuseKennel st r off s = enqueue (readAccess (s.env.sc + 6) r.cls 0 true
      ((bitsOf r.mask).map fun i => kennelLoc (off + 64 * i) / 2) (.timed r .none 8 st [])) s := if_pos ⟨hk, hst⟩

theorem refuseKennel_answers {r : Req} {st : Status} (off : Nat) (s : State)
    (hd : ¬ (r.kind = .rdu ∧ (st = .poison ∨ st = .muzzled))) (hk : r.kind ≠ .atom) (hi : r.internal = false) (hn : st ≠ .nackRetry) :
    refuseKennel st r off s = emit (answerMsg r.hdr 8 (.status st) [] (s.env.sc + 9) .none) s :=
  (if_neg hd).trans (respondSts_answers s hk hi hn)

end

/-! ### Messages -/

section
variable {c : Instr} {s t : State} {h : Hdr} (hu : hears s c) (ha : Admitted s h)
include hu ha

theorem readForm_answers {kind : ReqKind} {mask : BitVec 4} {crit : BitVec 2} (hc : readForm c = some (kind, h, mask, crit))
    (hn : h.ndf = 0) (hb : serveRead kind h mask crit s = t) (ht : Untouched s t) : exec c s = .next (arrived c t) := by
  have taken (serve : State → State) (h' : serve s = t) : takeReq h true (decide (h.ndf = 0)) s serve = t := by
    rw [takeReq, admitted_refuses_none ha true (decide_eq_true hn)]
    exact h'
  cases c <;> cases hc
  case rds =>
    unfold exec execRds
    refine receive_answers ha.use hu rfl ?_ ht
    exact taken _ hb
  case rdx =>
    unfold exec execRdx
    refine receive_answers ha.use hu rfl ?_ ht
    exact taken _ hb
  case rdu =>
    unfold exec execRdu
    refine receive_answers ha.use hu rfl ?_ ht
    exact taken _ hb
  case upg =>
    unfold exec execUpg
    refine receive_answers ha.use hu rfl ?_ ht
    exact taken _ hb

theorem writeForm_answers {cw : BitVec 8} {data : List CodeWord} (hc : writeForm c = some (h, cw, data))
    (hn : h.ndf = ((bitsOf cw).length + 1) / 2) (hl : data.length = (bitsOf cw).length)
    (hb : serveWrite h cw data s = t) (ht : Untouched s t) : exec c s = .next (arrived c t) := by
  have taken {framed : Bool} (serve : State → State) (hf : framed = true) (h' : serve s = t) :
      takeReq h true framed s serve = t := by
    rw [takeReq, admitted_refuses_none ha true hf]
    exact h'
  cases c <;> cases hc
  case wrfull =>
    unfold exec execWrfull
    have four : h.ndf = 4 := hn
    have eight : data.length = 8 := hl
    refine receive_answers ha.use hu rfl ?_ ht
    exact taken _ (by rw [four, eight]; rfl) hb
  case wrpart =>
    unfold exec execWrpart
    have flits : h.ndf = dataFlitCount (bitsOf cw).length := hn
    refine receive_answers ha.use hu rfl ?_ ht
    exact taken _ (by rw [flits, hl]; simp) hb

end

/-- Settles O38: a kennel request is refused by the regions and the slots, or served as they stand. -/
theorem kennelRequestsAnswer : Obligations.KennelRequestsAnswer := by
  unfold Obligations.KennelRequestsAnswer
  intro c s h off35 ha hu hs hk
  generalize ho : off35 % 2 ^ 24 = off
  intro off cls sts
  have answered (st : Status) : Untouched s (sts st) := emit_untouched _ {}
  constructor
  · intro kind mask crit hc hn r refused reads
    have served (hm : mask.getLsbD crit.toNat = true) : serveRead kind h mask crit s = kennelServe off35 r s := by
      simp only [serveRead, hk, bit, hm]
      rfl
    have kind : (r.kind == .wrfull || r.kind == .wrpart) = false := rfl
    have words : namedWords r = sectorWords mask := rfl
    have named {st : Status} (hr : refused = some st) : kennelRefused s off35 (agentHolder r.agent r.die)
        (r.kind == .wrfull || r.kind == .wrpart) (namedWords r) = some st := by
      rw [kind, words]
      exact hr
    refine ⟨fun hm => ?_, fun hm => ⟨fun st hr hst => ?_, fun st hr hp hz => ?_, fun hr => ?_⟩⟩
    · refine readForm_answers hu ha hc hn ?_ (answered .bounds)
      simp only [serveRead, hk, bit, hm]
      exact answerSts_eq s nofun
    · refine readForm_answers hu ha hc hn ?_ {}
      exact (served hm).trans ((kennelServe_refused hs ho (named hr)).trans (refuseKennel_delayed _ s rfl hst))
    · refine readForm_answers hu ha hc hn ?_ (answered st)
      exact (served hm).trans ((kennelServe_refused hs ho (named hr)).trans
        (refuseKennel_answers _ s (fun hd => hd.2.elim hp hz) nofun rfl (kennelRefused_ne_nackRetry hr)))
    · refine readForm_answers hu ha hc hn ?_ ((countStore_untouched cls false {}).trans {})
      exact (served hm).trans (kennelServe_reads hs ho rfl hr)
  · intro cw data hc hz hn hl refused
    let r := mkReq s (if cw = 255 then .wrfull else .wrpart) h 0 0 cw data default
    have served : serveWrite h cw data s = kennelServe off35 r s := by
      simp only [serveWrite, if_neg hz, hk]
      rfl
    have kind : r.kind = .wrfull ∨ r.kind = .wrpart := by
      by_cases h255 : cw = 255
      · exact .inl (if_pos h255)
      · exact .inr (if_neg h255)
    have isWrite : (r.kind == .wrfull || r.kind == .wrpart) = true := by
      rcases kind with hk | hk <;> rw [hk] <;> rfl
    have full : decide (r.kind = .wrfull) = decide (cw = 255) := by
      by_cases h255 : cw = 255 <;> simp [r, mkReq, h255]
    refine ⟨fun st hr => ?_, fun hr => ?_⟩
    · refine writeForm_answers hu ha hc hn hl ?_ (answered st)
      refine served.trans ((kennelServe_refused (r := r) hs ho (st := st) ?_).trans (refuseKennel_answers _ s ?_ ?_ rfl
        (kennelRefused_ne_nackRetry hr)))
      · rw [namedWords, isWrite]
        exact hr
      · rcases kind with hk | hk <;> simp [hk]
      · rcases kind with hk | hk <;> simp [hk]
    · refine writeForm_answers hu ha hc hn hl ?_ (emit_untouched _ ((countStore_untouched cls (cw = 255) {}).trans {}))
      refine served.trans ((kennelServe_writes (r := r) hs ho isWrite rfl hr).trans ?_)
      rw [full, Req.words]
      rfl

end Sys2Proof.Proofs
end

section
/-! SUPPORT. Control, event and heel instructions, and faults at issue (09_sequencer_architecture R246, R254, R263;
10_zellek_instruction_set R270, R271, R280 to R282, R301, R302, R304). -/

namespace Sys2Proof.Proofs

open Sys2Proof.Machine Sys2Proof.Safety Sys2Proof.Laws

set_option Elab.async false

/-! ### Instructions with an effect beside their context -/

/-- The command i of instruction z of context c has the effect of u beside its context, and leaves the context as y. -/
def IssuesAs (s : State) (c : Fin 16) (i : Instr) (z : Zellek) (u : State) (y : Ctx) : Prop :=
  Issues s c z → ∃ t, exec i s = .next t ∧ getCtx t c = stepped y ∧ Issued c u t

section
variable {s u : State} {c : Fin 16} {i : Instr} {z : Zellek} {meaning : Zellek → Option (State → State)} {f : State → State}

theorem getCtx_setCtx_begin {c d : Nat} (g : Ctx → Ctx) (s : State) (h : d ≠ c) :
    getCtx (setCtx c g (beginIssue c s)) d = getCtx s d :=
  (getCtx_setCtx_ne _ _ h).trans (getCtx_beginIssue_ne s h)

/-- A meaning that, after the fetch, sets its own context and takes instruction numbers beside the effect of u. -/
theorem issuesAs_of {y : Ctx} (he : exec i s = issue c meaning s) (hm : meaning z = some f)
    (hu : Untouched s u) (hs : u.seq.pstore = s.seq.pstore) (hc : u.seq.ctx = s.seq.ctx) (hf : u.fresh = s.fresh)
    (hsc : u.env.sc = s.env.sc) (hq : u.seq.heelQ = s.seq.heelQ)
    (hw : f (beginIssue c s) = { u with
      fresh := u.fresh + 1
      bg := { u.bg with tel := { u.bg.tel with
        pstoreCe := if (fetch s c).1 = 1 then min 65535 (u.bg.tel.pstoreCe + 1) else u.bg.tel.pstoreCe } }
      seq := { u.seq with lastIssue := s.env.sc, ctx := (f (beginIssue c s)).seq.ctx
                          nextId := (f (beginIssue c s)).seq.nextId } })
    (hd : ∀ d, d ≠ c.val → getCtx (f (beginIssue c s)) d = getCtx s d)
    (hy : getCtx (f (beginIssue c s)) c = y) : IssuesAs s c i z u y := by
  intro h
  have k := issued_of h hm hu hs (getCtx_congr hc c) hf hsc hq hw fun d hn => (hd d hn).trans (getCtx_congr hc d).symm
  rwa [← he, hy] at k

/-- A meaning that sets its own context alone. -/
theorem issuesAs_of_setCtx {y : Ctx} (he : exec i s = issue c meaning s) (hm : meaning z = some f) (g : Ctx → Ctx)
    (hf : f (beginIssue c s) = setCtx c g (beginIssue c s)) (hy : g (fetched (getCtx s c)) = y) : IssuesAs s c i z s y := by
  subst hy
  exact completesAs_of_setCtx g he hm hf

/-- A meaning that sets its own context, to x, and answers with a status at once. -/
theorem issuesAs_of_ctxSts {x : Ctx} {st : Status} (w : State) (he : exec i s = issue c meaning s) (hm : meaning z = some f)
    (hw : w = { beginIssue c s with seq := { (beginIssue c s).seq with ctx := w.seq.ctx } })
    (ho : ∀ d, d ≠ c.val → getCtx w d = getCtx s d) (hx : getCtx w c = x) (hf : f (beginIssue c s) = placeSts c st w) :
    IssuesAs s c i z s (x.setSts (statusCode st) s.seq.nextId) := by
  have next : w.seq.nextId = s.seq.nextId := by rw [hw, beginIssue_eq]
  refine issuesAs_of (u := s) he hm {} rfl rfl rfl rfl rfl ?_ (fun d hd => ?_) ?_
  · rw [hf, hw, beginIssue_eq]
    rfl
  · rw [hf]
    exact (getCtx_setCtx_ne _ _ hd).trans (ho d hd)
  · rw [hf, ← hx, ← next]
    exact getCtx_setCtx_self _ _ _

/-- A meaning that answers with a status at once. -/
theorem issuesAs_of_placeSts {st : Status} (he : exec i s = issue c meaning s) (hm : meaning z = some f)
    (hf : f (beginIssue c s) = placeSts c st (beginIssue c s)) :
    IssuesAs s c i z s ((fetched (getCtx s c)).setSts (statusCode st) s.seq.nextId) :=
  issuesAs_of_ctxSts _ he hm rfl (fun _ hd => getCtx_beginIssue_ne s hd) (getCtx_beginIssue_self c s) hf

/-- A meaning that does nothing. -/
theorem issuesAs_of_stay (he : exec i s = issue c meaning s) (hm : meaning z = some f) (hf : f (beginIssue c s) = beginIssue c s) :
    IssuesAs s c i z s (fetched (getCtx s c)) := by
  refine issuesAs_of (u := s) he hm {} rfl rfl rfl rfl rfl ?_ (fun d hd => ?_) ?_
  · rw [hf, beginIssue_eq]
  · rw [hf, getCtx_beginIssue_ne s hd]
  · rw [hf, getCtx_beginIssue_self]

/-- A meaning that branches. -/
theorem issuesAs_of_branch {target : BitVec 14} {y : Ctx} (he : exec i s = issue c meaning s) (hm : meaning z = some f) (g : Ctx → Ctx)
    (hf : f (beginIssue c s) = branch c target (setCtx c g (beginIssue c s)))
    (hy : { g (fetched (getCtx s c)) with pc := target, after := s.env.sc + 2 } = y) : IssuesAs s c i z s y := by
  refine issuesAs_of (u := s) he hm {} rfl rfl rfl rfl rfl ?_ (fun d hd => ?_) ?_
  · rw [hf, beginIssue_eq]
    rfl
  · rw [hf]
    exact (getCtx_setCtx_ne _ _ hd).trans (getCtx_setCtx_begin g s hd)
  · have sc : (setCtx c g (beginIssue c s)).env.sc = s.env.sc := by rw [beginIssue_eq]; rfl
    rw [hf, branch, sc, getCtx_setCtx_self, getCtx_setCtx_self, getCtx_beginIssue_self]
    exact hy

end

/-! ### Branches (R280 to R282) -/

theorem issuesAs_branch {s : State} {c : Fin 16} {i : Instr} {z : Zellek} {meaning : Zellek → Option (State → State)}
    {f : State → State} {target : BitVec 14} (he : exec i s = issue c meaning s) (hm : meaning z = some f)
    (hf : f (beginIssue c s) = branch c target (beginIssue c s)) :
    IssuesAs s c i z s { fetched (getCtx s c) with pc := target, after := s.env.sc + 2 } := by
  refine issuesAs_of_setCtx he hm (fun x => { x with pc := target, after := s.env.sc + 2 }) (hf.trans ?_) rfl
  have sc : (beginIssue c s).env.sc = s.env.sc := by rw [beginIssue_eq]
  rw [branch, sc]

/-- The condition of a branch, by the numbers compared (R280). -/
def CondHolds (k : Cond) (p q : Word64) : Prop :=
  match k with
  | .eq => p = q
  | .ne => p ≠ q
  | .lt => p.toInt < q.toInt
  | .ge => q.toInt ≤ p.toInt
  | .ltu => p.toNat < q.toNat
  | .geu => q.toNat ≤ p.toNat

theorem holds_iff (k : Cond) (p q : Word64) : k.holds p q = true ↔ CondHolds k p q := by
  cases k with
  | eq => simp [Cond.holds, CondHolds]
  | ne => simp [Cond.holds, CondHolds]
  | lt => simp [Cond.holds, CondHolds, BitVec.slt_iff_toInt_lt]
  | ge => simp [Cond.holds, CondHolds, BitVec.slt]
  | ltu => simp [Cond.holds, CondHolds, BitVec.ult]
  | geu => simp [Cond.holds, CondHolds, BitVec.ult]

theorem bstTaken_iff (neg : Bool) (ref : Option (BitVec 5)) (last : BitVec 5) :
    bstTaken neg ref last = true ↔ (neg = false ↔ last = ref.getD 0) := by
  have ok : BitVec.ofNat 5 (statusCode .ok) = 0 := rfl
  rw [bstTaken, ok]
  cases neg with
  | false => simp
  | true => simp

/-! ### Faults (R246, R254, R263, R270) -/

/-- A report changes the safety record alone. -/
theorem report_saf (ev react muz detail : Nat) (s : State) :
    report ev react muz detail s = { s with saf := (report ev react muz detail s).saf } := by
  unfold report logRecord
  split <;> rfl

/-- A report is formed from the safety record and the time. -/
theorem report_congr {s u : State} (hs : u.saf = s.saf) (ht : u.tick = s.tick) (he : u.env = s.env) (ev react muz detail : Nat) :
    (report ev react muz detail u).saf = (report ev react muz detail s).saf := by
  have record (seq : _) (lost : Nat) : reportRecord u seq ev react muz lost detail = reportRecord s seq ev react muz lost detail := by
    unfold reportRecord frameNumber sliceField
    rw [ht, he]
  unfold report logRecord
  rw [hs]
  simp only [record]
  split <;> rfl

theorem takeFetch_fetched (c : Nat) (s : State) : takeFetch c s = { s with
    fresh := s.fresh + 1
    bg := { s.bg with tel := { s.bg.tel with
      pstoreCe := if (fetch s c).1 = 1 then min 65535 (s.bg.tel.pstoreCe + 1) else s.bg.tel.pstoreCe } }
    seq := { s.seq with lastIssue := s.env.sc } } := by
  unfold takeFetch
  split <;> rfl

/-- A context in FAULT. -/
def faulted (cause : Nat) (x : Ctx) : Ctx :=
  { x with state := .fault, cause := BitVec.ofNat 4 cause, wait := .nothing, image := none, suspPend := false, haltPend := false
           stepping := false }

/-- The reply that a context owes its caller, if any. -/
def owed (x : Ctx) : Option CallRec := x.call.filter CallRec.reply

theorem owed_none {x : Ctx} (h : ∀ k, x.call = some k → k.reply = false) : owed x = none := by
  unfold owed
  rcases hc : x.call with _ | k
  · rfl
  · simp [h k hc]

theorem owed_some {x : Ctx} {k : CallRec} (hc : x.call = some k) (hr : k.reply = true) : owed x = some k := by
  simp [owed, hc, hr]

/-- The reply of a context that ends its call otherwise than by END (R254). -/
def replyMsg (k : CallRec) (c : Nat) (st : Status) (data : List CodeWord) (ready : Nat) : OutMsg :=
  answerMsg { port := k.port, agent := k.holder.toNat % 256, die := k.holder.toNat / 256 % 32, txn := k.txn, line := k.line
              label := k.label, ndf := 0 } 0xA (.callRsp st (BitVec.ofNat 4 c)) data ready .none

theorem owedReply_none {s : State} {c : Nat} (st : Status) (h : owed (getCtx s c) = none) : owedReply c st s = s := by
  unfold owedReply
  rcases hc : (getCtx s c).call with _ | k
  · rfl
  · have : k.reply = false := by simpa [owed, hc] using h
    simp [this]

theorem owedReply_some {s : State} {c : Nat} {k : CallRec} (st : Status) (h : owed (getCtx s c) = some k) :
    owedReply c st s = emit (replyMsg k c st [] (s.env.sc + 4))
      (setCtx c (fun x => { x with call := some { k with reply := false } }) s) := by
  unfold owedReply
  rcases hc : (getCtx s c).call with _ | l
  · simp [owed, hc] at h
  · obtain ⟨rfl, hr⟩ : l = k ∧ l.reply = true := by
      simp only [owed, hc, Option.filter] at h
      split at h
      · next hr => exact ⟨Option.some.inj h, hr⟩
      · cases h
    simp only [hr]
    rfl

/-- What the answer of an owed reply changes: outputs alone. -/
theorem emit_rest (m : OutMsg) (s : State) : emit m s = { s with fg := (emit m s).fg, out := (emit m s).out } := by
  unfold emit
  split <;> rfl

theorem emit_egress {m : OutMsg} (s : State) (h : m.port ≠ .xp) : (emit m s).out.egress = s.out.egress ++ [m] := by
  unfold emit
  rw [if_neg h]

/-- A context that faults: its state, its report, the reply it owes. -/
structure Faults (c cause : Nat) (st : Status) (s t : State) : Prop where
  mine : ∃ call, getCtx t c = { faulted cause (getCtx s c) with call := call }
  others : ∀ d, d ≠ c → getCtx t d = getCtx s d
  rest : t = { s with seq := { s.seq with ctx := t.seq.ctx }, saf := t.saf, out := t.out, fg := t.fg }
  saf : t.saf = (report 0x51 1 (0x7000 + c) (detailC c (getCtx s c).pc.toNat cause 0) s).saf
  quiet : owed (getCtx s c) = none → t.out = s.out
  reply : ∀ k, owed (getCtx s c) = some k → k.port ≠ .xp → t.out.egress = s.out.egress ++ [replyMsg k c st [] (s.env.sc + 4)]

theorem ctxFault_faults (c cause : Nat) (st : Status) (s : State) : Faults c cause st s (ctxFault c cause st s) := by
  have reported := report_saf 0x51 1 (0x7000 + c) (detailC c (getCtx s c).pc.toNat cause 0) s
  generalize hm : (report 0x51 1 (0x7000 + c) (detailC c (getCtx s c).pc.toNat cause 0) s).saf = saf at reported
  let v := setCtx c (faulted cause) { s with saf := saf }
  have whole : ctxFault c cause st s = owedReply c st v := by
    unfold ctxFault
    dsimp only
    rw [reported]
    rfl
  have own : getCtx v c = faulted cause (getCtx s c) := getCtx_setCtx_self _ _ _
  have else' (d : Nat) (hd : d ≠ c) : getCtx v d = getCtx s d := getCtx_setCtx_ne _ _ hd
  have calls : owed (getCtx v c) = owed (getCtx s c) := by rw [own]; rfl
  rw [whole]
  rcases hk : owed (getCtx s c) with _ | k
  · rw [owedReply_none st (calls.trans hk)]
    exact ⟨⟨_, own⟩, else', rfl, hm.symm, fun _ => rfl, fun _ h => by cases h.symm.trans hk⟩
  · let w := setCtx c (fun x => { x with call := some { k with reply := false } }) v
    let m := replyMsg k c st [] (s.env.sc + 4)
    have sent : owedReply c st v = emit m w := owedReply_some st (calls.trans hk)
    have ctx (d : Nat) : getCtx (emit m w) d = getCtx w d := by rw [emit_rest]; rfl
    rw [sent]
    refine ⟨⟨some { k with reply := false }, ?_⟩, fun d hd => ?_, ?_, ?_, fun h => ?_, fun l hl hp => ?_⟩
    · rw [ctx, getCtx_setCtx_self, own]
    · rw [ctx, getCtx_setCtx_ne _ _ hd, else' d hd]
    · rw [emit_rest]
      rfl
    · rw [emit_rest]
      exact hm.symm
    · cases h.symm.trans hk
    · cases hl.symm.trans hk
      rw [emit_egress w (m := m) hp]
      rfl

theorem issueFault_untouched (c : Fin 16) (cause : Nat) (s : State) : Untouched s (issueFault c cause s) := by
  obtain ⟨-, turned, -⟩ := heelIssued_spec c (ctxFault c cause .poison (takeFetch c s))
  obtain ⟨-, -, rest, saf, -, -⟩ := ctxFault_faults c cause .poison (takeFetch c s)
  have fetch : Untouched s (takeFetch c s) := by
    rw [takeFetch_fetched]
    exact {}
  have fault : Untouched (takeFetch c s) (ctxFault c cause .poison (takeFetch c s)) := by
    have reported := report_untouched 0x51 1 (0x7000 + c) (detailC c (getCtx (takeFetch c s) c).pc.toNat cause 0)
      (Untouched.refl (takeFetch c s))
    rw [report_saf] at reported
    rw [rest, saf]
    exact reported.trans {}
  have turn : Untouched (ctxFault c cause .poison (takeFetch c s)) (issueFault c cause s) := by
    unfold issueFault
    rw [turned]
    exact {}
  exact (fetch.trans fault).trans turn

/-- A command that faults its context at issue, with PC at the instruction. -/
theorem issueFault_answers {s : State} {c : Fin 16} {i : Instr} {cause : Nat} {body : State → State} (hu : inUse s)
    (he : exec i s = event s body) (hb : body s = issueFault c cause s) :
    ∃ t, exec i s = .next t
      ∧ (getCtx t c).state = .fault ∧ (getCtx t c).cause = BitVec.ofNat 4 cause ∧ (getCtx t c).pc = (getCtx s c).pc
      ∧ (getCtx t c).g = (getCtx s c).g ∧ (∀ d, d ≠ c.val → getCtx t d = getCtx s d)
      ∧ t.saf = (report 0x51 1 (0x7000 + c.val) (detailC c (getCtx s c).pc.toNat cause 0) s).saf
      ∧ (owed (getCtx s c) = none → t.out = s.out)
      ∧ (∀ k, owed (getCtx s c) = some k → k.port ≠ .xp →
          t.out.egress = s.out.egress ++ [replyMsg k c .poison [] (s.env.sc + 4)]) := by
  obtain ⟨⟨call, mine⟩, others, rest, saf, quiet, reply⟩ := ctxFault_faults c cause .poison (takeFetch c s)
  obtain ⟨ctx, turned, -⟩ := heelIssued_spec c (ctxFault c cause .poison (takeFetch c s))
  have same := takeFetch_fetched c s
  have whole : issueFault c cause s = heelIssued c (ctxFault c cause .poison (takeFetch c s)) := rfl
  have before (d : Nat) : getCtx (takeFetch c s) d = getCtx s d := by rw [same]; rfl
  have outs : (issueFault c cause s).out = (ctxFault c cause .poison (takeFetch c s)).out := by rw [whole, turned]
  have out : (takeFetch c s).out = s.out := by rw [same]
  have sc : (takeFetch c s).env.sc = s.env.sc := by rw [same]
  have own : getCtx (issueFault c cause s) c = { faulted cause (getCtx s c) with call := call } := by
    rw [whole, getCtx_congr ctx, mine, before]
  refine ⟨_, he.trans (event_answers hu hb (issueFault_untouched c cause s)), ?_, ?_, ?_, ?_, fun d hd => ?_, ?_, fun h => ?_,
    fun k hk hp => ?_⟩
  · rw [own]
    rfl
  · rw [own]
    rfl
  · rw [own]
    rfl
  · rw [own]
    rfl
  · rw [whole, getCtx_congr ctx, others d hd, before]
  · rw [whole, turned]
    refine saf.trans ?_
    rw [before]
    exact report_congr (by rw [same]) (by rw [same]) (by rw [same]) _ _ _ _
  · rw [outs, quiet (by rw [before, h]), out]
  · rw [outs, reply k (by rw [before, hk]) hp, out, sc]

theorem readsBad_faults {s : State} {c : Fin 16} {i : Instr} {z : Zellek} {meaning : Zellek → Option (State → State)} {f : State → State}
    (hm : meaning z = some f) (he : exec i s = issue c meaning s) (hi : mayIssue s c = true) (hz : nextInsn s c = some z)
    (hr : readsBad (getCtx s c) z = true) : ∃ body, exec i s = event s body ∧ body s = issueFault c 3 s := by
  refine ⟨issueStep c meaning, he, ?_⟩
  simp [issueStep, hi, hz, hm, hr]

/-- Every row of Table 10.2 but the NOP's gives its own instructions a meaning. -/
theorem row_issues (c : Fin 16) (s : State) (z : Zellek) (h : z ≠ .nop) :
    ∃ meaning f, meaning z = some f ∧ exec (z.row c) s = issue c meaning s := by
  cases z
  case nop => exact absurd rfl h
  case alu op d a src => exact ⟨aluRow op c, _, if_pos rfl, exec_aluOpRow op c s⟩
  case ctxc op => cases op <;> exact ⟨_, _, rfl, rfl⟩
  all_goals exact ⟨_, _, rfl, rfl⟩

/-! ### END (R254, R282) -/

/-- A context that is IDLE: nothing of its program stays. -/
def idled (x : Ctx) : Ctx :=
  { x with state := .idle, wait := .nothing, suspPend := false, haltPend := false, stepping := false, pend := [], call := none
           image := none }

theorem endContext_none {s : State} {c : Nat} (h : owed (getCtx s c) = none) : endContext c s = setCtx c idled s := by
  unfold endContext
  dsimp only
  rcases hc : (getCtx s c).call with _ | k
  · rfl
  · have : k.reply = false := by simpa [owed, hc] using h
    simp only [this]
    rfl

theorem endContext_some {s : State} {c : Nat} {k : CallRec} (h : owed (getCtx s c) = some k) :
    endContext c s = setCtx c idled (emit (replyMsg k c .ok [plain (codeOf64 ((getCtx s c).reg 0) ((getCtx s c).reg 1)
      ((getCtx s c).reg 2) ((getCtx s c).reg 3))] (s.env.sc + 9)) s) := by
  unfold endContext
  dsimp only
  rcases hc : (getCtx s c).call with _ | l
  · simp [owed, hc] at h
  · obtain ⟨rfl, hr⟩ : l = k ∧ l.reply = true := by
      simp only [owed, hc, Option.filter] at h
      split at h
      · next hr => exact ⟨Option.some.inj h, hr⟩
      · cases h
    simp only [hr]
    rfl

theorem stepped_idled (x : Ctx) : stepped (idled x) = idled x := rfl

/-- END: the context is idle, and the reply owed is sent with its registers. -/
theorem endI_answers {s : State} {c : Fin 16} (h : Issues s c .endI) : ∃ t, exec (.endI c) s = .next t
    ∧ getCtx t c = idled (fetched (getCtx s c)) ∧ Issued c { s with out := t.out, fg := t.fg } t
    ∧ (owed (getCtx s c) = none → t.out = s.out ∧ t.fg = s.fg)
    ∧ (∀ k, owed (getCtx s c) = some k → k.port ≠ .xp → t.out.egress = s.out.egress ++ [replyMsg k c .ok
        [plain (codeOf64 ((getCtx s c).reg 0) ((getCtx s c).reg 1) ((getCtx s c).reg 2) ((getCtx s c).reg 3))] (s.env.sc + 9)]) := by
  have calls : owed (getCtx (beginIssue c s) c) = owed (getCtx s c) := by
    rw [getCtx_beginIssue_self]
    rfl
  have own : getCtx (beginIssue c s) c = fetched (getCtx s c) := getCtx_beginIssue_self c s
  have issues (fg : Fg) (out : Out) (he : endContext c (beginIssue c s) = setCtx c idled { beginIssue c s with fg := fg, out := out }) :
      ∃ t, exec (.endI c) s = .next t ∧ getCtx t c = idled (fetched (getCtx s c)) ∧ Issued c { s with fg := fg, out := out } t := by
    have k : IssuesAs s c (.endI c) .endI { s with fg := fg, out := out } (idled (fetched (getCtx s c))) := by
      refine issuesAs_of (f := endContext c) rfl rfl {} rfl rfl rfl rfl rfl ?_ (fun d hd => ?_) ?_
      · rw [he, beginIssue_eq]
        rfl
      · rw [he]
        exact getCtx_setCtx_begin idled s hd
      · rw [he, getCtx_setCtx_self]
        exact congrArg idled own
    obtain ⟨t, ht, hc, hi⟩ := k h
    exact ⟨t, ht, hc.trans (stepped_idled _), hi⟩
  have outs {fg : Fg} {out : Out} {t : State} (hi : Issued c { s with fg := fg, out := out } t) : t.fg = fg ∧ t.out = out := by
    obtain ⟨-, -, -, rest⟩ := hi
    rw [rest]
    exact ⟨rfl, rfl⟩
  rcases hk : owed (getCtx s c) with _ | k
  · have same := endContext_none (calls.trans hk)
    obtain ⟨t, ht, hc, hi⟩ := issues s.fg s.out (by rw [same, beginIssue_eq])
    obtain ⟨hfg, hout⟩ := outs hi
    refine ⟨t, ht, hc, ?_, fun _ => ⟨hout, hfg⟩, fun _ h => by cases h⟩
    rw [hfg, hout]
    exact hi
  · have sent := endContext_some (calls.trans hk)
    rw [own] at sent
    have sc : (beginIssue c s).env.sc = s.env.sc := by rw [beginIssue_eq]
    rw [sc, emit_rest] at sent
    obtain ⟨t, ht, hc, hi⟩ := issues _ _ sent
    obtain ⟨hfg, hout⟩ := outs hi
    refine ⟨t, ht, hc, ?_, fun h => by (cases h), fun l hl hp => ?_⟩
    · rw [hfg, hout]
      exact hi
    · cases hl
      rw [hout, emit_egress _ hp, beginIssue_eq]
      rfl

/-! ### Events and heels (R24, R301, R302, R304) -/

/-- A context that waits for event flags. -/
def waiting (m : Word64) (all use : Bool) (x : Ctx) : Ctx := { x with state := .wait, wait := .events m all use }

/-- The meaning of EVWAIT. -/
def evwaits (c : Nat) (a : BitVec 4) (all use : Bool) (s : State) : State :=
  let m := (getCtx s c).reg a.toNat
  if m = 0 then placeSts c .bounds s else tryRelease c (setCtx c (waiting m all use) s)

section
variable {s : State} {c : Fin 16} {a : BitVec 4} {m : Word64} {all use : Bool} (hm : (getCtx s c).reg a.toNat = m)
include hm

theorem own_reg : (getCtx (beginIssue c s) c).reg a.toNat = m := by rw [getCtx_beginIssue_self, reg_fetched, hm]

theorem evwaits_eq (hz : m ≠ 0) : evwaits c a all use (beginIssue c s)
    = if waitHolds s.seq.events m all then releaseWait c .ok (setCtx c (waiting m all use) { beginIssue c s with
        seq := { (beginIssue c s).seq with events := if use then s.seq.events &&& ~~~m else s.seq.events } })
      else setCtx c (waiting m all use) (beginIssue c s) := by
  let v := setCtx c (waiting m all use) (beginIssue c s)
  have waits : flagWait (getCtx v c) = some (m, all, use) := by
    rw [getCtx_setCtx_self]
    exact flagWait_some.mpr ⟨rfl, rfl⟩
  have flags : v.seq.events = s.seq.events := by
    change (beginIssue c s).seq.events = _
    rw [beginIssue_eq]
  have after : flagsAfter (getCtx v c) s.seq.events = if use then s.seq.events &&& ~~~m else s.seq.events := by
    rw [flagsAfter, waits]
    cases use with
    | true => rfl
    | false => rfl
  have tried := tryRelease_some waits
  rw [flags, after] at tried
  unfold evwaits
  rw [own_reg hm]
  exact (if_neg hz).trans tried

theorem evwait_bounds (hz : m = 0) :
    IssuesAs s c (.evwait c) (.evwait a all use) s ((fetched (getCtx s c)).setSts 4 s.seq.nextId) := by
  refine issuesAs_of_placeSts (f := evwaits c a all use) (st := .bounds) rfl rfl ?_
  unfold evwaits
  rw [own_reg hm]
  exact if_pos hz

theorem evwait_stays (hz : m ≠ 0) (hh : waitHolds s.seq.events m all = false) :
    IssuesAs s c (.evwait c) (.evwait a all use) s (waiting m all use (fetched (getCtx s c))) := by
  refine issuesAs_of_setCtx (f := evwaits c a all use) rfl rfl (waiting m all use) ?_ rfl
  rw [evwaits_eq hm hz, hh]
  rfl

theorem evwait_releases (hz : m ≠ 0) (hh : waitHolds s.seq.events m all = true) :
    IssuesAs s c (.evwait c) (.evwait a all use)
      { s with seq := { s.seq with events := if use then s.seq.events &&& ~~~m else s.seq.events } }
      (released s.seq.nextId (waiting m all use (fetched (getCtx s c)))) := by
  have done := evwaits_eq (all := all) (use := use) hm hz
  rw [hh, if_pos rfl, releaseWait_ok] at done
  refine issuesAs_of (f := evwaits c a all use) rfl rfl {} rfl rfl rfl rfl rfl ?_ (fun d hd => ?_) ?_
  · rw [done, beginIssue_eq]
    rfl
  · rw [done]
    refine (getCtx_setCtx_ne _ _ hd).trans ((getCtx_setCtx_ne _ _ hd).trans ?_)
    exact getCtx_beginIssue_ne s hd
  · rw [done]
    refine (getCtx_setCtx_self _ _ _).trans ?_
    rw [getCtx_setCtx_self]
    have own : getCtx (beginIssue c s) c = fetched (getCtx s c) := getCtx_beginIssue_self c s
    have next : (beginIssue c s).seq.nextId = s.seq.nextId := by rw [beginIssue_eq]
    exact congrArg₂ (fun n x => released n (waiting m all use x)) next own

end

/-- The meaning of a heel instruction. -/
def heels (c : Nat) (a : BitVec 4) (frame : Bool) (s : State) : State :=
  let s := setCtx c (fun x => { x with heelLate := false }) s
  match heelValue s ((getCtx s c).reg a.toNat) frame with
  | none => placeSts c .bounds s
  | some h =>
    if s.tick.cntValid && heelOk s h then setCtx c (fun x => { x with state := .wait, wait := .heel h }) s
    else placeSts c .bounds s

section
variable {s : State} {c : Fin 16} {a : BitVec 4} {frame : Bool}

/-- A context whose HEEL_LATE is cleared. -/
def onTime (x : Ctx) : Ctx := { x with heelLate := false }

theorem heels_eq : heels c a frame (beginIssue c s) = match heelValue s ((getCtx s c).reg a.toNat) frame with
    | none => placeSts c .bounds (setCtx c onTime (beginIssue c s))
    | some h => if s.tick.cntValid && heelOk s h
      then setCtx c (fun x => { x with state := .wait, wait := .heel h }) (setCtx c onTime (beginIssue c s))
      else placeSts c .bounds (setCtx c onTime (beginIssue c s)) := by
  have own : (getCtx (setCtx c onTime (beginIssue c s)) c).reg a.toNat = (getCtx s c).reg a.toNat := by
    rw [getCtx_setCtx_self, getCtx_beginIssue_self]
    rfl
  have tick : (setCtx c onTime (beginIssue c s)).tick = s.tick := beginIssue_tick c s
  have value (g : Word64) : heelValue (setCtx c onTime (beginIssue c s)) g frame = heelValue s g frame := by
    unfold heelValue
    rw [tick]
  have accepted (h : Word64) : heelOk (setCtx c onTime (beginIssue c s)) h = heelOk s h := by
    unfold heelOk
    rw [tick]
  change (match heelValue (setCtx c onTime (beginIssue c s)) ((getCtx (setCtx c onTime (beginIssue c s)) c).reg a.toNat) frame with
    | none => placeSts c .bounds (setCtx c onTime (beginIssue c s))
    | some h => if (setCtx c onTime (beginIssue c s)).tick.cntValid && heelOk (setCtx c onTime (beginIssue c s)) h
      then setCtx c (fun x => { x with state := .wait, wait := .heel h }) (setCtx c onTime (beginIssue c s))
      else placeSts c .bounds (setCtx c onTime (beginIssue c s))) = _
  rw [own, value, tick]
  simp only [accepted]

theorem heel_waits {h : Word64} (hv : heelValue s ((getCtx s c).reg a.toNat) frame = some h)
    (hk : (s.tick.cntValid && heelOk s h) = true) : IssuesAs s c (.heel c) (.heel a frame) s
      { onTime (fetched (getCtx s c)) with state := .wait, wait := .heel h } := by
  have done : heels c a frame (beginIssue c s) = _ := heels_eq
  rw [hv] at done
  dsimp only at done
  rw [hk, if_pos rfl] at done
  refine issuesAs_of (u := s) (f := heels c a frame) rfl rfl {} rfl rfl rfl rfl rfl ?_ (fun d hd => ?_) ?_
  · rw [done, beginIssue_eq]
    rfl
  · rw [done, getCtx_setCtx_ne _ _ hd]
    exact getCtx_setCtx_begin onTime s hd
  · rw [done, getCtx_setCtx_self, getCtx_setCtx_self, getCtx_beginIssue_self]

theorem heel_bounds (hn : ∀ h, heelValue s ((getCtx s c).reg a.toNat) frame = some h → (s.tick.cntValid && heelOk s h) = false) :
    IssuesAs s c (.heel c) (.heel a frame) s ((onTime (fetched (getCtx s c))).setSts 4 s.seq.nextId) := by
  refine issuesAs_of_ctxSts (f := heels c a frame) (st := .bounds) (setCtx c onTime (beginIssue c s)) rfl rfl rfl
    (fun d hd => getCtx_setCtx_begin onTime s hd) ?_ ?_
  · rw [getCtx_setCtx_self, getCtx_beginIssue_self]
  · rw [heels_eq]
    rcases hv : heelValue s ((getCtx s c).reg a.toNat) frame with _ | h
    · rfl
    · dsimp only
      rw [hn h hv]
      exact if_neg nofun

end

/-- The value of a heel, in numbers (R304): the counter's value, or a frame's first. -/
theorem heelValue_eq (s : State) (g : Word64) (frame : Bool) :
    heelValue s g frame = if (if frame then g.toNat * 2 ^ s.tick.frameLog2.toNat else g.toNat) < 2 ^ 64
      then some (BitVec.ofNat 64 (if frame then g.toNat * 2 ^ s.tick.frameLog2.toNat else g.toNat)) else none := by
  have bound : s.tick.frameLog2.toNat < 32 := s.tick.frameLog2.isLt
  generalize hl : s.tick.frameLog2.toNat = l at bound
  cases frame with
  | false => simp [heelValue, g.isLt]
  | true =>
    have split : 2 ^ 64 = 2 ^ (64 - l) * 2 ^ l := by rw [← Nat.pow_add]; congr 1; omega
    have fits : g.toNat < 2 ^ (64 - l) ↔ g.toNat * 2 ^ l < 2 ^ 64 := by
      rw [split]
      exact (Nat.mul_lt_mul_right (Nat.two_pow_pos l)).symm
    have value : g <<< l = BitVec.ofNat 64 (g.toNat * 2 ^ l) := by
      apply BitVec.eq_of_toNat_eq
      rw [BitVec.toNat_shiftLeft, Nat.shiftLeft_eq, BitVec.toNat_ofNat]
    simp only [heelValue, hl, if_true, fits, value]

theorem waitHolds_iff (e m : Word64) (all : Bool) :
    waitHolds e m all = true ↔ (all = true ∧ e &&& m = m) ∨ (all = false ∧ e &&& m ≠ 0) := by
  cases all with
  | true => simp [waitHolds]
  | false => simp [waitHolds]

theorem exec_nop_event (c : Fin 16) (s : State) : exec (.nop c) s = event s fun s =>
    if mayIssue s c && (fetch s c).1 == 2 then issueFault c 2 s else issueStep c nopRow s := rfl

/-- Settles O57: each instruction acts on its context alone, or, where it faults or ends, sends the reply owed. -/
theorem zellekControlAnswers : Obligations.ZellekControlAnswers := by
  unfold Obligations.ZellekControlAnswers
  intro s c x effect goes bounds faults
  have faulted {i : Instr} {cause : Nat} {body : State → State} (hu : inUse s) (he : exec i s = event s body)
      (hb : body s = issueFault c cause s) : faults i cause := by
    obtain ⟨t, ht, hst, hcause, hpc, hg, others, saf, quiet, reply⟩ := issueFault_answers hu he hb
    refine ⟨t, ht, hst, hcause, hpc, hg, others, saf, fun h => quiet (owed_none h), fun k hk hr hp =>
      ⟨_, reply k (owed_some hk hr) hp, rfl, rfl, rfl, rfl, rfl⟩⟩
  refine ⟨?br, ?bcc, ?bst, ?jal, ?jr, ?faults, ?ends, ?evset, ?evclr, ?evwait, ?heel⟩
  case br => exact fun target => issuesAs_branch rfl rfl rfl
  case bcc =>
    intro k a b target p q taken
    have same (r : BitVec 4) : (getCtx (beginIssue c s) c).reg r.toNat = x.reg r.toNat := own_reg rfl
    have iff : k.holds (x.reg a.toNat) (x.reg b.toNat) = true ↔ taken := holds_iff k _ _
    refine ⟨fun ht => issuesAs_branch rfl rfl ?_, fun hn => issuesAs_of_stay rfl rfl ?_⟩
    · rw [same, same]
      exact if_pos (iff.mpr ht)
    · rw [same, same]
      exact if_neg (mt iff.mp hn)
  case bst =>
    intro neg ref target hit
    have same : (getCtx (beginIssue c s) c).lastSts = x.lastSts := by
      rw [getCtx_beginIssue_self]
      rfl
    have iff := bstTaken_iff neg ref x.lastSts
    refine ⟨fun ht => issuesAs_branch rfl rfl ?_, fun hn => issuesAs_of_stay rfl rfl ?_⟩
    · rw [same]
      exact if_pos (iff.mpr ht)
    · rw [same]
      exact if_neg (mt iff.mp hn)
  case jal =>
    intro d target
    refine issuesAs_of_branch rfl rfl (Ctx.setReg d.toNat ((x.pc + 1).zeroExtend 64)) ?_ rfl
    have pc : (getCtx (beginIssue c s) c).pc = x.pc + 1 := by
      rw [getCtx_beginIssue_self]
      rfl
    rw [pc]
    rfl
  case jr =>
    intro a
    refine issuesAs_branch rfl rfl ?_
    rw [own_reg rfl]
  case faults =>
    intro hu hi
    refine ⟨fun hf => ?_, fun hf hd => ?_, fun z hz hr => ?_⟩
    · refine faulted hu (exec_nop_event c s) (if_pos ?_)
      simp [hi, hf]
    · refine faulted hu rfl (if_pos ?_)
      simp [hi, hf, nextInsn, hd]
    · by_cases hn : z = .nop
      · subst hn
        have single : (fetch s c).1 ≠ 2 := by
          intro e
          simp [nextInsn, e] at hz
        refine faulted hu (exec_nop_event c s) ((if_neg ?_).trans ?_)
        · simp [single]
        · have bad : readsBad (getCtx s c) .nop = true := hr
          simp only [issueStep, hi, hz, nopRow, bad]
          rfl
      · obtain ⟨meaning, f, hm, he⟩ := row_issues c s z hn
        obtain ⟨body, hev, hb⟩ := readsBad_faults hm he hi hz hr
        exact faulted hu hev hb
  case ends =>
    intro h
    obtain ⟨t, ht, hc, hi, quiet, reply⟩ := endI_answers h
    refine ⟨t, ht, ?_, ?_, ?_, ?_, hi, fun h => quiet (owed_none h), fun k hk hr hp =>
      ⟨_, reply k (owed_some hk hr) hp, rfl, rfl, rfl, rfl, rfl⟩⟩
    all_goals
      rw [hc]
      rfl
  case evset =>
    intro a
    refine issuesAs_of rfl rfl {} rfl rfl rfl rfl rfl ?_ (fun d hd => getCtx_beginIssue_ne s hd) (getCtx_beginIssue_self c s)
    rw [own_reg rfl, beginIssue_eq]
  case evclr =>
    intro a
    refine issuesAs_of rfl rfl {} rfl rfl rfl rfl rfl ?_ (fun d hd => getCtx_beginIssue_ne s hd) (getCtx_beginIssue_self c s)
    rw [own_reg rfl, beginIssue_eq]
  case evwait =>
    intro a all use m i z waits hit
    have iff : waitHolds s.seq.events m all = true ↔ hit := waitHolds_iff _ _ _
    refine ⟨fun hz => evwait_bounds rfl hz, fun hz hn => ?_, fun hz hh => evwait_releases rfl hz (iff.mpr hh)⟩
    exact evwait_stays rfl hz (Bool.eq_false_iff.mpr (mt iff.mp hn))
  case heel =>
    intro a frame l g h good y
    have value : heelValue s (x.reg a.toNat) frame = if h < 2 ^ 64 then some (BitVec.ofNat 64 h) else none := heelValue_eq s _ frame
    have accepted (hh : h < 2 ^ 64) : heelOk s (BitVec.ofNat 64 h) = true
        ↔ s.tick.counter.toNat < h ∧ h ≤ s.tick.counter.toNat + 2 ^ 36 := by
      have whole : (BitVec.ofNat 64 h).toNat = h := by
        rw [BitVec.toNat_ofNat]
        exact Nat.mod_eq_of_lt hh
      rw [heelOk, whole, Bool.and_eq_true, decide_eq_true_iff, decide_eq_true_iff]
    refine ⟨fun ⟨hv, hh, hlo, hhi⟩ => heel_waits (value.trans (if_pos hh)) ?_, fun hn => heel_bounds fun w hw => ?_⟩
    · rw [hv, (accepted hh).mpr ⟨hlo, hhi⟩]
      rfl
    · have hw' := value.symm.trans hw
      split at hw'
      · next hh =>
        cases hw'
        by_contra hk
        obtain ⟨hv, hr⟩ := Bool.and_eq_true_iff.mp (Bool.not_eq_false _ ▸ hk)
        exact hn ⟨hv, hh, (accepted hh).mp hr⟩
      · cases hw'

end Sys2Proof.Proofs
end

section
/-! SUPPORT. Instructions that open a pending entry (10_zellek_instruction_set R271 to R274): what they change beside their context is
what they would change without an issue. -/

namespace Sys2Proof.Proofs

open Sys2Proof.Machine Sys2Proof.Safety Sys2Proof.Laws

set_option Elab.async false

/-- State u as an issue of context c in s leaves it, with the contexts and the instruction number given. -/
def issuing (c : Nat) (s : State) (ctx : Table Ctx) (n : Nat) (u : State) : State := { u with
  fresh := u.fresh + 1
  bg := { u.bg with tel := { u.bg.tel with
    pstoreCe := if (fetch s c).1 = 1 then min 65535 (u.bg.tel.pstoreCe + 1) else u.bg.tel.pstoreCe } }
  seq := { u.seq with lastIssue := s.env.sc, ctx := ctx, nextId := n } }

/-- u differs from s only beside what an issue itself changes or reads. -/
structure Beside (s u : State) : Prop where
  soft : Untouched s u := by exact {}
  pstore : u.seq.pstore = s.seq.pstore := by rfl
  ctx : u.seq.ctx = s.seq.ctx := by rfl
  fresh : u.fresh = s.fresh := by rfl
  env : u.env = s.env := by rfl
  heelQ : u.seq.heelQ = s.seq.heelQ := by rfl

theorem Beside.trans {s u v : State} (h : Beside s u) (k : Beside u v) : Beside s v where
  soft := h.soft.trans k.soft
  pstore := k.pstore.trans h.pstore
  ctx := k.ctx.trans h.ctx
  fresh := k.fresh.trans h.fresh
  env := k.env.trans h.env
  heelQ := k.heelQ.trans h.heelQ

/-- The contexts ctx are those of s but for context c, which is y. -/
structure Sets (c : Nat) (s : State) (y : Ctx) (ctx : Table Ctx) : Prop where
  own : tget Ctx.idle ctx c = y
  others : ∀ d, d ≠ c → tget Ctx.idle ctx d = getCtx s d

theorem Sets.then {c : Nat} {s : State} {y : Ctx} {ctx : Table Ctx} (h : Sets c s y ctx) (f : Ctx → Ctx) :
    Sets c s (f y) (tmod Ctx.idle ctx c f) where
  own := (tget_tmod_self ..).trans (congrArg f h.own)
  others d hd := (tget_tmod_ne _ _ _ hd).trans (h.others d hd)

theorem beginIssue_issuing (c : Nat) (s : State) :
    ∃ ctx, Sets c s (fetched (getCtx s c)) ctx ∧ beginIssue c s = issuing c s ctx s.seq.nextId s :=
  ⟨_, ⟨getCtx_beginIssue_self c s, fun _ hd => getCtx_beginIssue_ne s hd⟩, by rw [beginIssue_eq]; rfl⟩

section
variable {s u : State} {c : Fin 16} {i : Instr} {z : Zellek} {meaning : Zellek → Option (State → State)} {f : State → State}
  {ctx : Table Ctx} {y : Ctx} {n : Nat}

/-- A meaning whose effect, as an issue leaves it, is u. -/
theorem issuesAs_issuing (he : exec i s = issue c meaning s) (hm : meaning z = some f) (hu : Beside s u) (hs : Sets c s y ctx)
    (hf : f (beginIssue c s) = issuing c s ctx n u) : IssuesAs s c i z u y :=
  issuesAs_of he hm hu.soft hu.pstore hu.ctx hu.fresh (by rw [hu.env]) hu.heelQ (by rw [hf]; rfl)
    (fun d hd => by rw [hf]; exact hs.others d hd) (by rw [hf]; exact hs.own)

/-- Opening a pending entry after the fetch. -/
theorem openPend_issuing (c : Nat) (z : Zellek) (long store : Bool) (g : Gather) (k : Nat) (s : State) :
    ∃ ctx, Sets c s (Safety.opened (fetched (getCtx s c)) (entryOf z s.seq.nextId long store g k)) ctx
      ∧ openPend c z long store g k true (beginIssue c s) = (s.seq.nextId, issuing c s ctx (s.seq.nextId + 1) s) := by
  obtain ⟨ctx, hs, hb⟩ := beginIssue_issuing c s
  refine ⟨_, hs.then fun x => Safety.opened x (entryOf z s.seq.nextId long store g k), ?_⟩
  rw [openPend_eq, hb]
  rfl

end

/-! ### Effects beside an issue -/

section
variable (c : Nat) (s : State) (ctx : Table Ctx) (n : Nat) (u : State)

theorem enqueue_issuing (a : Access) : enqueue a (issuing c s ctx n u) = issuing c s ctx n (enqueue a u) := rfl

theorem complete_issuing (r : Result) : complete r (issuing c s ctx n u) = issuing c s ctx n (complete r u) := rfl

theorem emit_issuing (m : OutMsg) : emit m (issuing c s ctx n u) = issuing c s ctx n (emit m u) := by
  unfold emit
  split <;> rfl

theorem originate_issuing (who : Option Origin) (m : OutMsg) :
    originate who m (issuing c s ctx n u) = issuing c s ctx n (originate who m u) := by
  rcases who with _ | w
  · exact emit_issuing c s ctx n (passTxn u) m
  · exact emit_issuing c s ctx n (passTxn { u with out := { u.out with orig := u.out.orig ++ [Originated.mk m.txn w m] } }) m

end

theorem enqueue_beside {s u : State} (a : Access) (h : Beside s u) : Beside s (enqueue a u) := h.trans {}
theorem complete_beside {s u : State} (r : Result) (h : Beside s u) : Beside s (complete r u) := h.trans {}
theorem emit_beside {s u : State} (m : OutMsg) (h : Beside s u) : Beside s (emit m u) := by
  refine h.trans ?_
  rw [emit_rest]
  exact {}
theorem originate_beside {s u : State} (who : Option Origin) (m : OutMsg) (h : Beside s u) : Beside s (originate who m u) := by
  unfold originate
  rcases who with _ | w
  · exact emit_beside m (h.trans {})
  · exact emit_beside m (h.trans {})

/-- The contexts of a state reached by an issue. -/
theorem getCtx_issuing {c : Nat} {s u : State} {ctx : Table Ctx} {y : Ctx} {n : Nat} (h : Sets c s y ctx) :
    getCtx (issuing c s ctx n u) c = y := h.own

end Sys2Proof.Proofs
end

section
/-! SUPPORT. Operations on channels, of agents and of contexts (06_kennels_and_channels Table 6.2, R168 to R172, R187), where no check
fails. -/

namespace Sys2Proof.Proofs

open Sys2Proof.Machine Sys2Proof.Safety Sys2Proof.Laws

set_option Elab.async false

/-! ### Nothing waits -/

theorem serveOne_none {ch : Nat} {s : State} (h : ∀ w ∈ s.ken.waits, w.ch ≠ ch) : serveOne ch s = none := by
  have none (take : Bool) : (s.ken.waits.find? fun w => w.ch == ch && w.take == take) = none :=
    List.find?_eq_none.mpr fun w hw => by simp [h w hw]
  simp only [serveOne, none]

theorem afterChange_idle {ch : Nat} {s : State} (h : ∀ w ∈ s.ken.waits, w.ch ≠ ch) : afterChange ch s = s := by
  rw [afterChange, serveWaits, serveOne_none h]

/-! ### The operations where no check fails -/

section
variable {s : State} (hs : ChannelsSound s) (ch slot cls : Nat) (p : ChParty)
include hs

theorem noisy_sound : ChannelsSound (noisy s) := ⟨hs.chan, hs.slot, hs.target⟩

theorem doReserve_eq (b : Bool) : doReserve ch b p s =
    if (chanOf s ch).en = false then chAnswer p .bounds 0 0 (noisy s)
    else if (chanOf s ch).muz = true then chAnswer p .muzzled 0 0 (noisy s)
    else match tryReserve ch p (noisy s) with
      | some t => afterChange ch (chCount p t)
      | none => if b then beginWait ch false p (noisy s) else chAnswer p .slotFull 0 0 (chCount p (noisy s)) := by
  simp only [doReserve, checkSlot_sound (noisy_sound hs), Bool.not_eq_true']
  rfl

theorem doTake_eq (b : Bool) : doTake ch b p s =
    if (chanOf s ch).en = false then chAnswer p .bounds 0 0 (noisy s)
    else if (chanOf s ch).muz = true then chAnswer p .muzzled 0 0 (noisy s)
    else if (chanOf s ch).litCnt ≠ 0 then chAnswer p .bounds 0 0 (noisy s)
    else match tryTake ch p (noisy s) with
      | some t => afterChange ch (chCount p t)
      | none => if b then beginWait ch true p (noisy s) else chAnswer p .empty 0 0 (chCount p (noisy s)) := by
  simp only [doTake, checkSlot_sound (noisy_sound hs), Bool.not_eq_true', Channel.isPush, decide_eq_true_eq]
  rfl

/-- The slot is in a state, and its holder is the party. -/
def Holds (s : State) (ch slot : Nat) (p : ChParty) (st : SlotState) : Prop :=
  slot < (chanOf s ch).nslots.toNat ∧ (slotAt s ch slot).state = st ∧ (slotAt s ch slot).holder = some p.holder

omit hs in
theorem slotHolds_iff {st : SlotState} : ¬ ((chanOf s ch).nslots.toNat ≤ slot
    ∨ ¬ ((slotAt s ch slot).state = st ∧ (slotAt s ch slot).holder = some p.holder)) ↔ Holds s ch slot p st := by
  rw [not_or, Nat.not_le, not_not, Holds]

/-- The slot after its COMMIT. -/
def committed (sc : Nat) (k : Slot) : Slot := { k with state := .full, holder := none, age := 0, since := sc }

theorem doCommit_off {st : Status} (h : ((chanOf s ch).en = false ∧ st = .bounds)
    ∨ ((chanOf s ch).en = true ∧ (chanOf s ch).muz = true ∧ st = .muzzled)) :
    doCommit ch slot cls p s = chAnswer p st 0 0 (noisy s) := by
  have en : chanOf (noisy s) ch = chanOf s ch := rfl
  rcases h with ⟨he, rfl⟩ | ⟨he, hm, rfl⟩
  · simp [doCommit, checkSlot_sound (noisy_sound hs), en, he]
  · simp [doCommit, checkSlot_sound (noisy_sound hs), en, he, hm]

theorem doFree_off {st : Status} (h : ((chanOf s ch).en = false ∧ st = .bounds)
    ∨ ((chanOf s ch).en = true ∧ (chanOf s ch).muz = true ∧ st = .muzzled)) :
    doFree ch slot p s = chAnswer p st 0 0 (noisy s) := by
  have en : chanOf (noisy s) ch = chanOf s ch := rfl
  rcases h with ⟨he, rfl⟩ | ⟨he, hm, rfl⟩
  · simp [doFree, checkSlot_sound (noisy_sound hs), en, he]
  · simp [doFree, checkSlot_sound (noisy_sound hs), en, he, hm]

/-- A context that waits for a channel. -/
def channelWait (id : Nat) (x : Ctx) : Ctx := { x with state := .wait, wait := .channel id }

/-- The party of a COMMIT to a push channel waits for its credits (R300). -/
def waitsOn : ChParty → State → State
  | .ctx n id => setCtx n (channelWait id)
  | _ => id

variable (he : (chanOf s ch).en = true) (hm : (chanOf s ch).muz = false)
include he hm

theorem doCommit_bounds (hn : ¬ Holds s ch slot p .resv) : doCommit ch slot cls p s = chAnswer p .bounds 0 0 (noisy s) := by
  have en : chanOf (noisy s) ch = chanOf s ch := rfl
  have at' : slotAt (noisy s) ch slot = slotAt s ch slot := rfl
  have bad := mt (slotHolds_iff ch slot p).mp hn
  rw [not_not] at bad
  simp only [doCommit, checkSlot_sound (noisy_sound hs), en, at', he, hm, Bool.not_true, Bool.false_eq_true, if_false]
  exact if_pos bad

theorem doCommit_pull (hh : Holds s ch slot p .resv) (hl : (chanOf s ch).litCnt = 0) : doCommit ch slot cls p s
    = afterChange ch (chAnswer p .ok 0 0 (setSlot ch slot (committed s.env.sc) (chCount p (noisy s)))) := by
  have en : chanOf (noisy s) ch = chanOf s ch := rfl
  have at' : slotAt (noisy s) ch slot = slotAt s ch slot := rfl
  have good := (slotHolds_iff ch slot p).mpr hh
  have pull : (chanOf s ch).isPush = false := decide_eq_false (not_not.mpr hl)
  simp only [doCommit, checkSlot_sound (noisy_sound hs), en, at', he, hm, Bool.not_true, Bool.false_eq_true, if_false]
  exact (if_neg good).trans (if_neg (Bool.eq_false_iff.mp pull))

theorem doCommit_push (hh : Holds s ch slot p .resv) (hl : (chanOf s ch).litCnt ≠ 0) : doCommit ch slot cls p s
    = waitsOn p (setSlot ch slot (fun k => { committed s.env.sc k with commit := some (p, cls) }) (chCount p (noisy s))) := by
  have en : chanOf (noisy s) ch = chanOf s ch := rfl
  have at' : slotAt (noisy s) ch slot = slotAt s ch slot := rfl
  have good := (slotHolds_iff ch slot p).mpr hh
  have push : (chanOf s ch).isPush = true := decide_eq_true hl
  simp only [doCommit, checkSlot_sound (noisy_sound hs), en, at', he, hm, Bool.not_true, Bool.false_eq_true, if_false]
  refine (if_neg good).trans ((if_pos push).trans ?_)
  cases p <;> rfl

theorem doFree_bounds (hn : (chanOf s ch).litCnt ≠ 0 ∨ ¬ Holds s ch slot p .taken) :
    doFree ch slot p s = chAnswer p .bounds 0 0 (noisy s) := by
  have en : chanOf (noisy s) ch = chanOf s ch := rfl
  have at' : slotAt (noisy s) ch slot = slotAt s ch slot := rfl
  simp only [doFree, checkSlot_sound (noisy_sound hs), en, at', he, hm, Bool.not_true, Bool.false_eq_true, if_false]
  by_cases hl : (chanOf s ch).litCnt = 0
  · have bad := mt (slotHolds_iff ch slot p).mp (hn.resolve_left (not_not.mpr hl))
    rw [not_not] at bad
    exact (if_neg (Bool.eq_false_iff.mp (decide_eq_false (not_not.mpr hl)))).trans (if_pos bad)
  · exact if_pos (decide_eq_true hl)

theorem doFree_frees (hh : Holds s ch slot p .taken) (hl : (chanOf s ch).litCnt = 0) : doFree ch slot p s
    = afterChange ch (chAnswer p .ok 0 0 (setSlot ch slot (fun _ => default) (chCount p (noisy s)))) := by
  have en : chanOf (noisy s) ch = chanOf s ch := rfl
  have at' : slotAt (noisy s) ch slot = slotAt s ch slot := rfl
  have good := (slotHolds_iff ch slot p).mpr hh
  simp only [doFree, checkSlot_sound (noisy_sound hs), en, at', he, hm, Bool.not_true, Bool.false_eq_true, if_false]
  exact (if_neg (Bool.eq_false_iff.mp (decide_eq_false (not_not.mpr hl)))).trans (if_neg good)

end

/-! ### Slots that are handed out and taken -/

section
variable (s : State) (ch : Nat) (p : ChParty)

/-- The index of a ring of slots after k. -/
def slotAfter (c : Channel) (k : Nat) : Nat := if k + 1 < c.nslots.toNat then k + 1 else 0

/-- The slot at PI is reserved by a party. -/
def reserves : State :=
  setChan ch (fun c => { c with pi := slotAfter (chanOf s ch) (chanOf s ch).pi })
    (setSlot ch (chanOf s ch).pi (fun _ => { (default : Slot) with state := .resv, holder := some p.holder, since := s.env.sc }) s)

/-- The slot at CI is taken by a party. -/
def takes : State :=
  setChan ch (fun c => { c with ci := slotAfter (chanOf s ch) (chanOf s ch).ci })
    (setSlot ch (chanOf s ch).ci (fun k => { k with state := .taken, holder := some p.holder, age := 0, since := s.env.sc }) s)

/-- Setting a channel depends on its present state alone. -/
theorem setChan_congr {f g : Channel → Channel} (h : f (chanOf s ch) = g (chanOf s ch)) : setChan ch f s = setChan ch g s := by
  have same : tmod default s.ken.ch ch f = tmod default s.ken.ch ch g := congrArg (tset default s.ken.ch ch) h
  unfold setChan
  rw [same]

/-- The status that hands out the slot at PI, where its state does (Table 6.2). -/
def Reservable (st : Status) : Prop :=
  ((slotAt s ch (chanOf s ch).pi).state = .empty ∧ st = .ok) ∨ ((slotAt s ch (chanOf s ch).pi).state = .poison ∧ st = .poison)

/-- The status that takes the slot at CI, where its state does (Table 6.2). -/
def Takable (st : Status) : Prop :=
  ((slotAt s ch (chanOf s ch).ci).state = .full ∧ st = .ok) ∨ ((slotAt s ch (chanOf s ch).ci).state = .poison ∧ st = .poison)

theorem tryReserve_some {st : Status} (h : Reservable s ch st) : tryReserve ch p s
    = some (chAnswer p st (chanOf s ch).pi (slotOffset (chanOf s ch) (chanOf s ch).pi) (reserves s ch p)) := by
  have next : setChan ch (fun c => { c with pi := nextIndex c.pi c.nslots.toNat }) (setSlot ch (chanOf s ch).pi (fun _ =>
      { (default : Slot) with state := .resv, holder := some p.holder, since := s.env.sc }) s) = reserves s ch p :=
    setChan_congr _ ch rfl
  have may : (slotAt s ch (chanOf s ch).pi).state = .empty ∨ (slotAt s ch (chanOf s ch).pi).state = .poison :=
    h.imp And.left And.left
  have status : (if (slotAt s ch (chanOf s ch).pi).state = .poison then Status.poison else .ok) = st := by
    rcases h with ⟨hk, rfl⟩ | ⟨hk, rfl⟩ <;> rw [hk] <;> rfl
  rw [tryReserve]
  refine (if_pos may).trans (congrArg some ?_)
  rw [status]
  exact congrArg (chAnswer p st _ _) next

theorem tryReserve_none (he : (slotAt s ch (chanOf s ch).pi).state ≠ .empty) (hp : (slotAt s ch (chanOf s ch).pi).state ≠ .poison) :
    tryReserve ch p s = none := if_neg (not_or.mpr ⟨he, hp⟩)

theorem tryTake_some {st : Status} (h : Takable s ch st) : tryTake ch p s
    = some (chAnswer p st (chanOf s ch).ci (slotOffset (chanOf s ch) (chanOf s ch).ci) (takes s ch p)) := by
  have next : setChan ch (fun c => { c with ci := nextIndex c.ci c.nslots.toNat }) (setSlot ch (chanOf s ch).ci (fun k =>
      { k with state := .taken, holder := some p.holder, age := 0, since := s.env.sc }) s) = takes s ch p :=
    setChan_congr _ ch rfl
  have may : (slotAt s ch (chanOf s ch).ci).state = .full ∨ (slotAt s ch (chanOf s ch).ci).state = .poison :=
    h.imp And.left And.left
  have status : (if (slotAt s ch (chanOf s ch).ci).state = .poison then Status.poison else .ok) = st := by
    rcases h with ⟨hk, rfl⟩ | ⟨hk, rfl⟩ <;> rw [hk] <;> rfl
  rw [tryTake]
  refine (if_pos may).trans (congrArg some ?_)
  rw [status]
  exact congrArg (chAnswer p st _ _) next

theorem tryTake_none (he : (slotAt s ch (chanOf s ch).ci).state ≠ .full) (hp : (slotAt s ch (chanOf s ch).ci).state ≠ .poison) :
    tryTake ch p s = none := if_neg (not_or.mpr ⟨he, hp⟩)

end

/-! ### Whole operations -/

/-- A channel is off: disabled, or muzzled; and the status that says so (Table 6.2). -/
def OffWith (s : State) (ch : Nat) (st : Status) : Prop :=
  ((chanOf s ch).en = false ∧ st = .bounds) ∨ ((chanOf s ch).en = true ∧ (chanOf s ch).muz = true ∧ st = .muzzled)

section
variable {s : State} {ch slot : Nat} {st : Status} (hs : ChannelsSound s)

include hs in
theorem doReserve_off (p : ChParty) (b : Bool) (h : OffWith s ch st) : doReserve ch b p s = chAnswer p st 0 0 (noisy s) := by
  rw [doReserve_eq hs]
  rcases h with ⟨he, rfl⟩ | ⟨he, hm, rfl⟩
  · exact if_pos he
  · exact (if_neg (by simp [he])).trans (if_pos hm)

include hs in
theorem doTake_off (p : ChParty) (b : Bool) (h : OffWith s ch st) : doTake ch b p s = chAnswer p st 0 0 (noisy s) := by
  rw [doTake_eq hs]
  rcases h with ⟨he, rfl⟩ | ⟨he, hm, rfl⟩
  · exact if_pos he
  · exact (if_neg (by simp [he])).trans (if_pos hm)

variable (he : (chanOf s ch).en = true) (hm : (chanOf s ch).muz = false)

include hs he hm in
theorem doReserve_on (p : ChParty) (b : Bool) : doReserve ch b p s = match tryReserve ch p (noisy s) with
    | some t => afterChange ch (chCount p t)
    | none => if b then beginWait ch false p (noisy s) else chAnswer p .slotFull 0 0 (chCount p (noisy s)) := by
  rw [doReserve_eq hs]
  exact (if_neg (by simp [he])).trans (if_neg (by simp [hm]))

include hs he hm in
theorem doTake_on (p : ChParty) (b : Bool) (hl : (chanOf s ch).litCnt = 0) : doTake ch b p s = match tryTake ch p (noisy s) with
    | some t => afterChange ch (chCount p t)
    | none => if b then beginWait ch true p (noisy s) else chAnswer p .empty 0 0 (chCount p (noisy s)) := by
  rw [doTake_eq hs]
  exact (if_neg (by simp [he])).trans ((if_neg (by simp [hm])).trans (if_neg (not_not.mpr hl)))

include hs he hm in
theorem doTake_push (p : ChParty) (b : Bool) (hl : (chanOf s ch).litCnt ≠ 0) : doTake ch b p s = chAnswer p .bounds 0 0 (noisy s) := by
  rw [doTake_eq hs]
  exact (if_neg (by simp [he])).trans ((if_neg (by simp [hm])).trans (if_pos hl))

/-- An answer and the count of the class leave the channels alone. -/
theorem counted_ken (p : ChParty) (st : Status) (k off : Nat) (u : State) : (chCount p (chAnswer p st k off u)).ken = u.ken := by
  have answered : (chAnswer p st k off u).ken = u.ken := chAnswer_ken p st k off u
  rw [← answered]
  unfold chCount
  split
  · rw [countStore_eq]
  · rfl

theorem answered_idle (p : ChParty) (st : Status) (k off : Nat) {u : State} (hw : ∀ w ∈ u.ken.waits, w.ch ≠ ch) :
    afterChange ch (chCount p (chAnswer p st k off u)) = chCount p (chAnswer p st k off u) :=
  afterChange_idle (by rw [counted_ken]; exact hw)

include hs he hm in
theorem doReserve_answers (p : ChParty) (b : Bool) (hw : ∀ w ∈ s.ken.waits, w.ch ≠ ch) (h : Reservable s ch st) :
    doReserve ch b p s = chCount p (chAnswer p st (chanOf s ch).pi (slotOffset (chanOf s ch) (chanOf s ch).pi)
      (reserves (noisy s) ch p)) := by
  rw [doReserve_on hs he hm, tryReserve_some (noisy s) ch p h]
  exact answered_idle p st _ _ hw

include hs he hm in
theorem doReserve_blocks (p : ChParty) (b : Bool) (h0 : (slotAt s ch (chanOf s ch).pi).state ≠ .empty)
    (h1 : (slotAt s ch (chanOf s ch).pi).state ≠ .poison) : doReserve ch b p s =
      if b then beginWait ch false p (noisy s) else chAnswer p .slotFull 0 0 (chCount p (noisy s)) := by
  rw [doReserve_on hs he hm, tryReserve_none (noisy s) ch p h0 h1]

include hs he hm in
theorem doTake_answers (p : ChParty) (b : Bool) (hw : ∀ w ∈ s.ken.waits, w.ch ≠ ch) (hl : (chanOf s ch).litCnt = 0)
    (h : Takable s ch st) :
    doTake ch b p s = chCount p (chAnswer p st (chanOf s ch).ci (slotOffset (chanOf s ch) (chanOf s ch).ci)
      (takes (noisy s) ch p)) := by
  rw [doTake_on hs he hm p b hl, tryTake_some (noisy s) ch p h]
  exact answered_idle p st _ _ hw

include hs he hm in
theorem doTake_blocks (p : ChParty) (b : Bool) (hl : (chanOf s ch).litCnt = 0) (h0 : (slotAt s ch (chanOf s ch).ci).state ≠ .full)
    (h1 : (slotAt s ch (chanOf s ch).ci).state ≠ .poison) : doTake ch b p s =
      if b then beginWait ch true p (noisy s) else chAnswer p .empty 0 0 (chCount p (noisy s)) := by
  rw [doTake_on hs he hm p b hl, tryTake_none (noisy s) ch p h0 h1]

end

end Sys2Proof.Proofs
end

section
/-! SUPPORT. Instructions that use another unit (10_zellek_instruction_set R295, R296, R298 to R300, R305, R306, R313): channels, packs,
moves, atomics and calls. -/

namespace Sys2Proof.Proofs

open Sys2Proof.Machine Sys2Proof.Safety Sys2Proof.Laws

set_option Elab.async false

/-! ### Channel instructions (R298 to R300) -/

/-- The context of a channel instruction with its entry open. -/
def plainEntry (s : State) (c : Nat) (z : Zellek) : Ctx :=
  Safety.opened (fetched (getCtx s c)) (entryOf z s.seq.nextId false false .nothing 1)

section
variable {s : State} {c : Fin 16} {i : Instr} {z : Zellek} {meaning : Zellek → Option (State → State)}
  {f : State → State} {ch slot : Nat} {st : Status}

/-- A channel operation answers a context whose only entry is that of the operation. -/
theorem chAnswer_issuing {ctx : Table Ctx} {n : Nat} (u : State) (hp : (getCtx s c).pend = []) (h : Sets c s (plainEntry s c z) ctx)
    (k off : Nat) : chAnswer (.ctx c s.seq.nextId) st k off (issuing c s ctx n u) = issuing c s ctx n (complete
      (Result.mk u.env.sc c s.seq.nextId (some st)
        ((z.writes.filter (· < 16)).map fun g => (g, BitVec.ofNat 64 (off + k * 2 ^ 32))) []) u) := by
  have pend : pendOf (issuing c s ctx n u) c s.seq.nextId = some (entryOf z s.seq.nextId false false .nothing 1) := by
    rw [pendOf, getCtx_issuing h]
    simp [plainEntry, Safety.opened, fetched, hp, entryOf]
  unfold chAnswer
  simp only [pend]
  rfl

/-- A channel instruction that its operation answers at once. -/
theorem channel_answers {act : ChParty → State → State} {u : State} (k off : Nat) {regs : List (Nat × Word64)}
    (hp : (getCtx s c).pend = []) (he : exec i s = issue c meaning s) (hm : meaning z = some f)
    (hf : f (beginIssue c s) = ctxChannel c z act (beginIssue c s)) (hu : Beside s u)
    (ha : ∀ ctx n, act (.ctx c s.seq.nextId) (issuing c s ctx n s) = chAnswer (.ctx c s.seq.nextId) st k off (issuing c s ctx n u))
    (hr : (z.writes.filter (· < 16)).map (fun g => (g, BitVec.ofNat 64 (off + k * 2 ^ 32))) = regs) :
    IssuesAs s c i z (complete (Result.mk s.env.sc c s.seq.nextId (some st) regs []) u) (plainEntry s c z) := by
  obtain ⟨ctx, hs, ho⟩ := openPend_issuing c z false false .nothing 1 s
  refine issuesAs_issuing he hm (complete_beside _ hu) hs (ctx := ctx) (n := s.seq.nextId + 1) ?_
  rw [hf, ctxChannel, ho]
  refine (ha _ _).trans ((chAnswer_issuing u hp hs k off).trans ?_)
  rw [hr, hu.env]

/-- A channel instruction that waits. -/
theorem channel_waits {act : ChParty → State → State} {u : State} (he : exec i s = issue c meaning s)
    (hm : meaning z = some f)
    (hf : f (beginIssue c s) = ctxChannel c z act (beginIssue c s)) (hu : Beside s u)
    (ha : ∀ ctx n, act (.ctx c s.seq.nextId) (issuing c s ctx n s) = setCtx c (channelWait s.seq.nextId) (issuing c s ctx n u)) :
    IssuesAs s c i z u (channelWait s.seq.nextId (plainEntry s c z)) := by
  obtain ⟨ctx, hs, ho⟩ := openPend_issuing c z false false .nothing 1 s
  refine issuesAs_issuing he hm hu (hs.then (channelWait s.seq.nextId)) (n := s.seq.nextId + 1) ?_
  rw [hf, ctxChannel, ho]
  exact ha _ _

theorem issuing_sound (hs : ChannelsSound s) (ctx : Table Ctx) (n : Nat) : ChannelsSound (issuing c s ctx n s) :=
  ⟨hs.chan, hs.slot, hs.target⟩

theorem noisy_beside (s : State) : Beside s (noisy s) := {}

theorem setSlot_beside {s u : State} (ch k : Nat) (f : Slot → Slot) (h : Beside s u) : Beside s (setSlot ch k f u) := h.trans {}
theorem setChan_beside {s u : State} (ch : Nat) (f : Channel → Channel) (h : Beside s u) : Beside s (setChan ch f u) := h.trans {}

end

/-! ### CRSV, CTAKE, CCMT, CFREE -/

section
variable {s : State} {c : Fin 16} {ch : BitVec 8} {st : Status} (hs : ChannelsSound s) (hp : (getCtx s c).pend = [])

/-- The place of a slot, as an instruction that is given one writes it: its index above its offset (R299). -/
def slotPlace (s : State) (ch k : Nat) : Word64 :=
  BitVec.ofNat 64 (32 * (chanOf s ch).base.toNat + k * (32 * (chanOf s ch).slotsz.toNat) + k * 2 ^ 32)

theorem slotPlace_eq (s : State) (ch k : Nat) : BitVec.ofNat 64 (slotOffset (chanOf s ch) k + k * 2 ^ 32) = slotPlace s ch k := by
  rw [slotPlace, slotOffset, Channel.first, Channel.slotBytes, Nat.mul_comm 32, Nat.mul_comm 32]

/-- The one register that a channel instruction writes. -/
theorem oneReg (d : BitVec 4) (v : Word64) : (([d.toNat].filter (· < 16)).map fun g => (g, v)) = [(d.toNat, v)] := by
  have small : d.toNat < 16 := d.isLt
  simp [small]

include hs hp

theorem crsv_off (d : BitVec 4) (k : Bool) (h : OffWith s ch.toNat st) : IssuesAs s c (.crsv c) (.crsv d k ch)
    (complete (Result.mk s.env.sc c s.seq.nextId (some st) [(d.toNat, 0)] []) (noisy s)) (plainEntry s c (.crsv d k ch)) :=
  channel_answers 0 0 hp rfl rfl rfl (noisy_beside s) (fun ctx n => doReserve_off (issuing_sound hs ctx n) _ k h) (oneReg d 0)

theorem ctake_off (d : BitVec 4) (k : Bool) (h : OffWith s ch.toNat st) : IssuesAs s c (.ctake c) (.ctake d k ch)
    (complete (Result.mk s.env.sc c s.seq.nextId (some st) [(d.toNat, 0)] []) (noisy s)) (plainEntry s c (.ctake d k ch)) :=
  channel_answers 0 0 hp rfl rfl rfl (noisy_beside s) (fun ctx n => doTake_off (issuing_sound hs ctx n) _ k h) (oneReg d 0)

section
variable (he : (chanOf s ch.toNat).en = true) (hm : (chanOf s ch.toNat).muz = false) (hw : ∀ w ∈ s.ken.waits, w.ch ≠ ch.toNat)
include he hm

include hw in
theorem crsv_answers (d : BitVec 4) (k : Bool) (h : Reservable s ch.toNat st) : IssuesAs s c (.crsv c) (.crsv d k ch)
    (complete (Result.mk s.env.sc c s.seq.nextId (some st) [(d.toNat, slotPlace s ch.toNat (chanOf s ch.toNat).pi)] [])
      (reserves (noisy s) ch.toNat (.ctx c 0))) (plainEntry s c (.crsv d k ch)) := by
  refine channel_answers (chanOf s ch.toNat).pi (slotOffset (chanOf s ch.toNat) (chanOf s ch.toNat).pi) hp rfl rfl rfl
    (setChan_beside _ _ (setSlot_beside _ _ _ (noisy_beside s)))
    (fun ctx n => doReserve_answers (issuing_sound hs ctx n) he hm _ k hw h) ?_
  rw [← slotPlace_eq]
  generalize BitVec.ofNat 64 _ = place
  exact oneReg d place

include hw in
theorem ctake_answers (d : BitVec 4) (k : Bool) (hl : (chanOf s ch.toNat).litCnt = 0) (h : Takable s ch.toNat st) :
    IssuesAs s c (.ctake c) (.ctake d k ch)
      (complete (Result.mk s.env.sc c s.seq.nextId (some st) [(d.toNat, slotPlace s ch.toNat (chanOf s ch.toNat).ci)] [])
        (takes (noisy s) ch.toNat (.ctx c 0))) (plainEntry s c (.ctake d k ch)) := by
  refine channel_answers (chanOf s ch.toNat).ci (slotOffset (chanOf s ch.toNat) (chanOf s ch.toNat).ci) hp rfl rfl rfl
    (setChan_beside _ _ (setSlot_beside _ _ _ (noisy_beside s)))
    (fun ctx n => doTake_answers (issuing_sound hs ctx n) he hm _ k hw hl h) ?_
  rw [← slotPlace_eq]
  generalize BitVec.ofNat 64 _ = place
  exact oneReg d place

theorem crsv_full (d : BitVec 4) (h0 : (slotAt s ch.toNat (chanOf s ch.toNat).pi).state ≠ .empty)
    (h1 : (slotAt s ch.toNat (chanOf s ch.toNat).pi).state ≠ .poison) : IssuesAs s c (.crsv c) (.crsv d false ch)
    (complete (Result.mk s.env.sc c s.seq.nextId (some .slotFull) [(d.toNat, 0)] []) (noisy s)) (plainEntry s c (.crsv d false ch)) :=
  channel_answers 0 0 hp rfl rfl rfl (noisy_beside s)
    (fun ctx n => doReserve_blocks (issuing_sound hs ctx n) he hm (.ctx c s.seq.nextId) false h0 h1) (oneReg d 0)

theorem ctake_empty (d : BitVec 4) (hl : (chanOf s ch.toNat).litCnt = 0)
    (h0 : (slotAt s ch.toNat (chanOf s ch.toNat).ci).state ≠ .full)
    (h1 : (slotAt s ch.toNat (chanOf s ch.toNat).ci).state ≠ .poison) : IssuesAs s c (.ctake c) (.ctake d false ch)
    (complete (Result.mk s.env.sc c s.seq.nextId (some .empty) [(d.toNat, 0)] []) (noisy s)) (plainEntry s c (.ctake d false ch)) :=
  channel_answers 0 0 hp rfl rfl rfl (noisy_beside s)
    (fun ctx n => doTake_blocks (issuing_sound hs ctx n) he hm (.ctx c s.seq.nextId) false hl h0 h1) (oneReg d 0)

theorem ctake_push (d : BitVec 4) (k : Bool) (hl : (chanOf s ch.toNat).litCnt ≠ 0) : IssuesAs s c (.ctake c) (.ctake d k ch)
    (complete (Result.mk s.env.sc c s.seq.nextId (some .bounds) [(d.toNat, 0)] []) (noisy s)) (plainEntry s c (.ctake d k ch)) :=
  channel_answers 0 0 hp rfl rfl rfl (noisy_beside s) (fun ctx n => doTake_push (issuing_sound hs ctx n) he hm _ k hl) (oneReg d 0)

/-- The channels with one more waiting instruction. -/
def queuedFor (s : State) (ch : Nat) (take : Bool) (c id : Nat) : State :=
  { noisy s with ken := { s.ken with waits := s.ken.waits ++ [{ ch := ch, take := take, party := .ctx c id }] } }

omit hp in
theorem crsv_waits (d : BitVec 4) (h0 : (slotAt s ch.toNat (chanOf s ch.toNat).pi).state ≠ .empty)
    (h1 : (slotAt s ch.toNat (chanOf s ch.toNat).pi).state ≠ .poison) : IssuesAs s c (.crsv c) (.crsv d true ch)
    (queuedFor s ch.toNat false c s.seq.nextId) (channelWait s.seq.nextId (plainEntry s c (.crsv d true ch))) :=
  channel_waits rfl rfl rfl {} fun ctx n => doReserve_blocks (issuing_sound hs ctx n) he hm (.ctx c s.seq.nextId) true h0 h1

omit hp in
theorem ctake_waits (d : BitVec 4) (hl : (chanOf s ch.toNat).litCnt = 0)
    (h0 : (slotAt s ch.toNat (chanOf s ch.toNat).ci).state ≠ .full)
    (h1 : (slotAt s ch.toNat (chanOf s ch.toNat).ci).state ≠ .poison) : IssuesAs s c (.ctake c) (.ctake d true ch)
    (queuedFor s ch.toNat true c s.seq.nextId) (channelWait s.seq.nextId (plainEntry s c (.ctake d true ch))) :=
  channel_waits rfl rfl rfl {} fun ctx n => doTake_blocks (issuing_sound hs ctx n) he hm (.ctx c s.seq.nextId) true hl h0 h1

end
omit hs hp

/-- The meaning of CCMT. -/
def ccmts (c : Nat) (a : BitVec 4) (ch : BitVec 8) (s : State) : State :=
  let slot := ((getCtx s c).reg a.toNat).toNat
  if slot < 65536 then ctxChannel c (.ccmt a ch) (doCommit ch.toNat slot (getCtx s c).cls) s else placeSts c .bounds s

/-- The meaning of CFREE. -/
def cfrees (c : Nat) (a : BitVec 4) (ch : BitVec 8) (s : State) : State :=
  let slot := ((getCtx s c).reg a.toNat).toNat
  if slot < 65536 then ctxChannel c (.cfree a ch) (doFree ch.toNat slot) s else placeSts c .bounds s

variable {a : BitVec 4} {m : Nat} (ha : ((getCtx s c).reg a.toNat).toNat = m)
include ha

theorem ccmt_far (hn : 65536 ≤ m) : IssuesAs s c (.ccmt c) (.ccmt a ch) s ((fetched (getCtx s c)).setSts 4 s.seq.nextId) := by
  refine issuesAs_of_placeSts (f := ccmts c a ch) (st := .bounds) rfl rfl ?_
  rw [ccmts, own_reg rfl, ha]
  exact if_neg (Nat.not_lt.mpr hn)

theorem cfree_far (hn : 65536 ≤ m) : IssuesAs s c (.cfree c) (.cfree a ch) s ((fetched (getCtx s c)).setSts 4 s.seq.nextId) := by
  refine issuesAs_of_placeSts (f := cfrees c a ch) (st := .bounds) rfl rfl ?_
  rw [cfrees, own_reg rfl, ha]
  exact if_neg (Nat.not_lt.mpr hn)

variable (hn : m < 65536)
include hn

theorem ccmts_eq : ccmts c a ch (beginIssue c s)
    = ctxChannel c (.ccmt a ch) (doCommit ch.toNat m (getCtx s c).cls) (beginIssue c s) := by
  have cls : (getCtx (beginIssue c s) c).cls = (getCtx s c).cls := by
    rw [getCtx_beginIssue_self]
    rfl
  rw [ccmts, own_reg rfl, ha, cls]
  exact if_pos hn

theorem cfrees_eq : cfrees c a ch (beginIssue c s) = ctxChannel c (.cfree a ch) (doFree ch.toNat m) (beginIssue c s) := by
  rw [cfrees, own_reg rfl, ha]
  exact if_pos hn

include hs hp

theorem ccmt_off (h : OffWith s ch.toNat st) : IssuesAs s c (.ccmt c) (.ccmt a ch)
    (complete (Result.mk s.env.sc c s.seq.nextId (some st) [] []) (noisy s)) (plainEntry s c (.ccmt a ch)) :=
  channel_answers 0 0 hp rfl rfl (ccmts_eq ha hn) (noisy_beside s)
    (fun ctx n => doCommit_off (issuing_sound hs ctx n) ch.toNat m _ (.ctx c s.seq.nextId) h) rfl

theorem cfree_off (h : OffWith s ch.toNat st) : IssuesAs s c (.cfree c) (.cfree a ch)
    (complete (Result.mk s.env.sc c s.seq.nextId (some st) [] []) (noisy s)) (plainEntry s c (.cfree a ch)) :=
  channel_answers 0 0 hp rfl rfl (cfrees_eq ha hn) (noisy_beside s)
    (fun ctx n => doFree_off (issuing_sound hs ctx n) ch.toNat m (.ctx c s.seq.nextId) h) rfl

variable (he : (chanOf s ch.toNat).en = true) (hm : (chanOf s ch.toNat).muz = false) (hw : ∀ w ∈ s.ken.waits, w.ch ≠ ch.toNat)
include he hm

theorem ccmt_bounds (hh : ¬ Holds s ch.toNat m (.ctx c 0) .resv) : IssuesAs s c (.ccmt c) (.ccmt a ch)
    (complete (Result.mk s.env.sc c s.seq.nextId (some .bounds) [] []) (noisy s)) (plainEntry s c (.ccmt a ch)) :=
  channel_answers 0 0 hp rfl rfl (ccmts_eq ha hn) (noisy_beside s)
    (fun ctx n => doCommit_bounds (issuing_sound hs ctx n) ch.toNat m _ (.ctx c s.seq.nextId) he hm hh) rfl

theorem cfree_bounds (hh : (chanOf s ch.toNat).litCnt ≠ 0 ∨ ¬ Holds s ch.toNat m (.ctx c 0) .taken) :
    IssuesAs s c (.cfree c) (.cfree a ch)
      (complete (Result.mk s.env.sc c s.seq.nextId (some .bounds) [] []) (noisy s)) (plainEntry s c (.cfree a ch)) :=
  channel_answers 0 0 hp rfl rfl (cfrees_eq ha hn) (noisy_beside s)
    (fun ctx n => doFree_bounds (issuing_sound hs ctx n) ch.toNat m (.ctx c s.seq.nextId) he hm hh) rfl

include hw in
theorem ccmt_commits (hh : Holds s ch.toNat m (.ctx c 0) .resv) (hl : (chanOf s ch.toNat).litCnt = 0) :
    IssuesAs s c (.ccmt c) (.ccmt a ch)
      (complete (Result.mk s.env.sc c s.seq.nextId (some .ok) [] []) (setSlot ch.toNat m (committed s.env.sc) (noisy s)))
      (plainEntry s c (.ccmt a ch)) :=
  channel_answers 0 0 hp rfl rfl (ccmts_eq ha hn) (setSlot_beside _ _ _ (noisy_beside s)) (fun ctx n =>
    (doCommit_pull (issuing_sound hs ctx n) ch.toNat m _ (.ctx c s.seq.nextId) he hm hh hl).trans (afterChange_idle hw)) rfl

include hw in
theorem cfree_frees (hh : Holds s ch.toNat m (.ctx c 0) .taken) (hl : (chanOf s ch.toNat).litCnt = 0) :
    IssuesAs s c (.cfree c) (.cfree a ch)
      (complete (Result.mk s.env.sc c s.seq.nextId (some .ok) [] []) (setSlot ch.toNat m (fun _ => default) (noisy s)))
      (plainEntry s c (.cfree a ch)) :=
  channel_answers 0 0 hp rfl rfl (cfrees_eq ha hn) (setSlot_beside _ _ _ (noisy_beside s)) (fun ctx n =>
    (doFree_frees (issuing_sound hs ctx n) ch.toNat m (.ctx c s.seq.nextId) he hm hh hl).trans (afterChange_idle hw)) rfl

omit hp in
theorem ccmt_waits (hh : Holds s ch.toNat m (.ctx c 0) .resv) (hl : (chanOf s ch.toNat).litCnt ≠ 0) :
    IssuesAs s c (.ccmt c) (.ccmt a ch)
      (setSlot ch.toNat m (fun k => { committed s.env.sc k with commit := some (.ctx c s.seq.nextId, (getCtx s c).cls) }) (noisy s))
      (channelWait s.seq.nextId (plainEntry s c (.ccmt a ch))) :=
  channel_waits rfl rfl (ccmts_eq ha hn) (setSlot_beside _ _ _ (noisy_beside s)) fun ctx n =>
    doCommit_push (issuing_sound hs ctx n) ch.toNat m _ (.ctx c s.seq.nextId) he hm hh hl

end

end Sys2Proof.Proofs
end

section
/-! SUPPORT. Instructions that use another unit, beside channels (10_zellek_instruction_set R295, R296, R305, R306, R313): packs and
contributions, moves, atomics and calls. -/

namespace Sys2Proof.Proofs

open Sys2Proof.Machine Sys2Proof.Safety Sys2Proof.Laws

set_option Elab.async false

/-- The context of an instruction whose entry gathers words for a unit. -/
def gathering (s : State) (c : Nat) (z : Zellek) (long store : Bool) (g : Gather) (n : Nat) : Ctx :=
  Safety.opened (fetched (getCtx s c)) (entryOf z s.seq.nextId long store g n)

section
variable {s u : State} {c : Fin 16} {i : Instr} {z : Zellek} {meaning : Zellek → Option (State → State)} {f : State → State}

/-- A meaning that opens an entry and then has an effect that an issue does not touch. -/
theorem issuesAs_opening {long store : Bool} {g : Gather} {n : Nat} (he : exec i s = issue c meaning s) (hm : meaning z = some f)
    (hu : Beside s u)
    (hf : ∀ ctx, Sets c s (gathering s c z long store g n) ctx →
      openPend c z long store g n true (beginIssue c s) = (s.seq.nextId, issuing c s ctx (s.seq.nextId + 1) s) →
      f (beginIssue c s) = issuing c s ctx (s.seq.nextId + 1) u) :
    IssuesAs s c i z u (gathering s c z long store g n) := by
  obtain ⟨ctx, hs, ho⟩ := openPend_issuing c z long store g n s
  exact issuesAs_issuing he hm hu hs (hf ctx hs ho)

/-- What an instruction reads of the state after its fetch is what it was. -/
theorem beginIssue_reads (c : Nat) (s : State) : (beginIssue c s).env = s.env ∧ (beginIssue c s).ken = s.ken
    ∧ (beginIssue c s).cache = s.cache ∧ (beginIssue c s).red = s.red ∧ (beginIssue c s).det = s.det
    ∧ (beginIssue c s).saf = s.saf ∧ (beginIssue c s).atom = s.atom ∧ (beginIssue c s).out = s.out := by
  rw [beginIssue_eq]
  exact ⟨rfl, rfl, rfl, rfl, rfl, rfl, rfl, rfl⟩

theorem own_cls (c : Nat) (s : State) : (getCtx (beginIssue c s) c).cls = (getCtx s c).cls := by
  rw [getCtx_beginIssue_self]
  rfl

theorem plainKennel_begin (c : Nat) (s : State) (a b : Nat) : plainKennel (beginIssue c s) a b = plainKennel s a b := by
  obtain ⟨ctx, -, hb⟩ := beginIssue_issuing c s
  rw [hb]
  rfl

/-- A descriptor outside plain kennel memory is refused (R277, R279). -/
theorem readDescriptor_refuses {off n : Nat} {use : Handoff} {regs : List (Nat × Word64)} (he : exec i s = issue c meaning s)
    (hm : meaning z = some f) (hf : f (beginIssue c s) = readDescriptor c z off n use regs (beginIssue c s))
    (hk : plainKennel s off (off + 32 * n) = false) :
    IssuesAs s c i z (complete (Result.mk (s.env.sc + 17) c s.seq.nextId (some .bounds) regs []) s)
      (gathering s c z false false (.unit use) 1) := by
  refine issuesAs_opening he hm (complete_beside _ {}) fun ctx hs ho => ?_
  have sc : (beginIssue c s).env.sc = s.env.sc := congrArg Env.sc (beginIssue_reads c s).1
  rw [hf, readDescriptor, plainKennel_begin, hk, ho, sc]
  rfl

/-- The read of a descriptor. -/
def descriptorRead (s : State) (c off n : Nat) : Access :=
  readAccess (s.env.sc + 6) (getCtx s c).cls 2 true (kennelSecs off (32 * n))
    (.seqRead c s.seq.nextId ((List.range n).map fun k => (off / 32 % 2 + k, k)))

theorem readDescriptor_reads {off n : Nat} {use : Handoff} {regs : List (Nat × Word64)} (he : exec i s = issue c meaning s)
    (hm : meaning z = some f) (hf : f (beginIssue c s) = readDescriptor c z off n use regs (beginIssue c s))
    (hk : plainKennel s off (off + 32 * n) = true) :
    IssuesAs s c i z (enqueue (descriptorRead s c off n) s) (gathering s c z false false (.unit use) 1) := by
  refine issuesAs_opening he hm (enqueue_beside _ {}) fun ctx hs ho => ?_
  have sc : (beginIssue c s).env.sc = s.env.sc := congrArg Env.sc (beginIssue_reads c s).1
  rw [hf, readDescriptor, plainKennel_begin, hk, ho, sc, own_cls]
  rfl

end

/-! ### PARM and MOVE -/

section
variable {s : State} {c : Fin 16} {d a : BitVec 4} {off : Nat} (ha : ((getCtx s c).reg a.toNat).toNat = off)

/-- The seeds and step counters of the streams, as PARM hands them over (R213). -/
def seedsOf (s : State) : List (Word64 × BitVec 48) := (List.range 16).map fun k => ((getStream s k).seed, (getStream s k).step)

/-- The meaning of PARM. -/
def parms (c : Nat) (d a : BitVec 4) (s : State) : State :=
  let off := ((getCtx s c).reg a.toNat).toNat
  if 2 ^ 24 ≤ off ∨ off % 32 ≠ 0 then placeSts c .bounds (writeRegs c [(d.toNat, 16)] s)
  else readDescriptor c (.parm d a) off 1 (.arm d.toNat (getCtx s c).cls (seedsOf s)) [(d.toNat, 16)] s

/-- The meaning of MOVE. -/
def moves (c : Nat) (d a : BitVec 4) (s : State) : State :=
  let off := ((getCtx s c).reg a.toNat).toNat
  if 2 ^ 24 ≤ off ∨ off % 64 ≠ 0 then placeSts c .bounds (writeRegs c [(d.toNat, 8)] s)
  else readDescriptor c (.moveI d a) off 2 (.move d.toNat off (getCtx s c).cls) [(d.toNat, 8)] s

include ha

theorem parm_bounds (hb : 2 ^ 24 ≤ off ∨ off % 32 ≠ 0) : IssuesAs s c (.parm c) (.parm d a) s
    (((fetched (getCtx s c)).setReg d.toNat 16).setSts (statusCode .bounds) s.seq.nextId) := by
  refine issuesAs_of_ctxSts (f := parms c d a) (writeRegs c [(d.toNat, 16)] (beginIssue c s)) rfl rfl rfl
    (fun _ hd => getCtx_setCtx_begin _ s hd) ?_ ?_
  · exact (getCtx_setCtx_self _ _ _).trans (congrArg (Ctx.setReg _ _) (getCtx_beginIssue_self c s))
  · rw [parms, own_reg rfl, ha]
    exact if_pos hb

theorem moveI_bounds (hb : 2 ^ 24 ≤ off ∨ off % 64 ≠ 0) : IssuesAs s c (.moveI c) (.moveI d a) s
    (((fetched (getCtx s c)).setReg d.toNat 8).setSts (statusCode .bounds) s.seq.nextId) := by
  refine issuesAs_of_ctxSts (f := moves c d a) (writeRegs c [(d.toNat, 8)] (beginIssue c s)) rfl rfl rfl
    (fun _ hd => getCtx_setCtx_begin _ s hd) ?_ ?_
  · exact (getCtx_setCtx_self _ _ _).trans (congrArg (Ctx.setReg _ _) (getCtx_beginIssue_self c s))
  · rw [moves, own_reg rfl, ha]
    exact if_pos hb

theorem parms_eq (hb : ¬ (2 ^ 24 ≤ off ∨ off % 32 ≠ 0)) : parms c d a (beginIssue c s)
    = readDescriptor c (.parm d a) off 1 (.arm d.toNat (getCtx s c).cls (seedsOf s)) [(d.toNat, 16)] (beginIssue c s) := by
  have seeds : seedsOf (beginIssue c s) = seedsOf s := by
    obtain ⟨ctx, -, hb⟩ := beginIssue_issuing c s
    rw [hb]
    rfl
  rw [parms, own_reg rfl, ha, own_cls, seeds]
  exact if_neg hb

theorem moves_eq (hb : ¬ (2 ^ 24 ≤ off ∨ off % 64 ≠ 0)) : moves c d a (beginIssue c s)
    = readDescriptor c (.moveI d a) off 2 (.move d.toNat off (getCtx s c).cls) [(d.toNat, 8)] (beginIssue c s) := by
  rw [moves, own_reg rfl, ha, own_cls]
  exact if_neg hb

end

/-! ### The words of an arm (R189, R191) -/

theorem checkPacks_sound {s : State} (h : ∀ q ∈ s.red.packs, q.2.parityBad = false) : checkPacks s = s := by
  have none : (s.red.packs.filter fun p => p.2.parityBad) = [] := List.filter_eq_nil_iff.mpr fun q hq => by simp [h q hq]
  rw [checkPacks, none]
  exact ite_self _

theorem checkStream_sound {s : State} {k : Nat} (hd : (getStream s k).seedBad = false) (hp : (getStream s k).stepBad = false) :
    checkStream k s = s := by
  simp [checkStream, hd, hp]

section
variable {s : State} (h : ∀ q ∈ s.red.packs, q.2.parityBad = false) (w : CodeWord) (cls : Nat) (seeds : Nat → Word64 × BitVec 48)

/-- The pack of a descriptor word. -/
def armed (s : State) (w : CodeWord) (cls : Nat) (seeds : Nat → Word64 × BitVec 48) : Pack :=
  let k := (newPack w.data cls 0 0 s.red.nextOrder).stream
  newPack w.data cls (seeds k).1 (seeds k).2 s.red.nextOrder

/-- What an admitted descriptor arms (R189). -/
def armIn (p : Pack) (s : State) : Status × Option Nat × State :=
  if p.rnd && (getStream s p.stream).broken then (.poison, none, s)
  else match tfree s.red.packs 16 with
    | none => (.nackRetry, none, s)
    | some e => (.ok, some e, { s with red := { s.red with
        packs := tput s.red.packs e { p with armedAt := s.env.sc }, nextOrder := s.red.nextOrder + 1 } })

/-- A pack of the target and the epoch is armed. -/
def ArmTaken (s : State) (p : Pack) : Prop := ∃ q ∈ s.red.packs, q.2.target = p.target ∧ q.2.epoch = p.epoch

theorem armTaken_iff (s : State) (p : Pack) :
    (s.red.packs.any fun q => q.2.target == p.target && q.2.epoch == p.epoch) = true ↔ ArmTaken s p := by
  simp [ArmTaken]

include h

theorem armPack_muzzled (hz : redMuzzled s = true) : armPack w cls seeds s = (.muzzled, none, s) := by
  rw [armPack, checkPacks_sound h]
  exact if_pos hz

variable (hz : redMuzzled s = false)
include hz

theorem armPack_poison (hp : w.poison = true) : armPack w cls seeds s = (.poison, none, s) := by
  rw [armPack, checkPacks_sound h]
  exact (if_neg (by simp [hz])).trans (if_pos hp)

variable (hp : w.poison = false)
include hp

theorem armPack_collides (ht : ArmTaken s (armed s w cls seeds)) : armPack w cls seeds s = (.packCollision, none, s) := by
  rw [armPack, checkPacks_sound h]
  exact (if_neg (by simp [hz])).trans ((if_neg (by simp [hp])).trans (if_pos ((armTaken_iff _ _).mpr ht)))

variable (ht : ¬ ArmTaken s (armed s w cls seeds))
include ht

theorem armPack_bounds (ha : armAllowed s (armed s w cls seeds) = false) : armPack w cls seeds s = (.bounds, none, s) := by
  have ha' : (!armAllowed s (armed s w cls seeds)) = true := by rw [ha]; rfl
  rw [armPack, checkPacks_sound h]
  exact (if_neg (by simp [hz])).trans ((if_neg (by simp [hp])).trans ((if_neg (mt (armTaken_iff _ _).mp ht)).trans (if_pos ha')))

theorem armPack_allowed (ha : armAllowed s (armed s w cls seeds) = true)
    (hk : (armed s w cls seeds).rnd = true → (getStream s (armed s w cls seeds).stream).seedBad = false
      ∧ (getStream s (armed s w cls seeds).stream).stepBad = false) :
    armPack w cls seeds s = armIn (armed s w cls seeds) s := by
  have ha' : ¬ (!armAllowed s (armed s w cls seeds)) = true := by simp [ha]
  have checked : (if (armed s w cls seeds).rnd = true then checkStream (armed s w cls seeds).stream s else s) = s := by
    split
    · next hr =>
      obtain ⟨hd, hs⟩ := hk hr
      exact checkStream_sound hd hs
    · rfl
  rw [armPack, checkPacks_sound h]
  refine (if_neg (by simp [hz])).trans ((if_neg (by simp [hp])).trans ((if_neg (mt (armTaken_iff _ _).mp ht)).trans
    ((if_neg ha').trans ?_)))
  exact congrArg (armIn (armed s w cls seeds)) checked

end

/-! ### PCTB (R296) -/

section
variable {L : Type} {c : Nat} {s : State} {ctx : Table Ctx} {n : Nat}

/-- Effects that an issue does not touch, one after another. -/
theorem foldl_issuing (f : State → L → State) (hf : ∀ u x, f (issuing c s ctx n u) x = issuing c s ctx n (f u x)) (l : List L)
    (u : State) :
    l.foldl f (issuing c s ctx n u) = issuing c s ctx n (l.foldl f u) := by
  induction l generalizing u with
  | nil => rfl
  | cons x l ih => rw [List.foldl_cons, List.foldl_cons, hf, ih]

theorem foldl_beside (f : State → L → State) (hf : ∀ u x, Beside s u → Beside s (f u x)) (l : List L) {u : State} (h : Beside s u) :
    Beside s (l.foldl f u) := by
  induction l generalizing u with
  | nil => exact h
  | cons x l ih => exact ih (hf u x h)

/-- Accesses that are put in the queue one after another are ready by the sc of the first. -/
theorem foldl_enqueue (acc : Nat → L → Access) (l : List L) (u : State) :
    l.foldl (fun v x => enqueue (acc v.env.sc x) v) u = l.foldl (fun v x => enqueue (acc u.env.sc x) v) u := by
  have step (l : List L) (v : State) (h : v.env = u.env) :
      l.foldl (fun v x => enqueue (acc v.env.sc x) v) v = l.foldl (fun v x => enqueue (acc u.env.sc x) v) v := by
    induction l generalizing v with
    | nil => rfl
    | cons x l ih =>
      rw [List.foldl_cons, List.foldl_cons, h]
      exact ih _ h
  exact step l u rfl

end

section
variable {s : State} {c : Fin 16} {a b : BitVec 4} {p q : Word64} (hp : (getCtx s c).reg a.toNat = p) (hq : (getCtx s c).reg b.toNat = q)

/-- The words of a PCTB, in number. -/
def ctbCount (q : Word64) : Nat := (q.extractLsb' 32 3).toNat + 1

/-- A source of PCTB whose kennel offset is out of range or not aligned. -/
def badSrc (x : Ctx) : CtbSrc → Bool
  | .kennel k => decide (2 ^ 24 ≤ (x.reg k.toNat).toNat) || decide ((x.reg k.toNat).toNat % 32 ≠ 0)
  | .tile _ => false

/-- The words of a kennel source: its access for one line. -/
def ctbRead (c cls id sc : Nat) (l : LinePart) : Access :=
  readAccess (sc + 6) cls 2 true ((bitsOf (sectorsOf l.mask)).map fun i => kennelLoc (l.line.toNat * 256 + 64 * i) / 2)
    (.seqRead c id l.want)

/-- The operands of a PCTB are out of range (R296). -/
def BadContribution (x : Ctx) (p q : Word64) (src : CtbSrc) : Prop :=
  2 ^ 48 ≤ p.toNat ∨ p.toNat % 256 ≠ 0 ∨ q.extractLsb' 35 29 ≠ 0
    ∨ ∃ k, src = .kennel k ∧ (2 ^ 24 ≤ (x.reg k.toNat).toNat ∨ (x.reg k.toNat).toNat % 32 ≠ 0)

theorem badContribution_iff (x : Ctx) (p q : Word64) (src : CtbSrc) :
    (!addrOk p 256 || decide (fld q 35 29 ≠ 0) || badSrc x src) = true ↔ BadContribution x p q src := by
  have field : fld q 35 29 ≠ 0 ↔ q.extractLsb' 35 29 ≠ 0 := by
    have zero (x : BitVec 29) : x.toNat = 0 ↔ x = 0 := ⟨fun h => BitVec.eq_of_toNat_eq h, fun h => by rw [h]; rfl⟩
    rw [fld_eq]
    exact not_congr (zero _)
  have source : badSrc x src = true
      ↔ ∃ k, src = .kennel k ∧ (2 ^ 24 ≤ (x.reg k.toNat).toNat ∨ (x.reg k.toNat).toNat % 32 ≠ 0) := by
    cases src with
    | kennel k => simp [badSrc]
    | tile t => simp [badSrc]
  rw [Bool.or_eq_true, Bool.or_eq_true, source, decide_eq_true_iff, field, addrOk, Bool.not_eq_true', Bool.and_eq_false_iff,
    decide_eq_false_iff_not, decide_eq_false_iff_not, Nat.not_lt, BadContribution, or_assoc, or_assoc]

include hp hq

/-- The operands of a PCTB as its meaning reads them after the fetch. -/
theorem badContribution_begin {src : CtbSrc} :
    (!addrOk ((getCtx (beginIssue c s) c).reg a.toNat) 256 || decide (fld ((getCtx (beginIssue c s) c).reg b.toNat) 35 29 ≠ 0)
      || badSrc (getCtx (beginIssue c s) c) src) = true ↔ BadContribution (getCtx s c) p q src := by
  have source : badSrc (getCtx (beginIssue c s) c) src = badSrc (getCtx s c) src := by
    rw [getCtx_beginIssue_self]
    cases src <;> rfl
  rw [own_reg rfl, own_reg rfl, hp, hq, source]
  exact badContribution_iff _ _ _ _

theorem pctb_bounds {src : CtbSrc} (hb : BadContribution (getCtx s c) p q src) : IssuesAs s c (.pctb c) (.pctb a b src) s
    ((fetched (getCtx s c)).setSts (statusCode .bounds) s.seq.nextId) :=
  issuesAs_of_placeSts rfl rfl (if_pos ((badContribution_begin hp hq).mpr hb))

omit hp hq in
theorem sourceRefused_issuing (ctx : Table Ctx) (m off n : Nat) : sourceRefused (issuing c s ctx m s) off n = sourceRefused s off n := by
  have unended : kennelEnd (issuing c s ctx m s) = kennelEnd s := rfl
  have unstaged : inStage (issuing c s ctx m s) off (off + 32 * n) = inStage s off (off + 32 * n) := rfl
  have unread (offs : List Nat) : readRefused (issuing c s ctx m s) offs = readRefused s offs := rfl
  rw [sourceRefused, unended, unstaged, unread, sourceRefused]

/-- A contribution of words of a tile is on its way to the reduction unit at once. -/
theorem pctb_tile {t : BitVec 3} (hb : ¬ BadContribution (getCtx s c) p q (.tile t)) :
    IssuesAs s c (.pctb c) (.pctb a b (.tile t))
      (handOver c s.seq.nextId (.ctb p q (getCtx s c).cls) (tileData (getCtx s c) t.toNat (ctbCount q)) (s.env.sc + 2) s)
      (gathering s c (.pctb a b (.tile t)) false false .nothing 1) := by
  refine issuesAs_opening rfl rfl {} fun ctx hs ho => (if_neg (mt (badContribution_begin hp hq).mp hb)).trans ?_
  have sc : (beginIssue c s).env.sc = s.env.sc := congrArg Env.sc (beginIssue_reads c s).1
  have own : getCtx (beginIssue c s) c = fetched (getCtx s c) := getCtx_beginIssue_self c s
  have count : fld q 32 3 + 1 = ctbCount q := by rw [fld_eq, ctbCount]
  rw [own, reg_fetched, reg_fetched, hp, hq, count]
  generalize ctbCount q = n
  dsimp only
  rw [ho, sc]
  rfl

section
/-! The kernel must not evaluate `sourceRefused` on a variable (it would compare with a product by 2^20): it is given another name
before the meaning is unfolded. -/

variable {k : BitVec 4} {off n : Nat} (hb : ¬ BadContribution (getCtx s c) p q (.kennel k))
  (hk : ((getCtx s c).reg k.toNat).toNat = off) (hs : ChannelsSound s) (hn : ctbCount q = n)
include hb hk hs hn

theorem pctb_refused {st : Status} (hr : sourceRefused s off n = some st) :
    IssuesAs s c (.pctb c) (.pctb a b (.kennel k)) (complete (Result.mk (s.env.sc + 17) c s.seq.nextId (some st) [] []) s)
      (gathering s c (.pctb a b (.kennel k)) false false (.unit (.ctb p q (getCtx s c).cls))
        (lineParts off (List.range n)).length) := by
  refine issuesAs_opening rfl rfl (complete_beside _ {}) fun ctx _ ho =>
    (if_neg (mt (badContribution_begin hp hq).mp hb)).trans ?_
  have own : getCtx (beginIssue c s) c = fetched (getCtx s c) := getCtx_beginIssue_self c s
  have count : fld q 32 3 + 1 = n := by rw [fld_eq, ← hn, ctbCount]
  have cls : (fetched (getCtx s c)).cls = (getCtx s c).cls := rfl
  have same := sourceRefused_issuing (c := c) (s := s) ctx (s.seq.nextId + 1) off n
  obtain ⟨refused, named⟩ : ∃ refused, refused = sourceRefused := ⟨_, rfl⟩
  rw [← named] at same hr ⊢
  rw [own, reg_fetched, reg_fetched, hp, hq, count]
  dsimp only
  rw [reg_fetched, hk, cls, ho]
  dsimp only
  rw [checkSlots_sound (issuing_sound hs ctx (s.seq.nextId + 1)), same, hr]
  rfl

theorem pctb_reads (hr : sourceRefused s off n = none) :
    IssuesAs s c (.pctb c) (.pctb a b (.kennel k))
      ((lineParts off (List.range n)).foldl
        (fun u l => enqueue (ctbRead c (getCtx s c).cls s.seq.nextId s.env.sc l) u) s)
      (gathering s c (.pctb a b (.kennel k)) false false (.unit (.ctb p q (getCtx s c).cls))
        (lineParts off (List.range n)).length) := by
  refine issuesAs_opening rfl rfl (foldl_beside _ (fun _ _ h => enqueue_beside _ h) _ {}) fun ctx _ ho =>
    (if_neg (mt (badContribution_begin hp hq).mp hb)).trans ?_
  have own : getCtx (beginIssue c s) c = fetched (getCtx s c) := getCtx_beginIssue_self c s
  have count : fld q 32 3 + 1 = n := by rw [fld_eq, ← hn, ctbCount]
  have cls : (fetched (getCtx s c)).cls = (getCtx s c).cls := rfl
  have same := sourceRefused_issuing (c := c) (s := s) ctx (s.seq.nextId + 1) off n
  obtain ⟨refused, named⟩ : ∃ refused, refused = sourceRefused := ⟨_, rfl⟩
  rw [← named] at same hr ⊢
  rw [own, reg_fetched, reg_fetched, hp, hq, count]
  dsimp only
  rw [reg_fetched, hk, cls, ho]
  dsimp only
  rw [checkSlots_sound (issuing_sound hs ctx (s.seq.nextId + 1)), same, hr]
  exact (foldl_enqueue (ctbRead c (getCtx s c).cls s.seq.nextId) _ _).trans (foldl_issuing _ (fun _ _ => rfl) _ _)

end
end

end Sys2Proof.Proofs
end

section
/-! SUPPORT. Descriptors that have come, atomics and calls of contexts (10_zellek_instruction_set R295, R305, R306, R313). -/

namespace Sys2Proof.Proofs

open Sys2Proof.Machine Sys2Proof.Safety Sys2Proof.Laws

set_option Elab.async false

/-! ### A descriptor has come -/

theorem takeArm_answers {h : Contrib} {gd cls : Nat} {seeds : List (Word64 × BitVec 48)} {s t : State} {st : Status} {e : Option Nat}
    (ha : armPack (h.words.getD 0 badWord) cls (fun k => seeds.getD k (0, 0)) s = (st, e, t)) :
    takeArm h gd cls seeds s = complete (Result.mk s.env.sc h.ctx h.id (some st) [(gd, BitVec.ofNat 64 (e.getD 16))] []) t := by
  rw [takeArm, ha]

theorem takeMove_answers {h : Contrib} {gd off cls : Nat} {lo hi : CodeWord} {s t : State} {st : Status} {e : Option Nat}
    (hw : h.words = [lo, hi]) (hl : lo.poison = false) (hh : hi.poison = false)
    (ha : acceptMove (moveOf (hi.data ++ lo.data) off false cls (some (ctxHolder h.ctx))) s = (st, e, t)) :
    takeMove h gd off cls s = complete (Result.mk s.env.sc h.ctx h.id (some st) [(gd, BitVec.ofNat 64 (e.getD 8))] []) t := by
  have clean : ¬ (h.words.any fun w => w.poison) = true := by simp [hw, hl, hh]
  have low : h.words.getD 0 default = lo := by rw [hw]; rfl
  have high : h.words.getD 1 default = hi := by rw [hw]; rfl
  simp only [takeMove, low, high, if_neg clean, ha]

theorem takeMove_poison {h : Contrib} {lo hi : CodeWord} (hw : h.words = [lo, hi]) (gd off cls : Nat) (s : State)
    (hp : lo.poison = true ∨ hi.poison = true) :
    takeMove h gd off cls s = complete (Result.mk s.env.sc h.ctx h.id (some .poison) [(gd, BitVec.ofNat 64 8)] []) s := by
  have poisoned : (h.words.any fun w => w.poison) = true := by simpa [hw] using hp
  simp only [takeMove, if_pos poisoned]
  rfl

theorem muzzled_iff (s : State) (e : Nat) : engineMuzzled s (engineOf s e) = true ↔ (engineOf s e).muz = true ∨ s.saf.fatal = true := by
  rw [engineMuzzled, Bool.or_eq_true]

/-! ### Atomics (R306) -/

theorem issues_awake {s : State} {c : Nat} {z : Zellek} (h : Issues s c z) : s.saf.fatal = false := by
  have may := h.may
  simp only [mayIssue, seqMuzzled, Bool.and_eq_true, Bool.not_eq_true', Bool.or_eq_false_iff] at may
  exact may.1.1.1.1.1.2

theorem kennelRefused_issuing (c : Nat) (s : State) (ctx : Table Ctx) (n off35 : Nat) (holder : BitVec 14) (isWrite : Bool)
    (cw : BitVec 8) :
    kennelRefused (issuing c s ctx n s) off35 holder isWrite cw = kennelRefused s off35 holder isWrite cw := by
  have ended : kennelOk (issuing c s ctx n s) off35 = kennelOk s off35 := rfl
  have staged (o : Nat) : inStage (issuing c s ctx n s) o (o + 32) = inStage s o (o + 32) := rfl
  have writes (offs : List Nat) : writeRefused (issuing c s ctx n s) (some holder) offs = writeRefused s (some holder) offs := rfl
  have reads (offs : List Nat) : readRefused (issuing c s ctx n s) offs = readRefused s offs := rfl
  simp only [kennelRefused, ended, staged, writes, reads]

theorem kennelLine_issuing (c : Nat) (s : State) (ctx : Table Ctx) (n : Nat) (line : LineAddr) :
    kennelLine (issuing c s ctx n s) line = kennelLine s line := by
  rw [kennelLine, kennelLine]
  rfl

theorem ownKennel_issuing (c : Nat) (s : State) (ctx : Table Ctx) (n : Nat) (line : LineAddr) :
    ownKennel (issuing c s ctx n s) line = ownKennel s line := by
  have slice : (issuing c s ctx n s).env.idSlice = s.env.idSlice := rfl
  rw [ownKennel, kennelLine_issuing, slice, ownKennel]

section
variable {s : State} (hs : ChannelsSound s) {off35 : Nat} {who : AtomParty} {holder : BitVec 14} {op : AtomOp} {opnd cmp : Code}
  {cls : Nat} {refuse : Status → State → State}
include hs

theorem kennelAtom_refused {st : Status} (hr : kennelRefused s off35 holder true (maskOf 8 [op.cw.toNat]) = some st) :
    kennelAtom off35 who holder op opnd cmp cls refuse s = refuse st s := by
  simp only [kennelAtom, checkedSlots_sound hs, hr]

theorem kennelAtom_ctx {c id gd : Nat} (hr : kennelRefused s off35 holder true (maskOf 8 [op.cw.toNat]) = none) :
    kennelAtom off35 (.ctx c id gd) holder op opnd cmp cls refuse s
      = enqueue (readAccess (s.env.sc + 6) cls 2 true [kennelLoc (off35 % 2 ^ 24 + 32 * op.cw.toNat) / 2]
        (.atomRead (.ctx c id gd) op opnd cmp false)) s := by
  simp only [kennelAtom, checkedSlots_sound hs, hr]

end

section
variable {aop a : BitVec 4} {w64 fetch : Bool} {g p q : BitVec 2} {lmask : BitVec 8}

/-- An ATOM whose fields are out of range (R306, Table 8.1). -/
def BadAtom (aop : BitVec 4) (w64 : Bool) (lmask : BitVec 8) (e : Word64) : Prop :=
  2 ^ 48 ≤ e.toNat ∨ e.toNat % 32 ≠ 0 ∨ 9 < aop.toNat ∨ lmask = 0 ∨ (w64 = true ∧ 16 ≤ lmask.toNat)

theorem badAtom_iff (e : Word64) : (!addrOk e 32 || !atomValid (atomFields aop w64 fetch e lmask)) = true ↔ BadAtom aop w64 lmask e := by
  have misplaced : (!addrOk e 32) = true ↔ 2 ^ 48 ≤ e.toNat ∨ e.toNat % 32 ≠ 0 := by
    rw [addrOk, Bool.not_eq_true', Bool.and_eq_false_iff, decide_eq_false_iff_not, decide_eq_false_iff_not, Nat.not_lt]
  have invalid : (!atomValid (atomFields aop w64 fetch e lmask)) = true
      ↔ 9 < aop.toNat ∨ lmask = 0 ∨ (w64 = true ∧ 16 ≤ lmask.toNat) := by
    rw [atomValid, Bool.not_eq_true', Bool.and_eq_false_iff, Bool.and_eq_false_iff, decide_eq_false_iff_not,
      decide_eq_false_iff_not, not_not, Nat.not_le, Bool.not_eq_false', Bool.and_eq_true, decide_eq_true_iff, or_assoc]
    rfl
  rw [Bool.or_eq_true, misplaced, invalid, or_assoc, BadAtom]

theorem atomFields_eq (e : Word64) : atomFields aop w64 fetch e lmask
    = { aop := aop, w64 := w64, fetch := fetch, cw := BitVec.ofNat 3 (e.toNat / 32 % 8), lmask := lmask } := by
  have place : e.extractLsb' 5 3 = BitVec.ofNat 3 (e.toNat / 32 % 8) :=
    BitVec.eq_of_toNat_eq (by simp [BitVec.extractLsb'_toNat, Nat.shiftRight_eq_div_pow])
  rw [atomFields, place]

/-- The meaning of ATOM. -/
def atoms (c : Nat) (aop : BitVec 4) (w64 fetch : Bool) (g : BitVec 2) (a : BitVec 4) (p q : BitVec 2) (lmask : BitVec 8)
    (s : State) : State :=
  let k := getCtx s c
  let e := k.reg a.toNat
  let op := atomFields aop w64 fetch e lmask
  if !addrOk e 32 || !atomValid op then placeSts c .bounds s
  else
    let n := openPend c (.atom aop w64 fetch g a p q lmask) (ownKennel s (cwLine e.toNat 0)).isNone true .nothing 1 true s
    ctxAtom c n.1 (4 * g.toNat) op e (k.group p) (k.group q) n.2

variable {s : State} {c : Fin 16} {e : Word64} (he : (getCtx s c).reg a.toNat = e)

/-- The operation of an ATOM. -/
def atomOp (aop : BitVec 4) (w64 fetch : Bool) (e : Word64) (lmask : BitVec 8) : AtomOp :=
  { aop := aop, w64 := w64, fetch := fetch, cw := BitVec.ofNat 3 (e.toNat / 32 % 8), lmask := lmask }

include he

theorem atom_bounds (hb : BadAtom aop w64 lmask e) : IssuesAs s c (.atom c) (.atom aop w64 fetch g a p q lmask) s
    ((fetched (getCtx s c)).setSts (statusCode .bounds) s.seq.nextId) := by
  refine issuesAs_of_placeSts (f := atoms c aop w64 fetch g a p q lmask) rfl rfl ?_
  rw [atoms, own_reg he]
  exact if_pos ((badAtom_iff e).mpr hb)

variable (hb : ¬ BadAtom aop w64 lmask e)
include hb

/-- An ATOM in range, as an effect of the context on the state after its entry was opened. -/
theorem issuesAs_atom {u : State} {y : Ctx} (hu : Beside s u)
    (hy : y = gathering s c (.atom aop w64 fetch g a p q lmask) (ownKennel s (cwLine e.toNat 0)).isNone true .nothing 1)
    (hf : ∀ ctx, Sets c s y ctx → ctxAtom c s.seq.nextId (4 * g.toNat) (atomOp aop w64 fetch e lmask) e ((getCtx s c).group p)
      ((getCtx s c).group q) (issuing c s ctx (s.seq.nextId + 1) s) = issuing c s ctx (s.seq.nextId + 1) u) :
    IssuesAs s c (.atom c) (.atom aop w64 fetch g a p q lmask) u y := by
  subst hy
  refine issuesAs_opening (f := atoms c aop w64 fetch g a p q lmask) rfl rfl hu fun ctx hs ho => ?_
  have groups (r : BitVec 2) : (getCtx (beginIssue c s) c).group r = (getCtx s c).group r := by
    rw [getCtx_beginIssue_self]
    rfl
  have window : ownKennel (beginIssue c s) (cwLine e.toNat 0) = ownKennel s (cwLine e.toNat 0) := by
    obtain ⟨ctx, -, hb⟩ := beginIssue_issuing c s
    rw [hb, ownKennel_issuing]
  rw [atoms, own_reg he, groups, groups]
  refine (if_neg (mt (badAtom_iff e).mp hb)).trans ?_
  rw [window, ho, atomFields_eq]
  exact hf ctx hs

theorem atom_sends (ho : ownKennel s (cwLine e.toNat 0) = none) : IssuesAs s c (.atom c) (.atom aop w64 fetch g a p q lmask)
    (originate (some (.atom c s.seq.nextId (4 * g.toNat) (fetch || aop == 8 || aop == 9)))
      (ctxRequest s c 0xB (cwLine e.toNat 0) (.atReq (atomOp aop w64 fetch e lmask))
        (plain ((getCtx s c).group p) :: if aop = 9 then [plain ((getCtx s c).group q)] else [])) s)
    (gathering s c (.atom aop w64 fetch g a p q lmask) true true .nothing 1) := by
  refine issuesAs_atom he hb (originate_beside _ _ {}) (by rw [ho]; rfl) fun ctx hs => ?_
  have request (body : Body) (data : List CodeWord) : ctxRequest (issuing c s ctx (s.seq.nextId + 1) s) c 0xB (cwLine e.toNat 0) body data
      = ctxRequest s c 0xB (cwLine e.toNat 0) body data := by
    rw [ctxRequest, getCtx_issuing hs]
    rfl
  rw [ctxAtom, ownKennel_issuing, ho]
  exact (congrArg (fun m => originate _ m _) (request _ _)).trans (originate_issuing c s ctx _ _ _ _)

section
variable {off35 : Nat} (ho : ownKennel s (cwLine e.toNat 0) = some off35)
include ho

theorem atom_refuses {st : Status} {u : State} (hu : Beside s u)
    (hf : ∀ ctx, s.saf.fatal = false → ctxAtom c s.seq.nextId (4 * g.toNat) (atomOp aop w64 fetch e lmask) e ((getCtx s c).group p)
      ((getCtx s c).group q) (issuing c s ctx (s.seq.nextId + 1) s)
      = completeSts (s.env.sc + 17) c s.seq.nextId st (issuing c s ctx (s.seq.nextId + 1) u)) :
    IssuesAs s c (.atom c) (.atom aop w64 fetch g a p q lmask) (complete (Result.mk (s.env.sc + 17) c s.seq.nextId (some st) [] []) u)
      (gathering s c (.atom aop w64 fetch g a p q lmask) false true .nothing 1) :=
  fun h => issuesAs_atom he hb (complete_beside _ hu) (by rw [ho]; rfl) (fun ctx _ => hf ctx (issues_awake h)) h

theorem atom_muzzled (hm : s.atom.muz = true) : IssuesAs s c (.atom c) (.atom aop w64 fetch g a p q lmask)
    (complete (Result.mk (s.env.sc + 17) c s.seq.nextId (some .muzzled) [] []) s)
    (gathering s c (.atom aop w64 fetch g a p q lmask) false true .nothing 1) := by
  refine atom_refuses he hb ho {} fun ctx _ => ?_
  have off : atomOff (issuing c s ctx (s.seq.nextId + 1) s) = true := by
    rw [atomOff, Bool.or_eq_true]
    exact .inl hm
  rw [ctxAtom, ownKennel_issuing, ho]
  exact if_pos off

variable (hm : s.atom.muz = false)
include hm

omit he hb ho in
theorem atomOff_issuing (hf : s.saf.fatal = false) (ctx : Table Ctx) (n : Nat) : ¬ atomOff (issuing c s ctx n s) = true := by
  have off : atomOff s = false := by rw [atomOff, hm, hf]; rfl
  exact Bool.eq_false_iff.mp off

theorem atom_parked (hd : draining s = true) : IssuesAs s c (.atom c) (.atom aop w64 fetch g a p q lmask)
    (complete (Result.mk (s.env.sc + 17) c s.seq.nextId (some .parked) [] []) s)
    (gathering s c (.atom aop w64 fetch g a p q lmask) false true .nothing 1) := by
  refine atom_refuses he hb ho {} fun ctx hf => ?_
  rw [ctxAtom, ownKennel_issuing, ho]
  exact (if_neg (atomOff_issuing hm hf ctx _)).trans (if_pos hd)

variable (hd : draining s = false) (hs : ChannelsSound s)
include hd

omit he hb in
/-- An atomic on a code word in this slice's window that the unit takes. -/
theorem ctxAtom_serves (hf : s.saf.fatal = false) {op : AtomOp} {y : Ctx} {ctx : Table Ctx} (hc : Sets c s y ctx)
    (id gd n : Nat) (opnd cmp : Code) : ctxAtom c id gd op e opnd cmp (issuing c s ctx n s)
      = kennelAtom off35 (.ctx c id gd) (ctxHolder c) op opnd cmp y.cls (fun st s =>
        completeSts (s.env.sc + 17) c id st (if st = .poison then countAtom .poison s else s)) (issuing c s ctx n s) := by
  have off : ¬ draining (issuing c s ctx n s) = true := Bool.eq_false_iff.mp hd
  rw [ctxAtom, ownKennel_issuing, ho, getCtx_issuing hc]
  exact (if_neg (atomOff_issuing hm hf ctx n)).trans (if_neg off)

include hs

theorem atom_refused {st : Status}
    (hr : kennelRefused s off35 (ctxHolder c) true (maskOf 8 [(atomOp aop w64 fetch e lmask).cw.toNat]) = some st) :
    IssuesAs s c (.atom c) (.atom aop w64 fetch g a p q lmask)
      (complete (Result.mk (s.env.sc + 17) c s.seq.nextId (some st) [] []) (if st = .poison then
        { s with atom := { s.atom with poisNow := min 65535 (s.atom.poisNow + 1) } } else s))
      (gathering s c (.atom aop w64 fetch g a p q lmask) false true .nothing 1) := by
  refine fun h => issuesAs_atom he hb (complete_beside _ ?_) (by rw [ho]; rfl) (fun ctx hc => ?_) h
  · split <;> exact {}
  · rw [ctxAtom_serves ho hm hd (issues_awake h) hc, kennelAtom_refused (issuing_sound hs ctx _)
      ((kennelRefused_issuing ..).trans hr)]
    rcases eq_or_ne st .poison with rfl | hn
    · rfl
    · rw [if_neg hn, if_neg hn]
      rfl

theorem atom_reads
    (hr : kennelRefused s off35 (ctxHolder c) true (maskOf 8 [(atomOp aop w64 fetch e lmask).cw.toNat]) = none) :
    IssuesAs s c (.atom c) (.atom aop w64 fetch g a p q lmask)
      (enqueue (readAccess (s.env.sc + 6) (getCtx s c).cls 2 true
          [kennelLoc (off35 % 2 ^ 24 + 32 * (atomOp aop w64 fetch e lmask).cw.toNat) / 2]
          (.atomRead (.ctx c s.seq.nextId (4 * g.toNat)) (atomOp aop w64 fetch e lmask) ((getCtx s c).group p)
            ((getCtx s c).group q) false)) s)
      (gathering s c (.atom aop w64 fetch g a p q lmask) false true .nothing 1) := by
  refine fun h => issuesAs_atom he hb (enqueue_beside _ {}) (by rw [ho]; rfl) (fun ctx hc => ?_) h
  rw [ctxAtom_serves ho hm hd (issues_awake h) hc, kennelAtom_ctx (issuing_sound hs ctx _) ((kennelRefused_issuing ..).trans hr)]
  rfl

end
end

/-! ### Calls (R313) -/

section
variable {s : State} {c : Fin 16} {g p : BitVec 2} {a : BitVec 4} {reply : Bool} {entry : BitVec 8} {slice : Nat}
  (ha : ((getCtx s c).reg a.toNat).toNat = slice)

/-- The meaning of CALL. -/
def calls (c : Nat) (g : BitVec 2) (a : BitVec 4) (p : BitVec 2) (reply : Bool) (entry : BitVec 8) (s : State) : State :=
  let k := getCtx s c
  let slice := (k.reg a.toNat).toNat
  if slice < 2048 then
    let n := openPend c (.call g a p reply entry) true false .nothing 1 true s
    originate (some (.call c n.1 (4 * g.toNat) reply))
      (ctxRequest s c 0xA (sliceLine s slice) (.call entry reply) [plain (k.group p)]) n.2
  else placeSts c .bounds s

include ha

theorem call_bounds (hn : 2048 ≤ slice) : IssuesAs s c (.call c) (.call g a p reply entry) s
    ((fetched (getCtx s c)).setSts (statusCode .bounds) s.seq.nextId) := by
  refine issuesAs_of_placeSts (f := calls c g a p reply entry) rfl rfl ?_
  rw [calls, own_reg rfl, ha]
  exact if_neg (by omega)

theorem call_sends (hn : slice < 2048) : IssuesAs s c (.call c) (.call g a p reply entry)
    (originate (some (.call c s.seq.nextId (4 * g.toNat) reply))
      (ctxRequest s c 0xA (BitVec.ofNat 40 (s.ken.base.toNat * 2 ^ 27 + slice * 2 ^ 16)) (.call entry reply)
        [plain ((getCtx s c).group p)]) s)
    (gathering s c (.call g a p reply entry) true false .nothing 1) := by
  refine issuesAs_opening (f := calls c g a p reply entry) rfl rfl (originate_beside _ _ {}) fun ctx hs ho => ?_
  have group : (getCtx (beginIssue c s) c).group p = (getCtx s c).group p := by
    rw [getCtx_beginIssue_self]
    rfl
  have place : sliceLine (beginIssue c s) slice = BitVec.ofNat 40 (s.ken.base.toNat * 2 ^ 27 + slice * 2 ^ 16) := by
    rw [sliceLine, (beginIssue_reads c s).2.1]
  have request (line : LineAddr) (body : Body) (data : List CodeWord) :
      ctxRequest (beginIssue c s) c 0xA line body data = ctxRequest s c 0xA line body data := by
    obtain ⟨ctx', -, hb⟩ := beginIssue_issuing c s
    rw [ctxRequest, own_cls, hb]
    rfl
  rw [calls, own_reg rfl, ha, group, place, request]
  refine (if_pos hn).trans ?_
  rw [ho]
  exact originate_issuing c s ctx _ _ _ _

end

/-! ### The obligation -/

theorem offWith_of {s : State} {ch : Nat} (h : (chanOf s ch).en = false ∨ (chanOf s ch).muz = true) :
    OffWith s ch (if (chanOf s ch).en = false then .bounds else .muzzled) := by
  cases he : (chanOf s ch).en with
  | false => exact .inl ⟨he, rfl⟩
  | true => exact .inr ⟨he, h.resolve_left (by simp [he]), rfl⟩

theorem channelOn {s : State} {ch : Nat} (h : ¬ ((chanOf s ch).en = false ∨ (chanOf s ch).muz = true)) :
    (chanOf s ch).en = true ∧ (chanOf s ch).muz = false := by
  rw [not_or, Bool.not_eq_false, Bool.not_eq_true] at h
  exact h

theorem reserves_eq (s : State) (ch : Nat) (p : ChParty) : reserves s ch p
    = setChan ch (fun h => { h with pi := slotAfter (chanOf s ch) h.pi }) (setSlot ch (chanOf s ch).pi (fun _ =>
      { (default : Slot) with state := .resv, holder := some p.holder, since := s.env.sc }) s) := by
  refine setChan_congr _ ch ?_
  rfl

theorem takes_eq (s : State) (ch : Nat) (p : ChParty) : takes s ch p
    = setChan ch (fun h => { h with ci := slotAfter (chanOf s ch) h.ci }) (setSlot ch (chanOf s ch).ci (fun k =>
      { k with state := .taken, holder := some p.holder, age := 0, since := s.env.sc }) s) := by
  refine setChan_congr _ ch ?_
  rfl

/-- Settles O60: the instructions that use another unit. -/
theorem zellekUnitsAnswer : Obligations.ZellekUnitsAnswer := by
  unfold Obligations.ZellekUnitsAnswer
  intro s c x id sc effect gives plain ends kept
  refine ⟨?parm, ?armed, ?pctb, ?channels, ?move, ?moved, ?atom, ?call⟩
  case parm =>
    intro d a i z off bad use y
    exact ⟨fun hb => parm_bounds rfl hb, fun hb hk => readDescriptor_refuses rfl rfl (parms_eq rfl hb) hk,
      fun hb hk => readDescriptor_reads rfl rfl (parms_eq rfl hb) hk⟩
  case armed =>
    intro h gd cls seeds hq w seed p k done muz taken
    have awake (hz : ¬ muz) : redMuzzled s = false := by
      rw [redMuzzled, Bool.or_eq_false_iff]
      exact ⟨Bool.eq_false_iff.mpr fun h => hz (.inl h), Bool.eq_false_iff.mpr fun h => hz (.inr h)⟩
    refine ⟨fun hz => takeArm_answers (armPack_muzzled hq _ _ _ ((Bool.or_eq_true _ _).mpr hz)),
      fun hz hp => takeArm_answers (armPack_poison hq _ _ _ (awake hz) hp), fun hz hp =>
      ⟨fun ht => takeArm_answers (armPack_collides hq _ _ _ (awake hz) hp ht),
        fun ht ha => takeArm_answers (armPack_bounds hq _ _ _ (awake hz) hp ht ha), fun ht ha hk => ?_⟩⟩
    have taken := armPack_allowed hq w cls (fun k => seeds.getD k (0, 0)) (awake hz) hp ht ha hk
    have whole (hr : p.rnd = true → k.broken = false) : ¬ (p.rnd && (getStream s p.stream).broken) = true := by
      rw [Bool.and_eq_true]
      exact fun ⟨h, hb⟩ => absurd (hr h) (by simp [k, hb])
    refine ⟨fun hr hb => ?_, fun hr hn => ?_, fun e hr hn => ?_⟩
    · exact takeArm_answers (taken.trans (if_pos ((Bool.and_eq_true _ _).mpr ⟨hr, hb⟩)))
    · have full : armIn p s = (.nackRetry, none, s) := (if_neg (whole hr)).trans (by rw [hn])
      exact takeArm_answers (taken.trans full)
    · have free : armIn p s = (.ok, some e, { s with red := { s.red with
          packs := tput s.red.packs e { p with armedAt := s.env.sc }, nextOrder := s.red.nextOrder + 1 } }) :=
        (if_neg (whole hr)).trans (by rw [hn])
      exact takeArm_answers (taken.trans free)
  case pctb =>
    intro a b src i z p q n bad use
    refine ⟨fun hb => pctb_bounds rfl rfl hb, ?_, ?_⟩
    · rintro t hb rfl
      exact pctb_tile rfl rfl hb
    · rintro k hb rfl hs off parts y
      exact ⟨fun st hr => pctb_refused rfl rfl hb rfl hs rfl hr, fun hr => pctb_reads rfl rfl hb rfl hs rfl hr⟩
  case channels =>
    intro ch hs hp hw h u after place slot inWait queued off st0
    refine ⟨fun d k => ⟨fun ho => crsv_off hs hp d k (offWith_of ho), fun st ho hr => ?_, fun ho h0 h1 => ?_⟩,
      fun d k => ⟨fun ho => ctake_off hs hp d k (offWith_of ho), fun ho hl => ?_, fun st ho hl ht => ?_, fun ho hl h0 h1 => ?_⟩,
      ?_⟩
    · obtain ⟨he, hm⟩ := channelOn ho
      have reserved := crsv_answers hs hp he hm hw d k hr
      rw [reserves_eq] at reserved
      exact reserved
    · obtain ⟨he, hm⟩ := channelOn ho
      constructor
      · rintro rfl
        exact crsv_full hs hp he hm d h0 h1
      · rintro rfl
        exact crsv_waits hs he hm d h0 h1
    · obtain ⟨he, hm⟩ := channelOn ho
      exact ctake_push hs hp he hm d k hl
    · obtain ⟨he, hm⟩ := channelOn ho
      have taken := ctake_answers hs hp he hm hw d k hl ht
      rw [takes_eq] at taken
      exact taken
    · obtain ⟨he, hm⟩ := channelOn ho
      constructor
      · rintro rfl
        exact ctake_empty hs hp he hm d hl h0 h1
      · rintro rfl
        exact ctake_waits hs he hm d hl h0 h1
    · intro a n mine cc cf
      refine ⟨fun hn => ⟨ccmt_far rfl hn, cfree_far rfl hn⟩,
        fun hn ho => ⟨ccmt_off hs hp rfl hn (offWith_of ho), cfree_off hs hp rfl hn (offWith_of ho)⟩, fun hn ho => ?_⟩
      obtain ⟨he, hm⟩ := channelOn ho
      exact ⟨fun hh => ccmt_bounds hs hp rfl hn he hm hh, fun hh hl => ccmt_commits hs hp rfl hn he hm hw hh hl,
        fun hh hl => ccmt_waits hs rfl hn he hm hh hl, fun hh => cfree_bounds hs hp rfl hn he hm hh,
        fun hl hh => cfree_frees hs hp rfl hn he hm hw hh hl⟩
  case move =>
    intro d a i z off bad y
    exact ⟨fun hb => moveI_bounds rfl hb, fun hb hk => readDescriptor_refuses rfl rfl (moves_eq rfl hb) hk,
      fun hb hk => readDescriptor_reads rfl rfl (moves_eq rfl hb) hk⟩
  case moved =>
    intro h gd off cls lo hi hw g done poisoned muz taken
    have clean (hp : ¬ poisoned) : lo.poison = false ∧ hi.poison = false := by
      rw [not_or, Bool.not_eq_true, Bool.not_eq_true] at hp
      exact hp
    refine ⟨takeMove_poison hw gd off cls s, fun hp hm => ?_, fun hp ⟨f, hf, hm⟩ => ?_⟩
    · obtain ⟨hl, hh⟩ := clean hp
      refine takeMove_answers hw hl hh (if_pos (List.all_eq_true.mpr fun e he => ?_))
      exact (muzzled_iff s e).mpr (hm e (List.mem_range.mp he))
    · obtain ⟨hl, hh⟩ := clean hp
      obtain ⟨hz, hfat⟩ := not_or.mp hm
      have hfatal : s.saf.fatal = false := Bool.eq_false_iff.mpr hfat
      have one : ∃ e, e < 8 ∧ (engineOf s e).muz = false := ⟨f, hf, Bool.eq_false_iff.mpr hz⟩
      have occupied {e : Nat} (h : taken e) : (engineOf s e).busy = true ∨ (engineOf s e).muz = true :=
        h.imp_right fun h => h.resolve_right hfat
      refine ⟨fun ha => takeMove_answers hw hl hh (acceptMove_bounds hfatal one ha),
        fun ha hz => takeMove_answers hw hl hh (acceptMove_empty hfatal one ha hz),
        fun ha hz hb => takeMove_answers hw hl hh (acceptMove_busy hfatal one ha hz
          (freeEngine_none hfatal fun e he => occupied (hb e he))), fun e ha hz he hfree hlow => ?_⟩
      obtain ⟨hb, hmz⟩ := not_or.mp hfree
      exact takeMove_answers hw hl hh (acceptMove_starts hfatal one ha hz (freeEngine_some hfatal he (Bool.eq_false_iff.mpr hb)
        (Bool.eq_false_iff.mpr fun h => hmz (.inl h)) fun f hf => occupied (hlow f hf)))
  case atom =>
    intro aop w64 fetch g a p q lmask i z e op line bad y
    refine ⟨fun hb => atom_bounds rfl hb, fun hb ho => atom_sends rfl hb ho, fun off35 hb ho hs => ?_⟩
    exact ⟨fun hm => atom_muzzled rfl hb ho hm, fun hm hd => atom_parked rfl hb ho hm hd,
      fun st hm hd hr => atom_refused rfl hb ho hm hd hs hr, fun hm hd hr => atom_reads rfl hb ho hm hd hs hr⟩
  case call =>
    intro g a p reply entry slice z
    exact ⟨fun hn => call_bounds rfl hn, fun hn => call_sends rfl hn⟩

end Sys2Proof.Proofs
end

section
/-! SUPPORT. Loads and stores of contexts: what a line of one does outside this slice's window and in it
(10_zellek_instruction_set R276, R279, R285, R286, R290). -/

namespace Sys2Proof.Proofs

open Sys2Proof.Machine Sys2Proof.Safety Sys2Proof.Laws

set_option Elab.async false

/-! ### Addresses and lines -/

/-- An address out of range or not aligned to k bytes (R275, R472). -/
def Wrong (e : Word64) (k : Nat) : Prop := 2 ^ 48 ≤ e.toNat ∨ e.toNat % k ≠ 0

theorem addrOk_iff (e : Word64) (k : Nat) : addrOk e k = true ↔ ¬ Wrong e k := by
  rw [addrOk, Bool.and_eq_true, decide_eq_true_iff, decide_eq_true_iff, Wrong, not_or, Nat.not_le, ne_eq, not_not]

theorem lineParts_ne_nil {a : Nat} {ks : List Nat} (h : ks ≠ []) : lineParts a ks ≠ [] := by
  obtain ⟨k, hk⟩ := List.exists_mem_of_ne_nil ks h
  exact List.ne_nil_of_mem (List.mem_map_of_mem (List.mem_dedup.mpr (List.mem_map_of_mem hk)))

/-- An instruction is long where its lines are not in this slice's window, and there is one. -/
theorem anyOutside {s : State} {parts : List LinePart} (hn : parts ≠ []) (h : ∀ p ∈ parts, ownKennel s p.line = none) :
    (parts.any fun p => (ownKennel s p.line).isNone) = true := by
  obtain ⟨p, hp⟩ := List.exists_mem_of_ne_nil parts hn
  exact List.any_eq_true.mpr ⟨p, hp, by rw [h p hp]; rfl⟩

/-! ### Effects beside an issue that the kennels do not see -/

/-- u differs from s beside what an issue changes or reads, and has its kennels. -/
structure Abreast (s u : State) : Prop where
  beside : Beside s u := by exact {}
  ken : u.ken = s.ken := by rfl

theorem originate_abreast {s u : State} (who : Option Origin) (m : OutMsg) (h : Abreast s u) : Abreast s (originate who m u) where
  beside := originate_beside who m h.beside
  ken := by
    have kept (v : State) : (emit m v).ken = v.ken := by rw [emit_rest]
    unfold originate
    rcases who with _ | w
    · exact (kept _).trans h.ken
    · exact (kept _).trans h.ken

section
variable {c : Nat} {s u : State} {ctx : Table Ctx} {y : Ctx} {n : Nat} (hs : Sets c s y ctx) (hy : y.cls = (getCtx s c).cls)

theorem Abreast.ownKennel (h : Abreast s u) (line : LineAddr) : ownKennel (issuing c s ctx n u) line = ownKennel s line := by
  have line : kennelLine (issuing c s ctx n u) line = kennelLine s line := by
    have ken : (issuing c s ctx n u).ken = s.ken := h.ken
    rw [kennelLine, kennelLine, ken]
  have slice : (issuing c s ctx n u).env.idSlice = s.env.idSlice := congrArg Env.idSlice h.beside.env
  rw [Machine.ownKennel, line, slice, Machine.ownKennel]

include hs hy in
/-- The request of a context during an issue is what it would be without. -/
theorem Abreast.ctxRequest (h : Abreast s u) (op : Nat) (line : LineAddr) (body : Body) (data : List CodeWord) :
    ctxRequest (issuing c s ctx n u) c op line body data = ctxRequest u c op line body data := by
  have cls : (getCtx u c).cls = y.cls := by rw [getCtx_congr h.beside.ctx, hy]
  rw [Machine.ctxRequest, getCtx_issuing hs, Machine.ctxRequest, cls]
  rfl

/-- Steps that act during an issue as others do without it, one after another. -/
theorem foldl_abreast {L : Type} {f g : State → L → State} {l : List L}
    (hf : ∀ u, Abreast s u → ∀ x ∈ l, f (issuing c s ctx n u) x = issuing c s ctx n (g u x) ∧ Abreast s (g u x)) (hu : Abreast s u) :
    l.foldl f (issuing c s ctx n u) = issuing c s ctx n (l.foldl g u) ∧ Abreast s (l.foldl g u) := by
  induction l generalizing u with
  | nil => exact ⟨rfl, hu⟩
  | cons x l ih =>
    obtain ⟨step, kept⟩ := hf u hu x List.mem_cons_self
    rw [List.foldl_cons, List.foldl_cons, step]
    exact ih (fun v hv x hx => hf v hv x (List.mem_cons_of_mem _ hx)) kept

end

/-! ### The check of a local access (R162, R173, R174, R436) -/

/-- The status that refuses a context's access of a line in this slice's window. -/
def refusalOf (s : State) (c off35 : Nat) (isWrite : Bool) (mask : BitVec 8) : Option Status :=
  if draining s = true then some .parked else kennelRefused s off35 (ctxHolder c) isWrite mask

theorem localCheck_sound {s : State} (hs : ChannelsSound s) (off35 c : Nat) (isWrite : Bool) (mask : BitVec 8) :
    localCheck off35 c isWrite mask s = (refusalOf s c off35 isWrite mask, s) := by
  simp only [localCheck, refusalOf, checkedSlots_sound hs]
  split <;> rfl

theorem refusalOf_issuing (c : Nat) (s : State) (ctx : Table Ctx) (n off35 : Nat) (isWrite : Bool) (mask : BitVec 8) :
    refusalOf (issuing c s ctx n s) c off35 isWrite mask = refusalOf s c off35 isWrite mask := by
  have drains : draining (issuing c s ctx n s) = draining s := rfl
  rw [refusalOf, drains, kennelRefused_issuing, refusalOf]

/-! ### Loads (R279, R285, R286) -/

/-- The request for one line of a load. -/
def readOf (c id : Nat) (u : State) (p : LinePart) : State :=
  originate (some (.seqRead c id p.want))
    (ctxRequest u c 3 p.line (.readReq (sectorsOf p.mask) (BitVec.ofNat 2 ((bitsOf (sectorsOf p.mask)).headD 0))) []) u

/-- A context with another state of one of its pending entries. -/
def closing (e : Pending) (x : Ctx) : Ctx := { x with pend := x.pend.map fun p => if p.id = e.id then e else p }

/-- The last part of an instruction's accesses has failed: the instruction completes with the status. -/
theorem partDone_fails {s : State} {c id : Nat} {p : Pending} {st : Status} (due : Nat) (hp : pendOf s c id = some p) (hl : p.left = 1)
    (hb : p.bad = none) (hg : ∀ use, p.gather ≠ .unit use) : partDone c id [] (some st) due s
      = complete (Result.mk due c id (some st) [] []) (setPend c id (fun _ => { p with left := 0, bad := some st }) s) := by
  have plainly (q : Pending) (u : State) (hq : q.bad = some st) (hg : ∀ use, q.gather ≠ .unit use) :
      gatherDone c id q due u = complete (Result.mk due c id (some st) [] []) u := by
    have failed : finishGather q = (st, [], []) := by rw [finishGather, hq]
    unfold gatherDone
    split
    · next h => exact absurd h (hg _)
    · next h => exact absurd h (hg _)
    · rw [failed]
  simp only [partDone, hp, hl, hb, List.foldl_nil, Nat.sub_self, if_true]
  exact plainly _ _ rfl hg

section
variable {s : State} {c : Fin 16} {i : Instr} {z : Zellek} {meaning : Zellek → Option (State → State)} {f : State → State}
  {a : Nat} {ks : List Nat} {gather : Gather} (he : exec i s = issue c meaning s) (hm : meaning z = some f)
  (hf : f (beginIssue c s) = startLoad c z a ks gather (beginIssue c s))
include he hm hf

/-- A load, once its entry is open. -/
theorem issuesAs_load {u : State} {y : Ctx} {long : Bool}
    (hl : ((lineParts a ks).any fun p => (ownKennel s p.line).isNone) = long) (hu : Beside s u)
    (ha : ∀ ctx, Sets c s (gathering s c z long false gather (lineParts a ks).length) ctx →
      ∃ ctx', Sets c s y ctx' ∧ (lineParts a ks).foldl (fun v p => loadPart c s.seq.nextId p v) (issuing c s ctx (s.seq.nextId + 1) s)
        = issuing c s ctx' (s.seq.nextId + 1) u) : IssuesAs s c i z u y := by
  obtain ⟨ctx, hs, ho⟩ := openPend_issuing c z long false gather (lineParts a ks).length s
  obtain ⟨ctx', hy, hp⟩ := ha ctx hs
  have window (line : LineAddr) : ownKennel (beginIssue c s) line = ownKennel s line := by
    obtain ⟨ctx, -, hb⟩ := beginIssue_issuing c s
    rw [hb, ownKennel_issuing]
  refine issuesAs_issuing he hm hu hy (n := s.seq.nextId + 1) (hf.trans ?_)
  simp only [startLoad, window, hl]
  rw [ho]
  exact hp

theorem load_sends (hk : ks ≠ []) (ho : ∀ p ∈ lineParts a ks, ownKennel s p.line = none) :
    IssuesAs s c i z ((lineParts a ks).foldl (readOf c s.seq.nextId) s) (gathering s c z true false gather (lineParts a ks).length) := by
  have one (ctx : Table Ctx) (hs : Sets c s (gathering s c z true false gather (lineParts a ks).length) ctx) (u : State)
      (hu : Abreast s u) (p : LinePart) (hp : p ∈ lineParts a ks) :
      loadPart c s.seq.nextId p (issuing c s ctx (s.seq.nextId + 1) u) = issuing c s ctx (s.seq.nextId + 1) (readOf c s.seq.nextId u p)
        ∧ Abreast s (readOf c s.seq.nextId u p) := by
    refine ⟨?_, originate_abreast _ _ hu⟩
    rw [loadPart, hu.ownKennel, ho p hp]
    exact (congrArg (fun m => originate _ m _) (hu.ctxRequest hs rfl _ _ _ _)).trans (originate_issuing c s ctx _ _ _ _)
  have kept : Abreast s ((lineParts a ks).foldl (readOf c s.seq.nextId) s) := by
    obtain ⟨ctx, hs, -⟩ := openPend_issuing c z true false gather (lineParts a ks).length s
    exact (foldl_abreast (f := fun v p => loadPart c s.seq.nextId p v) (one ctx hs) {}).2
  exact issuesAs_load he hm hf (anyOutside (lineParts_ne_nil hk) ho) kept.beside fun ctx hs =>
    ⟨ctx, hs, (foldl_abreast (f := fun v p => loadPart c s.seq.nextId p v) (one ctx hs) {}).1⟩

section
variable {p : LinePart} {off35 : Nat} (hp : lineParts a ks = [p]) (ho : ownKennel s p.line = some off35) (hc : ChannelsSound s)
include hp ho

omit he hm hf in
theorem anyOutside_own : ((lineParts a ks).any fun p => (ownKennel s p.line).isNone) = false := by
  rw [hp]
  simp [ho]

include hc

theorem load_reads (hr : refusalOf s c off35 false p.mask = none) : IssuesAs s c i z
    (enqueue (readAccess (s.env.sc + 6) (getCtx s c).cls 2 true
      ((bitsOf (sectorsOf p.mask)).map fun j => kennelLoc (off35 % 2 ^ 24 + 64 * j) / 2) (.seqRead c s.seq.nextId p.want)) s)
    (gathering s c z false false gather 1) := by
  refine issuesAs_load he hm hf (anyOutside_own hp ho) (enqueue_beside _ {}) fun ctx hs => ⟨ctx, ?_, ?_⟩
  · rw [hp] at hs
    exact hs
  · rw [hp, List.foldl_cons, List.foldl_nil, loadPart, ownKennel_issuing, ho]
    simp only [localCheck_sound (issuing_sound hc ctx _), refusalOf_issuing, hr, getCtx_issuing hs]
    rfl

/-- A part of a load that is refused ends it, where it is the only one. -/
theorem load_refused {st : Status} (hg : ∀ use, gather ≠ .unit use) (hn : (getCtx s c).pend = [])
    (hr : refusalOf s c off35 false p.mask = some st) : IssuesAs s c i z
      (complete (Result.mk (s.env.sc + 17) c s.seq.nextId (some st) [] []) s)
      (Safety.opened (fetched (getCtx s c)) { entryOf z s.seq.nextId false false gather 1 with left := 0, bad := some st }) := by
  refine issuesAs_load he hm hf (anyOutside_own hp ho) (complete_beside _ {}) fun ctx hs => ?_
  have pend : pendOf (issuing c s ctx (s.seq.nextId + 1) s) c s.seq.nextId = some (entryOf z s.seq.nextId false false gather 1) := by
    rw [pendOf, getCtx_issuing hs]
    simp [gathering, Safety.opened, fetched, hn, hp, entryOf]
  refine ⟨tmod Ctx.idle ctx c (closing { entryOf z s.seq.nextId false false gather 1 with left := 0, bad := some st }), ?_, ?_⟩
  · have closed := hs.then (closing { entryOf z s.seq.nextId false false gather 1 with left := 0, bad := some st })
    simpa [closing, gathering, Safety.opened, fetched, hn, hp, entryOf] using closed
  · rw [hp, List.foldl_cons, List.foldl_nil, loadPart, ownKennel_issuing, ho]
    simp only [localCheck_sound (issuing_sound hc ctx _), refusalOf_issuing, hr]
    rw [partDone_fails _ pend rfl rfl hg]
    rfl

end
end

/-! ### Stores (R279, R285, R286, R290) -/

theorem storeRefused_outside {s : State} {c : Nat} {parts : List LinePart} (h : ∀ p ∈ parts, ownKennel s p.line = none) :
    storeRefused c parts s = (none, s) := by
  induction parts with
  | nil => rfl
  | cons p parts ih =>
    rw [storeRefused, h p List.mem_cons_self]
    exact ih fun q hq => h q (List.mem_cons_of_mem _ hq)

theorem storeRefused_own {s : State} {c off35 : Nat} {p : LinePart} (h : ownKennel s p.line = some off35) (hc : ChannelsSound s) :
    storeRefused c [p] s = (refusalOf s c off35 true p.mask, s) := by
  simp only [storeRefused, h, localCheck_sound hc]
  cases refusalOf s c off35 true p.mask <;> rfl

/-- The request for one line of a store. -/
def writeOf (c id : Nat) (words : List Code) (u : State) (p : LinePart) : State :=
  originate (some (.seqStore c id))
    (if (p.words words).length = 8 then ctxRequest u c 4 p.line .none ((p.words words).map Prod.snd)
      else ctxRequest u c 5 p.line (.cwMask p.mask) ((p.words words).map Prod.snd)) u

section
variable {s : State} {c : Fin 16} {i : Instr} {z : Zellek} {meaning : Zellek → Option (State → State)} {f : State → State}
  {a : Nat} {words : List Code} {sat : Option (Nat × Nat)} {parts : List LinePart} (he : exec i s = issue c meaning s)
  (hm : meaning z = some f) (hf : f (beginIssue c s) = startStore c z a words sat (beginIssue c s))
  (hl : lineParts a (List.range words.length) = parts)
include he hm hf hl

/-- A store that no line refuses, once its entry is open. -/
theorem issuesAs_store {u : State} {long : Bool} (hr : storeRefused c parts (beginIssue c s) = (none, beginIssue c s))
    (ho : (parts.any fun p => (ownKennel s p.line).isNone) = long) (hu : Beside s u)
    (ha : ∀ ctx, Sets c s (gathering s c z long true (.store sat) parts.length) ctx →
      parts.foldl (fun v p => storePart c s.seq.nextId words p v) (issuing c s ctx (s.seq.nextId + 1) s)
        = issuing c s ctx (s.seq.nextId + 1) u) : IssuesAs s c i z u (gathering s c z long true (.store sat) parts.length) := by
  have window (line : LineAddr) : ownKennel (beginIssue c s) line = ownKennel s line := by
    obtain ⟨ctx, -, hb⟩ := beginIssue_issuing c s
    rw [hb, ownKennel_issuing]
  refine issuesAs_opening he hm hu fun ctx hs hopen => hf.trans ?_
  simp only [startStore, hl, window, hr, ho]
  rw [hopen]
  exact ha ctx hs

theorem store_sends (hw : words ≠ []) (ho : ∀ p ∈ parts, ownKennel s p.line = none) :
    IssuesAs s c i z (parts.foldl (writeOf c s.seq.nextId words) s) (gathering s c z true true (.store sat) parts.length) := by
  have one (ctx : Table Ctx) (hs : Sets c s (gathering s c z true true (.store sat) parts.length) ctx) (u : State)
      (hu : Abreast s u) (p : LinePart) (hp : p ∈ parts) :
      storePart c s.seq.nextId words p (issuing c s ctx (s.seq.nextId + 1) u)
          = issuing c s ctx (s.seq.nextId + 1) (writeOf c s.seq.nextId words u p)
        ∧ Abreast s (writeOf c s.seq.nextId words u p) := by
    refine ⟨?_, originate_abreast _ _ hu⟩
    rw [storePart, hu.ownKennel, ho p hp, writeOf]
    by_cases full : (p.words words).length = 8
    · simp only [full, decide_true, if_true, hu.ctxRequest hs rfl]
      exact originate_issuing c s ctx _ _ _ _
    · simp only [full, decide_false, if_false, Bool.false_eq_true, hu.ctxRequest hs rfl]
      exact originate_issuing c s ctx _ _ _ _
  have kept : Abreast s (parts.foldl (writeOf c s.seq.nextId words) s) := by
    obtain ⟨ctx, hs, -⟩ := openPend_issuing c z true true (.store sat) parts.length s
    exact (foldl_abreast (f := fun v p => storePart c s.seq.nextId words p v) (one ctx hs) {}).2
  have some_line : parts ≠ [] := by
    rw [← hl]
    exact lineParts_ne_nil (by simpa using hw)
  refine issuesAs_store he hm hf hl (storeRefused_outside fun p hp => ?_) (anyOutside some_line ho) kept.beside fun ctx hs =>
    (foldl_abreast (f := fun v p => storePart c s.seq.nextId words p v) (one ctx hs) {}).1
  obtain ⟨ctx, -, hb⟩ := beginIssue_issuing c s
  rw [hb, ownKennel_issuing]
  exact ho p hp

section
variable {p : LinePart} {off35 : Nat} (hp : parts = [p]) (ho : ownKennel s p.line = some off35) (hc : ChannelsSound s)
include hp ho hc

omit he hm hf hl in
theorem storeRefused_begin : storeRefused c parts (beginIssue c s) = (refusalOf s c off35 true p.mask, beginIssue c s) := by
  obtain ⟨ctx, -, hb⟩ := beginIssue_issuing c s
  rw [hp, hb, storeRefused_own ((ownKennel_issuing ..).trans ho) (issuing_sound hc ctx _), refusalOf_issuing]

theorem store_writes (hr : refusalOf s c off35 true p.mask = none) : IssuesAs s c i z
    (enqueue (writeAccess (s.env.sc + 6) (getCtx s c).cls 2 true
      ((p.words words).map fun w => (kennelLoc (off35 % 2 ^ 24 + 32 * w.1), w.2)) (.store c s.seq.nextId)) s)
    (gathering s c z false true (.store sat) 1) := by
  have one : parts.length = 1 := by rw [hp]; rfl
  have stored := issuesAs_store (long := false) he hm hf hl ((storeRefused_begin hp ho hc).trans (by rw [hr])) (by rw [hp]; simp [ho])
    (enqueue_beside (writeAccess (s.env.sc + 6) (getCtx s c).cls 2 true
      ((p.words words).map fun w => (kennelLoc (off35 % 2 ^ 24 + 32 * w.1), w.2)) (.store c s.seq.nextId)) {}) fun ctx hs => by
      rw [hp, List.foldl_cons, List.foldl_nil, storePart, ownKennel_issuing, ho]
      simp only [getCtx_issuing hs]
      rfl
  rwa [one] at stored

theorem store_refused {st : Status} (hr : refusalOf s c off35 true p.mask = some st) : IssuesAs s c i z
    (complete (Result.mk (s.env.sc + 14) c s.seq.nextId (some st) [] []) s) (gathering s c z false true (.store none) 1) := by
  refine issuesAs_opening he hm (complete_beside _ {}) fun ctx hs hopen => hf.trans ?_
  have sc : (beginIssue c s).env.sc = s.env.sc := congrArg Env.sc (beginIssue_reads c s).1
  simp only [startStore, hl, storeRefused_begin hp ho hc, hr]
  rw [hopen, sc]
  rfl

end
end

end Sys2Proof.Proofs
end

section
/-! SUPPORT. The words of tiles, the slots of the tile unit, and the obligation on loads, stores, prefetches and tile arithmetic
(07_reduction_arithmetic R221; 10_zellek_instruction_set R287 to R294). -/

namespace Sys2Proof.Proofs

open Sys2Proof.Machine Sys2Proof.Safety Sys2Proof.Laws

set_option Elab.async false

/-! ### An access of a tile names at least one code word -/

theorem tileWords_ne_nil (f : TileForm) {mask : BitVec 4} (h : mask ≠ 0) : tileWords f mask ≠ [] := by
  have named : bitsOf mask ≠ [] := fun hn => h (by
    refine BitVec.eq_of_getLsbD_eq fun i hi => ?_
    have out := List.filter_eq_nil_iff.mp hn i (List.mem_range.mpr hi)
    simpa [bit] using out)
  obtain ⟨b, hb⟩ := List.exists_mem_of_ne_nil _ named
  refine List.ne_nil_of_mem (a := f.stride * b / 32 + 0) (List.mem_dedup.mpr (List.mem_flatMap.mpr ⟨b, hb, ?_⟩))
  exact List.mem_map.mpr ⟨0, List.mem_range.mpr (Nat.succ_pos _), rfl⟩

theorem outputBytes_pos (fmt : Nat) : 0 < outputBytes fmt := by
  unfold outputBytes
  split
  · decide
  · split
    · decide
    · split <;> decide

theorem elementWords_ne_nil {z : Nat} {els : List Nat} (hz : 0 < z) (hn : els ≠ []) : elementWords z els ≠ [] := by
  have bytes : 0 < els.length * z := Nat.mul_pos (List.length_pos_iff.mpr hn) hz
  have count : 0 < ceilDiv (els.length * z) 32 := Nat.div_pos (by omega) (by decide)
  exact List.ne_nil_of_mem (List.mem_map_of_mem (List.mem_range.mpr count))

theorem tileElements_ne_nil (x : Ctx) (t fmt : Nat) (u : Nat → Option Nat) : (tileElements (x.tile t) fmt u).1 ≠ [] := by
  have lanes (b : TileBlock) : b.lanes ≠ [] := by
    unfold TileBlock.lanes
    split
    · simp [bxTo32, bxValues, bxOfImage]
    · simp [f32OfImage]
  obtain ⟨lane, hl⟩ := List.exists_mem_of_ne_nil _ (lanes (x.block t 0))
  have some_lane : ((x.tile t).flatMap TileBlock.lanes) ≠ [] :=
    List.ne_nil_of_mem (List.mem_flatMap.mpr ⟨_, List.mem_map_of_mem (List.mem_range.mpr (by decide : 0 < 4)), hl⟩)
  simpa [tileElements, List.zipIdx_eq_nil_iff] using some_lane

theorem tileImages_ne_nil {x : Ctx} {t : Nat} {words : List Code} (h : tileImages (x.tile t) = some words) : words ≠ [] := by
  simp only [tileImages] at h
  split at h
  · cases h
  · cases h
    simp [Ctx.tile, codesOf, List.range_succ]

/-! ### The block-add slots (R221) -/

/-- s with other block-add slots taken. -/
def withSlots (s : State) (slots : Table Nat) : State := { s with red := { s.red with slots := slots } }

theorem takeSlotFrom_takes (t : Nat) (s : State) (k : Nat) :
    ∃ due slots, takeSlotFrom t s k = (due, withSlots s slots) ∧ t ≤ due := by
  induction k generalizing t with
  | zero => exact ⟨t, s.red.slots, rfl, Nat.le_refl t⟩
  | succ k ih =>
    unfold takeSlotFrom
    split
    · exact ⟨t, _, rfl, Nat.le_refl t⟩
    · obtain ⟨due, slots, hd, hle⟩ := ih (t + 1)
      exact ⟨due, slots, hd, by omega⟩

theorem takeSlot_free {t : Nat} {s : State} (h : tget 0 s.red.slots t < 4) :
    takeSlot t s = (t, withSlots s (tmod 0 s.red.slots t (· + 1))) := if_pos h

theorem takeSlots_takes (t : Nat) (s : State) (n : Nat) :
    ∃ due slots, takeSlots t s n = (due, withSlots s slots) ∧ t ≤ due := by
  induction n generalizing t s with
  | zero => exact takeSlotFrom_takes t s 65536
  | succ n ih =>
    obtain ⟨due, slots, hd, hle⟩ := takeSlotFrom_takes t s 65536
    obtain ⟨due', slots', hd', hle'⟩ := ih (due + 1) (withSlots s slots)
    refine ⟨due', slots', ?_, by omega⟩
    have first : takeSlot t s = (due, withSlots s slots) := hd
    rw [takeSlots, first]
    exact hd'

/-- The slots of the blocks of an add, one after another, and the sc of the last. -/
def addSlots (sc : Nat) (sums : List (Option TileBlock × Nat)) (acc : Nat × State) : Nat × State :=
  sums.foldl (fun acc b =>
    let r := takeSlots sc acc.2 b.2
    (max acc.1 r.1, r.2)) acc

theorem addSlots_takes (sc : Nat) (sums : List (Option TileBlock × Nat)) (due : Nat) (s : State) :
    ∃ last slots, addSlots sc sums (due, s) = (last, withSlots s slots) ∧ due ≤ last := by
  induction sums generalizing due s with
  | nil => exact ⟨due, s.red.slots, rfl, Nat.le_refl _⟩
  | cons b sums ih =>
    obtain ⟨d, slots, hd, -⟩ := takeSlots_takes sc s b.2
    obtain ⟨last, slots', hl, hle⟩ := ih (max due d) (withSlots s slots)
    refine ⟨last, slots', ?_, by omega⟩
    rw [addSlots, List.foldl_cons]
    simp only [hd]
    exact hl

/-- Blocks without repeats fit in the sc while it has a slot for each. -/
theorem addSlots_fit {sc : Nat} {sums : List (Option TileBlock × Nat)} {s : State} (h0 : ∀ b ∈ sums, b.2 = 0)
    (hn : tget 0 s.red.slots sc + sums.length ≤ 4) : (addSlots sc sums (sc, s)).1 = sc := by
  induction sums generalizing s with
  | nil => rfl
  | cons b sums ih =>
    rw [List.length_cons] at hn
    have none : b.2 = 0 := h0 b List.mem_cons_self
    have first : takeSlots sc s b.2 = (sc, withSlots s (tmod 0 s.red.slots sc (· + 1))) := by
      rw [none]
      exact takeSlot_free (by omega)
    have taken : tget 0 (withSlots s (tmod 0 s.red.slots sc (· + 1))).red.slots sc = tget 0 s.red.slots sc + 1 :=
      tget_tmod_self 0 s.red.slots sc (· + 1)
    rw [addSlots, List.foldl_cons]
    simp only [first, Nat.max_self]
    exact ih (fun q hq => h0 q (List.mem_cons_of_mem _ hq)) (by rw [taken]; omega)

section
variable (c : Nat) (s : State) (ctx : Table Ctx) (n : Nat)

theorem takeSlotFrom_issuing (t : Nat) (u : State) (k : Nat) : takeSlotFrom t (issuing c s ctx n u) k
    = ((takeSlotFrom t u k).1, issuing c s ctx n (takeSlotFrom t u k).2) := by
  induction k generalizing t with
  | zero => rfl
  | succ k ih =>
    have same : (issuing c s ctx n u).red = u.red := rfl
    unfold takeSlotFrom
    rw [same]
    split
    · rfl
    · exact ih (t + 1)

theorem takeSlots_issuing (t : Nat) (u : State) (k : Nat) : takeSlots t (issuing c s ctx n u) k
    = ((takeSlots t u k).1, issuing c s ctx n (takeSlots t u k).2) := by
  induction k generalizing t u with
  | zero => exact takeSlotFrom_issuing c s ctx n t u 65536
  | succ k ih =>
    have first : takeSlot t (issuing c s ctx n u) = ((takeSlot t u).1, issuing c s ctx n (takeSlot t u).2) :=
      takeSlotFrom_issuing c s ctx n t u 65536
    rw [takeSlots, first, takeSlots]
    exact ih _ _

theorem addSlots_issuing (sc : Nat) (sums : List (Option TileBlock × Nat)) (due : Nat) (u : State) :
    addSlots sc sums (due, issuing c s ctx n u)
      = ((addSlots sc sums (due, u)).1, issuing c s ctx n (addSlots sc sums (due, u)).2) := by
  induction sums generalizing due u with
  | nil => rfl
  | cons b sums ih =>
    rw [addSlots, List.foldl_cons, addSlots, List.foldl_cons]
    simp only [takeSlots_issuing]
    exact ih _ _

end

/-! ### Tile arithmetic (R292 to R294) -/

/-- The result of tile arithmetic: all blocks, or POISON. -/
def tileResult (c id t due : Nat) (blocks : List (Option TileBlock)) : Result :=
  if blocks.any Option.isNone then Result.mk due c id (some .poison) [] []
  else Result.mk due c id (some .ok) [] (blocks.zipIdx.map fun b => (t * 4 + b.2, b.1.getD TileBlock.zero))

theorem finishTile_eq (c id t due : Nat) (blocks : List (Option TileBlock)) (s : State) :
    finishTile c id t due blocks s = complete (tileResult c id t due blocks) s := by
  unfold finishTile tileResult
  split <;> rfl

section
variable {s : State} {c : Fin 16} {d a b : BitVec 3} {single : Bool}

/-- The meaning of TADD. -/
def tadds (c : Nat) (d a b : BitVec 3) (single : Bool) (s : State) : State :=
  let n := openPend c (.tadd d a b single) false false .nothing 1 true s
  if redMuzzled s then completeSts (s.env.sc + 4) c n.1 .muzzled n.2
  else
    let x := getCtx s c
    let sums := List.zipWith (addBlock single) (x.tile a.toNat) (x.tile b.toNat)
    let slots := addSlots s.env.sc sums (s.env.sc, n.2)
    finishTile c n.1 d.toNat (slots.1 + 4) (sums.map Prod.fst) slots.2

/-- The meaning of TCVT. -/
def tcvts (c : Nat) (d a : BitVec 3) (single : Bool) (s : State) : State :=
  let n := openPend c (.tcvt d a single) false false .nothing 1 true s
  if redMuzzled s then completeSts (s.env.sc + 4) c n.1 .muzzled n.2
  else finishTile c n.1 d.toNat (s.env.sc + 4) (((getCtx s c).tile a.toNat).map (convertBlock single)) n.2

theorem own_tile (c : Nat) (s : State) (t : Nat) : (getCtx (beginIssue c s) c).tile t = (getCtx s c).tile t := by
  rw [getCtx_beginIssue_self]
  rfl

theorem redMuzzled_begin (c : Nat) (s : State) : redMuzzled (beginIssue c s) = redMuzzled s := by
  obtain ⟨-, -, -, red, -, saf, -⟩ := beginIssue_reads c s
  rw [redMuzzled, red, saf, redMuzzled]

theorem sc_begin (c : Nat) (s : State) : (beginIssue c s).env.sc = s.env.sc := congrArg Env.sc (beginIssue_reads c s).1

/-- Tile arithmetic while the reduction unit is muzzled. -/
theorem issuesAs_unitMuzzled {i : Instr} {z : Zellek} {meaning : Zellek → Option (State → State)} {f : State → State}
    (he : exec i s = issue c meaning s) (hm : meaning z = some f)
    (hf : redMuzzled s = true → ∀ ctx, openPend c z false false .nothing 1 true (beginIssue c s)
        = (s.seq.nextId, issuing c s ctx (s.seq.nextId + 1) s) →
      f (beginIssue c s) = completeSts (s.env.sc + 4) c s.seq.nextId .muzzled (issuing c s ctx (s.seq.nextId + 1) s))
    (hz : s.red.muz = true) : IssuesAs s c i z (complete (Result.mk (s.env.sc + 4) c s.seq.nextId (some .muzzled) [] []) s)
      (plainEntry s c z) :=
  issuesAs_opening he hm (complete_beside _ {}) fun ctx _ ho => hf (by rw [redMuzzled, hz]; rfl) ctx ho

theorem tadd_muzzled (hz : s.red.muz = true) : IssuesAs s c (.tadd c) (.tadd d a b single)
    (complete (Result.mk (s.env.sc + 4) c s.seq.nextId (some .muzzled) [] []) s) (plainEntry s c (.tadd d a b single)) := by
  refine issuesAs_unitMuzzled (f := tadds c d a b single) rfl rfl (fun hm ctx ho => ?_) hz
  rw [tadds, redMuzzled_begin, sc_begin]
  refine (if_pos hm).trans ?_
  rw [ho]

theorem tcvt_muzzled (hz : s.red.muz = true) : IssuesAs s c (.tcvt c) (.tcvt d a single)
    (complete (Result.mk (s.env.sc + 4) c s.seq.nextId (some .muzzled) [] []) s) (plainEntry s c (.tcvt d a single)) := by
  refine issuesAs_unitMuzzled (f := tcvts c d a single) rfl rfl (fun hm ctx ho => ?_) hz
  rw [tcvts, redMuzzled_begin, sc_begin]
  refine (if_pos hm).trans ?_
  rw [ho]

/-- Tile arithmetic that takes slots, and ends in sc due. -/
theorem tile_completes {i : Instr} {z : Zellek} {t due : Nat} {blocks : List (Option TileBlock)} {slots : Table Nat}
    (h : IssuesAs s c i z (complete (tileResult c s.seq.nextId t due blocks) (withSlots s slots)) (plainEntry s c z)) (hi : Issues s c z) :
    ∃ v, exec i s = .next v ∧ getCtx v c = stepped (plainEntry s c z)
      ∧ Issued c { complete (tileResult c s.seq.nextId t due blocks) s with red := { s.red with slots := v.red.slots } } v := by
  obtain ⟨v, hv, hy, hu⟩ := h hi
  have same : v.red.slots = slots := congrArg (fun s => s.red.slots) hu.rest
  refine ⟨v, hv, hy, ?_⟩
  rw [same]
  exact hu

theorem tadd_adds (hz : redMuzzled s = false) : ∃ due slots, s.env.sc ≤ due
    ∧ (single = true ∧ tget 0 s.red.slots s.env.sc = 0 → due = s.env.sc)
    ∧ IssuesAs s c (.tadd c) (.tadd d a b single)
      (complete (tileResult c s.seq.nextId d.toNat (due + 4)
        (List.zipWith (fun p q => (addBlock single p q).1) ((getCtx s c).tile a.toNat) ((getCtx s c).tile b.toNat))) (withSlots s slots))
      (plainEntry s c (.tadd d a b single)) := by
  set sums := List.zipWith (addBlock single) ((getCtx s c).tile a.toNat) ((getCtx s c).tile b.toNat) with hsums
  have firsts : sums.map Prod.fst
      = List.zipWith (fun p q => (addBlock single p q).1) ((getCtx s c).tile a.toNat) ((getCtx s c).tile b.toNat) := List.map_zipWith ..
  obtain ⟨due, slots, hd, hle⟩ := addSlots_takes s.env.sc sums s.env.sc s
  refine ⟨due, slots, hle, fun ⟨hs, h0⟩ => ?_, ?_⟩
  · have once : ∀ q ∈ sums, q.2 = 0 := by
      intro q hq
      obtain ⟨x, -, y, rfl⟩ : ∃ x, x ∈ (getCtx s c).tile a.toNat ∧ ∃ y, addBlock single x y = q := by
        rw [hsums, ← List.map_uncurry_zip_eq_zipWith, List.mem_map] at hq
        obtain ⟨⟨x, y⟩, hxy, rfl⟩ := hq
        exact ⟨x, (List.of_mem_zip hxy).1, y, rfl⟩
      rw [addBlock, if_pos hs]
      dsimp only
      split <;> rfl
    have four : sums.length = 4 := by simp [hsums, Ctx.tile]
    have fits := addSlots_fit (s := s) (sc := s.env.sc) once (by rw [h0, four])
    rw [hd] at fits
    exact fits
  · obtain ⟨ctx, hs, ho⟩ := openPend_issuing c (.tadd d a b single) false false .nothing 1 s
    refine issuesAs_issuing (f := tadds c d a b single) (n := s.seq.nextId + 1) rfl rfl (complete_beside _ {}) hs ?_
    rw [tadds, redMuzzled_begin, sc_begin]
    refine (if_neg (Bool.eq_false_iff.mp hz)).trans ?_
    dsimp only
    rw [own_tile, own_tile]
    rw [ho]
    dsimp only
    rw [addSlots_issuing, ← hsums, hd, firsts, finishTile_eq]
    rfl

theorem tcvt_converts (hz : redMuzzled s = false) : IssuesAs s c (.tcvt c) (.tcvt d a single)
    (complete (tileResult c s.seq.nextId d.toNat (s.env.sc + 4) (((getCtx s c).tile a.toNat).map (convertBlock single))) s)
    (plainEntry s c (.tcvt d a single)) := by
  refine issuesAs_opening (f := tcvts c d a single) rfl rfl (complete_beside _ {}) fun ctx _ ho => ?_
  rw [tcvts, redMuzzled_begin, sc_begin, own_tile]
  refine (if_neg (Bool.eq_false_iff.mp hz)).trans ?_
  rw [ho, finishTile_eq]
  rfl

end

/-! ### Prefetches (R287) -/

section
variable {s : State} {c : Fin 16} {a : BitVec 4} {mask : BitVec 4} {v : BitVec 32} {e : Word64}
  (he : (getCtx s c).reg a.toNat + v.signExtend 64 = e)

/-- The meaning of PF. -/
def prefetches (c : Nat) (a : BitVec 4) (mask : BitVec 4) (v : BitVec 32) (s : State) : State :=
  let e := effAddr ((getCtx s c).reg a.toNat) v
  let line := cwLine e.toNat 0
  if 2 ^ 48 ≤ e.toNat then s
  else match ownKennel s line with
    | some _ => prefetchLine line (getCtx s c).cls mask s
    | none => originate none (ctxRequest s c 6 line (.sectors mask) []) s

/-- A prefetch in this slice's window is dropped, and counted (R95). -/
theorem prefetchLine_inside {s : State} {line : LineAddr} (cls : Nat) (mask : BitVec 4) (hw : findWay s line = none)
    (hk : (kennelLine s line).isSome = true) : prefetchLine line cls mask s = dropPf s := by
  simp only [prefetchLine, hw]
  exact if_pos (by simp [hk])

theorem kennelLine_own {s : State} {line : LineAddr} (h : ownKennel s line ≠ none) : (kennelLine s line).isSome = true := by
  unfold ownKennel at h
  cases hk : kennelLine s line with
  | none => exact absurd (by rw [hk]) h
  | some off => rfl

include he

theorem effAddr_begin : effAddr ((getCtx (beginIssue c s) c).reg a.toNat) v = e := by
  rw [own_reg rfl]
  exact he

theorem pf_far (hn : 2 ^ 48 ≤ e.toNat) : IssuesAs s c (.pf c) (.pf a mask v) s (fetched (getCtx s c)) := by
  refine issuesAs_of_stay (f := prefetches c a mask v) rfl rfl ?_
  rw [prefetches, effAddr_begin he]
  exact if_pos hn

variable (hn : e.toNat < 2 ^ 48)
include hn

theorem prefetches_begin : prefetches c a mask v (beginIssue c s) = match ownKennel s (cwLine e.toNat 0) with
    | some _ => prefetchLine (cwLine e.toNat 0) (getCtx s c).cls mask (beginIssue c s)
    | none => originate none (ctxRequest (beginIssue c s) c 6 (cwLine e.toNat 0) (.sectors mask) []) (beginIssue c s) := by
  have window : ownKennel (beginIssue c s) (cwLine e.toNat 0) = ownKennel s (cwLine e.toNat 0) := by
    obtain ⟨ctx, -, hb⟩ := beginIssue_issuing c s
    rw [hb, ownKennel_issuing]
  rw [prefetches, effAddr_begin he, own_cls]
  refine (if_neg (Nat.not_le.mpr hn)).trans ?_
  rw [window]

theorem pf_sends (ho : ownKennel s (cwLine e.toNat 0) = none) : IssuesAs s c (.pf c) (.pf a mask v)
    (originate none (ctxRequest s c 6 (cwLine e.toNat 0) (.sectors mask) []) s) (fetched (getCtx s c)) := by
  obtain ⟨ctx, hs, hb⟩ := beginIssue_issuing c s
  have beside : Abreast s s := {}
  refine issuesAs_issuing (f := prefetches c a mask v) (n := s.seq.nextId) rfl rfl (originate_beside _ _ {}) hs ?_
  rw [prefetches_begin he hn, ho, hb]
  exact (congrArg (fun m => originate _ m _) (beside.ctxRequest hs rfl _ _ _ _)).trans (originate_issuing c s ctx _ _ _ _)

theorem pf_drops (ho : ownKennel s (cwLine e.toNat 0) ≠ none) (hw : findWay s (cwLine e.toNat 0) = none) :
    IssuesAs s c (.pf c) (.pf a mask v)
      { s with bg := { s.bg with tel := { s.bg.tel with pfDrop := min 65535 (s.bg.tel.pfDrop + 1) } } } (fetched (getCtx s c)) := by
  obtain ⟨ctx, hs, hb⟩ := beginIssue_issuing c s
  obtain ⟨off35, hoff⟩ := Option.ne_none_iff_exists'.mp ho
  have absent : findWay (beginIssue c s) (cwLine e.toNat 0) = none := by
    rw [hb]
    exact hw
  have inside : (kennelLine (beginIssue c s) (cwLine e.toNat 0)).isSome = true := by
    rw [hb, kennelLine_issuing]
    exact kennelLine_own ho
  refine issuesAs_issuing (f := prefetches c a mask v) (n := s.seq.nextId) rfl rfl {} hs ?_
  rw [prefetches_begin he hn, hoff]
  refine (prefetchLine_inside _ _ absent inside).trans ?_
  rw [hb]
  rfl

end

end Sys2Proof.Proofs
end

section
/-! SUPPORT. Loads and stores of registers and tiles (10_zellek_instruction_set R285 to R294). -/

namespace Sys2Proof.Proofs

open Sys2Proof.Machine Sys2Proof.Safety Sys2Proof.Laws

set_option Elab.async false

/-! ### Loads -/

/-- What a load does, by where its lines are. -/
def LoadsAs (s : State) (c : Fin 16) (i : Instr) (z : Zellek) (a : Nat) (ks : List Nat) (gather : Gather) : Prop :=
  ((∀ p ∈ lineParts a ks, ownKennel s p.line = none) → IssuesAs s c i z ((lineParts a ks).foldl (readOf c s.seq.nextId) s)
    (gathering s c z true false gather (lineParts a ks).length))
  ∧ (∀ p off35, lineParts a ks = [p] → ownKennel s p.line = some off35 → ChannelsSound s → refusalOf s c off35 false p.mask = none →
    IssuesAs s c i z (enqueue (readAccess (s.env.sc + 6) (getCtx s c).cls 2 true
      ((bitsOf (sectorsOf p.mask)).map fun j => kennelLoc (off35 % 2 ^ 24 + 64 * j) / 2) (.seqRead c s.seq.nextId p.want)) s)
      (gathering s c z false false gather 1))
  ∧ (∀ p off35 st, lineParts a ks = [p] → ownKennel s p.line = some off35 → ChannelsSound s → (getCtx s c).pend = [] →
    refusalOf s c off35 false p.mask = some st → IssuesAs s c i z
      (complete (Result.mk (s.env.sc + 17) c s.seq.nextId (some st) [] []) s)
      (Safety.opened (fetched (getCtx s c)) { entryOf z s.seq.nextId false false gather 1 with left := 0, bad := some st }))

/-- What a store does, by where its lines are. -/
def StoresAs (s : State) (c : Fin 16) (i : Instr) (z : Zellek) (parts : List LinePart) (words : List Code) (sat : Option (Nat × Nat)) :
    Prop :=
  ((∀ p ∈ parts, ownKennel s p.line = none) → IssuesAs s c i z (parts.foldl (writeOf c s.seq.nextId words) s)
    (gathering s c z true true (.store sat) parts.length))
  ∧ (∀ p off35, parts = [p] → ownKennel s p.line = some off35 → ChannelsSound s → refusalOf s c off35 true p.mask = none →
    IssuesAs s c i z (enqueue (writeAccess (s.env.sc + 6) (getCtx s c).cls 2 true
      ((p.words words).map fun w => (kennelLoc (off35 % 2 ^ 24 + 32 * w.1), w.2)) (.store c s.seq.nextId)) s)
      (gathering s c z false true (.store sat) 1))
  ∧ (∀ p off35 st, parts = [p] → ownKennel s p.line = some off35 → ChannelsSound s → refusalOf s c off35 true p.mask = some st →
    IssuesAs s c i z (complete (Result.mk (s.env.sc + 14) c s.seq.nextId (some st) [] []) s)
      (gathering s c z false true (.store none) 1))

section
variable {s : State} {c : Fin 16} {i : Instr} {z : Zellek} {meaning : Zellek → Option (State → State)} {f : State → State}
  (he : exec i s = issue c meaning s) (hm : meaning z = some f)
include he hm

theorem loads_answer {a : Nat} {ks : List Nat} {gather : Gather} (hf : f (beginIssue c s) = startLoad c z a ks gather (beginIssue c s))
    (hk : ks ≠ []) (hg : ∀ use, gather ≠ .unit use) : LoadsAs s c i z a ks gather :=
  ⟨load_sends he hm hf hk, fun _ _ hp ho hc hr => load_reads he hm hf hp ho hc hr,
    fun _ _ _ hp ho hc hn hr => load_refused he hm hf hp ho hc hg hn hr⟩

theorem stores_answer {a : Nat} {words : List Code} {sat : Option (Nat × Nat)}
    (hf : f (beginIssue c s) = startStore c z a words sat (beginIssue c s)) (hw : words ≠ []) :
    StoresAs s c i z (lineParts a (List.range words.length)) words sat :=
  ⟨store_sends he hm hf rfl hw, fun _ _ hp ho hc hr => store_writes he hm hf rfl hp ho hc hr,
    fun _ _ _ hp ho hc hr => store_refused he hm hf rfl hp ho hc hr⟩

end

section
variable {s : State} {c : Fin 16} {a : BitVec 4} {v : BitVec 32} {e : Word64} (he : (getCtx s c).reg a.toNat + v.signExtend 64 = e)

/-! ### Instructions that load -/

/-- The meaning of LDW. -/
def ldws (c : Nat) (g : BitVec 2) (a : BitVec 4) (v : BitVec 32) (s : State) : State :=
  let e := effAddr ((getCtx s c).reg a.toNat) v
  if addrOk e 32 then startLoad c (.ldw g a v) e.toNat [0] (.load (4 * g.toNat) none) s else placeSts c .bounds s

/-- The meaning of LDD. -/
def ldds (c : Nat) (d a : BitVec 4) (v : BitVec 32) (s : State) : State :=
  let e := effAddr ((getCtx s c).reg a.toNat) v
  if addrOk e 8 then startLoad c (.ldd d a v) (e.toNat / 32 * 32) [0] (.load d.toNat (some (e.toNat / 8 % 4))) s
  else placeSts c .bounds s

/-- The meaning of TLD. -/
def tlds (c : Nat) (d : BitVec 3) (a mask : BitVec 4) (f : TileForm) (v : BitVec 32) (s : State) : State :=
  let e := effAddr ((getCtx s c).reg a.toNat) v
  if mask ≠ 0 ∧ addrOk e (if f = .image then 64 else 32) then
    startLoad c (.tld d a mask f v) e.toNat (tileWords f mask) (.tile d.toNat mask f.code.toNat) s
  else placeSts c .bounds s

include he

theorem ldw_bounds (g : BitVec 2) (hb : Wrong e 32) :
    IssuesAs s c (.ldw c) (.ldw g a v) s ((fetched (getCtx s c)).setSts 4 s.seq.nextId) := by
  refine issuesAs_of_placeSts (f := ldws c g a v) (st := .bounds) rfl rfl ?_
  rw [ldws, effAddr_begin he]
  exact if_neg fun h => (addrOk_iff e 32).mp h hb

theorem ldw_loads (g : BitVec 2) (hb : ¬ Wrong e 32) : LoadsAs s c (.ldw c) (.ldw g a v) e.toNat [0] (.load (4 * g.toNat) none) := by
  refine loads_answer (f := ldws c g a v) rfl rfl ?_ (List.cons_ne_nil _ _) fun use => Gather.noConfusion
  rw [ldws, effAddr_begin he]
  exact if_pos ((addrOk_iff e 32).mpr hb)

theorem ldd_bounds (d : BitVec 4) (hb : Wrong e 8) :
    IssuesAs s c (.ldd c) (.ldd d a v) s ((fetched (getCtx s c)).setSts 4 s.seq.nextId) := by
  refine issuesAs_of_placeSts (f := ldds c d a v) (st := .bounds) rfl rfl ?_
  rw [ldds, effAddr_begin he]
  exact if_neg fun h => (addrOk_iff e 8).mp h hb

theorem ldd_loads (d : BitVec 4) (hb : ¬ Wrong e 8) : LoadsAs s c (.ldd c) (.ldd d a v) (e.toNat / 32 * 32) [0]
    (.load d.toNat (some (e.toNat / 8 % 4))) := by
  refine loads_answer (f := ldds c d a v) rfl rfl ?_ (List.cons_ne_nil _ _) fun use => Gather.noConfusion
  rw [ldds, effAddr_begin he]
  exact if_pos ((addrOk_iff e 8).mpr hb)

theorem tld_bounds (d : BitVec 3) (mask : BitVec 4) (f : TileForm) (hb : mask = 0 ∨ Wrong e (if f = .image then 64 else 32)) :
    IssuesAs s c (.tld c) (.tld d a mask f v) s ((fetched (getCtx s c)).setSts 4 s.seq.nextId) := by
  refine issuesAs_of_placeSts (f := tlds c d a mask f v) (st := .bounds) rfl rfl ?_
  rw [tlds, effAddr_begin he]
  exact if_neg fun ⟨hm, h⟩ => hb.elim hm ((addrOk_iff e _).mp h)

theorem tld_loads (d : BitVec 3) {mask : BitVec 4} (f : TileForm) (hm : mask ≠ 0) (hb : ¬ Wrong e (if f = .image then 64 else 32)) :
    LoadsAs s c (.tld c) (.tld d a mask f v) e.toNat (tileWords f mask) (.tile d.toNat mask f.code.toNat) := by
  refine loads_answer (f := tlds c d a mask f v) rfl rfl ?_ (tileWords_ne_nil f hm) fun use => Gather.noConfusion
  rw [tlds, effAddr_begin he]
  exact if_pos ⟨hm, (addrOk_iff e _).mpr hb⟩

/-! ### Instructions that store -/

omit he in
/-- The meaning of STW. -/
def stws (c : Nat) (a : BitVec 4) (g : BitVec 2) (v : BitVec 32) (s : State) : State :=
  let x := getCtx s c
  let e := effAddr (x.reg a.toNat) v
  let r (k : Nat) : Word64 := x.reg (4 * g.toNat + k)
  if addrOk e 32 then startStore c (.stw a g v) e.toNat [codeOf64 (r 0) (r 1) (r 2) (r 3)] none s else placeSts c .bounds s

theorem stw_bounds (g : BitVec 2) (hb : Wrong e 32) :
    IssuesAs s c (.stw c) (.stw a g v) s ((fetched (getCtx s c)).setSts 4 s.seq.nextId) := by
  refine issuesAs_of_placeSts (f := stws c a g v) (st := .bounds) rfl rfl ?_
  rw [stws, effAddr_begin he]
  exact if_neg fun h => (addrOk_iff e 32).mp h hb

theorem stw_stores (g : BitVec 2) (hb : ¬ Wrong e 32) :
    StoresAs s c (.stw c) (.stw a g v) (lineParts e.toNat (List.range 1)) [(getCtx s c).group g] none := by
  refine stores_answer (f := stws c a g v) (words := [(getCtx s c).group g]) rfl rfl ?_ (List.cons_ne_nil _ _)
  have own : (getCtx (beginIssue c s) c).group g = (getCtx s c).group g := by
    rw [getCtx_beginIssue_self]
    rfl
  rw [stws, effAddr_begin he]
  exact (if_pos ((addrOk_iff e 32).mpr hb)).trans (congrArg (fun w => startStore _ _ _ [w] none _) own)

end

section
variable {s : State} {c : Fin 16} {b d : BitVec 4} {t : BitVec 3} {v : BitVec 32} {e : Word64}
  (he : (getCtx s c).reg b.toNat + v.signExtend 64 = e)

/-- The words of a tile in an output form. -/
def storeForm (c : Nat) (z : Zellek) (d : BitVec 4) (t : BitVec 3) (f : TileForm) (e : Word64) (s : State) : State :=
  match f with
  | .image => match tileImages ((getCtx s c).tile t.toNat) with
    | some words => startStore c z e.toNat words (some (d.toNat, 0)) s
    | none => placeSts c .poison s
  | _ => storeTile c z d.toNat t.toNat e f.format (fun _ => none) s

theorem storeForm_elements {c : Nat} {z : Zellek} {f : TileForm} (hf : f ≠ .image) :
    storeForm c z d t f e s = storeTile c z d.toNat t.toNat e f.format (fun _ => none) s := by
  cases f with
  | image => exact absurd rfl hf
  | f0 => rfl
  | f1 => rfl
  | f2 => rfl
  | f3 => rfl
  | f4 => rfl

/-- The meaning of TST. -/
def tsts (c : Nat) (d : BitVec 4) (t : BitVec 3) (b : BitVec 4) (f : TileForm) (v : BitVec 32) (s : State) : State :=
  let e := effAddr ((getCtx s c).reg b.toNat) v
  if !addrOk e 32 then placeSts c .bounds s else storeForm c (.tst d t b f v) d t f e s

/-- The meaning of TST with stochastic rounding. -/
def tstSrs (c : Nat) (d : BitVec 4) (t : BitVec 3) (b k : BitVec 4) (f : BitVec 2) (v : BitVec 32) (s : State) : State :=
  let e := effAddr ((getCtx s c).reg b.toNat) v
  let z : Zellek := .tstSr d t b k f v
  if !addrOk e 32 then placeSts c .bounds s
  else
    let s := checkStream k.toNat s
    let x := getStream s k.toNat
    if x.broken then
      let n := openPend c z false true (.store none) 1 true s
      completeSts (s.env.sc + 14) c n.1 .poison n.2
    else storeTile c z d.toNat t.toNat e (srForm f).toNat (fun i => some (srBits x.seed x.step (e.extractLsb' 0 48) i)) s

theorem not_addrOk (e : Word64) (k : Nat) : (!addrOk e k) = true ↔ Wrong e k := by
  rw [Bool.not_eq_true', ← Bool.not_eq_true, addrOk_iff, not_not]

include he

theorem tst_bounds (f : TileForm) (hb : Wrong e 32) :
    IssuesAs s c (.tst c) (.tst d t b f v) s ((fetched (getCtx s c)).setSts 4 s.seq.nextId) := by
  refine issuesAs_of_placeSts (f := tsts c d t b f v) (st := .bounds) rfl rfl ?_
  rw [tsts, effAddr_begin he]
  exact if_pos ((not_addrOk e 32).mpr hb)

theorem tstSr_bounds (k : BitVec 4) (f : BitVec 2) (hb : Wrong e 32) :
    IssuesAs s c (.tst c) (.tstSr d t b k f v) s ((fetched (getCtx s c)).setSts 4 s.seq.nextId) := by
  refine issuesAs_of_placeSts (f := tstSrs c d t b k f v) (st := .bounds) rfl rfl ?_
  rw [tstSrs, effAddr_begin he]
  exact if_pos ((not_addrOk e 32).mpr hb)

variable (hb : ¬ Wrong e 32)
include hb

theorem tsts_begin (f : TileForm) : tsts c d t b f v (beginIssue c s) = storeForm c (.tst d t b f v) d t f e (beginIssue c s) := by
  rw [tsts, effAddr_begin he]
  exact if_neg (mt (not_addrOk e 32).mp hb)

theorem tst_stores {f : TileForm} (hf : f ≠ .image) :
    StoresAs s c (.tst c) (.tst d t b f v)
      (lineParts e.toNat (List.range (elementWords (outputBytes f.format)
        (tileElements ((getCtx s c).tile t.toNat) f.format fun _ => none).1).length))
      (elementWords (outputBytes f.format) (tileElements ((getCtx s c).tile t.toNat) f.format fun _ => none).1)
      (some (d.toNat, (tileElements ((getCtx s c).tile t.toNat) f.format fun _ => none).2)) := by
  refine stores_answer (f := tsts c d t b f v) rfl rfl ?_
    (elementWords_ne_nil (outputBytes_pos _) (tileElements_ne_nil (getCtx s c) t.toNat f.format fun _ => none))
  rw [tsts_begin he hb, storeForm_elements hf, storeTile, own_tile]

theorem tst_poison (hi : tileImages ((getCtx s c).tile t.toNat) = none) : IssuesAs s c (.tst c) (.tst d t b .image v) s
    ((fetched (getCtx s c)).setSts (statusCode .poison) s.seq.nextId) := by
  refine issuesAs_of_placeSts (f := tsts c d t b .image v) rfl rfl ?_
  rw [tsts_begin he hb, storeForm, own_tile, hi]

theorem tst_images {words : List Code} (hi : tileImages ((getCtx s c).tile t.toNat) = some words) :
    StoresAs s c (.tst c) (.tst d t b .image v) (lineParts e.toNat (List.range words.length)) words (some (d.toNat, 0)) := by
  refine stores_answer (f := tsts c d t b .image v) rfl rfl ?_ (tileImages_ne_nil hi)
  rw [tsts_begin he hb, storeForm, own_tile, hi]

variable {k : BitVec 4} {f : BitVec 2} (hd : (getStream s k.toNat).seedBad = false) (hp : (getStream s k.toNat).stepBad = false)
include hd hp

omit he hb in
theorem checkStream_begin : checkStream k.toNat (beginIssue c s) = beginIssue c s
    ∧ getStream (beginIssue c s) k.toNat = getStream s k.toNat := by
  have same : getStream (beginIssue c s) k.toNat = getStream s k.toNat := by
    obtain ⟨ctx, -, hb⟩ := beginIssue_issuing c s
    rw [hb]
    rfl
  exact ⟨checkStream_sound (by rw [same, hd]) (by rw [same, hp]), same⟩

theorem tstSr_poison (hk : (getStream s k.toNat).broken = true) : IssuesAs s c (.tst c) (.tstSr d t b k f v)
    (complete (Result.mk (s.env.sc + 14) c s.seq.nextId (some .poison) [] []) s)
    (gathering s c (.tstSr d t b k f v) false true (.store none) 1) := by
  refine issuesAs_opening (f := tstSrs c d t b k f v) rfl rfl (complete_beside _ {}) fun ctx hs ho => ?_
  obtain ⟨checked, same⟩ := checkStream_begin (c := c) hd hp
  rw [tstSrs, effAddr_begin he]
  refine (if_neg (mt (not_addrOk e 32).mp hb)).trans ?_
  rw [checked]
  dsimp only
  rw [same]
  refine (if_pos hk).trans ?_
  rw [ho, sc_begin]
  rfl

omit he hb hd hp in
theorem srForm_toNat : (srForm f).toNat = f.toNat + 1 := by
  revert f
  decide

theorem tstSr_stores (hk : (getStream s k.toNat).broken = false) :
    StoresAs s c (.tst c) (.tstSr d t b k f v)
      (lineParts e.toNat (List.range (elementWords (outputBytes (f.toNat + 1))
        (tileElements ((getCtx s c).tile t.toNat) (f.toNat + 1) fun j =>
          some (srBits (getStream s k.toNat).seed (getStream s k.toNat).step (e.extractLsb' 0 48) j)).1).length))
      (elementWords (outputBytes (f.toNat + 1)) (tileElements ((getCtx s c).tile t.toNat) (f.toNat + 1) fun j =>
          some (srBits (getStream s k.toNat).seed (getStream s k.toNat).step (e.extractLsb' 0 48) j)).1)
      (some (d.toNat, (tileElements ((getCtx s c).tile t.toNat) (f.toNat + 1) fun j =>
          some (srBits (getStream s k.toNat).seed (getStream s k.toNat).step (e.extractLsb' 0 48) j)).2)) := by
  refine stores_answer (f := tstSrs c d t b k f v) rfl rfl ?_
    (elementWords_ne_nil (outputBytes_pos _) (tileElements_ne_nil (getCtx s c) t.toNat _ _))
  obtain ⟨checked, same⟩ := checkStream_begin (c := c) hd hp
  rw [tstSrs, effAddr_begin he]
  refine (if_neg (mt (not_addrOk e 32).mp hb)).trans ?_
  rw [checked]
  dsimp only
  rw [same]
  refine (if_neg (Bool.eq_false_iff.mp hk)).trans ?_
  rw [storeTile, own_tile, srForm_toNat]

end

/-! ### The obligation -/

/-- Settles O59: loads, stores, prefetches and tile arithmetic. -/
theorem zellekMemoryAnswers : Obligations.ZellekMemoryAnswers := by
  unfold Obligations.ZellekMemoryAnswers
  intro s c x id sc effect bounds wrong ea refusal loads stores tileDone muzzled
  have unit {z : Zellek} (h : Issues s c z) (hz : s.red.muz = false) : redMuzzled s = false := by
    rw [redMuzzled, hz, issues_awake h]
    rfl
  refine ⟨?ldw, ?ldd, ?tld, ?stw, ?tst, ?tstSr, ?pf, ?tadd, ?tcvt⟩
  case ldw => exact fun g a v => ⟨fun hb => ldw_bounds rfl g hb, fun hb => ldw_loads rfl g hb⟩
  case ldd => exact fun d a v => ⟨fun hb => ldd_bounds rfl d hb, fun hb => ldd_loads rfl d hb⟩
  case tld => exact fun d a mask f v => ⟨fun hb => tld_bounds rfl d mask f hb, fun hm hb => tld_loads rfl d f hm hb⟩
  case stw => exact fun a g v => ⟨fun hb => stw_bounds rfl g hb, fun hb => stw_stores rfl g hb⟩
  case tst =>
    intro d t b f v i z r
    refine ⟨fun hb => tst_bounds rfl f hb, fun hb hf => tst_stores rfl hb hf, ?_, ?_⟩
    · rintro hb rfl hi
      exact tst_poison rfl hb hi
    · rintro words hb rfl hi
      exact tst_images rfl hb hi
  case tstSr =>
    intro d t b k f v i z y fmt r
    exact ⟨fun hb => tstSr_bounds rfl k f hb, fun hb hd hp =>
      ⟨fun hk => tstSr_poison rfl hb hd hp hk, fun hk => tstSr_stores rfl hb hd hp hk⟩⟩
  case pf =>
    intro a mask v e line
    exact ⟨fun hn => pf_far rfl hn, fun hn ho => pf_sends rfl hn ho, fun hn ho hw => pf_drops rfl hn ho hw⟩
  case tadd =>
    intro d a b single
    refine ⟨tadd_muzzled, fun hz h => ?_⟩
    obtain ⟨due, slots, hle, hexact, hadds⟩ := tadd_adds (d := d) (a := a) (b := b) (single := single) (unit h hz)
    obtain ⟨t, ht, hy, hu⟩ := tile_completes hadds h
    exact ⟨t, due + 4, ht, Nat.add_le_add_right hle 4, fun he => congrArg (· + 4) (hexact he), hy, hu⟩
  case tcvt =>
    intro d a single
    refine ⟨tcvt_muzzled, fun hz h => ?_⟩
    obtain ⟨t, ht, hy, hu⟩ := tile_completes (slots := s.red.slots) (tcvt_converts (unit h hz)) h
    exact ⟨t, s.env.sc + 4, ht, Nat.le_refl _, fun _ => rfl, hy, hu⟩

end Sys2Proof.Proofs
end

section
/-! SUPPORT. SCABS of a code word that fails the post-check (10_zellek_instruction_set R308, 15_containment_and_safety R398): the word
stands in its cells as `HoldsWords` asks, and its reader receives poison. -/

namespace Sys2Proof.Proofs

open Sys2Proof.Machine Sys2Proof.Safety Sys2Proof.Laws

set_option Elab.async false

/-- SCABS of the code words from the offset in g1 on, as many as g2 says, into stream 0. -/
def scan : Zellek := .scabs 1 2 0

/-- In service, context 3 issues SCABS of the first two code words of kennel space, both 0; the first is to fail its post-check. -/
def postBadFirst : State := { State.reset with
  env := { Env.reset with phase := .ready, sc := 20000 }
  cache := { State.reset.cache with locked := 2 }
  arr := { State.reset.arr with
    cells := [0, 1].foldl (fun t k => tput t (cellKey (kennelLoc (32 * k)) (locRow (kennelLoc (32 * k))))
      (boleriEncode (boleriFold 0 (kennelLoc (32 * k))) 0)) []
    postBad := [kennelLoc 0] }
  seq := { State.reset.seq with
    en := true, cur := some 3, pstore := [(0, { word := scan.encode, flips := 0 })]
    ctx := [(3, { Ctx.idle with state := .ready, g := [(2, 2)] })] } }

theorem postBadFirst_issues : Issues postBadFirst 3 scan :=
  ⟨⟨by decide +kernel, by decide +kernel⟩, by decide +kernel, by decide +kernel, by decide +kernel⟩

theorem postBadFirst_holds : HoldsWords postBadFirst 0 [0, 0] := by
  refine ⟨⟨by decide +kernel, by decide +kernel⟩, by decide, fun i w hw => ?_⟩
  have first : holdsWord postBadFirst (kennelLoc 0) 0 := ⟨by decide +kernel, by decide +kernel⟩
  have second : holdsWord postBadFirst (kennelLoc 32) 0 := ⟨by decide +kernel, by decide +kernel⟩
  match i with
  | 0 => cases hw; exact first
  | 1 => cases hw; exact second
  | i + 2 => cases hw

theorem postBadFirst_sound : ChannelsSound postBadFirst := ⟨fun _ => rfl, fun _ _ => rfl, fun _ => rfl⟩

/-- The statuses of the results that a command leaves. -/
def statusesAfter : Host.Outcome State Fault Refusal → List (Option Status)
  | .next t => t.seq.done.map Result.status
  | _ => []

theorem scan_poisoned : statusesAfter (exec (.scabs 3) postBadFirst) = [some .poison] := by decide +kernel

/-- Refutes O58: SCABS of words that the array holds without error ends with POISON where one of them fails its post-check (R398), which
`HoldsWords` does not exclude. -/
theorem not_zellekServicesAnswer : ¬ Obligations.ZellekServicesAnswer := by
  unfold Obligations.ZellekServicesAnswer
  intro h
  obtain ⟨streams, -⟩ := h postBadFirst 3
  obtain ⟨-, -, -, -, scabs⟩ := streams 0
  obtain ⟨-, -, absorbs⟩ := scabs 1 2
  have refused : ∀ j, j < 2 → readRefused postBadFirst [0 + 32 * j] = none := by decide +kernel
  obtain ⟨t, ht, -, -, done, -⟩ := absorbs [0, 0] (by decide +kernel) (by decide +kernel) (by decide +kernel) postBadFirst_holds
    postBadFirst_sound (by decide +kernel) refused postBadFirst_issues
  have poisoned := scan_poisoned
  rw [ht, statusesAfter, done] at poisoned
  exact absurd poisoned (by decide +kernel)

end Sys2Proof.Proofs
end

section
/-! SUPPORT. Channel operations of agents (06_kennels_and_channels Table 6.2, R164, R168 to R172, R177). -/

namespace Sys2Proof.Proofs

open Sys2Proof.Machine Sys2Proof.Safety Sys2Proof.Laws

set_option Elab.async false

/-! ### Answers to agents -/

/-- The answer of a channel operation to an agent (R170). -/
def chMsg (g : Hdr) (st : Status) (slot : BitVec 16) (off : BitVec 24) (sc : Nat) : OutMsg :=
  answerMsg g 0xC (.chRsp st slot off) [] (sc + 9) .none

theorem chAnswer_agent (g : Hdr) {st : Status} (k off : Nat) (s : State) (hn : st ≠ .nackRetry) : chAnswer (.agent g) st k off s
    = emit (chMsg g st (BitVec.ofNat 16 k) (BitVec.ofNat 24 off) s.env.sc) s := by
  rw [chAnswer, countNack, if_neg hn]
  rfl

theorem countStore_emit (c : Nat) (b : Bool) (m : OutMsg) (s : State) : countStore c b (emit m s) = emit m (countStore c b s) := by
  unfold emit countStore
  split <;> split <;> rfl

theorem chCount_answers (h g : Hdr) {st : Status} (k off : Nat) (s : State) (hn : st ≠ .nackRetry) :
    chCount (.agent h) (chAnswer (.agent g) st k off s)
      = emit (chMsg g st (BitVec.ofNat 16 k) (BitVec.ofNat 24 off) s.env.sc) (countStore (h.label % 16) false s) := by
  rw [chAnswer_agent g k off s hn]
  exact countStore_emit _ _ _ _

theorem reserves_counted (c : Nat) (b : Bool) (s : State) (ch : Nat) (p : ChParty) :
    countStore c b (reserves s ch p) = reserves (countStore c b s) ch p := by
  have same : (reserves s ch p).cache = s.cache := rfl
  rw [countStore, countStore, same]
  split <;> rfl

theorem takes_counted (c : Nat) (b : Bool) (s : State) (ch : Nat) (p : ChParty) :
    countStore c b (takes s ch p) = takes (countStore c b s) ch p := by
  have same : (takes s ch p).cache = s.cache := rfl
  rw [countStore, countStore, same]
  split <;> rfl

/-- A blocking operation of an agent that finds no entry free is put off, and counted (R172, Table 4.9). -/
theorem beginWait_full {ch : Nat} {take : Bool} {h : Hdr} {s : State} (hn : 64 ≤ (s.ken.waits.filter fun w => match w.party with
      | .agent _ => true
      | _ => false).length) : beginWait ch take (.agent h) s
    = emit (chMsg h .nackRetry 0 0 s.env.sc) { s with coh := { s.coh with nackNow := min 1023 (s.coh.nackNow + 1) } } :=
  if_neg (Nat.not_lt.mpr hn)

theorem beginWait_waits {ch : Nat} {take : Bool} {h : Hdr} {s : State} (hn : (s.ken.waits.filter fun w => match w.party with
      | .agent _ => true
      | _ => false).length < 64) : beginWait ch take (.agent h) s
    = { countStore (h.label % 16) false s with ken := { (countStore (h.label % 16) false s).ken with
        waits := (countStore (h.label % 16) false s).ken.waits ++ [{ ch := ch, take := take, party := .agent h }] } } := by
  refine (if_pos hn).trans ?_
  unfold chCount countStore
  dsimp only
  split <;> rfl

/-! ### Messages that are served -/

section
variable {c : Instr} {s t : State} {h : Hdr} {parks : Bool} {serve : State → State} {a : Arrival}

theorem takeChannel_serves (hm : Admitted s h) (hf : h.ndf = 0) : takeChannel h parks s serve = serve (noisy s) := by
  have none : reqRefused (noisy s) h parks (decide (h.ndf = 0)) = none :=
    reqRefused_none (s := noisy s) hm.fatal (fun _ => hm.drain) hm.source (decide_eq_true hf)
  rw [takeChannel, none]

/-- A channel request of an agent that may send it is served. -/
theorem channel_serves (he : exec c s = receive c s fun s => takeChannel h parks s serve) (ha : arrivalOf c = some a)
    (hm : Admitted s h) (hf : h.ndf = 0) (hb : serve (noisy s) = t) (hu : Untouched s t) (hh : hears s c) :
    exec c s = .next (arrived c t) :=
  he.trans (receive_answers hm.use hh ha ((takeChannel_serves hm hf).trans hb) hu)

end

theorem countStore_untouched (c : Nat) (b : Bool) {s u : State} (h : Untouched s u) : Untouched s (countStore c b u) := by
  refine h.trans ?_
  rw [countStore_eq]
  exact {}

theorem slotPosition (c : Channel) (k : Nat) : BitVec.ofNat 24 (slotOffset c k)
    = BitVec.ofNat 24 (32 * c.base.toNat + k * (32 * c.slotsz.toNat)) := by
  rw [slotOffset, Channel.first, Channel.slotBytes, Nat.mul_comm 32, Nat.mul_comm 32]

/-! ### The operations of an agent -/

section
variable {s : State} {h : Hdr} {ch : BitVec 8} (hm : Admitted s h) (hf : h.ndf = 0) (hs : ChannelsSound s)

/-- The state in which an accepted request of the agent is counted. -/
def heard (s : State) (h : Hdr) : State := countStore (h.label % 16) false (noisy s)

theorem heard_untouched (s : State) (h : Hdr) : Untouched s (heard s h) := countStore_untouched _ _ {}

theorem heard_sc (s : State) (h : Hdr) : (heard s h).env.sc = s.env.sc := by
  rw [heard, countStore_eq]
  rfl

theorem heard_chan (s : State) (h : Hdr) (c : Nat) : chanOf (heard s h) c = chanOf s c := by
  rw [heard, countStore_eq]
  rfl

/-- The agent's operation x is answered with a status, and leaves u otherwise. -/
def Answers (s : State) (h : Hdr) (x : Instr) (st : Status) (slot : BitVec 16) (off : BitVec 24) (u : State) : Prop :=
  hears s x → exec x s = .next (arrived x (emit (chMsg h st slot off s.env.sc) u))

section
variable {st : Status} (hn : st ≠ .nackRetry)
include hm hf hn

/-- An operation whose channel answers at once, without counting it. -/
theorem answers_of {x : Instr} {parks : Bool} {serve : State → State} {a : Arrival}
    (he : exec x s = receive x s fun s => takeChannel h parks s serve) (ha : arrivalOf x = some a)
    (hb : serve (noisy s) = chAnswer (.agent h) st 0 0 (noisy s)) : Answers s h x st 0 0 (noisy s) :=
  channel_serves he ha hm hf (hb.trans (chAnswer_agent h 0 0 _ hn)) (emit_untouched _ {})

/-- An operation that is counted, and answered. -/
theorem answers_counted {x : Instr} {parks : Bool} {serve : State → State} {a : Arrival} {k off : Nat} {u : State}
    (he : exec x s = receive x s fun s => takeChannel h parks s serve) (ha : arrivalOf x = some a)
    (hb : serve (noisy s) = chAnswer (.agent h) st k off u) (hsc : u.env.sc = s.env.sc) (hu : Untouched s u) :
    Answers s h x st (BitVec.ofNat 16 k) (BitVec.ofNat 24 off) u := by
  refine channel_serves he ha hm hf ?_ (emit_untouched _ hu)
  rw [hb, chAnswer_agent h k off u hn, hsc]

end

include hm hf hs

section
variable {st : Status} (ho : OffWith s ch.toNat st)
include ho

omit hm hf hs in
theorem offWith_ne_nackRetry : st ≠ .nackRetry := by
  rcases ho with ⟨-, rfl⟩ | ⟨-, -, rfl⟩ <;> nofun

theorem reserve_off (b : Bool) : Answers s h (.reserve h b ch) st 0 0 (noisy s) :=
  answers_of hm hf (offWith_ne_nackRetry ho) rfl rfl (doReserve_off (noisy_sound hs) _ b ho)

theorem take_off (b : Bool) : Answers s h (.take h b ch) st 0 0 (noisy s) :=
  answers_of hm hf (offWith_ne_nackRetry ho) rfl rfl (doTake_off (noisy_sound hs) _ b ho)

theorem commit_off (slot : BitVec 16) : Answers s h (.commit h ch slot) st 0 0 (noisy s) :=
  answers_of hm hf (offWith_ne_nackRetry ho) rfl rfl (doCommit_off (noisy_sound hs) ch.toNat slot.toNat _ _ ho)

theorem free_off (slot : BitVec 16) : Answers s h (.free h ch slot) st 0 0 (noisy s) :=
  answers_of hm hf (offWith_ne_nackRetry ho) rfl rfl (doFree_off (noisy_sound hs) ch.toNat slot.toNat _ ho)

end

variable (he : (chanOf s ch.toNat).en = true) (hz : (chanOf s ch.toNat).muz = false)
include he hz

theorem take_push (b : Bool) (hl : (chanOf s ch.toNat).litCnt ≠ 0) : Answers s h (.take h b ch) .bounds 0 0 (noisy s) :=
  answers_of (st := .bounds) hm hf nofun rfl rfl (doTake_push (noisy_sound hs) he hz _ b hl)

theorem free_bounds (slot : BitVec 16)
    (hh : (chanOf s ch.toNat).litCnt ≠ 0 ∨ ¬ Holds s ch.toNat slot.toNat (.agent h) .taken) :
    Answers s h (.free h ch slot) .bounds 0 0 (noisy s) :=
  answers_of (st := .bounds) hm hf nofun rfl rfl (doFree_bounds (noisy_sound hs) ch.toNat slot.toNat (.agent h) he hz hh)

theorem commit_bounds (slot : BitVec 16) (hh : ¬ Holds s ch.toNat slot.toNat (.agent h) .resv) :
    Answers s h (.commit h ch slot) .bounds 0 0 (noisy s) :=
  answers_of (st := .bounds) hm hf nofun rfl rfl (doCommit_bounds (noisy_sound hs) ch.toNat slot.toNat _ (.agent h) he hz hh)

/-! A slot that does not allow the operation. -/

section
variable (h0 : (slotAt s ch.toNat (chanOf s ch.toNat).pi).state ≠ .empty)
  (h1 : (slotAt s ch.toNat (chanOf s ch.toNat).pi).state ≠ .poison)
include h0 h1

theorem reserve_full : Answers s h (.reserve h false ch) .slotFull 0 0 (heard s h) :=
  answers_counted (st := .slotFull) (k := 0) (off := 0) hm hf nofun rfl rfl (doReserve_blocks (noisy_sound hs) he hz _ false h0 h1)
    (heard_sc s h) (heard_untouched s h)

theorem reserve_begins {t : State} (hb : beginWait ch.toNat false (.agent h) (noisy s) = t) (hu : Untouched s t)
    (hh : hears s (.reserve h true ch)) : exec (.reserve h true ch) s = .next (arrived (.reserve h true ch) t) :=
  channel_serves rfl rfl hm hf ((doReserve_blocks (noisy_sound hs) he hz _ true h0 h1).trans hb) hu hh

end

section
variable (hl : (chanOf s ch.toNat).litCnt = 0) (h0 : (slotAt s ch.toNat (chanOf s ch.toNat).ci).state ≠ .full)
  (h1 : (slotAt s ch.toNat (chanOf s ch.toNat).ci).state ≠ .poison)
include hl h0 h1

theorem take_empty : Answers s h (.take h false ch) .empty 0 0 (heard s h) :=
  answers_counted (st := .empty) (k := 0) (off := 0) hm hf nofun rfl rfl (doTake_blocks (noisy_sound hs) he hz _ false hl h0 h1)
    (heard_sc s h) (heard_untouched s h)

theorem take_begins {t : State} (hb : beginWait ch.toNat true (.agent h) (noisy s) = t) (hu : Untouched s t)
    (hh : hears s (.take h true ch)) : exec (.take h true ch) s = .next (arrived (.take h true ch) t) :=
  channel_serves rfl rfl hm hf ((doTake_blocks (noisy_sound hs) he hz _ true hl h0 h1).trans hb) hu hh

end

omit hm hf hs he hz in
theorem waiting_untouched {c : Nat} {take : Bool} : Untouched s { heard s h with ken := { (heard s h).ken with
    waits := (heard s h).ken.waits ++ [{ ch := c, take := take, party := .agent h }] } } :=
  (heard_untouched s h).trans {}

/-! A slot that allows it, while nothing waits on the channel. -/

section
variable (hw : ∀ w ∈ s.ken.waits, w.ch ≠ ch.toNat)
include hw

theorem reserve_answers (b : Bool) {st : Status} (hr : Reservable s ch.toNat st) :
    Answers s h (.reserve h b ch) st (BitVec.ofNat 16 (chanOf s ch.toNat).pi)
      (BitVec.ofNat 24 (slotOffset (chanOf s ch.toNat) (chanOf s ch.toNat).pi)) (reserves (heard s h) ch.toNat (.agent h)) := by
  have known : st ≠ .nackRetry := by rcases hr with ⟨-, rfl⟩ | ⟨-, rfl⟩ <;> nofun
  refine channel_serves rfl rfl hm hf ((doReserve_answers (noisy_sound hs) he hz _ b hw hr).trans ?_)
    (emit_untouched _ ((heard_untouched s h).trans {}))
  rw [chCount_answers h h _ _ _ known, reserves_counted]
  rfl

theorem take_answers (b : Bool) {st : Status} (hl : (chanOf s ch.toNat).litCnt = 0) (hr : Takable s ch.toNat st) :
    Answers s h (.take h b ch) st (BitVec.ofNat 16 (chanOf s ch.toNat).ci)
      (BitVec.ofNat 24 (slotOffset (chanOf s ch.toNat) (chanOf s ch.toNat).ci)) (takes (heard s h) ch.toNat (.agent h)) := by
  have known : st ≠ .nackRetry := by rcases hr with ⟨-, rfl⟩ | ⟨-, rfl⟩ <;> nofun
  refine channel_serves rfl rfl hm hf ((doTake_answers (noisy_sound hs) he hz _ b hw hl hr).trans ?_)
    (emit_untouched _ ((heard_untouched s h).trans {}))
  rw [chCount_answers h h _ _ _ known, takes_counted]
  rfl

omit hm hf hs he hz in
theorem idle_after (f : Slot → Slot) (k : Nat) : afterChange ch.toNat (chAnswer (.agent h) .ok 0 0 (setSlot ch.toNat k f (heard s h)))
    = chAnswer (.agent h) .ok 0 0 (setSlot ch.toNat k f (heard s h)) := by
  have waits : (chAnswer (.agent h) .ok 0 0 (setSlot ch.toNat k f (heard s h))).ken.waits = s.ken.waits := by
    rw [chAnswer_ken, heard, countStore_eq]
    rfl
  exact afterChange_idle (by rw [waits]; exact hw)

theorem commit_answers (slot : BitVec 16) (hl : (chanOf s ch.toNat).litCnt = 0)
    (hh : Holds s ch.toNat slot.toNat (.agent h) .resv) :
    Answers s h (.commit h ch slot) .ok 0 0 (setSlot ch.toNat slot.toNat (committed s.env.sc) (heard s h)) :=
  answers_counted (st := .ok) (k := 0) (off := 0) hm hf nofun rfl rfl
    ((doCommit_pull (noisy_sound hs) ch.toNat slot.toNat _ (.agent h) he hz hh hl).trans (idle_after hw _ _))
    (heard_sc s h) ((heard_untouched s h).trans {})

theorem free_answers (slot : BitVec 16) (hl : (chanOf s ch.toNat).litCnt = 0)
    (hh : Holds s ch.toNat slot.toNat (.agent h) .taken) :
    Answers s h (.free h ch slot) .ok 0 0 (setSlot ch.toNat slot.toNat (fun _ => default) (heard s h)) :=
  answers_counted (st := .ok) (k := 0) (off := 0) hm hf nofun rfl rfl
    ((doFree_frees (noisy_sound hs) ch.toNat slot.toNat (.agent h) he hz hh hl).trans (idle_after hw _ _))
    (heard_sc s h) ((heard_untouched s h).trans {})

end

theorem commit_pushes (slot : BitVec 16) (hl : (chanOf s ch.toNat).litCnt ≠ 0)
    (hh : Holds s ch.toNat slot.toNat (.agent h) .resv) (hi : hears s (.commit h ch slot)) :
    exec (.commit h ch slot) s = .next (arrived (.commit h ch slot) (setSlot ch.toNat slot.toNat
      (fun k => { committed s.env.sc k with commit := some (.agent h, h.label % 16) }) (heard s h))) :=
  channel_serves rfl rfl hm hf (doCommit_push (noisy_sound hs) ch.toNat slot.toNat _ (.agent h) he hz hh hl)
    ((heard_untouched s h).trans {}) hi

end

/-! ### A waiting request completes as soon as its slot allows (R172) -/

theorem emit_out {m : OutMsg} {u v : State} (h : u.out = v.out) : (emit m u).out = (emit m v).out := by
  unfold emit
  split
  · exact h
  · rw [h]

/-- Nothing waits on a channel any more. -/
def unwaiting (s : State) : State := { s with ken := { s.ken with waits := [] } }

/-- The only request that waits is a reservation on the channel, and the slot at PI is free: it completes. -/
theorem afterChange_serves {s : State} {ch : Nat} {g : Hdr} {st : Status} (hs : ChannelsSound s) (hm : (chanOf s ch).muz = false)
    (hw : s.ken.waits = [{ ch := ch, take := false, party := .agent g }]) (h : Reservable s ch st) (hn : st ≠ .nackRetry) :
    afterChange ch s = unwaiting (emit (chMsg g st (BitVec.ofNat 16 (chanOf s ch).pi)
          (BitVec.ofNat 24 (slotOffset (chanOf s ch) (chanOf s ch).pi)) s.env.sc) (reserves s ch (.agent g))) := by
  have served : tryReserve ch (.agent g) s = some (emit (chMsg g st (BitVec.ofNat 16 (chanOf s ch).pi)
      (BitVec.ofNat 24 (slotOffset (chanOf s ch) (chanOf s ch).pi)) s.env.sc) (reserves s ch (.agent g))) :=
    (tryReserve_some s ch (.agent g) h).trans (congrArg some (chAnswer_agent g _ _ _ hn))
  generalize chMsg g st (BitVec.ofNat 16 (chanOf s ch).pi) (BitVec.ofNat 24 (slotOffset (chanOf s ch) (chanOf s ch).pi))
    s.env.sc = m at served ⊢
  have alone : (emit m (reserves s ch (.agent g))).ken.waits.erase { ch := ch, take := false, party := .agent g } = [] := by
    have waits : (emit m (reserves s ch (.agent g))).ken.waits = s.ken.waits := by
      rw [emit_rest]
      rfl
    rw [waits, hw, List.erase_cons_head]
  have first : serveOne ch s = some (unwaiting (emit m (reserves s ch (.agent g)))) := by
    have found : (s.ken.waits.find? fun w => w.ch == ch && w.take == false)
        = some { ch := ch, take := false, party := .agent g } := by simp [hw]
    simp only [serveOne, found, Bool.false_eq_true, if_false, checkSlot_sound hs, hm, served, Option.map_some, alone]
    rfl
  have last : serveOne ch (unwaiting (emit m (reserves s ch (.agent g)))) = none := serveOne_none (by simp [unwaiting])
  rw [afterChange, hw, List.length_singleton, serveWaits, first]
  dsimp only
  rw [serveWaits, last]

section
variable {s : State} {h : Hdr} (hm : Admitted s h) (hf : h.ndf = 0) (hs : ChannelsSound s)
include hm hf hs

/-- FREE of the slot at PI hands it to the agent whose reservation waits. -/
theorem free_hands_on {ch : BitVec 8} {slot : BitVec 16} {g : Hdr} (he : (chanOf s ch.toNat).en = true)
    (hz : (chanOf s ch.toNat).muz = false) (hl : (chanOf s ch.toNat).litCnt = 0)
    (hh : Holds s ch.toNat slot.toNat (.agent h) .taken) (hw : s.ken.waits = [{ ch := ch.toNat, take := false, party := .agent g }])
    (hp : (chanOf s ch.toNat).pi = slot.toNat) (hi : hears s (.free h ch slot)) :
    ∃ t, exec (.free h ch slot) s = .next t ∧ t.ken.waits = [] ∧ (slotAt t ch.toNat slot.toNat).state = .resv
      ∧ (slotAt t ch.toNat slot.toNat).holder = some (agentHolder g.agent g.die)
      ∧ (chanOf t ch.toNat).pi = slotAfter (chanOf s ch.toNat) slot.toNat
      ∧ t.out = (emit (chMsg g .ok slot (BitVec.ofNat 24 (slotOffset (chanOf s ch.toNat) slot.toNat)) s.env.sc)
          (emit (chMsg h .ok 0 0 s.env.sc) s)).out := by
  set u := emit (chMsg h .ok 0 0 s.env.sc) (setSlot ch.toNat slot.toNat (fun _ => default) (heard s h)) with hu
  have kept : u.ken = (setSlot ch.toNat slot.toNat (fun _ => default) s).ken := by
    rw [hu, emit_rest, heard, countStore_eq]
    rfl
  have sc : u.env.sc = s.env.sc := by
    rw [hu, emit_rest, heard, countStore_eq]
    rfl
  have chan (c : Nat) : chanOf u c = chanOf s c := by
    rw [chanOf, kept]
    rfl
  have sound : ChannelsSound u := by
    refine ⟨fun c => by rw [chan, hs.chan], fun c k => ?_, fun t => ?_⟩
    · have same : slotAt u c k = slotAt (setSlot ch.toNat slot.toNat (fun _ => default) s) c k := by rw [slotAt, kept, slotAt]
      rw [same]
      by_cases hk : c * 65536 + k = ch.toNat * 65536 + slot.toNat
      · have self : slotAt (setSlot ch.toNat slot.toNat (fun _ => default) s) c k = default := by
          rw [slotAt, hk]
          exact slotAt_setSlot_self s ch.toNat slot.toNat fun _ => default
        rw [self]
        rfl
      · rw [slotAt_setSlot_ne s _ hk]
        exact hs.slot c k
    · rw [targetAt, kept]
      exact hs.target t
  have empty : slotAt u ch.toNat slot.toNat = default := by
    rw [slotAt, kept]
    exact slotAt_setSlot_self s ch.toNat slot.toNat fun _ => default
  have waits : u.ken.waits = [{ ch := ch.toNat, take := false, party := .agent g }] := by rw [kept]; exact hw
  have free : Reservable u ch.toNat .ok := .inl ⟨by rw [chan, hp, empty]; rfl, rfl⟩
  have served := afterChange_serves sound (by rw [chan, hz]) waits free nofun
  rw [chan, hp, BitVec.ofNat_toNat, BitVec.setWidth_eq, sc] at served
  generalize hm2 : chMsg g .ok slot (BitVec.ofNat 24 (slotOffset (chanOf s ch.toNat) slot.toNat)) s.env.sc = m2 at served ⊢
  have freed : Untouched s (setSlot ch.toNat slot.toNat (fun _ => default) (heard s h)) := (heard_untouched s h).trans {}
  have taken : Untouched u (reserves u ch.toNat (.agent g)) := {}
  have idle (v : State) : Untouched v (unwaiting v) := {}
  have untouched : Untouched s (unwaiting (emit m2 (reserves u ch.toNat (.agent g)))) :=
    (emit_untouched m2 ((emit_untouched _ freed).trans taken)).trans (idle _)
  have runs : exec (.free h ch slot) s = .next (arrived (.free h ch slot) (unwaiting (emit m2 (reserves u ch.toNat (.agent g))))) := by
    refine channel_serves rfl rfl hm hf ?_ untouched hi
    refine (doFree_frees (noisy_sound hs) ch.toNat slot.toNat (.agent h) he hz hh hl).trans (Eq.trans ?_ served)
    refine congrArg (afterChange ch.toNat) ((chAnswer_agent (st := .ok) h 0 0 _ nofun).trans ?_)
    exact congrArg (fun sc => emit (chMsg h .ok 0 0 sc) (setSlot ch.toNat slot.toNat (fun _ => default) (heard s h))) (heard_sc s h)
  have same := arrived_same (.free h ch slot) (unwaiting (emit m2 (reserves u ch.toNat (.agent g))))
  have kens : (emit m2 (reserves u ch.toNat (.agent g))).ken = (reserves u ch.toNat (.agent g)).ken := by rw [emit_rest]
  have pis : (chanOf u ch.toNat).pi = slot.toNat := by rw [chan, hp]
  have slots : slotAt (arrived (.free h ch slot) (unwaiting (emit m2 (reserves u ch.toNat (.agent g))))) ch.toNat slot.toNat
      = { (default : Slot) with state := .resv, holder := some (agentHolder g.agent g.die), since := u.env.sc } := by
    rw [slotAt, same.ken, unwaiting]
    dsimp only
    rw [kens, reserves, pis]
    exact slotAt_setSlot_self u ch.toNat slot.toNat fun _ =>
      { (default : Slot) with state := .resv, holder := some (agentHolder g.agent g.die), since := u.env.sc }
  refine ⟨_, runs, ?_, ?_, ?_, ?_, ?_⟩
  · rw [same.ken]
    rfl
  · rw [slots]
  · rw [slots]
  · rw [chanOf, same.ken, unwaiting]
    dsimp only
    rw [kens, reserves, pis, chan]
    exact congrArg Channel.pi (chanOf_setChan_self _ ch.toNat fun c => { c with pi := slotAfter (chanOf s ch.toNat) slot.toNat })
  · have outs : (setSlot ch.toNat slot.toNat (fun _ => default) (heard s h)).out = s.out := by
      rw [heard, countStore_eq]
      rfl
    rw [same.out]
    exact emit_out (emit_out outs)

/-! ### Credits (R177) -/

/-- A target's credits come back to it: what CREDIT needs. -/
def Creditable (s : State) (h : Hdr) (tgt : BitVec 10) (count : BitVec 9) : Prop :=
  (targetAt s tgt.toNat).valid = true ∧ (targetAt s tgt.toNat).agent.toNat = h.agent ∧ (targetAt s tgt.toNat).die.toNat = h.die
    ∧ count ≠ 0 ∧ (targetAt s tgt.toNat).credits + count.toNat ≤ (targetAt s tgt.toNat).nbuf.toNat

omit hm hf hs in
theorem creditable_iff (s : State) (h : Hdr) (tgt : BitVec 10) (count : BitVec 9) :
    (!(targetAt s tgt.toNat).valid || (targetAt s tgt.toNat).agent.toNat != h.agent || (targetAt s tgt.toNat).die.toNat != h.die
      || count.toNat == 0 || decide ((targetAt s tgt.toNat).nbuf.toNat < (targetAt s tgt.toNat).credits + count.toNat)) = true
    ↔ ¬ Creditable s h tgt count := by
  have zero : count.toNat = 0 ↔ count = 0 := ⟨fun h => BitVec.eq_of_toNat_eq h, fun h => by rw [h]; rfl⟩
  simp only [Bool.or_eq_true, Bool.not_eq_true', bne_iff_ne, beq_iff_eq, decide_eq_true_iff, Creditable, zero, ne_eq]
  rw [← Nat.not_le, ← Bool.not_eq_true]
  tauto

omit hm hf in
theorem checkTarget_sound (t : Nat) : checkTarget t (noisy s) = noisy s :=
  if_neg (Bool.eq_false_iff.mp (hs.target t : (targetAt (noisy s) t).parityBad = false))

theorem credit_bounds {tgt : BitVec 10} {count : BitVec 9} (hc : ¬ Creditable s h tgt count) :
    Answers s h (.credit h tgt count) .bounds 0 0 (noisy s) := by
  refine answers_of (st := .bounds) (serve := doCredit h tgt.toNat count.toNat) hm hf nofun rfl rfl ?_
  simp only [doCredit]
  have quiet : noisy (noisy s) = noisy s := rfl
  rw [quiet, checkTarget_sound hs]
  exact if_pos ((creditable_iff s h tgt count).mpr hc)

/-- No push of a channel waits for credits. -/
def NoneAwaits (s : State) : Prop := ∀ d ∈ s.ken.ch, d.2.push = .idle ∨ d.2.push = .pushing

omit hm hf hs in
theorem chanOf_push {s : State} (hp : NoneAwaits s) (ch : Nat) : (chanOf s ch).push = .idle ∨ (chanOf s ch).push = .pushing := by
  rw [chanOf, tget]
  cases hc : tfind s.ken.ch ch with
  | none => exact .inl rfl
  | some d => exact hp (ch, d) (mem_of_tfind hc)

/-- The channels that await a target go on, in their order (entry 57). -/
def resumePushes (t : Nat) (s : State) (ch : Nat) : State :=
  let c := chanOf s ch
  match c.push with
  | .reserving start held =>
    if c.litter[held]? = some t then takeCredits ch start held (c.litter.drop held) s else s
  | _ => s

omit hm hf hs in
theorem resumePushes_idle {s : State} (hp : NoneAwaits s) (t : Nat) (l : List Nat) : l.foldl (resumePushes t) s = s := by
  induction l with
  | nil => rfl
  | cons ch l ih =>
    have stays : resumePushes t s ch = s := by
      rcases chanOf_push hp ch with h | h
      · rw [resumePushes, h]
      · rw [resumePushes, h]
    rw [List.foldl_cons, stays, ih]

theorem credit_returns {tgt : BitVec 10} {count : BitVec 9} (hc : Creditable s h tgt count) (hp : NoneAwaits s) :
    Answers s h (.credit h tgt count) .ok 0 0
      (setTarget tgt.toNat (fun x => { x with credits := x.credits + count.toNat }) (heard s h)) := by
  refine channel_serves (serve := doCredit h tgt.toNat count.toNat) rfl rfl hm hf ?_
    (emit_untouched _ ((heard_untouched s h).trans {}))
  have quiet : noisy (noisy s) = noisy s := rfl
  have counts : chCount (.agent h) (setTarget tgt.toNat (fun x => { x with credits := x.credits + count.toNat }) (noisy s))
      = setTarget tgt.toNat (fun x => { x with credits := x.credits + count.toNat }) (heard s h) := by
    have same (u : State) (f : Target → Target) : (setTarget tgt.toNat f u).cache = u.cache := rfl
    rw [chCount, heard, countStore, countStore, same]
    split <;> rfl
  have answered := chAnswer_agent (st := .ok) h 0 0
    (setTarget tgt.toNat (fun x => { x with credits := x.credits + count.toNat }) (heard s h)) nofun
  have sc : (setTarget tgt.toNat (fun x => { x with credits := x.credits + count.toNat }) (heard s h)).env.sc = s.env.sc :=
    heard_sc s h
  rw [sc] at answered
  simp only [doCredit]
  rw [quiet, checkTarget_sound hs]
  refine (if_neg (mt (creditable_iff s h tgt count).mp (not_not.mpr hc))).trans ?_
  rw [counts, answered]
  refine resumePushes_idle ?_ tgt.toNat _
  have kept (m : OutMsg) : (emit m (setTarget tgt.toNat (fun x => { x with credits := x.credits + count.toNat })
      (heard s h))).ken.ch = s.ken.ch := by
    rw [emit_rest, heard, countStore_eq]
    rfl
  rw [NoneAwaits, kept]
  exact hp

end

/-! ### The obligation -/

/-- Settles O48: the channel operations of agents, and the credits of targets. -/
theorem channelOpsAnswer : Obligations.ChannelOpsAnswer := by
  unfold Obligations.ChannelOpsAnswer
  intro s h ch hm hf hs c v u me after at' rsp done refused full waits agents
  have holds {slot : BitVec 16} {st : SlotState} (hh : c.nslots.toNat ≤ slot.toNat ∨ (slotAt s ch.toNat slot.toNat).state ≠ st
      ∨ (slotAt s ch.toNat slot.toNat).holder ≠ some me) : ¬ Holds s ch.toNat slot.toNat (.agent h) st :=
    fun ⟨h1, h2, h3⟩ => hh.elim (Nat.not_le.mpr h1) fun hh => hh.elim (absurd h2) (absurd h3)
  refine ⟨fun b slot st ho =>
    ⟨reserve_off hm hf hs ho b, take_off hm hf hs ho b, commit_off hm hf hs ho slot, free_off hm hf hs ho slot⟩,
    fun he hz => ⟨fun b => take_push hm hf hs he hz b, fun slot hl => free_bounds hm hf hs he hz slot (.inl hl),
      fun b h0 h1 => ⟨?_, ?_, ?_⟩, fun b hl h0 h1 => ⟨?_, ?_, ?_⟩, fun slot hh => commit_bounds hm hf hs he hz slot (holds hh),
      fun slot _ hh => free_bounds hm hf hs he hz slot (.inr (holds hh)), fun slot hl h1 h2 h3 => ?_,
      fun hw => ⟨fun b st hr => ?_, fun b st hl hr => ?_, fun slot hl h1 h2 h3 => ?_, fun slot hl h1 h2 h3 => ?_⟩,
      fun slot g hl h1 h2 h3 hw hp hi => ?_⟩, fun tgt count => ?_⟩
  · rintro rfl
    exact reserve_full hm hf hs he hz h0 h1
  · rintro rfl hn hh
    exact reserve_begins hm hf hs he hz h0 h1 (beginWait_waits hn) waiting_untouched hh
  · rintro rfl hn hh
    exact reserve_begins hm hf hs he hz h0 h1 (beginWait_full hn) (emit_untouched _ {}) hh
  · rintro rfl
    exact take_empty hm hf hs he hz hl h0 h1
  · rintro rfl hn hh
    exact take_begins hm hf hs he hz hl h0 h1 (beginWait_waits hn) waiting_untouched hh
  · rintro rfl hn hh
    exact take_begins hm hf hs he hz hl h0 h1 (beginWait_full hn) (emit_untouched _ {}) hh
  · exact commit_pushes hm hf hs he hz slot hl ⟨h1, h2, h3⟩
  · have reserved := reserve_answers hm hf hs he hz hw b hr
    rw [slotPosition, reserves_eq, heard_chan, heard_sc] at reserved
    exact reserved
  · have taken := take_answers hm hf hs he hz hw b hl hr
    rw [slotPosition, takes_eq, heard_chan, heard_sc] at taken
    exact taken
  · exact commit_answers hm hf hs he hz hw slot hl ⟨h1, h2, h3⟩
  · exact free_answers hm hf hs he hz hw slot hl ⟨h1, h2, h3⟩
  · have handed := free_hands_on hm hf hs he hz hl ⟨h1, h2, h3⟩ hw hp hi
    rw [slotPosition] at handed
    exact handed
  · exact ⟨fun hn => credit_bounds hm hf hs hn, fun hr hp _ => credit_returns hm hf hs hr hp⟩

end Sys2Proof.Proofs
end

section
/-! SUPPORT. What an engine's write of code words of kennel space leaves in the array, where no access goes before it, and what it leaves
alone (02_data_array_and_boleri_code R54, 06_kennels_and_channels R159); the image of a context (09_sequencer_architecture R259, R260). -/

namespace Sys2Proof.Proofs

open Sys2Proof.Machine Sys2Proof.Safety Sys2Proof.Laws

set_option Elab.async false

/-! ### What an engine's write changes -/

/-- s with the array of t: its cells, the background work on them, what is read, and what the classes are charged. -/
def withArray (s t : State) : State :=
  { s with arr := { s.arr with cells := t.arr.cells, lines := t.arr.lines, written := t.arr.written }
           bg := { s.bg with work := t.bg.work, copies := t.bg.copies }
           fg := { s.fg with reads := t.fg.reads }
           reg := { s.reg with cls := t.reg.cls } }

/-- The states differ in the array alone. -/
def SameOutside (s t : State) : Prop := t = withArray s t

theorem SameOutside.refl (s : State) : SameOutside s s := rfl

theorem SameOutside.trans {s t u : State} (h : SameOutside s t) (k : SameOutside t u) : SameOutside s u := by
  have twice : withArray t u = withArray (withArray s t) u := congrArg (fun x => withArray x u) h
  exact Eq.trans k twice

theorem SameOutside.untouched {s t : State} (h : SameOutside s t) : Untouched s t := by
  rw [h]
  exact {}

theorem SameOutside.seq {s t : State} (h : SameOutside s t) : t.seq = s.seq :=
  (congrArg State.seq h : t.seq = (withArray s t).seq)

theorem SameOutside.saf {s t : State} (h : SameOutside s t) : t.saf = s.saf :=
  (congrArg State.saf h : t.saf = (withArray s t).saf)

theorem SameOutside.tick {s t : State} (h : SameOutside s t) : t.tick = s.tick :=
  (congrArg State.tick h : t.tick = (withArray s t).tick)

theorem SameOutside.env {s t : State} (h : SameOutside s t) : t.env = s.env :=
  (congrArg State.env h : t.env = (withArray s t).env)

theorem SameOutside.out {s t : State} (h : SameOutside s t) : t.out = s.out :=
  (congrArg State.out h : t.out = (withArray s t).out)

theorem writeWord_outside (loc : Nat) (w : CodeWord) (s : State) : SameOutside s (writeWord loc w s) := rfl

/-- A charge changes the counts of classes alone. -/
theorem chargeSector_eq (c bank : Nat) (s : State) : ∃ cls, chargeSector c bank s = { s with reg := { s.reg with cls := cls } } := by
  cases valid : s.tick.cntValid with
  | false => exact ⟨s.reg.cls, by rw [chargeSector, if_neg (by rw [valid]; decide)]⟩
  | true =>
    rw [chargeSector, if_pos valid, charge, if_pos valid]
    exact ⟨_, rfl⟩

theorem chargeSector_outside (c bank : Nat) (s : State) : SameOutside s (chargeSector c bank s) := by
  obtain ⟨cls, e⟩ := chargeSector_eq c bank s
  rw [e]
  exact rfl

theorem cellsOf_chargeSector (c bank loc : Nat) (s : State) : cellsOf (chargeSector c bank s) loc = cellsOf s loc := by
  obtain ⟨cls, e⟩ := chargeSector_eq c bank s
  rw [e]
  rfl

theorem chargeSectors_spec (c : Nat) (secs : List Nat) (s : State) :
    SameOutside s (secs.foldl (fun s x => chargeSector c (secBank x) s) s)
      ∧ ∀ loc, cellsOf (secs.foldl (fun s x => chargeSector c (secBank x) s) s) loc = cellsOf s loc := by
  induction secs generalizing s with
  | nil => exact ⟨.refl s, fun _ => rfl⟩
  | cons x secs ih =>
    obtain ⟨outside, cells⟩ := ih (chargeSector c (secBank x) s)
    exact ⟨(chargeSector_outside c _ s).trans outside, fun loc => (cells loc).trans (cellsOf_chargeSector c _ loc s)⟩

/-- The code words of a list written at the locations that a function gives their indices. -/
def writeAt (f : Nat → Nat) (words : List (CodeWord × Nat)) (s : State) : State :=
  words.foldl (fun s w => writeWord (f w.2) w.1 s) s

theorem writeAt_outside (f : Nat → Nat) (words : List (CodeWord × Nat)) (s : State) : SameOutside s (writeAt f words s) := by
  induction words generalizing s with
  | nil => exact .refl s
  | cons w words ih => exact (writeWord_outside _ _ s).trans (ih _)

theorem wordCells_congr {s t : State} (h : SameOutside s t) (loc : Nat) (w : CodeWord) : wordCells t loc w = wordCells s loc w := by
  rw [h]
  rfl

theorem cellsOf_writeAt_ne {f : Nat → Nat} (lt : ∀ i, f i < 2 ^ 19) {words : List (CodeWord × Nat)} {loc : Nat} (hl : loc < 2 ^ 19)
    (ne : ∀ w ∈ words, loc ≠ f w.2) (s : State) : cellsOf (writeAt f words s) loc = cellsOf s loc := by
  induction words generalizing s with
  | nil => rfl
  | cons w words ih =>
    rw [List.forall_mem_cons] at ne
    exact (ih ne.2 _).trans (cellsOf_writeWord_ne w.1 s (lt _) hl ne.1)

/-- Of words written at different places, each is found where it was written. -/
theorem cellsOf_writeAt {f : Nat → Nat} (lt : ∀ i, f i < 2 ^ 19) {words : List CodeWord} {k : Nat}
    (inj : ∀ i j, i < k + words.length → j < k + words.length → f i = f j → i = j) (s : State) {i : Nat} {w : CodeWord}
    (hw : words[i]? = some w) : cellsOf (writeAt f (words.zipIdx k) s) (f (k + i)) = some (wordCells s (f (k + i)) w) := by
  induction words generalizing k s i with
  | nil => cases hw
  | cons v words ih =>
    rw [List.length_cons] at inj
    have later : ∀ x ∈ words.zipIdx (k + 1), k + 1 ≤ x.2 ∧ x.2 < k + (words.length + 1) := by
      rintro ⟨x, j⟩ hx
      have := List.mem_zipIdx hx
      exact ⟨this.1, by omega⟩
    match i with
    | 0 =>
      obtain rfl : v = w := Option.some.inj hw
      refine (cellsOf_writeAt_ne lt (lt _) (fun x hx e => ?_) (writeWord (f k) v s)).trans (cellsOf_writeWord_self ..)
      have := inj k x.2 (by omega) (later x hx).2 e
      have := (later x hx).1
      omega
    | i + 1 =>
      have inj' : ∀ i j, i < k + 1 + words.length → j < k + 1 + words.length → f i = f j → i = j :=
        fun i j hi hj e => inj i j (by omega) (by omega) e
      rw [List.getElem?_cons_succ] at hw
      have := ih inj' (writeWord (f k) v s) hw
      rw [wordCells_congr (writeWord_outside ..), show k + 1 + i = k + (i + 1) by omega] at this
      exact this

/-- With no access waiting or in the corrector, nothing goes before an engine's. -/
theorem performBefore_idle {s : State} (h : idleArray s) (reads : Bool) (secs : List Nat) (n : Nat) :
    performBefore reads secs n s = s := by
  cases n with
  | zero => rfl
  | succ n => rw [performBefore, h.2, List.find?_nil, h.1]; rfl

theorem engineWrite_idle {s : State} (h : idleArray s) (cls off : Nat) (words : List CodeWord) :
    engineWrite cls off words s = (kennelSecs off (32 * words.length)).foldl (fun s x => chargeSector cls (secBank x) s)
      (writeAt (fun i => kennelLoc (off + 32 * i)) words.zipIdx s) := by
  rw [engineWrite, performBefore_idle h]
  rfl

theorem engineWrite_outside {s : State} (h : idleArray s) (cls off : Nat) (words : List CodeWord) :
    SameOutside s (engineWrite cls off words s) := by
  rw [engineWrite_idle h]
  exact (writeAt_outside ..).trans (chargeSectors_spec ..).1

theorem cellsOf_engineWrite_ne {s : State} (h : idleArray s) (cls off : Nat) (words : List CodeWord) {loc : Nat} (hl : loc < 2 ^ 19)
    (ne : ∀ i, i < words.length → loc ≠ kennelLoc (off + 32 * i)) :
    cellsOf (engineWrite cls off words s) loc = cellsOf s loc := by
  rw [engineWrite_idle h, (chargeSectors_spec ..).2]
  refine cellsOf_writeAt_ne (fun _ => kennelLoc_lt _) hl (fun w hw => ?_) s
  have := List.mem_zipIdx hw
  exact ne _ (by omega)

theorem cellsOf_engineWrite {s : State} (h : idleArray s) (cls : Nat) {off : Nat} {words : List CodeWord} (aligned : off % 32 = 0)
    (fits : off + 32 * words.length ≤ 2 ^ 24) {i : Nat} {w : CodeWord} (hw : words[i]? = some w) :
    cellsOf (engineWrite cls off words s) (kennelLoc (off + 32 * i)) = some (wordCells s (kennelLoc (off + 32 * i)) w) := by
  rw [engineWrite_idle h, (chargeSectors_spec ..).2]
  have := cellsOf_writeAt (f := fun i => kennelLoc (off + 32 * i)) (fun _ => kennelLoc_lt _) (words := words) (k := 0)
    (fun i j hi hj e => by
      have := kennelLoc_injective (by omega) (by omega) (by omega) (by omega) e
      omega) s hw
  rwa [Nat.zero_add] at this

/-! ### The image -/

theorem codesOf_length {n : Nat} (x : BitVec n) (k : Nat) : (codesOf x k).length = k := by rw [codesOf, List.length_map, List.length_range]

theorem saveImage_length (s : State) (c : Nat) (dump : Bool) : (saveImage s c dump).length = 70 := by
  simp [saveImage, imageBody, codesOf_length, List.length_flatMap]

theorem imageOffset_fits (s : State) {c : Nat} (hc : c < 16) :
    imageOffset s c % 32 = 0 ∧ imageOffset s c + 32 * 70 ≤ 2 ^ 24 := by
  have := s.seq.saveBase.isLt
  rw [imageOffset]
  omega

/-- The image that is written stands where its code words go, and nothing else of the array has changed. -/
theorem writeImage_writes {s : State} (idle : idleArray s) {c : Nat} (hc : c < 16) (dump : Bool) :
    SameOutside s (writeImage c dump s)
    ∧ (∀ i w, (saveImage s c dump)[i]? = some w → cellsOf (writeImage c dump s) (kennelLoc (imageOffset s c + 32 * i))
        = some (wordCells s (kennelLoc (imageOffset s c + 32 * i)) (plain w)))
    ∧ ∀ loc, loc < 2 ^ 19 → (∀ i, i < 70 → loc ≠ kennelLoc (imageOffset s c + 32 * i)) →
        cellsOf (writeImage c dump s) loc = cellsOf s loc := by
  have length : ((saveImage s c dump).map plain).length = 70 := by rw [List.length_map, saveImage_length]
  obtain ⟨aligned, fits⟩ := imageOffset_fits s hc
  refine ⟨engineWrite_outside idle .., fun i w hw => ?_, fun loc hl ne => ?_⟩
  · exact cellsOf_engineWrite idle _ (words := (saveImage s c dump).map plain) aligned (by rw [length]; exact fits)
      (by rw [List.getElem?_map, hw]; rfl)
  · exact cellsOf_engineWrite_ne idle _ _ _ hl (by rw [length]; exact ne)

end Sys2Proof.Proofs
end

section
/-! SUPPORT. The events of the sequencer (09_sequencer_architecture R259, R261, R264 to R266; 01_frame_and_timing_contract R25): the muzzle
and the deadlock, the heel, saves and restores, the program scent. -/

namespace Sys2Proof.Proofs

open Sys2Proof.Machine Sys2Proof.Safety Sys2Proof.Laws

set_option Elab.async false

/-! ### The muzzle (R264 to R266) -/

theorem emit_egress_keeps {a : OutMsg} {s : State} (m : OutMsg) (h : a ∈ s.out.egress) : a ∈ (emit m s).out.egress := by
  unfold emit
  split
  · exact h
  · exact List.mem_append_left _ h

theorem ctxFault_untouched (c cause : Nat) (st : Status) (s : State) : Untouched s (ctxFault c cause st s) := by
  obtain ⟨-, -, rest, saf, -, -⟩ := ctxFault_faults c cause st s
  have reported := report_untouched 0x51 1 (0x7000 + c) (detailC c (getCtx s c).pc.toNat cause 0) (Untouched.refl s)
  rw [report_saf] at reported
  rw [rest, saf]
  exact reported.trans {}

/-- What is on its way out stays. -/
theorem ctxFault_egress {a : OutMsg} {s : State} (c cause : Nat) (st : Status) (h : a ∈ s.out.egress) :
    a ∈ (ctxFault c cause st s).out.egress := by
  unfold ctxFault
  dsimp only
  rw [report_saf]
  unfold owedReply
  split
  · split
    · exact emit_egress_keeps _ h
    · exact h
  · exact h

/-- Some contexts have faulted, each with the same cause: what each of them is, and what they have sent. -/
structure AllFault (cs : List Nat) (cause : Nat) (st : Status) (s t : State) : Prop where
  mine : ∀ c ∈ cs, ∃ call, getCtx t c = { faulted cause (getCtx s c) with call := call }
  others : ∀ c, c ∉ cs → getCtx t c = getCtx s c
  rest : t = { s with seq := { s.seq with ctx := t.seq.ctx }, saf := t.saf, out := t.out, fg := t.fg }
  keeps : ∀ m ∈ s.out.egress, m ∈ t.out.egress
  replies : ∀ c ∈ cs, ∀ k, owed (getCtx s c) = some k → k.port ≠ .xp → replyMsg k c st [] (s.env.sc + 4) ∈ t.out.egress
  untouched : Untouched s t

theorem ctxFaults_all (cause : Nat) (st : Status) {cs : List Nat} (once : cs.Nodup) (s : State) :
    AllFault cs cause st s (cs.foldl (fun s c => ctxFault c cause st s) s) := by
  induction cs generalizing s with
  | nil => exact ⟨nofun, fun _ _ => rfl, rfl, fun _ h => h, nofun, Untouched.refl s⟩
  | cons c cs ih =>
    rw [List.nodup_cons] at once
    obtain ⟨mine, others, rest, -, -, reply⟩ := ctxFault_faults c cause st s
    obtain ⟨mine', others', rest', keeps', replies', untouched'⟩ := ih once.2 (ctxFault c cause st s)
    have away {d : Nat} (hd : d ∈ cs) : d ≠ c := fun e => once.1 (e ▸ hd)
    have sc : (ctxFault c cause st s).env.sc = s.env.sc := by rw [rest]
    refine ⟨?_, fun d hd => ?_, ?_, fun m hm => keeps' m (ctxFault_egress c cause st hm), ?_,
      (ctxFault_untouched c cause st s).trans untouched'⟩
    · rintro d (_ | ⟨_, hd⟩)
      · obtain ⟨call, own⟩ := mine
        exact ⟨call, (others' c once.1).trans own⟩
      · obtain ⟨call, own⟩ := mine' d hd
        exact ⟨call, by rw [← others d (away hd)]; exact own⟩
    · rw [List.mem_cons, not_or] at hd
      exact (others' d hd.2).trans (others d hd.1)
    · have twice := congrArg (fun x : State => { x with
        seq := { x.seq with ctx := (cs.foldl (fun s c => ctxFault c cause st s) (ctxFault c cause st s)).seq.ctx }
        saf := (cs.foldl (fun s c => ctxFault c cause st s) (ctxFault c cause st s)).saf
        out := (cs.foldl (fun s c => ctxFault c cause st s) (ctxFault c cause st s)).out
        fg := (cs.foldl (fun s c => ctxFault c cause st s) (ctxFault c cause st s)).fg }) rest
      exact rest'.trans twice
    · rintro d (_ | ⟨_, hd⟩) k hk hp
      · refine keeps' _ ?_
        rw [reply k hk hp]
        exact List.mem_append_right _ (List.mem_singleton_self _)
      · rw [← sc]
        exact replies' d hd k (by rw [others d (away hd)]; exact hk) hp

/-- Reports change the safety record alone. -/
theorem reports_saf {α : Type} (f : α → Nat) (l : List α) (ev react muz : Nat) (s : State) :
    l.foldl (fun s m => report ev react muz (f m) s) s
      = { s with saf := (l.foldl (fun s m => report ev react muz (f m) s) s).saf }
    ∧ Untouched s (l.foldl (fun s m => report ev react muz (f m) s) s) := by
  induction l generalizing s with
  | nil => exact ⟨rfl, Untouched.refl s⟩
  | cons m l ih =>
    obtain ⟨same, untouched⟩ := ih (report ev react muz (f m) s)
    refine ⟨?_, (report_untouched ev react muz (f m) (Untouched.refl s)).trans untouched⟩
    exact same.trans (congrArg (fun x : State => { x with
      saf := (l.foldl (fun s m => report ev react muz (f m) s) (report ev react muz (f m) s)).saf }) (report_saf ..))

/-- The contexts that a muzzle of the sequencer faults. -/
def liveCtxs (s : State) : List Nat := (List.range 16).filter fun c => (getCtx s c).live

theorem mem_liveCtxs {s : State} {c : Nat} : c ∈ liveCtxs s ↔ c < 16 ∧ (getCtx s c).live = true := by
  rw [liveCtxs, List.mem_filter, List.mem_range]

/-- The sequencer as muzzled, before its contexts fault. -/
def muzzling (mcause : Nat) (s : State) : State :=
  report 0x50 1 0x5000 (detailN 0 mcause)
    { s with seq := { s.seq with muz := true, mcause := BitVec.ofNat 2 mcause, heelQ := [], heelAll := [], cur := none } }

/-- The report of each context that a deadlock finds waiting. -/
def deadlockReports (s u : State) : State :=
  (((liveCtxs s).filter fun c => (getCtx s c).state == .wait).map fun c =>
      (c, (getCtx (muzzling 2 s) c).pc.toNat, (getCtx (muzzling 2 s) c).waitMask)).foldl
    (fun s m => report 0x52 0 0 (detailC m.1 m.2.1 0 m.2.2) s) u

/-- The waits of contexts on channels are given up. -/
def withoutCtxWaits (s : State) : State :=
  { s with ken := { s.ken with waits := s.ken.waits.filter fun w => match w.party with
    | .ctx _ _ => false
    | _ => true } }

theorem muzzleSeq_eq {s : State} (h : s.seq.muz = false) (mcause : Nat) :
    muzzleSeq mcause s = withoutCtxWaits
      (if mcause = 2 then deadlockReports s ((liveCtxs s).foldl (fun s c => ctxFault c 5 .muzzled s) (muzzling 2 s))
       else (liveCtxs s).foldl (fun s c => ctxFault c 4 .muzzled s) (muzzling mcause s)) := by
  unfold muzzleSeq
  rw [if_neg (by rw [h]; decide)]
  by_cases deadlock : mcause = 2
  · subst deadlock
    simp only [if_true]
    rfl
  · simp only [if_neg deadlock]
    rfl

/-- What a muzzle of the sequencer leaves, with the cause of its contexts and its own. -/
structure Muzzles (cause : Nat) (why : BitVec 2) (s t : State) : Prop where
  muz : t.seq.muz = true
  mcause : t.seq.mcause = why
  events : t.seq.events = s.seq.events
  faulted : ∀ c, c < 16 → (getCtx s c).live = true →
    (getCtx t c).state = .fault ∧ (getCtx t c).cause = BitVec.ofNat 4 cause ∧ (getCtx t c).pc = (getCtx s c).pc
      ∧ (getCtx t c).g = (getCtx s c).g
  others : ∀ c, c < 16 → (getCtx s c).live = false → getCtx t c = getCtx s c
  waits : ∀ w ∈ t.ken.waits, ∀ c id, w.party ≠ .ctx c id
  replies : ∀ c k, c < 16 → (getCtx s c).live = true → owed (getCtx s c) = some k → k.port ≠ .xp →
    replyMsg k c .muzzled [] (s.env.sc + 4) ∈ t.out.egress
  untouched : Untouched s t

theorem withoutCtxWaits_waits (s : State) : ∀ w ∈ (withoutCtxWaits s).ken.waits, ∀ c id, w.party ≠ .ctx c id := by
  intro w hw c id e
  have kept := List.of_mem_filter hw
  rw [e] at kept
  cases kept

theorem muzzling_eq (mcause : Nat) (s : State) : ∃ saf, muzzling mcause s = { s with
    seq := { s.seq with muz := true, mcause := BitVec.ofNat 2 mcause, heelQ := [], heelAll := [], cur := none }, saf := saf } :=
  ⟨_, report_saf ..⟩

theorem muzzling_untouched (mcause : Nat) (s : State) : Untouched s (muzzling mcause s) := report_untouched _ _ _ _ {}

/-- The live contexts fault, whatever is reported of them, and the waits of contexts go. -/
theorem muzzles_of_faults {s v : State} (mcause cause : Nat)
    (hv : v = { (liveCtxs s).foldl (fun s c => ctxFault c cause .muzzled s) (muzzling mcause s) with saf := v.saf })
    (hu : Untouched ((liveCtxs s).foldl (fun s c => ctxFault c cause .muzzled s) (muzzling mcause s)) v) :
    Muzzles cause (BitVec.ofNat 2 mcause) s (withoutCtxWaits v) := by
  obtain ⟨saf, before⟩ := muzzling_eq mcause s
  obtain ⟨mine, others, rest, -, replies, untouched⟩ := ctxFaults_all cause .muzzled (cs := liveCtxs s)
    (List.nodup_range.filter _) (muzzling mcause s)
  generalize hw : (liveCtxs s).foldl (fun s c => ctxFault c cause .muzzled s) (muzzling mcause s) = w at *
  have same (c : Nat) : getCtx (muzzling mcause s) c = getCtx s c := by rw [before]; rfl
  have after (c : Nat) : getCtx (withoutCtxWaits v) c = getCtx w c := by rw [hv]; rfl
  have outs : (withoutCtxWaits v).out = w.out := by rw [hv]; rfl
  have sc : (muzzling mcause s).env.sc = s.env.sc := by rw [before]
  have seqs : (withoutCtxWaits v).seq = { s.seq with
      muz := true, mcause := BitVec.ofNat 2 mcause, heelQ := [], heelAll := [], cur := none, ctx := w.seq.ctx } := by
    rw [hv]
    change w.seq = _
    rw [rest, before]
  refine ⟨by rw [seqs], by rw [seqs], by rw [seqs], fun c hc hl => ?_, fun c hc hl => ?_, withoutCtxWaits_waits v,
    fun c k hc hl hk hp => ?_, ?_⟩
  · obtain ⟨call, own⟩ := mine c (mem_liveCtxs.2 ⟨hc, hl⟩)
    rw [after, own, same]
    exact ⟨rfl, rfl, rfl, rfl⟩
  · rw [after, others c fun k => Bool.false_ne_true (hl.symm.trans (mem_liveCtxs.1 k).2), same]
  · rw [outs, ← sc]
    exact replies c (mem_liveCtxs.2 ⟨hc, hl⟩) k (by rw [same]; exact hk) hp
  · exact (((muzzling_untouched mcause s).trans untouched).trans hu).trans {}

theorem muzzleSeq_muzzles {s : State} (h : s.seq.muz = false) {mcause cause : Nat} (hc : cause = if mcause = 2 then 5 else 4) :
    Muzzles cause (BitVec.ofNat 2 mcause) s (muzzleSeq mcause s) := by
  rw [muzzleSeq_eq h]
  by_cases deadlock : mcause = 2
  · subst deadlock
    subst hc
    obtain ⟨reported, untouched⟩ := reports_saf (fun m : Nat × Nat × Word64 => detailC m.1 m.2.1 0 m.2.2)
      (((liveCtxs s).filter fun c => (getCtx s c).state == .wait).map fun c =>
        (c, (getCtx (muzzling 2 s) c).pc.toNat, (getCtx (muzzling 2 s) c).waitMask)) 0x52 0 0
      ((liveCtxs s).foldl (fun s c => ctxFault c 5 .muzzled s) (muzzling 2 s))
    rw [if_pos rfl]
    exact muzzles_of_faults 2 5 reported untouched
  · rw [if_neg deadlock]
    rw [if_neg deadlock] at hc
    subst hc
    exact muzzles_of_faults mcause 4 rfl (Untouched.refl _)

/-! ### The heel (R25) -/

theorem heelWaiters_iff {s : State} {c : Nat} : c ∈ heelWaiters s
    ↔ c < 16 ∧ (getCtx s c).state = .wait ∧ (getCtx s c).wait = .heel s.tick.counter := by
  have heel : ((getCtx s c).heelWait == some s.tick.counter) = true ↔ (getCtx s c).wait = .heel s.tick.counter := by
    rw [beq_iff_eq, Ctx.heelWait]
    cases (getCtx s c).wait with
    | heel h => simp
    | _ => simp
  rw [heelWaiters, List.mem_filter, List.mem_range, Bool.and_eq_true, decide_eq_true_eq, heel]

/-- Waits of some contexts released with OK: what those contexts are, and that nothing else has changed. -/
structure Released (cs : List Nat) (s t : State) : Prop where
  mine : ∀ c ∈ cs, ∃ id, getCtx t c = released id (getCtx s c)
  others : ∀ c, c ∉ cs → getCtx t c = getCtx s c
  rest : t = { s with seq := { s.seq with ctx := t.seq.ctx, nextId := t.seq.nextId } }

theorem releaseWaits_released {cs : List Nat} (once : cs.Nodup) (s : State) :
    Released cs s (cs.foldl (fun s c => releaseWait c .ok s) s) := by
  induction cs generalizing s with
  | nil => exact ⟨nofun, fun _ _ => rfl, rfl⟩
  | cons c cs ih =>
    rw [List.nodup_cons] at once
    obtain ⟨mine, others, rest⟩ := ih once.2 (releaseWait c .ok s)
    have first := releaseWait_ok c s
    have own : getCtx (releaseWait c .ok s) c = released s.seq.nextId (getCtx s c) := by
      rw [first]
      exact getCtx_setCtx_self _ _ _
    have away {d : Nat} (hd : d ≠ c) : getCtx (releaseWait c .ok s) d = getCtx s d := by
      rw [first]
      exact getCtx_setCtx_ne _ _ hd
    refine ⟨?_, fun d hd => ?_, ?_⟩
    · rintro d (_ | ⟨_, hd⟩)
      · exact ⟨_, (others c once.1).trans own⟩
      · obtain ⟨id, h⟩ := mine d hd
        exact ⟨id, by rw [← away (fun e => once.1 (e ▸ hd))]; exact h⟩
    · rw [List.mem_cons, not_or] at hd
      exact (others d hd.2).trans (away hd.1)
    · exact rest.trans (congrArg (fun x : State => { x with seq := { x.seq with
        ctx := (cs.foldl (fun s c => releaseWait c .ok s) (releaseWait c .ok s)).seq.ctx
        nextId := (cs.foldl (fun s c => releaseWait c .ok s) (releaseWait c .ok s)).seq.nextId } }) first)

/-- The sc of the first turn of the contexts that a heel releases (entry 50). -/
def firstTurn (s : State) : Nat := max (s.env.sc + 2) (match s.seq.heelQ.getLast? with
  | some p => p.2 + 1
  | none => 0)

/-- The contexts that a heel has released in u and that take the issue slot. -/
def heelRunners (s u : State) : List Nat := (heelWaiters s).filter fun c => (getCtx u c).state == .ready

theorem execHeelRelease_next {s : State} (hu : inUse s) (due : heelDue s = true) {u : State}
    (he : (heelWaiters s).foldl (fun s c => releaseWait c .ok s) s = u) (hr : Released (heelWaiters s) s u) :
    exec .heelRelease s = .next { u with seq := { u.seq with
      heelQ := s.seq.heelQ ++ (heelRunners s u).zipIdx (firstTurn s), heelAll := s.seq.heelAll ++ heelRunners s u } } := by
  unfold exec execHeelRelease
  refine eventIf_answers hu due (t := { u with seq := { u.seq with
      heelQ := s.seq.heelQ ++ (heelRunners s u).zipIdx (firstTurn s), heelAll := s.seq.heelAll ++ heelRunners s u } }) ?_ ?_
  · subst he
    have seq : ((heelWaiters s).foldl (fun s c => releaseWait c .ok s) s).seq.heelQ = s.seq.heelQ := by rw [hr.rest]
    have all : ((heelWaiters s).foldl (fun s c => releaseWait c .ok s) s).seq.heelAll = s.seq.heelAll := by rw [hr.rest]
    have sc : ((heelWaiters s).foldl (fun s c => releaseWait c .ok s) s).env.sc = s.env.sc := by rw [hr.rest]
    dsimp only
    rw [seq, all, sc]
    rfl
  · rw [hr.rest]
    exact {}

theorem heelRelease_answers {s : State} (hu : inUse s) (due : heelDue s = true) :
    ∃ t q, exec .heelRelease s = .next t
      ∧ (∀ c, c < 16 → ((getCtx s c).state = .wait ∧ (getCtx s c).wait = .heel s.tick.counter) →
          ∃ id, getCtx t c = released id (getCtx s c))
      ∧ (∀ c, c < 16 → ¬ ((getCtx s c).state = .wait ∧ (getCtx s c).wait = .heel s.tick.counter) → getCtx t c = getCtx s c)
      ∧ t.seq.heelQ = s.seq.heelQ ++ q.zipIdx (firstTurn s)
      ∧ (∀ c, c ∈ q ↔ c < 16 ∧ ((getCtx s c).state = .wait ∧ (getCtx s c).wait = .heel s.tick.counter)
          ∧ (getCtx s c).haltPend = false)
      ∧ q.Pairwise (· < ·)
      ∧ t = { s with seq := { s.seq with ctx := t.seq.ctx, nextId := t.seq.nextId, heelQ := t.seq.heelQ
                                         heelAll := s.seq.heelAll ++ q } } := by
  have hr := releaseWaits_released (cs := heelWaiters s) (List.nodup_range.filter _) s
  generalize he : (heelWaiters s).foldl (fun s c => releaseWait c .ok s) s = u at hr
  obtain ⟨mine, others, rest⟩ := hr
  refine ⟨_, heelRunners s u, execHeelRelease_next hu due he ⟨mine, others, rest⟩, fun c hc hd => ?_, fun c hc hd => ?_, rfl,
    fun c => ?_, ?_, ?_⟩
  · exact mine c (heelWaiters_iff.2 ⟨hc, hd⟩)
  · exact others c fun k => hd (heelWaiters_iff.1 k).2
  · rw [heelRunners, List.mem_filter, beq_iff_eq]
    constructor
    · rintro ⟨waits, ready⟩
      obtain ⟨id, own⟩ := mine c waits
      obtain ⟨hc, hd⟩ := heelWaiters_iff.1 waits
      refine ⟨hc, hd, ?_⟩
      rw [own] at ready
      by_contra halting
      rw [Bool.not_eq_false] at halting
      rw [released, halting] at ready
      cases ready
    · rintro ⟨hc, hd, runs⟩
      have waits := heelWaiters_iff.2 ⟨hc, hd⟩
      obtain ⟨id, own⟩ := mine c waits
      refine ⟨waits, ?_⟩
      rw [own, released, runs]
      rfl
  · exact (List.pairwise_lt_range.filter _).filter _
  · exact congrArg (fun x : State => { x with seq := { x.seq with
      heelQ := s.seq.heelQ ++ (heelRunners s u).zipIdx (firstTurn s), heelAll := s.seq.heelAll ++ heelRunners s u } }) rest

/-! ### Saves, restores, the program scent (R259, R261, R389) -/

theorem contextSave_answers {s : State} {c : Fin 16} (hu : inUse s) (xfer : (getCtx s c).state = .xfer)
    (fresh : (getCtx s c).image = none) (ended : (getCtx s c).pend = []) (idle : idleArray s) :
    ∃ t, exec (.contextSave c) s = .next t
      ∧ getCtx t c = { getCtx s c with state := .susp } ∧ (∀ d, d ≠ c.val → getCtx t d = getCtx s d)
      ∧ (∀ i w, (saveImage s c false)[i]? = some w →
          cellsOf t (kennelLoc (imageOffset s c + 32 * i)) = some (wordCells s (kennelLoc (imageOffset s c + 32 * i)) (plain w)))
      ∧ (∀ loc, loc < 2 ^ 19 → (∀ i, i < 70 → loc ≠ kennelLoc (imageOffset s c + 32 * i)) → cellsOf t loc = cellsOf s loc) := by
  obtain ⟨outside, written, kept⟩ := writeImage_writes idle c.isLt false
  have due : saveDue s c = true := by rw [saveDue, xfer, fresh, ended]; rfl
  have ctx (d : Nat) : getCtx (writeImage c false s) d = getCtx s d := by rw [outside]; rfl
  refine ⟨_, eventIf_answers (due := fun s => saveDue s c)
    (body := fun s => setCtx c (fun x => { x with state := .susp }) (writeImage c false s)) hu due rfl
    (outside.untouched.trans {}), ?_, fun d hd => ?_, fun i w hw => written i w hw,
    fun loc hl ne => kept loc hl ne⟩
  · rw [getCtx_setCtx_self, ctx]
  · rw [getCtx_setCtx_ne _ _ hd, ctx]

theorem restoreReadsEnd_answers {s : State} {c : Fin 16} (hu : inUse s) {m : Image} (xfer : (getCtx s c).state = .xfer)
    (image : (getCtx s c).image = some m) (waits : m.ready = false) (read : m.readAt ≤ s.env.sc) :
    ∃ t, exec (.restoreReadsEnd c) s = .next t
      ∧ getCtx t c = { getCtx s c with image := some { m with ready := true } } ∧ (∀ d, d ≠ c.val → getCtx t d = getCtx s d)
      ∧ t.seq.done = s.seq.done ++ (match m.asker with
        | some id => [Result.mk s.env.sc 0 id (some .ok) [] []]
        | none => [])
      ∧ t = { s with seq := { s.seq with ctx := t.seq.ctx, done := t.seq.done } } := by
  have due : restoreDue s c = true := by
    rw [restoreDue, xfer, image]
    simp [waits, read]
  obtain ⟨words, readAt, _, asker, susp⟩ := m
  let m : Image := { words := words, readAt := readAt, ready := true, asker := asker, susp := susp }
  let ready : State := setCtx c (fun x => { x with image := some m }) s
  have own : getCtx ready c = { getCtx s c with image := some m } := getCtx_setCtx_self _ _ _
  have others (d : Nat) (hd : d ≠ c.val) : getCtx ready d = getCtx s d := getCtx_setCtx_ne _ _ hd
  unfold exec execRestoreReadsEnd
  cases asker with
  | none =>
    refine ⟨ready, eventIf_answers (due := fun s => restoreDue s c) hu due ?_, own, others, (List.append_nil _).symm, rfl⟩
    dsimp only
    rw [image] <;> rfl
  | some id =>
    refine ⟨completeSts s.env.sc 0 id .ok ready, eventIf_answers (due := fun s => restoreDue s c) hu due ?_, own, others, rfl, rfl⟩
    dsimp only
    rw [image] <;> rfl

theorem pscentDone_answers {s : State} (hu : inUse s) (busy : s.det.psBusy ≠ 0) (elapsed : s.det.psBusy ≤ s.env.sc) :
    exec .pscentDone s = .next { s with
      fresh := s.fresh + 1, det := { s.det with psBusy := 0, psValid := true, psDigest := programScent s } } :=
  eventIf_answers (due := pscentDue) (body := fun s => { s with
    fresh := s.fresh + 1, det := { s.det with psBusy := 0, psValid := true, psDigest := programScent s } })
    hu (by simp [pscentDue, busy, elapsed]) rfl

theorem muzzles_events {s t : State} {why : BitVec 2} {cause : Nat} (h : Muzzles cause why s t) :
    t.seq.muz = true ∧ t.seq.mcause = why ∧ t.seq.events = s.seq.events
      ∧ (∀ c, c < 16 → (getCtx s c).live = true → (getCtx t c).state = .fault ∧ (getCtx t c).cause = BitVec.ofNat 4 cause
          ∧ (getCtx t c).pc = (getCtx s c).pc ∧ (getCtx t c).g = (getCtx s c).g)
      ∧ (∀ c, c < 16 → (getCtx s c).live = false → getCtx t c = getCtx s c)
      ∧ (∀ w ∈ t.ken.waits, ∀ c id, w.party ≠ .ctx c id)
      ∧ (∀ c k, c < 16 → (getCtx s c).live = true → (getCtx s c).call = some k → k.reply = true → k.port ≠ .xp →
          ∃ a ∈ t.out.egress, a.op = 0xA ∧ a.body = .callRsp .muzzled (BitVec.ofNat 4 c) ∧ a.txn = k.txn ∧ a.data = []
            ∧ a.dstAgent = k.holder.toNat % 256 ∧ a.ready = s.env.sc + 4) :=
  ⟨h.muz, h.mcause, h.events, h.faulted, h.others, h.waits, fun c k hc hl called replies away =>
    ⟨_, h.replies c k hc hl (owed_some called replies) away, rfl, rfl, rfl, rfl, rfl, rfl⟩⟩

/-- Settles O50. -/
theorem sequencerEventsAnswer : Obligations.SequencerEventsAnswer := by
  unfold Obligations.SequencerEventsAnswer
  refine ⟨fun s parity hu => ⟨fun muz => ?_, fun quiet => ?_, fun due => ?_⟩, fun s hu due => heelRelease_answers hu due,
    fun s c hu => ⟨fun xfer fresh ended idle _ => contextSave_answers hu xfer fresh ended idle,
      fun m xfer image waits read => restoreReadsEnd_answers hu xfer image waits read⟩,
    fun s hu busy elapsed => pscentDone_answers hu busy elapsed⟩
  · refine event_answers hu (t := s) (body := muzzleSeq (if parity then 3 else 1)) ?_
    rw [muzzleSeq, if_pos muz]
  · cases parity with
    | true =>
      have h := muzzleSeq_muzzles quiet (mcause := 3) rfl
      exact ⟨_, event_answers (body := muzzleSeq _) hu rfl h.untouched, muzzles_events h⟩
    | false =>
      have h := muzzleSeq_muzzles quiet (mcause := 1) rfl
      exact ⟨_, event_answers (body := muzzleSeq _) hu rfl h.untouched, muzzles_events h⟩
  · have quiet : s.seq.muz = false := by
      rw [deadlockDue, Bool.and_eq_true, Bool.not_eq_true'] at due
      exact due.2
    have h := muzzleSeq_muzzles (s := { s with env := { s.env with done := { s.env.done with deadlock := false } } }) quiet
      (mcause := 2) (cause := 5) rfl
    have left := muzzles_events h
    have untouched : Untouched s { s with env := { s.env with done := { s.env.done with deadlock := false } } } := {}
    exact ⟨_, eventIf_answers (due := deadlockDue) (body := fun s => muzzleSeq 2 { s with
      env := { s.env with done := { s.env.done with deadlock := false } } }) hu due rfl (untouched.trans h.untouched), left⟩

end Sys2Proof.Proofs
end

section
/-! SUPPORT. The events of a mover engine (11_bulk_mover R320 to R330): the check of its state, a request that is issued, the end of a
move, its watchdog. -/

namespace Sys2Proof.Proofs

open Sys2Proof.Machine Sys2Proof.Safety Sys2Proof.Laws

set_option Elab.async false

/-! ### The state of an engine -/

theorem engineOf_setEngine_self (e : Nat) (f : Engine → Engine) (s : State) : engineOf (setEngine e f s) e = f (engineOf s e) := by
  simp [engineOf, setEngine]

theorem engineOf_setEngine_ne {d e : Nat} (f : Engine → Engine) (s : State) (h : d ≠ e) :
    engineOf (setEngine e f s) d = engineOf s d := by
  simp [engineOf, setEngine, tget_tmod_ne _ _ _ h]

/-- Engine e of s has become f, and nothing else has changed. -/
structure EngineSet (e : Nat) (f : Engine) (s t : State) : Prop where
  mine : engineOf t e = f
  others : ∀ d, d ≠ e → engineOf t d = engineOf s d
  rest : t = { s with mov := { s.mov with eng := t.mov.eng } }

theorem EngineSet.refl (e : Nat) (s : State) : EngineSet e (engineOf s e) s s := ⟨rfl, fun _ _ => rfl, rfl⟩

theorem EngineSet.set {e : Nat} {f : Engine} {s t : State} (h : EngineSet e f s t) (k : Engine → Engine) :
    EngineSet e (k f) s (setEngine e k t) where
  mine := (engineOf_setEngine_self e k t).trans (congrArg k h.mine)
  others d hd := (engineOf_setEngine_ne k t hd).trans (h.others d hd)
  rest := congrArg (fun x : State => { x with mov := { x.mov with eng := (setEngine e k t).mov.eng } }) h.rest

theorem EngineSet.untouched {e : Nat} {f : Engine} {s t : State} (h : EngineSet e f s t) : Untouched s t := by
  rw [h.rest]
  exact {}

theorem checkEngine_ok {s : State} {e : Nat} (h : (engineOf s e).parityBad = false) : checkEngine e s = s :=
  if_neg (by rw [h]; exact Bool.false_ne_true)

/-- An engine whose state fails its check, with its report (R330). -/
def engineFailed (e : Nat) (s : State) : State :=
  report 0x59 1 (0x6000 + e) (e * 2 ^ 104) (setEngine e (fun g => { g with muz := true }) s)

theorem checkEngine_bad {s : State} {e : Nat} (h : (engineOf s e).parityBad = true) (active : engineMuzzled s (engineOf s e) = false) :
    checkEngine e s = engineFailed e s :=
  if_pos (by rw [h, active]; rfl)

theorem engineFailed_untouched (e : Nat) (s : State) : Untouched s (engineFailed e s) := report_untouched _ _ _ _ {}

theorem engineOf_engineFailed (e d : Nat) (s : State) :
    engineOf (engineFailed e s) d = engineOf (setEngine e (fun g => { g with muz := true }) s) d := by
  rw [engineFailed, report_saf]
  rfl

/-- An event of an engine whose state fails its check: the engine is muzzled instead, with a report. -/
theorem engine_muzzles {s : State} {e : Fin 8} {due : State → Bool} {body : State → State} (hu : inUse s) (hd : due s = true)
    (bad : (engineOf s e).parityBad = true) (active : engineMuzzled s (engineOf s e) = false)
    (checks : ∀ s, (engineOf (checkEngine e s) e).muz = true → body s = checkEngine e s) :
    ∃ t, eventIf due s body = .next t ∧ engineOf t e = { engineOf s e with muz := true }
      ∧ (∀ f, f ≠ e.val → engineOf t f = engineOf s f) ∧ t.saf = (report 0x59 1 (0x6000 + e) (e.val * 2 ^ 104) s).saf
      ∧ t.out = s.out ∧ t.arr = s.arr := by
  have failed := checkEngine_bad bad active
  have own : engineOf (engineFailed e s) e = { engineOf s e with muz := true } := by
    rw [engineOf_engineFailed, engineOf_setEngine_self]
  have hb : body s = engineFailed e s := by
    rw [checks s (by rw [failed, own]), failed]
  refine ⟨_, eventIf_answers hu hd hb (engineFailed_untouched e s), own, fun f hf => ?_, ?_, ?_, ?_⟩
  · rw [engineOf_engineFailed, engineOf_setEngine_ne _ _ hf]
  · exact report_congr (s := s) (u := setEngine e _ s) rfl rfl rfl _ _ _ _
  · rw [engineFailed, report_saf]
    rfl
  · rw [engineFailed, report_saf]
    rfl

theorem moveCanIssue_active {s : State} {e : Nat} (h : moveCanIssue s e = true) : engineMuzzled s (engineOf s e) = false := by
  rw [moveCanIssue, Bool.and_eq_true, Bool.and_eq_true, Bool.not_eq_true'] at h
  exact h.1.2

theorem moveCanIssue_busy {s : State} {e : Nat} (h : moveCanIssue s e = true) : (engineOf s e).busy = true := by
  rw [moveCanIssue, Bool.and_eq_true, Bool.and_eq_true] at h
  exact h.1.1

theorem moveEndDue_active {s : State} {e : Nat} (h : moveEndDue s e = true) : engineMuzzled s (engineOf s e) = false := by
  rw [moveEndDue, Bool.and_eq_true, Bool.and_eq_true, Bool.not_eq_true'] at h
  exact h.1.2

theorem moveExpired_active {s : State} {e : Nat} (h : moveExpired s e = true) : engineMuzzled s (engineOf s e) = false := by
  simp only [moveExpired, Bool.and_eq_true, Bool.not_eq_true'] at h
  exact h.1.1.1.1.2

theorem engineMuzzled_own {s : State} {g : Engine} (h : engineMuzzled s g = false) : g.muz = false := by
  rw [engineMuzzled, Bool.or_eq_false_iff] at h
  exact h.1

/-! ### A request that the slice originates -/

theorem originate_rest (who : Option Origin) (m : OutMsg) (s : State) :
    originate who m s = { s with out := (originate who m s).out, fg := (originate who m s).fg } := by
  unfold originate emit
  cases who with
  | none =>
    dsimp only
    split <;> rfl
  | some w =>
    dsimp only
    split <;> rfl

theorem originate_egress (who : Option Origin) {m : OutMsg} (s : State) (h : m.port ≠ .xp) :
    (originate who m s).out.egress = s.out.egress ++ [m] := by
  unfold originate
  rw [emit_egress _ h]
  cases who with
  | none => rfl
  | some w => rfl

theorem originate_orig (who : Option Origin) {m : OutMsg} (s : State) (h : m.port ≠ .xp) :
    (originate who m s).out.orig = s.out.orig ++ (who.map fun w => Originated.mk m.txn w m).toList := by
  unfold originate emit
  cases who with
  | none =>
    dsimp only
    rw [if_neg h]
    exact (List.append_nil _).symm
  | some w =>
    dsimp only
    rw [if_neg h]
    rfl

theorem originMsg_port (s : State) (cls : MsgClass) (op a d : Nat) (line : LineAddr) (label : Nat) (body : Body)
    (data : List CodeWord) (ready : Nat) : (originMsg s cls op a d line label body data ready).port ≠ .xp := by
  rw [originMsg]
  dsimp only
  split <;> split <;> decide

/-! ### A request of a move (R320 to R323) -/

/-- The state with other engines. -/
def withEngines (s : State) (eng : Table Engine) : State := { s with mov := { s.mov with eng := eng } }

theorem inOwnPart_engines (s : State) (eng : Table Engine) (a : Nat) : inOwnPart (withEngines s eng) a = inOwnPart s a := rfl

theorem readRefused_engines (s : State) (eng : Table Engine) (offs : List Nat) :
    readRefused (withEngines s eng) offs = readRefused s offs := rfl

theorem writeRefused_engines (s : State) (eng : Table Engine) (holder : Option (BitVec 14)) (offs : List Nat) :
    writeRefused (withEngines s eng) holder offs = writeRefused s holder offs := rfl

theorem channelsSound_engines {s : State} (h : ChannelsSound s) (eng : Table Engine) : ChannelsSound (withEngines s eng) :=
  ⟨h.chan, h.slot, h.target⟩

/-- Where a request of a move is in memory. -/
def requestAt (g : Engine) (r : MoveReq) : Nat := (if r.write then g.dst else g.src) + r.off

/-- The code words of its line that a request names. -/
def requestWords (g : Engine) (r : MoveReq) : BitVec 8 :=
  BitVec.ofNat 8 ((2 ^ (r.len / 32) - 1) * 2 ^ (requestAt g r % 256 / 32))

/-- The kennel offsets of the code words of a request. -/
def requestOffs (g : Engine) (r : MoveReq) : List Nat := (List.range (r.len / 32)).map fun i => requestAt g r % 2 ^ 24 + 32 * i

/-- The status that refuses a request to this slice's part of the window. -/
def requestRefused (s : State) (g : Engine) (r : MoveReq) : Option Status :=
  if r.write then writeRefused s g.holder (requestOffs g r) else readRefused s (requestOffs g r)

/-- The message of a request to memory elsewhere. -/
def requestMsg (s : State) (g : Engine) (r : MoveReq) : OutMsg :=
  let req (op : Nat) (body : Body) (data : List CodeWord) : OutMsg := originMsg s .req op 255 s.env.idDie.toNat
    (BitVec.ofNat 40 (requestAt g r / 256)) g.cls body data (s.env.sc + 4)
  if r.write then (if requestWords g r = 255 then req 4 .none r.data else req 5 (.cwMask (requestWords g r)) r.data)
  else req 3 (.readReq (sectorsOf (requestWords g r)) (BitVec.ofNat 2 (requestAt g r % 256 / 32 / 2))) []

/-- The array access of a request to this slice's part of the window. -/
def requestAccess (s : State) (e : Nat) (g : Engine) (r : MoveReq) : Access :=
  if r.write then writeAccess (s.env.sc + 1) g.cls (4 + e) true
    ((r.data.zipIdx).foldl (fun t w => tput t (kennelLoc (requestAt g r % 2 ^ 24 + 32 * w.2)) w.1) []) (.moveWrite e g.serial r.off)
  else readAccess (s.env.sc + 1) g.cls (4 + e) true (kennelSecs (requestAt g r % 2 ^ 24) r.len)
    (.moveRead e g.serial r.off (requestAt g r % 2 ^ 24 / 32 % 2) (r.len / 32))

theorem moveIssue_far {e : Nat} {r : MoveReq} {s : State} (h : inOwnPart s (requestAt (engineOf s e) r) = false) :
    moveIssue e r s = originate (some (.move e (engineOf s e).serial r.off r.write)) (requestMsg s (engineOf s e) r) s := by
  unfold moveIssue
  dsimp only
  rw [if_neg (by rw [← requestAt, h]; exact Bool.false_ne_true)]
  cases hw : r.write with
  | true => simp only [requestMsg, requestWords, requestAt, hw, if_true]
  | false => simp only [requestMsg, requestWords, requestAt, hw, if_false, Bool.false_eq_true]

theorem moveIssue_near {e : Nat} {r : MoveReq} {s : State} (h : inOwnPart s (requestAt (engineOf s e) r) = true)
    (sound : ChannelsSound s) (ok : requestRefused s (engineOf s e) r = none) :
    moveIssue e r s = enqueue (requestAccess s e (engineOf s e) r) s := by
  unfold moveIssue
  dsimp only
  rw [requestAt] at h
  rw [if_pos h, checkSlots_sound sound]
  rw [requestRefused] at ok
  cases hw : r.write with
  | true =>
    rw [hw] at ok
    simp only [requestAt, requestOffs, requestAccess, hw, if_true] at ok ⊢
    rw [ok]
  | false =>
    rw [hw] at ok
    simp only [requestAt, requestOffs, requestAccess, hw, if_false, Bool.false_eq_true] at ok ⊢
    rw [ok]

theorem moveIssue_refused {e : Nat} {r : MoveReq} {s : State} {st : Status} (h : inOwnPart s (requestAt (engineOf s e) r) = true)
    (sound : ChannelsSound s) (bad : requestRefused s (engineOf s e) r = some st) :
    moveIssue e r s = moveFailed e (engineOf s e).serial r.off r.write st s := by
  unfold moveIssue
  dsimp only
  rw [requestAt] at h
  rw [if_pos h, checkSlots_sound sound]
  rw [requestRefused] at bad
  cases hw : r.write with
  | true =>
    rw [hw] at bad
    simp only [requestAt, requestOffs, hw, if_true] at bad ⊢
    rw [bad]
  | false =>
    rw [hw] at bad
    simp only [requestAt, requestOffs, hw, if_false, Bool.false_eq_true] at bad ⊢
    rw [bad]

/-- f is the engine g with other requests issued, under way, or to be sent again. -/
def Rearranged (g f : Engine) : Prop := ∃ pos next flight again buf issued,
  f = { g with pos := pos, next := next, flight := flight, again := again, buf := buf, issued := issued }

theorem moveRequestIssue_next {s t : State} {e : Fin 8} (hu : inUse s) (can : moveCanIssue s e = true)
    (ok : (engineOf s e).parityBad = false) (hb : moveNext e s = t) (ht : Untouched s t) :
    exec (.moveRequestIssue e) s = .next t := by
  unfold exec execMoveRequestIssue
  refine eventIf_answers (due := fun s => moveCanIssue s e) hu can ?_ ht
  rw [checkEngine_ok ok, if_neg (by rw [engineMuzzled_own (moveCanIssue_active can)]; exact Bool.false_ne_true), hb]

/-- The message that leaves for request r of the engine g. -/
def MessageOf (s : State) (e : Fin 8) (g : Engine) (r : MoveReq) (t : State) : Prop :=
  let a := (if r.write then g.dst else g.src) + r.off
  let cw : BitVec 8 := BitVec.ofNat 8 ((2 ^ (r.len / 32) - 1) * 2 ^ (a % 256 / 32))
  ∃ m, t.out.egress = s.out.egress ++ [m] ∧ t.out.orig = s.out.orig ++ [Originated.mk m.txn (.move e g.serial r.off r.write) m]
    ∧ m.cls = .req ∧ m.dstAgent = 255 ∧ m.line = BitVec.ofNat 40 (a / 256) ∧ m.label = g.cls ∧ m.ready = s.env.sc + 4
    ∧ (r.write = false → m.op = 3 ∧ m.data = [] ∧ m.body = .readReq (sectorsOf cw) (BitVec.ofNat 2 (a % 256 / 64)))
    ∧ (r.write = true → cw = 255 → m.op = 4 ∧ m.data = r.data)
    ∧ (r.write = true → cw ≠ 255 → m.op = 5 ∧ m.data = r.data ∧ m.body = .cwMask cw)

/-- The access that is queued for request r of the engine g. -/
def AccessOf (s : State) (e : Fin 8) (g : Engine) (r : MoveReq) (t : State) : Prop :=
  ∃ x, t.fg.accs = s.fg.accs ++ [x] ∧ x.ready = s.env.sc + 1 ∧ x.cls = g.cls ∧ x.source = 4 + e.val ∧ x.isWrite = r.write
    ∧ x.kennel = true ∧ t.out = s.out

/-- Request r of engine e is sent, and leaves the engine f, or is refused. -/
def SendsAs (s : State) (e : Fin 8) (r : MoveReq) (f : Engine) : Prop :=
  let g := engineOf s e
  let cmd : Host.Outcome State Fault Refusal := exec (.moveRequestIssue e) s
  let others (t : State) : Prop := ∀ f, f ≠ e.val → engineOf t f = engineOf s f
  let a := (if r.write then g.dst else g.src) + r.off
  let offs := (List.range (r.len / 32)).map fun i => a % 2 ^ 24 + 32 * i
  let refused := if r.write then writeRefused s g.holder offs else readRefused s offs
  (inOwnPart s a = false → ∃ t, cmd = .next t ∧ engineOf t e = f ∧ others t ∧ MessageOf s e g r t)
  ∧ (inOwnPart s a = true → ChannelsSound s → refused = none → ∃ t, cmd = .next t ∧ engineOf t e = f ∧ others t ∧ AccessOf s e g r t)
  ∧ (∀ st, inOwnPart s a = true → ChannelsSound s → refused = some st → (r.write = false → g.kind = 0) → g.ended = none →
      (∃ x ∈ f.flight, x.off = r.off ∧ x.write = r.write) → ∃ t, cmd = .next t ∧ others t ∧ t.out = s.out ∧ t.fg = s.fg
      ∧ (engineOf t e).ended = some { status := st, cause := if r.write then 2 else 1, line := BitVec.ofNat 40 (a / 256) })

theorem requestMsg_port (s : State) (g : Engine) (r : MoveReq) : (requestMsg s g r).port ≠ .xp := by
  unfold requestMsg
  dsimp only
  split
  · split
    · exact originMsg_port _ _ _ _ _ _ _ _ _ _
    · exact originMsg_port _ _ _ _ _ _ _ _ _ _
  · exact originMsg_port _ _ _ _ _ _ _ _ _ _

theorem messageOf_sent {s u : State} {e : Fin 8} {g f : Engine} {r : MoveReq} (hs : EngineSet e f s u) (hf : Rearranged g f) :
    MessageOf s e g r (originate (some (.move e f.serial r.off r.write)) (requestMsg u f r) u) := by
  obtain ⟨pos, next, flight, again, buf, issued, rfl⟩ := hf
  have out : u.out = s.out := by rw [hs.rest]
  have same : requestMsg u { g with
      pos := pos, next := next, flight := flight, again := again, buf := buf, issued := issued } r = requestMsg s g r := by
    rw [hs.rest]
    rfl
  have port := requestMsg_port s g r
  rw [same]
  refine ⟨requestMsg s g r, ?_, ?_, ?_⟩
  · rw [originate_egress _ _ port, out]
  · rw [originate_orig _ _ port, out]
    rfl
  · unfold requestMsg
    cases hw : r.write with
    | false =>
      simp only [Bool.false_eq_true, if_false]
      refine ⟨rfl, rfl, ?_, rfl, rfl, fun _ => ⟨rfl, rfl, ?_⟩, nofun, nofun⟩
      · simp only [originMsg, requestAt, hw, Bool.false_eq_true, if_false]
      · simp only [originMsg, requestWords, requestAt, hw, Bool.false_eq_true, if_false, Nat.div_div_eq_div_mul]
    | true =>
      simp only [if_true]
      by_cases whole : requestWords g r = 255
      · rw [if_pos whole]
        simp only [requestWords, requestAt, hw, if_true] at whole
        refine ⟨rfl, rfl, ?_, rfl, rfl, nofun, fun _ _ => ⟨rfl, rfl⟩, fun _ part => absurd whole part⟩
        simp only [originMsg, requestAt, hw, if_true]
      · rw [if_neg whole]
        simp only [requestWords, requestAt, hw, if_true] at whole
        refine ⟨rfl, rfl, ?_, rfl, rfl, nofun, fun _ all => absurd all whole, fun _ _ => ⟨rfl, rfl, ?_⟩⟩
        · simp only [originMsg, requestAt, hw, if_true]
        · simp only [originMsg, requestWords, requestAt, hw, if_true]

theorem endBy_first {g : Engine} (h : g.ended = none) (now : Nat) (r : MoveReq) (st : Status) : (g.endBy now r st).ended
    = some { status := st, cause := if r.write then 2 else 1, line := g.lineOf r.off r.write } := by
  rw [Engine.endBy, h]
  rfl

/-- A request that is awaited and fails ends its move, where nothing has ended it before (R327). -/
theorem moveFailed_ends {u : State} {e : Nat} {off : Nat} {write : Bool} (st : Status) (ok : (engineOf u e).parityBad = false)
    (busy : (engineOf u e).busy = true) (active : engineMuzzled u (engineOf u e) = false) (first : (engineOf u e).ended = none)
    (awaited : ∃ x ∈ (engineOf u e).flight, x.off = off ∧ x.write = write) :
    ∃ k, moveFailed e (engineOf u e).serial off write st u = setEngine e k u ∧ (k (engineOf u e)).ended
      = some { status := st, cause := if write then 2 else 1, line := (engineOf u e).lineOf off write } := by
  obtain ⟨x, found⟩ : ∃ x, (engineOf u e).awaits off write = some x := by
    obtain ⟨x, hx, rfl, rfl⟩ := awaited
    refine Option.isSome_iff_exists.1 (List.find?_isSome.2 ⟨x, hx, ?_⟩)
    simp
  have names : x.off = off ∧ x.write = write := by
    have := List.find?_some found
    simpa using this
  have carried : carries u e (engineOf u e).serial = true := by
    rw [carries, busy, active]
    simp
  refine ⟨fun g => (g.settleReq off write).endBy u.env.sc x st, ?_, ?_⟩
  · unfold moveFailed moveAnswer
    dsimp only
    rw [checkEngine_ok ok, if_pos carried, found]
  · have settled : ((engineOf u e).settleReq off write).ended = none := first
    refine (endBy_first settled _ _ _).trans ?_
    rw [names.1, names.2]
    rfl

theorem lineOf_request {g : Engine} {r : MoveReq} (h : r.write = false → g.kind = 0) :
    g.lineOf r.off r.write = BitVec.ofNat 40 (((if r.write then g.dst else g.src) + r.off) / 256) := by
  rw [Engine.lineOf]
  cases hw : r.write with
  | true => rfl
  | false => simp [h hw]

/-- What sends request r, with the engine f held instead, is a step that sends it. -/
theorem sendsAs_of_issue {s u : State} {e : Fin 8} {r : MoveReq} {f : Engine} (hu : inUse s) (can : moveCanIssue s e = true)
    (ok : (engineOf s e).parityBad = false) (hs : EngineSet e f s u) (hf : Rearranged (engineOf s e) f)
    (hb : moveNext e s = moveIssue e r u) : SendsAs s e r f := by
  have sent {t : State} (ht : moveIssue e r u = t) (k : Untouched u t) : exec (.moveRequestIssue e) s = .next t :=
    moveRequestIssue_next hu can ok (hb.trans ht) (hs.untouched.trans k)
  have own := hs.mine
  have away : inOwnPart u (requestAt (engineOf u e) r) = inOwnPart s (requestAt (engineOf s e) r) := by
    obtain ⟨pos, next, flight, again, buf, issued, e'⟩ := hf
    rw [own, hs.rest, e']
    rfl
  have sound (k : ChannelsSound s) : ChannelsSound u := by
    rw [hs.rest]
    exact channelsSound_engines k _
  have refusal : requestRefused u (engineOf u e) r = requestRefused s (engineOf s e) r := by
    obtain ⟨pos, next, flight, again, buf, issued, e'⟩ := hf
    rw [own, hs.rest, e']
    rfl
  refine ⟨fun far => ?_, fun near k fine => ?_, fun st near k bad kind first awaited => ?_⟩
  · have issued := moveIssue_far (away.trans far)
    refine ⟨_, sent issued (originate_untouched _ _ (Untouched.refl u)), ?_, fun d hd => ?_, ?_⟩
    · rw [originate_rest]
      exact own
    · rw [originate_rest]
      exact hs.others d hd
    · rw [own]
      exact messageOf_sent hs hf
  · have issued := moveIssue_near (away.trans near) (sound k) (refusal.trans fine)
    refine ⟨_, sent issued {}, own, hs.others, { requestAccess u e (engineOf u e) r with id := u.fg.nextId }, ?_, ?_⟩
    · rw [hs.rest]
      rfl
    · have cls : (engineOf u e).cls = (engineOf s e).cls := by
        obtain ⟨pos, next, flight, again, buf, issued, e'⟩ := hf
        rw [own, e']
      have sc : u.env.sc = s.env.sc := by rw [hs.rest]
      have out : u.out = s.out := by rw [hs.rest]
      rw [requestAccess, ← cls, ← sc]
      cases r.write with
      | true => exact ⟨rfl, rfl, rfl, rfl, rfl, out⟩
      | false => exact ⟨rfl, rfl, rfl, rfl, rfl, out⟩
  · obtain ⟨pos, next, flight, again, buf, issued, e'⟩ := hf
    have fine : (engineOf u e).parityBad = false := by rw [own, e']; exact ok
    have busy : (engineOf u e).busy = true := by rw [own, e']; exact moveCanIssue_busy can
    have active : engineMuzzled u (engineOf u e) = false := by
      rw [own, e', hs.rest]
      exact moveCanIssue_active can
    have unended : (engineOf u e).ended = none := by rw [own, e']; exact first
    have line : (engineOf u e).lineOf r.off r.write = (engineOf s e).lineOf r.off r.write := by
      rw [own, e']
      rfl
    have issued := moveIssue_refused (away.trans near) (sound k) (refusal.trans bad)
    obtain ⟨act, failed, ended⟩ := moveFailed_ends st fine busy active unended (by rw [own]; exact awaited)
    refine ⟨_, sent (issued.trans failed) {}, fun d hd => ?_, ?_, ?_, ?_⟩
    · exact (engineOf_setEngine_ne _ _ hd).trans (hs.others d hd)
    · rw [hs.rest]
      rfl
    · rw [hs.rest]
      rfl
    · rw [engineOf_setEngine_self, ended, line, lineOf_request kind]

/-- An engine that may issue again in the next sc, with one more change. -/
theorem engineSet_next (e : Nat) (s : State) (f : Engine → Engine) : EngineSet e (f { engineOf s e with next := s.env.sc + 1 }) s
    (setEngine e f (setEngine e (fun g => { g with next := s.env.sc + 1 }) s)) :=
  ((EngineSet.refl e s).set fun g => { g with next := s.env.sc + 1 }).set f

/-- The engine with request r issued. -/
def requested (r : MoveReq) (g : Engine) : Engine := { g with flight := g.flight ++ [r], issued := g.issued + 1 }

section Next

variable {s : State} {e : Fin 8}

/-- The requests that are to be sent again come first (R322). -/
theorem sendsAs_again (hu : inUse s) (can : moveCanIssue s e = true) (ok : (engineOf s e).parityBad = false) {r : MoveReq}
    {rest : List MoveReq} (again : (engineOf s e).again = r :: rest) :
    SendsAs s e r { engineOf s e with next := s.env.sc + 1, again := rest } := by
  refine sendsAs_of_issue hu can ok (u := setEngine e (fun g => { g with again := rest })
    (setEngine e (fun g => { g with next := s.env.sc + 1 }) s))
    (engineSet_next e s fun g => { g with again := rest }) ⟨_, _, _, _, _, _, rfl⟩ ?_
  rw [moveNext]
  dsimp only
  rw [again]

/-- Then the write of a line that has been read. -/
theorem sendsAs_write (hu : inUse s) (can : moveCanIssue s e = true) (ok : (engineOf s e).parityBad = false) {p : Nat × Nat}
    (again : (engineOf s e).again = []) (ready : (engineOf s e).readyWrite = some p) :
    let g := engineOf s e
    let r : MoveReq := { off := p.1, len := p.2, write := true
                         data := (List.range (p.2 / 32)).map fun i => tget default g.buf (p.1 / 32 + i)
                         num := g.issued }
    SendsAs s e r { g with next := s.env.sc + 1, flight := g.flight ++ [r], issued := g.issued + 1
                           buf := g.buf.filter fun w => !(decide (p.1 / 32 ≤ w.1) && decide (w.1 < (p.1 + p.2) / 32)) } := by
  intro g r
  let kept := g.buf.filter fun w => !(decide (p.1 / 32 ≤ w.1) && decide (w.1 < (p.1 + p.2) / 32))
  let v := setEngine e (fun g => { g with buf := kept }) (setEngine e (fun g => { g with next := s.env.sc + 1 }) s)
  have hv : EngineSet e { g with next := s.env.sc + 1, buf := kept } s v :=
    engineSet_next e s fun g => { g with buf := kept }
  have num : (engineOf v e).issued = g.issued := by rw [hv.mine]
  refine sendsAs_of_issue hu can ok (u := setEngine e (requested r) v) (hv.set (requested r)) ⟨_, _, _, _, _, _, rfl⟩ ?_
  have step : moveNext e s = moveStart e { r with num := 0 } v := by
    rw [moveNext]
    dsimp only
    rw [again]
    dsimp only
    rw [ready]
  rw [step, moveStart]
  dsimp only
  rw [num]
  rfl

/-- Then the next line of the range, of a copy or a fill. -/
theorem sendsAs_line (hu : inUse s) (can : moveCanIssue s e = true) (ok : (engineOf s e).parityBad = false) {q : Nat × Nat}
    (again : (engineOf s e).again = []) (ready : (engineOf s e).readyWrite = none) (next : (engineOf s e).nextPos = some q)
    (kind : (engineOf s e).kind ≠ 2) :
    let g := engineOf s e
    let p := linePart (if g.kind = 0 then g.src else g.dst) g.len q.2
    let r : MoveReq := { off := p.1, len := p.2, write := decide (g.kind = 1)
                         data := if g.kind = 1 then List.replicate (p.2 / 32) (plain g.pattern) else [], num := g.issued }
    SendsAs s e r { g with next := s.env.sc + 1, pos := q.1 + 1, flight := g.flight ++ [r], issued := g.issued + 1 } := by
  intro g p r
  let v := setEngine e (fun g => { g with pos := q.1 + 1 }) (setEngine e (fun g => { g with next := s.env.sc + 1 }) s)
  have hv : EngineSet e { g with next := s.env.sc + 1, pos := q.1 + 1 } s v :=
    engineSet_next e s fun g => { g with pos := q.1 + 1 }
  have num : (engineOf v e).issued = g.issued := by rw [hv.mine]
  refine sendsAs_of_issue hu can ok (u := setEngine e (requested r) v) (hv.set (requested r)) ⟨_, _, _, _, _, _, rfl⟩ ?_
  have step : moveNext e s = moveStart e { r with num := 0 } v := by
    rw [moveNext]
    dsimp only
    rw [again]
    dsimp only
    rw [ready]
    dsimp only
    rw [next]
    dsimp only
    rw [if_neg kind]
    by_cases fill : g.kind = 1
    · rw [if_pos fill]
      simp only [r, fill, if_true, decide_true]
      rfl
    · rw [if_neg fill]
      simp only [r, fill, if_false, decide_false]
      rfl
  rw [step, moveStart]
  dsimp only
  rw [num]
  rfl

theorem joinParts_first (done len : Nat) : joinParts 1 done [(done, len)] = (done + len, []) := by
  simp [joinParts]

/-- A prefetch completes as it is sent (R95, R322). -/
theorem movePrefetch_sends (hu : inUse s) (can : moveCanIssue s e = true) (ok : (engineOf s e).parityBad = false) {q : Nat × Nat}
    (again : (engineOf s e).again = []) (ready : (engineOf s e).readyWrite = none) (next : (engineOf s e).nextPos = some q)
    (kind : (engineOf s e).kind = 2) :
    let g := engineOf s e
    let p := linePart (if g.kind = 0 then g.src else g.dst) g.len q.2
    ∃ t m, exec (.moveRequestIssue e) s = .next t ∧ (∀ f, f ≠ e.val → engineOf t f = engineOf s f)
      ∧ t.out.egress = s.out.egress ++ [m] ∧ t.out.orig = s.out.orig
      ∧ m.op = 6 ∧ m.cls = .req ∧ m.line = BitVec.ofNat 40 q.2 ∧ m.label = g.cls ∧ m.ready = s.env.sc + 4
      ∧ (engineOf t e).pos = q.1 + 1 ∧ (engineOf t e).flight = g.flight
      ∧ (g.parts = [] → g.done = p.1 → (engineOf t e).done = p.1 + p.2) := by
  intro g p
  let v := setEngine e (fun g => { g with pos := q.1 + 1 }) (setEngine e (fun g => { g with next := s.env.sc + 1 }) s)
  have hv : EngineSet e { g with next := s.env.sc + 1, pos := q.1 + 1 } s v :=
    engineSet_next e s fun g => { g with pos := q.1 + 1 }
  have step : moveNext e s = movePrefetch e q.2 v := by
    rw [moveNext]
    dsimp only
    rw [again]
    dsimp only
    rw [ready]
    dsimp only
    rw [next]
    dsimp only
    rw [if_pos kind]
  have range : p = linePart (engineOf v e).dst (engineOf v e).len q.2 := by
    rw [hv.mine]
    exact congrArg (fun a => linePart a g.len q.2) (if_neg (by rw [kind]; decide))
  let m := originMsg v .req 6 255 v.env.idDie.toNat (BitVec.ofNat 40 q.2) (engineOf v e).cls
    (.sectors (BitVec.ofNat 4 ((2 ^ ((linePart (engineOf v e).dst (engineOf v e).len q.2).2 / 64) - 1)
      * 2 ^ (((engineOf v e).dst + (linePart (engineOf v e).dst (engineOf v e).len q.2).1) % 256 / 64)))) [] (v.env.sc + 4)
  let u := originate none m v
  have port : m.port ≠ .xp := originMsg_port _ _ _ _ _ _ _ _ _ _
  have same (d : Nat) : engineOf u d = engineOf v d := by
    change engineOf (originate none m v) d = _
    rw [originate_rest]
    rfl
  have own : engineOf u e = { g with next := s.env.sc + 1, pos := q.1 + 1 } := (same e).trans hv.mine
  have out : v.out = s.out := by rw [hv.rest]
  have done : movePrefetch e q.2 v = setEngine e (fun h => h.complete p.1 p.2) u := by
    rw [range]
    rfl
  have untouched : Untouched s (setEngine e (fun h => h.complete p.1 p.2) u) :=
    (originate_untouched none m hv.untouched).trans {}
  refine ⟨_, m, moveRequestIssue_next hu can ok (step.trans done) untouched, fun d hd => ?_, ?_, ?_, rfl, rfl, rfl, ?_, ?_, ?_, ?_,
    fun fresh start => ?_⟩
  · exact (engineOf_setEngine_ne _ _ hd).trans ((same d).trans (hv.others d hd))
  · exact (originate_egress none v port).trans (by rw [out])
  · exact (originate_orig none v port).trans (by rw [out]; exact List.append_nil _)
  · change (engineOf v e).cls = g.cls
    rw [hv.mine]
  · change v.env.sc + 4 = s.env.sc + 4
    rw [hv.rest]
  · rw [engineOf_setEngine_self, own]
    rfl
  · rw [engineOf_setEngine_self, own]
    rfl
  · rw [engineOf_setEngine_self, own, Engine.complete]
    dsimp only
    rw [fresh, start]
    exact congrArg Prod.fst (joinParts_first p.1 p.2)

end Next

end Sys2Proof.Proofs
end

section
/-! SUPPORT. The end of a move and its watchdog (11_bulk_mover R324 to R330). -/

namespace Sys2Proof.Proofs

open Sys2Proof.Machine Sys2Proof.Safety Sys2Proof.Laws

set_option Elab.async false

/-! ### What ends a pack or a move (R214, R325) -/

/-- The sequencer when a flag is to be set in the next sc, if it is one. -/
def flagged (evt : Nat) (q : Machine.Seq) : Machine.Seq :=
  { q with quiet := false, evNext := if evt < 64 then q.evNext ||| BitVec.ofNat 64 (2 ^ evt) else q.evNext }

theorem flagNext_eq (evt : Nat) (s : State) : flagNext evt s = { s with seq := flagged evt s.seq } := by
  unfold flagNext flagged noisy
  split <;> rfl

/-- The record of a move, where its descriptor asks for one. -/
def recordWritten (g : Engine) (record : Code) (s : State) : State :=
  if g.norec then s else engineWrite g.cls g.recordAt [plain record] s

theorem recordWritten_outside {s : State} (idle : idleArray s) (g : Engine) (record : Code) :
    SameOutside s (recordWritten g record s) := by
  unfold recordWritten
  split
  · exact .refl s
  · exact engineWrite_outside idle ..

theorem recordWritten_cells {s : State} (idle : idleArray s) {g : Engine} (record : Code) (wants : g.norec = false)
    (aligned : g.recordAt % 32 = 0) :
    cellsOf (recordWritten g record s) (kennelLoc g.recordAt) = some (wordCells s (kennelLoc g.recordAt) (plain record))
    ∧ ∀ loc, loc < 2 ^ 19 → loc ≠ kennelLoc g.recordAt → cellsOf (recordWritten g record s) loc = cellsOf s loc := by
  have small : g.recordAt < 2 ^ 24 := Nat.mod_lt _ (by decide)
  unfold recordWritten
  rw [if_neg (by rw [wants]; exact Bool.false_ne_true)]
  constructor
  · exact cellsOf_engineWrite idle g.cls (words := [plain record]) (i := 0) aligned
      (by rw [List.length_singleton]; omega) rfl
  · intro loc hl ne
    refine cellsOf_engineWrite_ne idle _ _ _ hl fun i hi => ?_
    rw [List.length_singleton, Nat.lt_one_iff] at hi
    subst hi
    exact ne

/-- The report of a move that did not succeed. -/
def moveReported (r : MoveEnd) (record : Code) (s : State) : State :=
  if r.status = .ok then s else report 0x58 0 0 (moveDetail record) s

theorem moveReported_saf (r : MoveEnd) (record : Code) (s : State) :
    moveReported r record s = { s with saf := (moveReported r record s).saf } := by
  unfold moveReported
  split
  · rfl
  · exact report_saf ..

theorem moveReported_untouched (r : MoveEnd) (record : Code) (s : State) : Untouched s (moveReported r record s) := by
  unfold moveReported
  split
  · exact Untouched.refl s
  · exact report_untouched _ _ _ _ (Untouched.refl s)

theorem moveReported_congr {s u : State} (hs : u.saf = s.saf) (ht : u.tick = s.tick) (he : u.env = s.env) (r : MoveEnd)
    (record : Code) : (moveReported r record u).saf = (moveReported r record s).saf := by
  unfold moveReported
  split
  · exact hs
  · exact report_congr hs ht he ..

/-- What a move that ends leaves: engine e free, its requests no longer awaited. -/
def freed (e : Fin 8) (s : State) : State :=
  setEngine e (fun _ => default) { s with out := { s.out with orig := s.out.orig.filter fun o => match o.who with
    | .move e' _ _ _ => e' != e.val
    | _ => true } }

section

variable {s : State} {e : Fin 8}

theorem moveEnd_next (hu : inUse s) (due : moveEndDue s e = true) (ok : (engineOf s e).parityBad = false) {t : State}
    (ht : freed e (moveReported ((engineOf s e).ended.getD { status := .ok, cause := 0, line := 0 })
        (moveRecord s (some e) (engineOf s e) ((engineOf s e).ended.getD { status := .ok, cause := 0, line := 0 }) (engineOf s e).done)
        (signalMove (engineOf s e)
          (moveRecord s (some e) (engineOf s e) ((engineOf s e).ended.getD { status := .ok, cause := 0, line := 0 })
            (engineOf s e).done) s)) = t)
    (untouched : Untouched s t) : exec (.moveEnd e) s = .next t := by
  unfold exec execMoveEnd
  refine eventIf_answers (due := fun s => moveEndDue s e) hu due ?_ untouched
  rw [checkEngine_ok ok, if_neg (by rw [engineMuzzled_own (moveEndDue_active due)]; exact Bool.false_ne_true)]
  exact ht

theorem moveEnd_answers (hu : inUse s) (due : moveEndDue s e = true) (ok : (engineOf s e).parityBad = false) (idle : idleArray s)
    (aligned : (engineOf s e).recordAt % 32 = 0) :
    let g := engineOf s e
    let r := g.ended.getD { status := .ok, cause := 0, line := 0 }
    let record := moveRecord s (some e) g r g.done
    ∃ t, exec (.moveEnd e) s = .next t ∧ engineOf t e = default ∧ (∀ f, f ≠ e.val → engineOf t f = engineOf s f)
      ∧ (g.norec = true → t.arr = s.arr)
      ∧ (g.norec = false → cellsOf t (kennelLoc g.recordAt) = some (wordCells s (kennelLoc g.recordAt) (plain record))
          ∧ ∀ loc, loc < 2 ^ 19 → loc ≠ kennelLoc g.recordAt → cellsOf t loc = cellsOf s loc)
      ∧ t.seq = flagged g.evt s.seq
      ∧ t.saf = (moveReported r record s).saf
      ∧ t.out.egress = s.out.egress ∧ (∀ o ∈ t.out.orig, ∀ n off w, o.who ≠ .move e n off w) := by
  intro g r record
  have outside := recordWritten_outside idle g record
  let w := recordWritten g record s
  have signal : signalMove g record s = { w with seq := flagged g.evt w.seq } := flagNext_eq g.evt w
  let u := moveReported r record { w with seq := flagged g.evt w.seq }
  have hu' : u = { w with seq := flagged g.evt w.seq, saf := u.saf } := moveReported_saf r record { w with seq := flagged g.evt w.seq }
  have untouched : Untouched s (freed e u) :=
    ((outside.untouched.trans (u := { w with seq := flagged g.evt w.seq }) {}).trans (moveReported_untouched r record _)).trans
      (t := u) {}
  have cells (loc : Nat) : cellsOf (freed e u) loc = cellsOf w loc := by
    rw [hu']
    rfl
  refine ⟨freed e u, moveEnd_next hu due ok (by rw [signal]) untouched, engineOf_setEngine_self .., fun f hf => ?_, fun none => ?_,
    fun wants => ?_, ?_, ?_, ?_, fun o ho n off w hw => ?_⟩
  · refine (engineOf_setEngine_ne _ _ hf).trans ?_
    rw [hu']
    change engineOf w f = engineOf s f
    rw [show w = withArray s w from outside]
    rfl
  · change u.arr = s.arr
    rw [hu']
    change (recordWritten g record s).arr = s.arr
    rw [recordWritten, if_pos none]
  · obtain ⟨mine, others⟩ := recordWritten_cells idle record wants aligned
    exact ⟨(cells _).trans mine, fun loc hl ne => (cells loc).trans (others loc hl ne)⟩
  · change u.seq = _
    rw [hu']
    exact congrArg (flagged g.evt) outside.seq
  · exact moveReported_congr (u := { w with seq := flagged g.evt w.seq }) outside.saf outside.tick outside.env r record
  · change u.out.egress = _
    rw [hu']
    exact congrArg Out.egress outside.out
  · have kept := List.of_mem_filter ho
    rw [hw] at kept
    simp at kept

theorem moveEnd_muzzles (hu : inUse s) (due : moveEndDue s e = true) (bad : (engineOf s e).parityBad = true) :
    ∃ t, exec (.moveEnd e) s = .next t ∧ engineOf t e = { engineOf s e with muz := true }
      ∧ (∀ f, f ≠ e.val → engineOf t f = engineOf s f) ∧ t.saf = (report 0x59 1 (0x6000 + e) (e.val * 2 ^ 104) s).saf
      ∧ t.out = s.out ∧ t.arr = s.arr := by
  unfold exec execMoveEnd
  refine engine_muzzles (due := fun s => moveEndDue s e) hu due bad (moveEndDue_active due) fun s muz => ?_
  dsimp only
  rw [if_pos muz]

theorem moveWatchdogExpiry_next (hu : inUse s) (expired : moveExpired s e = true) (ok : (engineOf s e).parityBad = false) :
    exec (.moveWatchdogExpiry e) s = .next (setEngine e (fun g =>
      { g with timedOut := true, ended := g.ended.or (some { status := .poison, cause := 3, line := 0 }) }) s) := by
  unfold exec execMoveWatchdogExpiry
  refine eventIf_answers (due := fun s => moveExpired s e) hu expired ?_
  rw [checkEngine_ok ok, if_neg (by rw [engineMuzzled_own (moveExpired_active expired)]; exact Bool.false_ne_true)]

theorem moveExpired_of (busy : (engineOf s e).busy = true) (own : (engineOf s e).muz = false) (live : s.saf.fatal = false)
    (runs : (engineOf s e).timedOut = false) (watch : 1 ≤ (engineOf s e).mwdog) (old : (engineOf s e).mwdog ≤ (engineOf s e).age)
    (open' : (engineOf s e).ended.isSome = true ∨ (engineOf s e).finished = false) : moveExpired s e = true := by
  have unfinished : ((engineOf s e).ended.isNone && (engineOf s e).finished) = false := by
    rcases open' with ended | unfinished
    · rw [← Option.not_isSome, ended]
      rfl
    · rw [unfinished, Bool.and_false]
  have set : (engineOf s e).mwdog ≠ 0 := by omega
  simp only [moveExpired, engineMuzzled, busy, own, live, runs, unfinished, Bool.or_false, Bool.not_false, decide_eq_true set,
    decide_eq_true old, Bool.and_true]

end

/-- Settles O51. -/
theorem moverEventsAnswer : Obligations.MoverEventsAnswer := by
  unfold Obligations.MoverEventsAnswer
  intro s e hu
  refine ⟨fun can bad => ?_, fun due bad => ?_, fun expired bad => ?_, fun can ok => ⟨fun r rest again => ?_, fun p again ready => ?_,
    fun q again ready next => ⟨fun kind => ?_, fun kind => ?_⟩⟩, fun due ok idle aligned => ?_,
    fun busy own ok live runs watch old open' => ?_⟩
  · exact engine_muzzles (due := fun s => moveCanIssue s e) hu can bad (moveCanIssue_active can) fun s muz => if_pos muz
  · exact moveEnd_muzzles hu due bad
  · exact engine_muzzles (due := fun s => moveExpired s e) hu expired bad (moveExpired_active expired) fun s muz => if_pos muz
  · exact sendsAs_again hu can ok again
  · exact sendsAs_write hu can ok again ready
  · exact sendsAs_line hu can ok again ready next kind
  · exact movePrefetch_sends hu can ok again ready next kind
  · obtain ⟨t, ht, own, others, none, cells, seq, saf, egress, orig⟩ := moveEnd_answers hu due ok idle aligned
    refine ⟨t, ht, own, others, none, cells, seq, saf.trans ?_, egress, orig⟩
    unfold moveReported
    rfl
  · refine ⟨_, moveWatchdogExpiry_next hu (moveExpired_of busy own live runs watch old open') ok, ?_,
      fun d hd => engineOf_setEngine_ne _ _ hd, rfl⟩
    rw [engineOf_setEngine_self]
    cases (engineOf s e).ended with
    | none => rfl
    | some x => rfl

end Sys2Proof.Proofs
end

section
/-! SUPPORT. Contributions to packs (07_reduction_arithmetic R195, R196, R208). -/

namespace Sys2Proof.Proofs

open Sys2Proof.Machine Sys2Proof.Safety Sys2Proof.Laws

set_option Elab.async false

/-! ### The pack table -/

theorem tfind_tupd_self {α : Type} {t : Table α} {k : Nat} {a : α} (f : α → α) (h : tfind t k = some a) :
    tfind (tupd t k f) k = some (f a) := by
  rw [tupd, h]
  exact tfind_tput_self ..

theorem tfind_tupd_ne {α : Type} (t : Table α) {j k : Nat} (f : α → α) (h : j ≠ k) : tfind (tupd t k f) j = tfind t j := by
  unfold tupd
  split
  · rfl
  · exact tfind_tput_ne _ _ h

theorem getPack_of_tfind {s : State} {e : Nat} {p : Pack} (h : tfind s.red.packs e = some p) : getPack s e = p := by
  rw [getPack, tget, h]
  rfl

/-- Pack e of s has become p, nodes may have been formed, and nothing else has changed. -/
structure PackSet (e : Nat) (p : Pack) (s t : State) : Prop where
  mine : tfind t.red.packs e = some p
  others : ∀ d, d ≠ e → tfind t.red.packs d = tfind s.red.packs d
  rest : t = { s with red := { s.red with packs := t.red.packs, forming := t.red.forming } }

theorem PackSet.refl {e : Nat} {p : Pack} {s : State} (h : tfind s.red.packs e = some p) : PackSet e p s s := ⟨h, fun _ _ => rfl, rfl⟩

theorem PackSet.set {e : Nat} {p : Pack} {s t : State} (h : PackSet e p s t) (f : Pack → Pack) :
    PackSet e (f p) s (setPack e f t) where
  mine := tfind_tupd_self f h.mine
  others d hd := (tfind_tupd_ne _ f hd).trans (h.others d hd)
  rest := congrArg (fun x : State => { x with red := { x.red with
    packs := (setPack e f t).red.packs, forming := (setPack e f t).red.forming } }) h.rest

theorem PackSet.form {e : Nat} {p : Pack} {s t : State} (h : PackSet e p s t) (block level lo : Nat) (v : NodeVal) (since : Nat) :
    PackSet e p s (formLater e block level lo v since t) where
  mine := h.mine
  others := h.others
  rest := congrArg (fun x : State => { x with red := { x.red with
    packs := t.red.packs, forming := (formLater e block level lo v since t).red.forming } }) h.rest

theorem PackSet.untouched {e : Nat} {p : Pack} {s t : State} (h : PackSet e p s t) : Untouched s t := by
  rw [h.rest]
  exact {}

/-! ### The leaves of a contribution (R208) -/

theorem leafOf_desc {p q : Pack} (h : q.desc = p.desc) (words : List CodeWord) (block : Nat) :
    leafOf q words block = leafOf p words block := by
  have ifmt : q.ifmt = p.ifmt := congrArg (fun d => fld d 88 3) h
  have vcount : q.vcount = p.vcount := congrArg (fun d => fld d 64 17) h
  have isInt : q.isInt = p.isInt := by rw [Pack.isInt, ifmt]; rfl
  simp only [leafOf, ifmt, vcount, isInt]

theorem leafOf_isBx (p : Pack) (words : List CodeWord) (block : Nat) : (leafOf p words block).1.isBx = false := by
  unfold leafOf
  dsimp only
  split
  · rfl
  · split
    · rfl
    · split <;> rfl

/-- The node that the leaf of a block is, from this sc on. -/
def leafNode (s : State) (e : Nat) (p : Pack) (words : List CodeWord) (idx block : Nat) : Forming :=
  { entry := e, block := block, level := 0, lo := idx, bx := false, img := (leafOf p words block).1.image, since := s.env.sc }

/-- What the leaves of some blocks have made of pack e, which was p: its roots, or the nodes that were formed. -/
structure LeavesIn (e idx : Nat) (words : List CodeWord) (blocks : List Nat) (p q : Pack) (s t : State) : Prop where
  set : PackSet e q s t
  same : ∃ faults roots readyAt, q = { p with faults := faults, roots := roots, readyAt := readyAt }
  roots : p.pcount = 1 → t.red.forming = s.red.forming
    ∧ ∀ b ∈ blocks, tfind q.roots b = some (leafOf p words b).1.image
  nodes : p.pcount ≠ 1 → t.red.forming = s.red.forming ++ blocks.map (leafNode s e p words idx)

theorem leavesIn_none {e idx : Nat} {p : Pack} {s : State} (words : List CodeWord) (h : tfind s.red.packs e = some p) :
    LeavesIn e idx words [] p p s s :=
  ⟨.refl h, ⟨_, _, _, rfl⟩, fun _ => ⟨rfl, nofun⟩, fun _ => (List.append_nil _).symm⟩

/-- The state with the fault of a leaf that is poisoned (R216). -/
def leafFaulted (e idx block cause : Nat) (s : State) : State := if cause = 0 then s else faultAt e block 0 idx cause s

theorem leafFaulted_set {e : Nat} {q : Pack} {s t : State} (h : PackSet e q s t) (idx block cause : Nat) :
    ∃ faults, PackSet e { q with faults := faults } s (leafFaulted e idx block cause t)
      ∧ (leafFaulted e idx block cause t).red.forming = t.red.forming
      ∧ (leafFaulted e idx block cause t).env = t.env := by
  unfold leafFaulted
  split
  · exact ⟨q.faults, h, rfl, rfl⟩
  · exact ⟨_, h.set fun p => { p with faults := p.faults ++ [{ block := block, level := 0, idx := idx, cause := cause }] }, rfl, rfl⟩

theorem insertLeaf_eq (e idx block : Nat) (words : List CodeWord) (s : State) : insertLeaf e idx block words s
    = let p := getPack s e
      let v := leafOf p words block
      if p.pcount = 1 then setRoot e block v.1 (leafFaulted e idx block v.2 s).env.sc (leafFaulted e idx block v.2 s)
      else formLater e block 0 idx v.1 (leafFaulted e idx block v.2 s).env.sc (leafFaulted e idx block v.2 s) := rfl

theorem setRoot_leaf {v : NodeVal} (h : v.isBx = false) (e block since : Nat) (s : State) : setRoot e block v since s
    = setPack e (fun p => { p with roots := tput p.roots block v.image, readyAt := max p.readyAt since }) s := by
  cases v with
  | bx b => cases h
  | _ => rfl

theorem LeavesIn.insert {e idx : Nat} {words : List CodeWord} {blocks : List Nat} {p q : Pack} {s t : State}
    (h : LeavesIn e idx words blocks p q s t) (block : Nat) :
    ∃ r, LeavesIn e idx words (blocks ++ [block]) p r s (insertLeaf e idx block words t) := by
  obtain ⟨set, ⟨faults, roots, readyAt, same⟩, rooted, formed⟩ := h
  have desc : q.desc = p.desc := by rw [same]
  have leaf : leafOf q words block = leafOf p words block := leafOf_desc desc words block
  have pcount : q.pcount = p.pcount := congrArg (fun d => fld d 81 7) desc
  obtain ⟨faults', set', forming, env⟩ := leafFaulted_set set idx block (leafOf p words block).2
  have sc : t.env.sc = s.env.sc := by rw [set.rest]
  rw [insertLeaf_eq, getPack_of_tfind set.mine]
  dsimp only
  rw [leaf, pcount, env, sc]
  generalize leafFaulted e idx block (leafOf p words block).2 t = u at *
  by_cases single : p.pcount = 1
  · rw [if_pos single, setRoot_leaf (leafOf_isBx ..)]
    obtain ⟨kept, rooted⟩ := rooted single
    refine ⟨_, set'.set _, ⟨_, _, _, by rw [same]⟩, fun _ => ⟨forming.trans kept, fun b hb => ?_⟩, fun many => absurd single many⟩
    rcases List.mem_append.1 hb with old | new
    · by_cases here : b = block
      · subst here
        exact tfind_tput_self ..
      · exact (tfind_tput_ne _ _ here).trans (rooted b old)
    · obtain rfl := List.mem_singleton.1 new
      exact tfind_tput_self ..
  · rw [if_neg single]
    refine ⟨_, set'.form .., ⟨_, _, _, by rw [same]⟩, fun one => absurd one single, fun many => ?_⟩
    change u.red.forming ++ _ = _
    rw [forming, formed many, List.map_append, ← List.append_assoc, leafOf_isBx]
    rfl

theorem leavesIn_blocks {e idx : Nat} {words : List CodeWord} {p : Pack} {s : State} (h : tfind s.red.packs e = some p)
    (blocks : List Nat) : ∃ q, LeavesIn e idx words blocks p q s (blocks.foldl (fun s b => insertLeaf e idx b words s) s) := by
  induction blocks using List.reverseRecOn with
  | nil => exact ⟨p, leavesIn_none words h⟩
  | append_singleton blocks b ih =>
    obtain ⟨q, ih⟩ := ih
    rw [List.foldl_append]
    exact ih.insert b

/-! ### Contributions (R195, R196) -/

/-- A pack that counts one more chunk as accepted. -/
def accepting (n : Nat) (p : Pack) : Pack := { p with got := p.got ++ [n] }

theorem emit_out_congr (m : OutMsg) {s u : State} (h : u.out = s.out) : (emit m u).out = (emit m s).out := by
  unfold emit
  split
  · exact h
  · exact congrArg (fun o : Out => { o with egress := o.egress ++ [m] }) h


section

variable {s : State} {target epoch idx chunk : Nat} {words : List CodeWord} (sound : ∀ q ∈ s.red.packs, q.2.parityBad = false)
include sound

theorem contribute_muzzled (muz : redMuzzled s = true) : contribute target epoch idx chunk words s = (.muzzled, s) := by
  unfold contribute
  rw [checkPacks_sound sound]
  exact if_pos muz

variable (serves : redMuzzled s = false)
include serves

theorem contribute_absent (none : ∀ q ∈ s.red.packs, ¬ (q.2.target = target ∧ q.2.epoch = epoch ∧ q.2.stop ≠ some 3)) :
    contribute target epoch idx chunk words s = (.nackRetry, s) := by
  have absent : (s.red.packs.find? fun p => p.2.target == target && p.2.epoch == epoch && p.2.stop != some 3) = .none := by
    refine List.find?_eq_none.2 fun q hq here => none q hq ?_
    simpa [and_assoc] using here
  unfold contribute
  dsimp only
  rw [checkPacks_sound sound, if_neg (by rw [serves]; exact Bool.false_ne_true), absent]

variable {e : Nat} {p : Pack}
  (found : (s.red.packs.find? fun p => p.2.target == target && p.2.epoch == epoch && p.2.stop != some 3) = some (e, p))
include found

theorem contribute_unknown (bad : ¬ (idx < p.pcount ∧ chunk < p.chunks ∧ words.length = p.chunkWords chunk)) :
    contribute target epoch idx chunk words s = (.bounds, s) := by
  unfold contribute
  dsimp only
  rw [checkPacks_sound sound, if_neg (by rw [serves]; exact Bool.false_ne_true), found]
  exact if_pos (by rw [not_and_or, not_and_or, Nat.not_lt, Nat.not_lt] at bad; exact bad)

variable (known : idx < p.pcount ∧ chunk < p.chunks ∧ words.length = p.chunkWords chunk)
include known

theorem contribute_twice (again : idx * 1024 + chunk ∈ p.got) :
    contribute target epoch idx chunk words s = (.packCollision, s) := by
  unfold contribute
  dsimp only
  rw [checkPacks_sound sound, if_neg (by rw [serves]; exact Bool.false_ne_true), found]
  exact (if_neg (by omega)).trans (if_pos (List.contains_iff_mem.2 again))

theorem contribute_accepts (fresh : idx * 1024 + chunk ∉ p.got) : contribute target epoch idx chunk words s
    = (.ok, (p.chunkBlocks chunk).foldl (fun s b => insertLeaf e idx b words s)
        (setPack e (accepting (idx * 1024 + chunk)) s)) := by
  unfold contribute
  dsimp only
  rw [checkPacks_sound sound, if_neg (by rw [serves]; exact Bool.false_ne_true), found]
  exact (if_neg (by omega)).trans (if_neg (fun k => fresh (List.contains_iff_mem.1 k)))

end

/-- What the fetch buffer and the streaming counts become does not depend on the reduction unit. -/
theorem dropLineFb_red (line : LineAddr) (cls : Nat) (s : State) (r : Red) :
    dropLineFb line (countStore cls false { s with red := r }) = { dropLineFb line (countStore cls false s) with red := r } := by
  have counted : countStore cls false { s with red := r } = { countStore cls false s with red := r } := by
    unfold countStore
    cases s.cache.sdEn <;> rfl
  rw [counted]
  generalize countStore cls false s = u
  have same : fbOf { u with red := r } line = fbOf u line := rfl
  unfold dropLineFb
  rw [same]
  cases fbOf u line with
  | none => rfl
  | some k =>
    unfold dropFb
    dsimp only
    cases tfind u.cache.fb k <;> rfl

theorem dropLineFb_eq (line : LineAddr) (s : State) :
    dropLineFb line s = { s with cache := { s.cache with fb := (dropLineFb line s).cache.fb } } := by
  unfold dropLineFb
  split
  · unfold dropFb
    split <;> rfl
  · rfl

section

variable {s : State} {h : Hdr} {epoch : BitVec 16} {idx : BitVec 6} {chunk : BitVec 10} {ncw : BitVec 3} {data : List CodeWord}

/-- A contribution that is framed as its fields call for. -/
theorem pkctb_framed : (decide (data.length = ncw.toNat + 1) && decide (h.ndf = dataFlitCount data.length)) = true
    ↔ ¬ (data.length ≠ ncw.toNat + 1 ∨ h.ndf ≠ (data.length + 1) / 2) := by
  rw [Bool.and_eq_true, decide_eq_true_eq, decide_eq_true_eq, not_or, not_not, not_not]
  rfl

theorem pkctb_refused (hu : inUse s) (hh : hears s (.pkctb h epoch idx chunk ncw data)) {st : Status} (ne : st ≠ .nackRetry)
    (refused : reqRefused s h false (decide (data.length = ncw.toNat + 1) && decide (h.ndf = dataFlitCount data.length)) = some st) :
    exec (.pkctb h epoch idx chunk ncw data) s = .next (arrived (.pkctb h epoch idx chunk ncw data)
      (emit (answerMsg h 9 (.status st) [] (s.env.sc + 9) .none) s)) := by
  unfold exec execPkctb
  refine receive_answers hu hh rfl ?_ (emit_untouched _ {})
  dsimp only
  rw [refused]
  dsimp only
  rw [answerPack, countNack, if_neg ne, answer]

/-- A contribution that is looked at is answered with its status. -/
theorem pkctb_answered (hu : inUse s) (hh : hears s (.pkctb h epoch idx chunk ncw data)) (live : s.saf.fatal = false)
    (source : badSource s h.agent h.die = false)
    (framed : (decide (data.length = ncw.toNat + 1) && decide (h.ndf = dataFlitCount data.length)) = true) {st : Status} {u v : State}
    (hc : contribute (h.line.toNat * 256) epoch.toNat idx.toNat chunk.toNat data s = (st, u))
    (hv : countNack st (if st = .ok then dropLineFb h.line (countStore (classOf s h.line h.label) false u) else u) = v)
    (sc : (if st = .ok then dropLineFb h.line (countStore (classOf s h.line h.label) false u) else u).env.sc = s.env.sc)
    (untouched : Untouched s v) :
    exec (.pkctb h epoch idx chunk ncw data) s = .next (arrived (.pkctb h epoch idx chunk ncw data)
      (emit (answerMsg h 9 (.status st) [] (s.env.sc + 9) .none) v)) := by
  unfold exec execPkctb
  refine receive_answers hu hh rfl ?_ (emit_untouched _ untouched)
  dsimp only
  rw [reqRefused_none (parks := false) live (fun k => absurd k Bool.false_ne_true) source framed]
  dsimp only
  rw [hc]
  dsimp only
  rw [answerPack, hv, answer, sc]

theorem countNack_other {st : Status} (ne : st ≠ .nackRetry) (s : State) : countNack st s = s := if_neg ne

/-- A contribution that its pack does not take. -/
theorem pkctb_declined (hu : inUse s) (hh : hears s (.pkctb h epoch idx chunk ncw data)) (live : s.saf.fatal = false)
    (source : badSource s h.agent h.die = false)
    (framed : (decide (data.length = ncw.toNat + 1) && decide (h.ndf = dataFlitCount data.length)) = true) {st : Status}
    (ne : st ≠ .nackRetry) (declined : st ≠ .ok)
    (hc : contribute (h.line.toNat * 256) epoch.toNat idx.toNat chunk.toNat data s = (st, s)) :
    exec (.pkctb h epoch idx chunk ncw data) s = .next (arrived (.pkctb h epoch idx chunk ncw data)
      (emit (answerMsg h 9 (.status st) [] (s.env.sc + 9) .none) s)) :=
  pkctb_answered hu hh live source framed hc ((countNack_other ne _).trans (if_neg declined))
    (by rw [if_neg declined]) {}

/-- A contribution that is accepted (R196, R208). -/
theorem pkctb_accepted (hu : inUse s) (hh : hears s (.pkctb h epoch idx chunk ncw data)) (live : s.saf.fatal = false)
    (source : badSource s h.agent h.die = false)
    (framed : (decide (data.length = ncw.toNat + 1) && decide (h.ndf = dataFlitCount data.length)) = true)
    (sound : ∀ q ∈ s.red.packs, q.2.parityBad = false) (serves : s.red.muz = false) {e : Nat} {p : Pack}
    (listed : tfind s.red.packs e = some p)
    (found : (s.red.packs.find? fun p => p.2.target == h.line.toNat * 256 && p.2.epoch == epoch.toNat && p.2.stop != some 3)
      = some (e, p))
    (known : idx.toNat < p.pcount ∧ chunk.toNat < p.chunks ∧ data.length = p.chunkWords chunk.toNat)
    (fresh : idx.toNat * 1024 + chunk.toNat ∉ p.got) :
    let u := dropLineFb h.line (countStore (classOf s h.line h.label) false s)
    ∃ t, exec (.pkctb h epoch idx chunk ncw data) s = .next t
      ∧ (getPack t e).got = p.got ++ [idx.toNat * 1024 + chunk.toNat]
      ∧ (getPack t e).desc = p.desc ∧ (getPack t e).age = p.age ∧ (getPack t e).phase = p.phase
      ∧ (∀ d, d ≠ e → tfind t.red.packs d = tfind s.red.packs d)
      ∧ t.out = (emit (answerMsg h 9 (.status .ok) [] (s.env.sc + 9) .none) s).out ∧ t.cache = u.cache ∧ t.arr = s.arr
      ∧ (p.pcount ≠ 1 → t.red.forming = s.red.forming ++ (p.chunkBlocks chunk.toNat).map (leafNode s e p data idx.toNat))
      ∧ (p.pcount = 1 → t.red.forming = s.red.forming ∧ ∀ b ∈ p.chunkBlocks chunk.toNat,
          tfind (getPack t e).roots b = some (leafOf p data b).1.image) := by
  intro u
  let k := accepting (idx.toNat * 1024 + chunk.toNat) p
  have first : PackSet e k s (setPack e (accepting (idx.toNat * 1024 + chunk.toNat)) s) :=
    (PackSet.refl listed).set (accepting (idx.toNat * 1024 + chunk.toNat))
  generalize hs1 : setPack e (accepting (idx.toNat * 1024 + chunk.toNat)) s = s1 at first
  obtain ⟨q, ⟨mine, others, rest⟩, ⟨faults, roots, readyAt, same⟩, rooted, formed⟩ :=
    leavesIn_blocks (idx := idx.toNat) (words := data) first.mine (p.chunkBlocks chunk.toNat)
  have taken := contribute_accepts (idx := idx.toNat) (chunk := chunk.toNat) (words := data) sound
    (by rw [redMuzzled, serves, live]; rfl) found known fresh
  rw [hs1] at taken
  generalize (p.chunkBlocks chunk.toNat).foldl (fun s b => insertLeaf e idx.toNat b data s) s1 = w at *
  have whole : w = { s with red := w.red } := by
    rw [rest, first.rest]
  have forming : s1.red.forming = s.red.forming := by rw [← hs1]; rfl
  have leaf (b : Nat) : leafOf k data b = leafOf p data b := leafOf_desc rfl data b
  have counted : dropLineFb h.line (countStore (classOf s h.line h.label) false w) = { u with red := w.red } := by
    rw [whole]
    exact dropLineFb_red ..
  have untouched : Untouched s u := by
    change Untouched s (dropLineFb h.line (countStore (classOf s h.line h.label) false s))
    rw [dropLineFb_eq]
    exact (countStore_untouched _ _ (Untouched.refl s)).trans {}
  have out : u.out = s.out := by
    change (dropLineFb h.line (countStore (classOf s h.line h.label) false s)).out = _
    rw [dropLineFb_eq, countStore_eq]
  have arr : u.arr = s.arr := by
    change (dropLineFb h.line (countStore (classOf s h.line h.label) false s)).arr = _
    rw [dropLineFb_eq, countStore_eq]
  have sc : u.env.sc = s.env.sc := by
    change (dropLineFb h.line (countStore (classOf s h.line h.label) false s)).env.sc = _
    rw [dropLineFb_eq, countStore_eq]
  let m := answerMsg h 9 (.status .ok) [] (s.env.sc + 9) .none
  have body := arrived_same (.pkctb h epoch idx chunk ncw data) (emit m { u with red := w.red })
  have red : (arrived (.pkctb h epoch idx chunk ncw data) (emit m { u with red := w.red })).red = w.red := by
    rw [body.red, emit_rest]
  have own : getPack (arrived (.pkctb h epoch idx chunk ncw data) (emit m { u with red := w.red })) e = q := by
    rw [getPack, red, tget, mine]
    rfl
  refine ⟨_, pkctb_answered hu hh live source framed taken (v := { u with red := w.red }) ?_
      (by rw [if_pos rfl, counted]; exact sc) (untouched.trans {}),
    ?_, ?_, ?_, ?_, fun d hd => ?_, ?_, ?_, ?_, fun many => ?_, fun single => ?_⟩
  · rw [countNack_other (st := .ok) nofun, if_pos rfl, counted]
  · rw [own, same]
    rfl
  · rw [own, same]
    rfl
  · rw [own, same]
    rfl
  · rw [own, same]
    rfl
  · rw [red, others d hd]
    exact first.others d hd
  · rw [body.out]
    exact emit_out_congr m (s := s) out
  · rw [body.cache, emit_rest]
  · rw [body.arr, emit_rest]
    exact arr
  · rw [red, formed many, forming]
    refine congrArg (s.red.forming ++ ·) (List.map_congr_left fun b _ => ?_)
    rw [leafNode, leaf, ← hs1]
    rfl
  · obtain ⟨kept, held⟩ := rooted single
    rw [red, own]
    exact ⟨kept.trans forming, fun b hb => (held b hb).trans (by rw [leaf])⟩

end

end Sys2Proof.Proofs
end

section
/-! SUPPORT. How a pack ends (07_reduction_arithmetic R206, R212 to R222; 15_containment_and_safety R402): a kennel target that is
complete, the watchdog, the muzzle of the unit. -/

namespace Sys2Proof.Proofs

open Sys2Proof.Machine Sys2Proof.Safety Sys2Proof.Laws

set_option Elab.async false

/-! ### The array after an engine's write -/

theorem writeAt_idle {f : Nat → Nat} {words : List (CodeWord × Nat)} {s : State} (h : idleArray s) : idleArray (writeAt f words s) := by
  induction words generalizing s with
  | nil => exact h
  | cons w words ih => exact ih ⟨h.1, by rw [← List.map_nil (f := Reading.outrun (f w.2)), ← h.2]; rfl⟩

theorem chargeSectors_idle (c : Nat) {secs : List Nat} {s : State} (h : idleArray s) :
    idleArray (secs.foldl (fun s x => chargeSector c (secBank x) s) s) := by
  induction secs generalizing s with
  | nil => exact h
  | cons x secs ih =>
    obtain ⟨cls, e⟩ := chargeSector_eq c (secBank x) s
    refine ih ?_
    dsimp only
    rw [e]
    exact h

theorem engineWrite_stays_idle {s : State} (h : idleArray s) (cls off : Nat) (words : List CodeWord) :
    idleArray (engineWrite cls off words s) := by
  rw [engineWrite_idle h]
  exact chargeSectors_idle _ (writeAt_idle h)

/-! ### The result (R212) -/

theorem accumulate_plain {p : Pack} (h : p.accum = false) (i : Nat) (v : Int) : accumulate p [] i v = (v, 0) :=
  if_pos (by rw [h]; rfl)

/-- Without an accumulate step no fault comes of the result. -/
theorem packResult_faults {p : Pack} (h : p.accum = false) : (packResult p []).2.2 = [] := by
  unfold packResult
  dsimp only
  rw [List.map_eq_nil_iff, List.filter_eq_nil_iff]
  rintro ⟨v, i⟩ hv
  obtain ⟨⟨v', j⟩, -, rfl⟩ := List.mem_map.1 (List.fst_mem_of_mem_zipIdx hv)
  rw [accumulate_plain h]
  exact Bool.false_ne_true

theorem elementWords_length (z : Nat) (els : List Nat) : (elementWords z els).length = ceilDiv (els.length * z) 32 := by
  rw [elementWords, List.length_map, List.length_range]

theorem packResult_length (p : Pack) (old : List CodeWord) : (packResult p old).1.length ≤ p.outWords := by
  unfold packResult
  dsimp only
  rw [elementWords_length, Pack.outWords]
  simp only [List.length_map, List.length_zipIdx, List.length_take]
  unfold ceilDiv
  have := Nat.mul_le_mul_right (outputBytes p.ofmt) (Nat.min_le_left p.vcount (rootVals p).length)
  omega

/-- A pack with its result. -/
def resulting (p : Pack) : Pack :=
  { p with result := (packResult p []).1.map plain, sat := min 65535 (packResult p []).2.1 }

/-- A pack without an accumulate step takes its result. -/
theorem applyPackResult_plain {s : State} {e : Nat} {p : Pack} (listed : tfind s.red.packs e = some p) (h : p.accum = false) :
    PackSet e (resulting p) s (applyPackResult e [] s) := by
  have taken := (PackSet.refl listed).set fun q => { q with
    result := (packResult p []).1.map plain, sat := min 65535 (packResult p []).2.1, faults := q.faults ++ (packResult p []).2.2 }
  have own : getPack s e = p := getPack_of_tfind listed
  unfold applyPackResult
  rw [own]
  dsimp only
  have same : ({ p with
      result := (packResult p []).1.map plain, sat := min 65535 (packResult p []).2.1
      faults := p.faults ++ (packResult p []).2.2 } : Pack) = resulting p := by
    rw [packResult_faults h, List.append_nil]
    rfl
  rw [← same]
  exact taken

/-! ### A kennel target (R214) -/

/-- The entry is free and the pack counts as done (R214, R222). -/
def packFreed (e : Nat) (r : Red) : Red :=
  { r with packs := terase r.packs e, forming := r.forming.filter fun f => f.entry != e, donePacks := min 65535 (r.donePacks + 1) }

theorem closePack_eq {s : State} {e : Nat} {p : Pack} (listed : tfind s.red.packs e = some p) (ok : p.failed = false) :
    closePack e s = flagNext p.evt { engineWrite p.cls p.recordAt [plain (packRecord s e p)] s with
      red := packFreed e (engineWrite p.cls p.recordAt [plain (packRecord s e p)] s).red } := by
  have no : ¬ p.failed = true := by rw [ok]; exact Bool.false_ne_true
  unfold closePack
  rw [getPack_of_tfind listed]
  dsimp only
  rw [if_neg no, if_neg no, if_neg no]
  rfl

theorem kennelTargetEnd_eq {s s1 : State} {e off : Nat} {p : Pack} (listed : tfind s.red.packs e = some p) (ok : p.failed = false)
    (plainly : p.accum = false) (h : applyPackResult e [] s = s1) (hs : PackSet e (resulting p) s s1) :
    kennelTargetEnd e off s = closePack e (engineWrite p.cls off (resulting p).result s1) := by
  have own : getPack s1 e = resulting p := getPack_of_tfind hs.mine
  have no : ¬ p.failed = true := by rw [ok]; exact Bool.false_ne_true
  have no' : ¬ p.accum = true := by rw [plainly]; exact Bool.false_ne_true
  unfold kennelTargetEnd
  rw [getPack_of_tfind listed]
  dsimp only
  rw [if_neg no, if_neg no', h, own, if_neg (show ¬ (resulting p).failed = true from no)]
  rfl

theorem kennelTarget_completes {s : State} {e off : Nat} {p : Pack} (listed : tfind s.red.packs e = some p) (ok : p.failed = false)
    (plainly : p.accum = false) (idle : idleArray s) (fits : off + 32 * p.outWords ≤ 2 ^ 24) (aligned : off % 32 = 0)
    (recordAligned : p.recordAt % 32 = 0) {t : State} (ht : kennelTargetEnd e off s = t) :
    let q : Pack := { p with sat := min 65535 (packResult p []).2.1 }
    Untouched s t
      ∧ tfind t.red.packs e = none ∧ (∀ d, d ≠ e → tfind t.red.packs d = tfind s.red.packs d)
      ∧ t.red.donePacks = min 65535 (s.red.donePacks + 1) ∧ t.red.poisonPacks = s.red.poisonPacks
      ∧ cellsOf t (kennelLoc p.recordAt) = some (wordCells s (kennelLoc p.recordAt) (plain (packRecord s e q)))
      ∧ (∀ k w, (packResult p []).1[k]? = some w → off + 32 * k ≠ p.recordAt →
          cellsOf t (kennelLoc (off + 32 * k)) = some (wordCells s (kennelLoc (off + 32 * k)) (plain w)))
      ∧ (∀ loc, loc < 2 ^ 19 → loc ≠ kennelLoc p.recordAt → (∀ k, k < p.outWords → loc ≠ kennelLoc (off + 32 * k)) →
          cellsOf t loc = cellsOf s loc)
      ∧ t.seq = flagged p.evt s.seq
      ∧ t.saf = s.saf ∧ t.out = s.out ∧ t.cache = s.cache ∧ t.coh = s.coh ∧ t.ken = s.ken := by
  intro q
  have hs := applyPackResult_plain listed plainly
  have ended := kennelTargetEnd_eq (off := off) listed ok plainly rfl hs
  obtain ⟨mine, others, rest⟩ := hs
  generalize applyPackResult e [] s = s1 at *
  have idle1 : idleArray s1 := by rw [rest]; exact idle
  have wrote := engineWrite_outside idle1 p.cls off (resulting p).result
  have idle2 := engineWrite_stays_idle idle1 p.cls off (resulting p).result
  have cells (k : Nat) (w : CodeWord) (hw : (resulting p).result[k]? = some w) :=
    cellsOf_engineWrite (s := s1) idle1 p.cls (off := off) (words := (resulting p).result) aligned
      (by have := packResult_length p []; rw [resulting, List.length_map]; omega) hw
  have away {loc : Nat} (hl : loc < 2 ^ 19) (ne : ∀ i, i < (resulting p).result.length → loc ≠ kennelLoc (off + 32 * i)) :=
    cellsOf_engineWrite_ne idle1 p.cls off (resulting p).result hl ne
  generalize engineWrite p.cls off (resulting p).result s1 = s2 at *
  have listed2 : tfind s2.red.packs e = some (resulting p) := by
    rw [wrote]
    exact mine
  have same : packRecord s2 e (resulting p) = packRecord s e q := by
    rw [wrote, rest]
    rfl
  have closed := closePack_eq listed2 (show (resulting p).failed = false from ok)
  rw [same, flagNext_eq] at closed
  have recorded := engineWrite_outside idle2 p.cls p.recordAt [plain (packRecord s e q)]
  have small : p.recordAt < 2 ^ 24 := Nat.mod_lt _ (by decide)
  have record := cellsOf_engineWrite (s := s2) idle2 p.cls (off := p.recordAt) (words := [plain (packRecord s e q)]) (i := 0)
    recordAligned (by rw [List.length_singleton]; omega) rfl
  have aside {loc : Nat} (hl : loc < 2 ^ 19) (ne : loc ≠ kennelLoc p.recordAt) :=
    cellsOf_engineWrite_ne idle2 p.cls p.recordAt [plain (packRecord s e q)] hl fun i hi => by
      rw [List.length_singleton, Nat.lt_one_iff] at hi
      subst hi
      exact ne
  have clear : (resulting p).cls = p.cls ∧ (resulting p).recordAt = p.recordAt ∧ (resulting p).evt = p.evt := ⟨rfl, rfl, rfl⟩
  rw [clear.1, clear.2.1, clear.2.2] at closed
  have whole := ht.symm.trans (ended.trans closed)
  generalize engineWrite p.cls p.recordAt [plain (packRecord s e q)] s2 = s3 at *
  have cells3 (loc : Nat) : cellsOf t loc = cellsOf s3 loc := by
    rw [whole]
    rfl
  have untouched1 : Untouched s s1 := by
    rw [rest]
    exact {}
  have like (loc : Nat) (w : CodeWord) : wordCells s1 loc w = wordCells s loc w := by
    rw [rest]
    rfl
  have like2 (loc : Nat) (w : CodeWord) : wordCells s2 loc w = wordCells s loc w := (wordCells_congr wrote loc w).trans (like loc w)
  have before (loc : Nat) : cellsOf s1 loc = cellsOf s loc := by
    rw [rest]
    rfl
  have both : s3 = { s with arr := s3.arr, bg := s3.bg, fg := s3.fg, reg := s3.reg
                            red := { s.red with packs := s1.red.packs, forming := s1.red.forming } } := by
    rw [recorded, wrote, rest]
    rfl
  refine ⟨?_, ?_, fun d hd => ?_, ?_, ?_, ?_, fun k w hw ne => ?_, fun loc hl ne out => ?_, ?_, ?_, ?_, ?_, ?_, ?_⟩
  · rw [whole]
    exact ((untouched1.trans wrote.untouched).trans recorded.untouched).trans {}
  · rw [whole]
    exact tfind_terase_self ..
  · rw [whole, both]
    exact (tfind_terase_ne _ hd).trans (others d hd)
  · rw [whole, both]
    rfl
  · rw [whole, both]
    rfl
  · rw [cells3, ← like2]
    exact record
  · have hk : k < p.outWords := by
      have := (List.getElem?_eq_some_iff.1 hw).1
      have := packResult_length p []
      omega
    have hw' : (resulting p).result[k]? = some (plain w) := by
      rw [resulting, List.getElem?_map, hw]
      rfl
    rw [cells3, aside (kennelLoc_lt _) fun e => ne (kennelLoc_injective (by omega) small (by omega) recordAligned e), cells k _ hw',
      like]
  · rw [cells3, aside hl ne, away hl fun i hi => out i ?_, before]
    have := packResult_length p []
    rw [resulting, List.length_map] at hi
    omega
  · rw [whole, both]
  · rw [whole, both]
  · rw [whole, both]
  · rw [whole, both]
  · rw [whole, both]
  · rw [whole, both]

/-! ### The watchdog and the muzzle (R206, R218, R220) -/

theorem packExpired_iff {s : State} (p : Pack) (serves : s.red.muz = false) : packExpired s p = true
    ↔ p.stop = none ∧ 1 ≤ p.pwdog ∧ p.pwdog ≤ p.age ∧ p.got.length < p.pcount * p.chunks := by
  simp only [packExpired, serves, Bool.not_false, Bool.true_and, Bool.and_eq_true, Option.isNone_iff_eq_none, decide_eq_true_eq,
    and_assoc, ne_eq, Nat.one_le_iff_ne_zero]

theorem packExpiryDue_serves {s : State} (h : packExpiryDue s = true) : s.red.muz = false := by
  obtain ⟨p, -, expired⟩ := List.any_eq_true.1 h
  simp only [packExpired, Bool.and_eq_true, Bool.not_eq_true'] at expired
  exact expired.1.1.1.1

theorem packWatchdogExpiry_answers {s : State} (hu : inUse s) (due : packExpiryDue s = true) :
    exec .packWatchdogExpiry s = .next { s with red := { s.red with
      packs := s.red.packs.map fun p =>
        if p.2.stop = none ∧ 1 ≤ p.2.pwdog ∧ p.2.pwdog ≤ p.2.age ∧ p.2.got.length < p.2.pcount * p.2.chunks
        then (p.1, { p.2 with stop := some 3 }) else p } } := by
  have same : (fun p : Nat × Pack => if packExpired s p.2 then (p.1, { p.2 with stop := some 3 }) else p) = fun p =>
      if p.2.stop = none ∧ 1 ≤ p.2.pwdog ∧ p.2.pwdog ≤ p.2.age ∧ p.2.got.length < p.2.pcount * p.2.chunks
      then (p.1, { p.2 with stop := some 3 }) else p :=
    funext fun p => if_congr (packExpired_iff p.2 (packExpiryDue_serves due)) rfl rfl
  unfold exec execPackWatchdogExpiry
  refine eventIf_answers hu due ?_
  dsimp only
  rw [same]

theorem muzzleRed_again {s : State} (muz : s.red.muz = true) (index kind : Nat) :
    muzzleRed index kind s = report 0x40 1 0x4000 (detailN index kind) s := by
  rw [muzzleRed, if_pos muz]

/-- The unit muzzled, its packs stopped with cause UNIT but for those whose entry fails its check (R220). -/
def unitMuzzled (s : State) : State :=
  { s with red := { s.red with
    muz := true, muzAt := s.env.sc
    packs := s.red.packs.map fun p => if p.2.parityBad then p
      else (p.1, { p.2 with stop := some 5, phase := .gathering, line := 0 }) } }

theorem muzzleRed_first {s : State} (serves : s.red.muz = false) (index kind : Nat) :
    muzzleRed index kind s = report 0x40 1 0x4000 (detailN index kind) (unitMuzzled s) := by
  rw [muzzleRed, if_neg (by rw [serves]; exact Bool.false_ne_true)]
  rfl

theorem tfind_map_snd {α : Type} (f : α → α) (t : Table α) (k : Nat) : tfind (t.map fun p => (p.1, f p.2)) k = (tfind t k).map f := by
  induction t with
  | nil => rfl
  | cons p t ih =>
    rw [List.map_cons, tfind, tfind, ih]
    split <;> rfl

/-- What a pack of a muzzled unit is. -/
def unitStopped (p : Pack) : Pack := if p.parityBad then p else { p with stop := some 5, phase := .gathering, line := 0 }

theorem tfind_unitMuzzled (s : State) (d : Nat) :
    tfind (unitMuzzled s).red.packs d = (tfind s.red.packs d).map unitStopped := by
  rw [← tfind_map_snd]
  refine congrArg (fun l => tfind l d) (List.map_congr_left fun p _ => ?_)
  unfold unitStopped
  split <;> rfl

theorem mem_of_tfind_pack {t : Table Pack} {k : Nat} {p : Pack} (h : tfind t k = some p) : (k, p) ∈ t := mem_of_tfind h

section

variable {s : State} {entry : Option (Fin 16)}

theorem redMismatch_again (hu : inUse s) (muz : s.red.muz = true) : exec (.redLockstepMismatch none) s =
    .next (if s.red.muzAt = s.env.sc then report 0x40 1 0x4000 (detailN 0 0) s else s) := by
  unfold exec execRedLockstepMismatch
  refine event_answers hu ?_ ?_
  · dsimp only
    by_cases now : s.red.muzAt = s.env.sc
    · rw [if_pos now, if_neg (by simp [muz, now]), muzzleRed_again muz]
    · rw [if_neg now, if_pos (by simp [muz, now])]
  · split
    · exact report_untouched _ _ _ _ (Untouched.refl s)
    · exact Untouched.refl s

theorem redMismatch_entry_again (hu : inUse s) (muz : s.red.muz = true) (e : Fin 16) : exec (.redLockstepMismatch (some e)) s =
    .next (if (getPack s e.val).parityBad = true then s
      else report 0x40 1 0x4000 (detailN e.val 1) (setPack e.val (fun p => { p with parityBad := true }) s)) := by
  unfold exec execRedLockstepMismatch
  refine event_answers hu ?_ ?_
  · dsimp only
    by_cases bad : (getPack s e.val).parityBad = true
    · rw [if_pos bad, if_pos (by rw [bad, muz]; rfl)]
    · rw [if_neg bad, if_neg (by rw [muz, Bool.and_true]; exact bad)]
      exact muzzleRed_again (s := setPack e.val _ s) muz e.val 1
  · split
    · exact Untouched.refl s
    · exact report_untouched _ _ _ _ {}

/-- What a first mismatch leaves. -/
theorem redMismatch_first (hu : inUse s) (serves : s.red.muz = false) (sound : ∀ p ∈ s.red.packs, p.2.parityBad = false) :
    let detail := match entry with
      | none => detailN 0 0
      | some e => detailN e.val 1
    ∃ t, exec (.redLockstepMismatch entry) s = .next t ∧ t.red.muz = true ∧ t.red.muzAt = s.env.sc
      ∧ t.saf = (report 0x40 1 0x4000 detail s).saf
      ∧ (∀ d, (∀ e, entry = some e → d ≠ e.val) → tfind t.red.packs d = (tfind s.red.packs d).map fun p =>
          { p with stop := some 5, phase := .gathering, line := 0 })
      ∧ (∀ e : Fin 16, entry = some e → tfind t.red.packs e = (tfind s.red.packs e).map fun p => { p with parityBad := true })
      ∧ t = { s with red := t.red, saf := t.saf } := by
  have stopped (d : Nat) : (tfind s.red.packs d).map unitStopped = (tfind s.red.packs d).map fun p =>
      { p with stop := some 5, phase := .gathering, line := 0 } := by
    rcases hp : tfind s.red.packs d with _ | p
    · rfl
    · rw [Option.map_some, Option.map_some, unitStopped,
        if_neg (by rw [sound _ (mem_of_tfind_pack hp)]; exact Bool.false_ne_true)]
  intro detail
  unfold exec execRedLockstepMismatch
  cases entry with
  | none =>
    refine ⟨report 0x40 1 0x4000 (detailN 0 0) (unitMuzzled s), event_answers hu ?_ (report_untouched _ _ _ _ {}), ?_, ?_,
      report_congr (s := s) (u := unitMuzzled s) rfl rfl rfl 0x40 1 0x4000 (detailN 0 0), fun d _ => ?_, nofun, ?_⟩
    · dsimp only
      rw [if_neg (by rw [serves]; exact Bool.false_ne_true), muzzleRed_first serves]
    · rw [report_saf]
      rfl
    · rw [report_saf]
      rfl
    · rw [report_saf]
      exact (tfind_unitMuzzled s d).trans (stopped d)
    · rw [report_saf]
      rfl
  | some e =>
    let v := setPack e.val (fun p => { p with parityBad := true }) s
    refine ⟨report 0x40 1 0x4000 (detailN e.val 1) (unitMuzzled v), event_answers hu ?_ (report_untouched _ _ _ _ {}), ?_, ?_,
      report_congr (s := s) (u := unitMuzzled v) rfl rfl rfl 0x40 1 0x4000 (detailN e.val 1), fun d hd => ?_, ?_, ?_⟩
    · dsimp only
      rw [if_neg (by rw [serves, Bool.and_false]; exact Bool.false_ne_true)]
      exact muzzleRed_first (s := v) serves e.val 1
    · rw [report_saf]
      rfl
    · rw [report_saf]
      rfl
    · rw [report_saf]
      refine (tfind_unitMuzzled v d).trans ?_
      rw [show tfind v.red.packs d = tfind s.red.packs d from tfind_tupd_ne _ _ (hd e rfl)]
      exact stopped d
    · rintro _ ⟨⟩
      rw [report_saf]
      refine (tfind_unitMuzzled v e.val).trans ?_
      rcases hp : tfind s.red.packs e.val with _ | p
      · rw [show tfind v.red.packs e.val = none by change tfind (tupd _ _ _) _ = _; rw [tupd, hp]; exact hp]
        rfl
      · rw [show tfind v.red.packs e.val = some { p with parityBad := true } from
          tfind_tupd_self (fun p : Pack => { p with parityBad := true }) hp]
        rfl
    · rw [report_saf]
      rfl

end

/-- A pack of a kennel target that has its next step to take is completed. -/
theorem packComplete_kennel {s : State} {e off : Nat} {p : Pack} (hu : inUse s) (due : packDue s = some e)
    (listed : tfind s.red.packs e = some p) (gathers : p.phase = .gathering) (target : p.kennelTarget s = some off)
    (untouched : Untouched s (kennelTargetEnd e off s)) : exec .packComplete s = .next (kennelTargetEnd e off s) := by
  unfold exec execPackComplete
  refine event_answers hu ?_ untouched
  dsimp only
  rw [due]
  dsimp only
  rw [getPack_of_tfind listed, if_neg (by rw [gathers]; nofun), target]

/-- The one pack that gathers for a target and an epoch is the first such. -/
theorem found_of_only {s : State} {e target epoch : Nat} {p : Pack} (listed : tfind s.red.packs e = some p)
    (here : p.target = target ∧ p.epoch = epoch ∧ p.stop ≠ some 3)
    (only : ∀ q ∈ s.red.packs, (q.2.target = target ∧ q.2.epoch = epoch ∧ q.2.stop ≠ some 3) → q = (e, p)) :
    (s.red.packs.find? fun p => p.2.target == target && p.2.epoch == epoch && p.2.stop != some 3) = some (e, p) := by
  rcases hf : s.red.packs.find? fun p => p.2.target == target && p.2.epoch == epoch && p.2.stop != some 3 with _ | q
  · refine absurd ?_ (List.find?_eq_none.1 hf (e, p) (mem_of_tfind listed))
    simp [here.1, here.2.1, here.2.2]
  · have holds := List.find?_some hf
    rw [hf, only q (List.mem_of_find?_eq_some hf) (by simpa [and_assoc] using holds)]

/-- Settles O47. -/
theorem packsAnswer : Obligations.PacksAnswer := by
  unfold Obligations.PacksAnswer
  refine ⟨fun s h epoch idx chunk ncw data => ?_, fun s e off p hu due listed gathers target plainly ok idle fits aligned recordAt => ?_,
    fun s hu due => packWatchdogExpiry_answers hu due, fun s entry hu => ⟨fun muz none => ?_, fun muz e some => ?_,
      fun serves sound _ => redMismatch_first hu serves sound⟩⟩
  · intro c hu hh sent refused bad here sound
    have framed (fine : ¬ bad) := pkctb_framed.2 fun k => fine (.inr k)
    have source (fine : ¬ bad) : badSource s h.agent h.die = false := Bool.eq_false_iff.2 fun k => fine (.inl k)
    have line : 256 * h.line.toNat = h.line.toNat * 256 := Nat.mul_comm _ _
    refine ⟨fun fatal => ?_, fun live wrong => ?_, ?_, ?_, ?_⟩
    · exact pkctb_refused hu hh nofun (reqRefused_fatal h false _ fatal)
    · refine pkctb_refused hu hh nofun (reqRefused_bounds live (fun k => absurd k Bool.false_ne_true) ?_)
      exact wrong.imp_right fun k => Bool.eq_false_iff.2 fun f => pkctb_framed.1 f k
    · rintro ⟨live, fine, packs⟩ muz
      exact pkctb_declined hu hh live (source fine) (framed fine) (st := .muzzled) nofun nofun
        (contribute_muzzled packs (by rw [redMuzzled, muz]; rfl))
    · rintro ⟨live, fine, packs⟩ serves none
      have absent := contribute_absent (target := h.line.toNat * 256) (epoch := epoch.toNat) (idx := idx.toNat)
        (chunk := chunk.toNat) (words := data) packs (by rw [redMuzzled, serves, live]; rfl)
        (fun q hq k => none q hq ⟨k.1.trans line.symm, k.2.1, k.2.2⟩)
      exact pkctb_answered hu hh live (source fine) (framed fine) absent rfl rfl {}
    · rintro e p ⟨live, fine, packs⟩ serves listed mine only known u
      have serves' : redMuzzled s = false := by rw [redMuzzled, serves, live]; rfl
      have found := found_of_only listed (target := h.line.toNat * 256) (epoch := epoch.toNat) ⟨mine.1.trans line, mine.2.1, mine.2.2⟩
        fun q hq k => only q hq ⟨k.1.trans line.symm, k.2.1, k.2.2⟩
      refine ⟨fun unknown => ?_, fun is again => ?_, fun is fresh => ?_⟩
      · exact pkctb_declined hu hh live (source fine) (framed fine) (st := .bounds) nofun nofun
          (contribute_unknown packs serves' found unknown)
      · exact pkctb_declined hu hh live (source fine) (framed fine) (st := .packCollision) nofun nofun
          (contribute_twice packs serves' found is again)
      · exact pkctb_accepted hu hh live (source fine) (framed fine) packs serves listed found is fresh
  · obtain ⟨untouched, left⟩ := kennelTarget_completes listed ok plainly idle fits aligned recordAt rfl
    exact ⟨_, packComplete_kennel hu due listed gathers target untouched, left⟩
  · subst none
    exact redMismatch_again hu muz
  · subst some
    exact redMismatch_entry_again hu muz e

end Sys2Proof.Proofs
end

section
/-! SUPPORT. Answers to the requests that the slice has sent (10_zellek_instruction_set R278, R286, R296, R306, R313; 11_bulk_mover R322,
R327; 15_containment_and_safety R407, R409). -/

namespace Sys2Proof.Proofs

open Sys2Proof.Machine Sys2Proof.Safety Sys2Proof.Laws

set_option Elab.async false

/-! ### The request that an answer names -/

/-- The state without the request of a transaction. -/
def without (txn : BitVec 16) (s : State) : State := { s with out := { s.out with orig := s.out.orig.filter fun p => p.txn != txn } }

theorem awaiting_txn {s : State} {txn : BitVec 16} {o : Originated} (h : awaiting s txn = some o) : o.txn = txn :=
  beq_iff_eq.1 (List.find?_some (p := fun o : Originated => o.txn == txn) h)

theorem answered_eq {s : State} {txn : BitVec 16} {o : Originated} (h : awaiting s txn = some o) : answered o s = without txn s := by
  rw [answered, awaiting_txn h]
  rfl

theorem onAnswer_takes {s : State} {txn : BitVec 16} {o : Originated} (h : awaiting s txn = some o) (live : s.saf.fatal = false)
    (act : Originated → State → State) : onAnswer txn s act = act o s := by
  unfold onAnswer
  rw [h]
  exact if_pos (by unfold Machine.takes; rw [live]; rfl)

/-- An answer that registers does what it does to its request. -/
theorem answer_arrives {s t : State} {h : Hdr} {o : Originated} {i : Instr} {a : Arrival} {act : Originated → State → State}
    (he : exec i s = receive i s fun s => onAnswer h.txn s act) (ha : arrivalOf i = some a) (hu : inUse s) (hh : hears s i)
    (live : s.saf.fatal = false) (aw : awaiting s h.txn = some o) (hb : act o s = t) (untouched : Untouched s t := by exact {}) :
    exec i s = .next (arrived i t) :=
  he.trans (receive_answers hu hh ha ((onAnswer_takes aw live act).trans hb) untouched)

/-! ### Instructions that complete -/

/-- What an answer leaves that completes an instruction. -/
def Completes (s : State) (h : Hdr) (r : Result) (t : State) : Prop :=
  t.seq.done = s.seq.done ++ [r] ∧ t.out = (without h.txn s).out ∧ t.mov = s.mov ∧ t.red = s.red ∧ t.saf = s.saf ∧ t.arr = s.arr

theorem completes_arrived {s u : State} {h : Hdr} {r : Result} (i : Instr) (k : Completes s h r u) : Completes s h r (arrived i u) := by
  obtain ⟨done, out, mov, red, saf, arr⟩ := k
  have same := arrived_same i u
  exact ⟨by rw [same.seq, done], by rw [same.out, out], by rw [same.mov, mov], by rw [same.red, red], by rw [same.saf, saf],
    by rw [same.arr, arr]⟩

theorem complete_completes (s : State) (h : Hdr) (r : Result) : Completes s h r (complete r (without h.txn s)) :=
  ⟨rfl, rfl, rfl, rfl, rfl, rfl⟩

theorem gatherDone_plain {q : Pending} (gather : ∀ u, q.gather ≠ .unit u) (c id due : Nat) (s : State) :
    gatherDone c id q due s = complete (Result.mk due c id (some (finishGather q).1) (finishGather q).2.1 (finishGather q).2.2) s := by
  unfold gatherDone
  dsimp only
  split
  · next h => exact absurd h (gather _)
  · next h => exact absurd h (gather _)
  · rfl

/-- An instruction whose last part ends with words and a status. -/
theorem partDone_last {s : State} {c id : Nat} {p : Pending} (found : pendOf s c id = some p) (last : p.left = 1)
    (fine : p.bad = none) (fresh : p.words = []) (gather : ∀ u, p.gather ≠ .unit u) (words : Table CodeWord) (bad : Option Status)
    (due : Nat) :
    let q : Pending := { p with words := words.foldl (fun t w => tput t w.1 w.2) [], left := 0, bad := bad }
    partDone c id words bad due s = complete (Result.mk due c id (some (finishGather q).1) (finishGather q).2.1 (finishGather q).2.2)
      (setPend c id (fun _ => q) s) := by
  intro q
  unfold partDone
  rw [found]
  dsimp only
  rw [last, fine, fresh, if_pos rfl]
  exact gatherDone_plain (q := q) gather c id due _

/-- The last part of an instruction, with the result that its words and its status make. -/
theorem partDone_completes {s : State} (h : Hdr) {c id : Nat} {p : Pending} (found : pendOf s c id = some p) (last : p.left = 1)
    (fine : p.bad = none) (fresh : p.words = []) (gather : ∀ u, p.gather ≠ .unit u) {words : Table CodeWord} {bad : Option Status}
    {st : Status} {regs : List (Nat × Word64)} {tiles : List (Nat × TileBlock)}
    (result : finishGather { p with words := words.foldl (fun t w => tput t w.1 w.2) [], left := 0, bad := bad } = (st, regs, tiles))
    (due : Nat) :
    Completes s h (Result.mk due c id (some st) regs tiles) (partDone c id words bad due (without h.txn s))
    ∧ Untouched s (partDone c id words bad due (without h.txn s)) := by
  have ended := partDone_last (s := without h.txn s) found last fine fresh gather words bad due
  dsimp only at ended
  rw [result] at ended
  rw [ended]
  exact ⟨⟨rfl, rfl, rfl, rfl, rfl, rfl⟩, {}⟩

/-! ### The words of an answer -/

theorem tfind_zip {keys : List Nat} {data : List CodeWord} (once : keys.Nodup) (len : data.length = keys.length) (d : CodeWord) :
    (keys.map fun k => (tfind (keys.zip data) k).getD d) = data := by
  induction keys generalizing data with
  | nil => exact (List.length_eq_zero_iff.1 len).symm
  | cons k keys ih =>
    obtain _ | ⟨w, data⟩ := data
    · cases len
    · rw [List.nodup_cons] at once
      rw [List.length_cons, List.length_cons, Nat.add_right_cancel_iff] at len
      have rest : (keys.map fun j => (tfind ((k, w) :: keys.zip data) j).getD d) = data := by
        refine Eq.trans (List.map_congr_left fun j hj => ?_) (ih once.2 len)
        rw [tfind, if_neg fun e : k = j => once.1 (e ▸ hj)]
      rw [List.zip_cons_cons, List.map_cons, rest, tfind, if_pos rfl]
      rfl

/-- The code words of the sectors of a mask. -/
def maskKeys (mask : BitVec 4) : List Nat := (bitsOf mask).flatMap fun i => [2 * i, 2 * i + 1]

theorem maskKeys_nodup (mask : BitVec 4) : (maskKeys mask).Nodup := by
  revert mask
  decide

theorem maskKeys_length (mask : BitVec 4) : (maskKeys mask).length = 2 * (bitsOf mask).length := by
  rw [maskKeys, List.length_flatMap]
  simp [Nat.mul_comm]

/-- An answer of all the sectors that its request names brings its words. -/
theorem requestedWords_all {o : Originated} {mask : BitVec 4} {crit : BitVec 2} {data : List CodeWord}
    (body : o.msg.body = .readReq mask crit) (len : data.length = 2 * (bitsOf mask).length) :
    requestedWords o (answerWords mask data) = data := by
  unfold requestedWords
  rw [body]
  exact tfind_zip (maskKeys_nodup mask) (len.trans (maskKeys_length mask).symm) _

/-! ### Moves -/

theorem moveAnswer_awaited {s : State} {e n off : Nat} {write : Bool} {r : MoveReq} (ok : (engineOf s e).parityBad = false)
    (carried : carries s e n = true) (found : (engineOf s e).awaits off write = some r) (act : MoveReq → Engine → Engine) :
    moveAnswer e n off write act s = setEngine e (act r) s := by
  unfold moveAnswer
  dsimp only
  rw [checkEngine_ok ok, if_pos carried, found]

/-- What an answer leaves that engine e takes. -/
structure EngineTakes (s : State) (h : Hdr) (e : Nat) (g : Engine) (t : State) : Prop where
  out : t.out = (without h.txn s).out
  mine : engineOf t e = g
  others : ∀ d, d ≠ e → engineOf t d = engineOf s d
  seq : t.seq = s.seq
  saf : t.saf = s.saf

theorem engineTakes_set (s : State) (h : Hdr) (e : Nat) (k : Engine → Engine) :
    EngineTakes s h e (k (engineOf s e)) (setEngine e k (without h.txn s)) where
  out := rfl
  mine := engineOf_setEngine_self e k (without h.txn s)
  others _ hd := engineOf_setEngine_ne k (without h.txn s) hd
  seq := rfl
  saf := rfl

theorem engineTakes_arrived {s u : State} {h : Hdr} {e : Nat} {g : Engine} (i : Instr) (k : EngineTakes s h e g u) :
    EngineTakes s h e g (arrived i u) := by
  have same := arrived_same i u
  have engines (d : Nat) : engineOf (arrived i u) d = engineOf u d := by rw [engineOf, same.mov, engineOf]
  exact ⟨same.out.trans k.out, (engines e).trans k.mine, fun d hd => (engines d).trans (k.others d hd), same.seq.trans k.seq,
    same.saf.trans k.saf⟩

/-- The end of a move by a request that has failed (R327). -/
theorem endBy_ended (now : Nat) (r : MoveReq) (st : Status) (g : Engine) : (g.endBy now r st).ended
    = if g.ended = none ∨ (g.endKey.1 = now ∧ r.num < g.endKey.2)
      then some { status := st, cause := if r.write then 2 else 1, line := g.lineOf r.off r.write } else g.ended := by
  have same : (g.ended.isNone || (g.endKey.1 == now && decide (r.num < g.endKey.2))) = true
      ↔ g.ended = none ∨ (g.endKey.1 = now ∧ r.num < g.endKey.2) := by
    simp only [Bool.or_eq_true, Option.isNone_iff_eq_none, Bool.and_eq_true, beq_iff_eq, decide_eq_true_eq]
  unfold Engine.endBy
  split
  · next h => exact (if_pos (same.1 h)).symm
  · next h => exact (if_neg fun k => h (same.2 k)).symm

theorem endBy_flight (now : Nat) (r : MoveReq) (st : Status) (g : Engine) : (g.endBy now r st).flight = g.flight := by
  unfold Engine.endBy
  split <;> rfl

theorem lineOf_eq (g : Engine) (off : Nat) (write : Bool) : g.lineOf off write
    = BitVec.ofNat 40 (((if write ∨ g.kind ≠ 0 then g.dst else g.src) + off) / 256) := by
  unfold Engine.lineOf
  congr 4
  simp

/-- What a request that fails makes of its engine. -/
theorem failed_engine {g : Engine} {off : Nat} {write : Bool} {r : MoveReq} (found : g.awaits off write = some r) (kind : r.write = write)
    (now : Nat) (st : Status) :
    ((g.settleReq off write).endBy now r st).flight = g.flight.filter (fun r => !(r.off == off && r.write == write))
    ∧ ((g.settleReq off write).endBy now r st).ended
      = if g.ended = none ∨ (g.endKey.1 = now ∧ r.num < g.endKey.2)
        then some { status := st, cause := if write then 2 else 1
                    line := BitVec.ofNat 40 (((if write ∨ g.kind ≠ 0 then g.dst else g.src) + off) / 256) }
        else g.ended := by
  have names : r.off = off := by
    have := List.find?_some (p := fun r : MoveReq => r.off == off && r.write == write) found
    rw [Bool.and_eq_true, beq_iff_eq] at this
    exact this.1
  refine ⟨endBy_flight .., (endBy_ended ..).trans ?_⟩
  rw [kind, names]
  exact if_congr Iff.rfl (by rw [← lineOf_eq]; rfl) rfl

theorem moveFailed_awaited {s : State} {e n off : Nat} {write : Bool} {r : MoveReq} (st : Status)
    (ok : (engineOf s e).parityBad = false) (carried : carries s e n = true) (found : (engineOf s e).awaits off write = some r) :
    moveFailed e n off write st s = setEngine e (fun g => (g.settleReq off write).endBy s.env.sc r st) s :=
  moveAnswer_awaited ok carried found _

/-- Words listed from a place on are found there. -/
theorem tfind_listed (k : Nat) (words : List CodeWord) (first : Nat) (t : Table CodeWord) :
    (∀ i w, words[i]? = some w → tfind ((words.zipIdx first).foldl (fun t w => tput t (k + w.2) w.1) t) (k + first + i) = some w)
    ∧ ∀ j, j < k + first → tfind ((words.zipIdx first).foldl (fun t w => tput t (k + w.2) w.1) t) j = tfind t j := by
  induction words generalizing first t with
  | nil => exact ⟨nofun, fun _ _ => rfl⟩
  | cons v words ih =>
    obtain ⟨later, before⟩ := ih (first + 1) (tput t (k + first) v)
    refine ⟨fun i w hw => ?_, fun j hj => (before j (by omega)).trans (tfind_tput_ne _ _ (by omega))⟩
    match i with
    | 0 =>
      obtain rfl : v = w := Option.some.inj hw
      exact (before (k + first) (by omega)).trans (tfind_tput_self ..)
    | i + 1 =>
      rw [List.getElem?_cons_succ] at hw
      have := later i w hw
      rwa [show k + (first + 1) + i = k + first + (i + 1) by omega] at this

/-- The engine with the words of a source read. -/
def readInto (off : Nat) (words : List CodeWord) (g : Engine) : Engine :=
  { g.settleReq off false with buf := (words.zipIdx).foldl (fun t w => tput t (off / 32 + w.2) w.1) g.buf }

theorem moveData_sound {s : State} {e n off : Nat} {r : MoveReq} {words : List CodeWord} (ok : (engineOf s e).parityBad = false)
    (carried : carries s e n = true) (found : (engineOf s e).awaits off false = some r) (sound : ∀ w ∈ words, w.poison = false) :
    moveData e n off words s = setEngine e (readInto off words) s := by
  unfold moveData
  rw [if_neg (by
    rw [List.any_eq_true]
    rintro ⟨w, hw, bad⟩
    exact Bool.false_ne_true ((sound w hw).symm.trans bad))]
  exact moveAnswer_awaited ok carried found _

theorem moveData_poisoned {s : State} {e n off : Nat} {words : List CodeWord} (bad : ∃ w ∈ words, w.poison = true) :
    moveData e n off words s = moveFailed e n off false .poison s :=
  if_pos (List.any_eq_true.2 bad)

end Sys2Proof.Proofs
end

section
/-! SUPPORT. What each answer to a request of the slice does (10_zellek_instruction_set R278, R286, R296, R306, R313; 11_bulk_mover R322,
R327; 15_containment_and_safety R407, R409). -/

namespace Sys2Proof.Proofs

open Sys2Proof.Machine Sys2Proof.Safety Sys2Proof.Laws

set_option Elab.async false

section

variable {s : State} {h : Hdr} {o : Originated}

/-- The answer i, where it registers, completes the instruction of a result. -/
def EndsWith (s : State) (h : Hdr) (i : Instr) (r : Result) : Prop := hears s i → ∃ t, exec i s = .next t ∧ Completes s h r t

/-- The answer i, where it registers, makes the engine e one with a property, and takes its request from those under way. -/
def MovesTo (s : State) (h : Hdr) (i : Instr) (e off : Nat) (write : Bool) (f : Engine → Prop) : Prop :=
  hears s i → (engineOf s e).parityBad = false → ∃ t, exec i s = .next t
    ∧ t.out = (without h.txn s).out ∧ f (engineOf t e) ∧ (∀ d, d ≠ e → engineOf t d = engineOf s d)
    ∧ ((engineOf t e).flight = (engineOf s e).flight.filter (fun r => !(r.off == off && r.write == write))) ∧ t.seq = s.seq
    ∧ t.saf = s.saf

variable (hu : inUse s) (live : s.saf.fatal = false) (aw : awaiting s h.txn = some o)
include hu live aw

theorem answers_with {i : Instr} {a : Arrival} {act : Originated → State → State} {u : State}
    (he : exec i s = receive i s fun s => onAnswer h.txn s act) (ha : arrivalOf i = some a) (hb : act o s = u)
    (untouched : Untouched s u) (hh : hears s i) : exec i s = .next (arrived i u) :=
  answer_arrives he ha hu hh live aw hb untouched

omit hu live aw in
theorem endsWith_of {i : Instr} {r : Result} {u : State} (next : Untouched s u → hears s i → exec i s = .next (arrived i u))
    (k : Completes s h r u ∧ Untouched s u) : EndsWith s h i r := fun hh =>
  ⟨_, next k.2 hh, completes_arrived i k.1⟩

/-! ### Acknowledgements -/

theorem cmp_next {u : State} (hb : (match o.who with
      | .seqStore c id => partDone c id [] none s.env.sc (without h.txn s)
      | .move e serial off true => moveWritten e serial off (without h.txn s)
      | .report => { without h.txn s with saf := { s.saf with queue := s.saf.queue.drop 1, rptFlight := none } }
      | .heartbeat =>
        if s.saf.hbFlight = some h.txn then { without h.txn s with saf := { s.saf with hbFlight := none } } else without h.txn s
      | _ => s) = u) (untouched : Untouched s u) (hh : hears s (.cmp h)) : exec (.cmp h) s = .next (arrived (.cmp h) u) := by
  unfold exec execCmp
  refine receive_answers hu hh rfl ?_ untouched
  rw [onAnswer_takes aw live, answered_eq aw, ← hb]
  rfl

theorem cmp_store {c id : Nat} {p : Pending} (who : o.who = .seqStore c id) (found : pendOf s c id = some p) (last : p.left = 1)
    (fine : p.bad = none) (fresh : p.words = []) (gather : p.gather = .store none) :
    EndsWith s h (.cmp h) (Result.mk s.env.sc c id (some .ok) [] []) :=
  endsWith_of (cmp_next hu live aw (by rw [who]))
    (partDone_completes h found last fine fresh (by rw [gather]; nofun) (by rw [gather]; rfl) s.env.sc)

theorem cmp_move {e n off : Nat} {r : MoveReq} (who : o.who = .move e n off true) (carried : carries s e n = true)
    (found : (engineOf s e).awaits off true = some r) : MovesTo s h (.cmp h) e off true
      (fun g => (engineOf s e).parts = [] → (engineOf s e).done = off → g.done = off + r.len) := fun hh ok => by
  have step : moveWritten e n off (without h.txn s) = setEngine e (fun g => (g.settleReq off true).complete off r.len) (without h.txn s) :=
    moveAnswer_awaited (s := without h.txn s) ok carried found _
  refine ⟨_, cmp_next hu live aw (u := setEngine e (fun g => (g.settleReq off true).complete off r.len) (without h.txn s))
    (by rw [who]; exact step) {} hh, ?_⟩
  obtain ⟨out, mine, others, seq, saf⟩ := engineTakes_arrived (.cmp h)
    (engineTakes_set s h e fun g => (g.settleReq off true).complete off r.len)
  refine ⟨out, fun fresh start => ?_, others, ?_, seq, saf⟩
  · rw [mine, Engine.complete, Engine.settleReq]
    dsimp only
    rw [fresh, start]
    exact congrArg Prod.fst (joinParts_first off r.len)
  · rw [mine]
    rfl

theorem cmp_report (who : o.who = .report) (hh : hears s (.cmp h)) : exec (.cmp h) s = .next (arrived (.cmp h)
    { without h.txn s with saf := { s.saf with queue := s.saf.queue.drop 1, rptFlight := none } }) :=
  cmp_next hu live aw (by rw [who]) {} hh

theorem cmp_heartbeat (who : o.who = .heartbeat) (flight : s.saf.hbFlight = some h.txn) (hh : hears s (.cmp h)) :
    exec (.cmp h) s = .next (arrived (.cmp h) { without h.txn s with saf := { s.saf with hbFlight := none } }) :=
  cmp_next hu live aw (by rw [who]; exact if_pos flight) {} hh

/-! ### Data -/

theorem datau_next {mask : BitVec 4} {data : List CodeWord} {u : State} (hb : (match o.who with
      | .seqRead c id want => partDone c id (pickWords want (requestedWords o (answerWords mask data)))
          (poisonOf ((pickWords want (requestedWords o (answerWords mask data))).map Prod.snd)) s.env.sc (without h.txn s)
      | .move e serial off false =>
        moveData e serial off (moveWords s e off (requestedWords o (answerWords mask data))) (without h.txn s)
      | _ => s) = u) (untouched : Untouched s u) (hh : hears s (.datau h mask data)) :
    exec (.datau h mask data) s = .next (arrived (.datau h mask data) u) := by
  unfold exec execDatau
  refine receive_answers hu hh rfl ?_ untouched
  rw [onAnswer_takes aw live, answered_eq aw, ← hb] <;> rfl

omit hu live aw in
/-- The word of a load that has come alone. -/
theorem load_result {p : Pending} {gd : Nat} (gather : p.gather = .load gd none) (w : CodeWord) :
    finishGather { p with words := [(0, w)].foldl (fun t w => tput t w.1 w.2) [], left := 0, bad := poisonOf [w] }
      = if w.poison = true then (.poison, [], []) else (.ok, regsOf gd w.data, []) := by
  have all : gathered [(0, w)] = w.data.toNat := by simp [Machine.gathered]
  cases hp : w.poison with
  | true => simp [finishGather, poisonOf, hp]
  | false => simp [finishGather, poisonOf, hp, gather, tput, all]

theorem datau_load {mask : BitVec 4} {crit : BitVec 2} {data : List CodeWord} {c id gd k : Nat} {w : CodeWord} {p : Pending}
    (who : o.who = .seqRead c id [(k, 0)]) (found : pendOf s c id = some p) (last : p.left = 1) (fine : p.bad = none)
    (fresh : p.words = []) (gather : p.gather = .load gd none) (body : o.msg.body = .readReq mask crit)
    (len : data.length = 2 * (bitsOf mask).length) (word : data[k]? = some w) : EndsWith s h (.datau h mask data)
      (Result.mk s.env.sc c id (some (if w.poison = true then .poison else .ok))
        (if w.poison = true then [] else regsOf gd w.data) []) := by
  have words : pickWords [(k, 0)] (requestedWords o (answerWords mask data)) = [(0, w)] := by
    rw [requestedWords_all body len, pickWords, List.map_singleton, List.getD_eq_getElem?_getD, word]
    rfl
  refine endsWith_of (datau_next hu live aw (u := partDone c id [(0, w)] (poisonOf [w]) s.env.sc (without h.txn s))
      (by rw [who]; dsimp only; rw [words]; rfl))
    (partDone_completes h found last fine fresh (by rw [gather]; nofun) ((load_result gather w).trans ?_) s.env.sc)
  cases w.poison <;> rfl

omit hu live aw in
theorem datau_move_words {mask : BitVec 4} {crit : BitVec 2} {data : List CodeWord} (e off : Nat)
    (body : o.msg.body = .readReq mask crit) (len : data.length = 2 * (bitsOf mask).length) :
    moveWords s e off (requestedWords o (answerWords mask data))
      = (data.drop (((engineOf s e).src + off) / 32 % 2)).take
          ((linePart (engineOf s e).src (engineOf s e).len (((engineOf s e).src + off) / 256)).2 / 32) := by
  rw [requestedWords_all body len]
  rfl

theorem datau_move_sound {mask : BitVec 4} {data words : List CodeWord} {e n off : Nat} {r : MoveReq}
    (who : o.who = .move e n off false) (carried : carries s e n = true) (found : (engineOf s e).awaits off false = some r)
    (hw : moveWords s e off (requestedWords o (answerWords mask data)) = words) (sound : ∀ w ∈ words, w.poison = false) :
    MovesTo s h (.datau h mask data) e off false (fun g => g.ended = (engineOf s e).ended
      ∧ ∀ i w, words[i]? = some w → tfind g.buf (off / 32 + i) = some w) := fun hh ok => by
  have step : moveData e n off words (without h.txn s) = setEngine e (readInto off words) (without h.txn s) :=
    moveData_sound (s := without h.txn s) ok carried found sound
  refine ⟨_, datau_next hu live aw (u := setEngine e (readInto off words) (without h.txn s))
    (by rw [who]; dsimp only; rw [hw]; exact step) {} hh, ?_⟩
  obtain ⟨out, mine, others, seq, saf⟩ := engineTakes_arrived (.datau h mask data) (engineTakes_set s h e (readInto off words))
  refine ⟨out, ?_, others, ?_, seq, saf⟩
  · rw [mine]
    exact ⟨rfl, fun i w hi => (tfind_listed (off / 32) words 0 (engineOf s e).buf).1 i w hi⟩
  · rw [mine]
    rfl

omit hu live aw in
/-- A request of a move that fails, whatever answers it. -/
theorem failure_moves {i : Instr} {e n off : Nat} {write : Bool} {r : MoveReq} {st : Status}
    (next : (engineOf s e).parityBad = false → hears s i → exec i s = .next (arrived i (moveFailed e n off write st (without h.txn s))))
    (carried : carries s e n = true) (found : (engineOf s e).awaits off write = some r) (kind : r.write = write) :
    MovesTo s h i e off write (fun g => g.ended
      = if (engineOf s e).ended = none ∨ ((engineOf s e).endKey.1 = s.env.sc ∧ r.num < (engineOf s e).endKey.2)
        then some { status := st, cause := if write then 2 else 1
                    line := BitVec.ofNat 40
                      (((if write ∨ (engineOf s e).kind ≠ 0 then (engineOf s e).dst else (engineOf s e).src) + off) / 256) }
        else (engineOf s e).ended) := fun hh ok => by
  have step := moveFailed_awaited (s := without h.txn s) (off := off) (write := write) st ok carried found
  obtain ⟨flight, ended⟩ := failed_engine found kind s.env.sc st
  refine ⟨_, next ok hh, ?_⟩
  rw [step]
  obtain ⟨out, mine, others, seq, saf⟩ := engineTakes_arrived i
    (engineTakes_set s h e fun g => (g.settleReq off write).endBy s.env.sc r st)
  refine ⟨out, ?_, others, ?_, seq, saf⟩
  · exact (congrArg Engine.ended mine).trans ended
  · exact (congrArg Engine.flight mine).trans flight

/-! ### Statuses -/

omit hu live aw in
theorem statusOf_ne_ok {status : BitVec 5} (h : status ≠ 0) : statusOf status.toNat ≠ .ok := by
  revert status
  decide

omit hu in
theorem sts_nothing (hu : inUse s) (hh : hears s (.sts h 0)) : exec (.sts h 0) s = .next (arrived (.sts h 0) s) := by
  unfold exec execSts
  refine receive_answers hu hh rfl ?_ {}
  rw [onAnswer_takes aw live]
  exact if_pos rfl

theorem sts_next {status : BitVec 5} (ne : status ≠ 0) {u : State} (hb : (match o.who with
      | .seqRead c id _ => partDone c id [] (some (statusOf status.toNat)) s.env.sc (without h.txn s)
      | .seqStore c id => partDone c id [] (some (statusOf status.toNat)) s.env.sc (without h.txn s)
      | .atom c id _ _ => completeSts s.env.sc c id (statusOf status.toNat) (without h.txn s)
      | .pctb c id => completeSts s.env.sc c id (statusOf status.toNat) (without h.txn s)
      | .call c id _ _ => completeSts s.env.sc c id (statusOf status.toNat) (without h.txn s)
      | .move e serial off write => if statusOf status.toNat = .nackRetry ∨ statusOf status.toNat = .parked
          then moveAgain e serial off write (without h.txn s) else moveFailed e serial off write (statusOf status.toNat) (without h.txn s)
      | .report => monitorAnswer o (statusOf status.toNat) s
      | .heartbeat => monitorAnswer o (statusOf status.toNat) s) = u) (untouched : Untouched s u) (hh : hears s (.sts h status)) :
    exec (.sts h status) s = .next (arrived (.sts h status) u) := by
  unfold exec execSts
  refine receive_answers hu hh rfl ?_ untouched
  rw [onAnswer_takes aw live]
  refine (if_neg (statusOf_ne_ok ne)).trans ?_
  rw [← hb, refusedRequest, answered_eq aw] <;> rfl

omit hu live aw in
/-- An instruction that a status other than success ends. -/
theorem refused_result {p : Pending} (st : Status) :
    finishGather { p with words := ([] : Table CodeWord).foldl (fun t w => tput t w.1 w.2) [], left := 0, bad := some st }
      = (st, [], []) := rfl

theorem sts_store {status : BitVec 5} (ne : status ≠ 0) {c id : Nat} {p : Pending} (who : o.who = .seqStore c id)
    (found : pendOf s c id = some p) (last : p.left = 1) (fine : p.bad = none) (fresh : p.words = []) (gather : p.gather = .store none) :
    EndsWith s h (.sts h status) (Result.mk s.env.sc c id (some (statusOf status.toNat)) [] []) :=
  endsWith_of (sts_next hu live aw ne (by rw [who]))
    (partDone_completes h found last fine fresh (by rw [gather]; nofun) (refused_result _) s.env.sc)

theorem sts_load {status : BitVec 5} (ne : status ≠ 0) {c id gd : Nat} {want : List (Nat × Nat)} {p : Pending}
    (who : o.who = .seqRead c id want) (found : pendOf s c id = some p) (last : p.left = 1) (fine : p.bad = none) (fresh : p.words = [])
    (gather : p.gather = .load gd none) :
    EndsWith s h (.sts h status) (Result.mk s.env.sc c id (some (statusOf status.toNat)) [] []) :=
  endsWith_of (sts_next hu live aw ne (by rw [who]))
    (partDone_completes h found last fine fresh (by rw [gather]; nofun) (refused_result _) s.env.sc)

theorem sts_unit {status : BitVec 5} (ne : status ≠ 0) {c id : Nat}
    (who : (∃ gd w, o.who = .atom c id gd w) ∨ o.who = .pctb c id ∨ (∃ gd r, o.who = .call c id gd r)) :
    EndsWith s h (.sts h status) (Result.mk s.env.sc c id (some (statusOf status.toNat)) [] []) := by
  refine endsWith_of (u := completeSts s.env.sc c id (statusOf status.toNat) (without h.txn s)) (sts_next hu live aw ne ?_)
    ⟨complete_completes s h _, {}⟩
  obtain ⟨gd, w, who⟩ | who | ⟨gd, r, who⟩ := who
  · rw [who]
  · rw [who]
  · rw [who]

theorem sts_move_again {status : BitVec 5} (ne : status ≠ 0) {e n off : Nat} {w : Bool} {r : MoveReq} (who : o.who = .move e n off w)
    (carried : carries s e n = true) (again : statusOf status.toNat = .nackRetry ∨ statusOf status.toNat = .parked)
    (found : (engineOf s e).awaits off w = some r) (hh : hears s (.sts h status)) (ok : (engineOf s e).parityBad = false) :
    ∃ t, exec (.sts h status) s = .next t ∧ t.out = (without h.txn s).out
      ∧ engineOf t e = { engineOf s e with again := (engineOf s e).again ++ [r] } := by
  have step : moveAgain e n off w (without h.txn s) = setEngine e (fun g => { g with again := g.again ++ [r] }) (without h.txn s) :=
    moveAnswer_awaited (s := without h.txn s) ok carried found _
  obtain ⟨out, mine, -, -, -⟩ := engineTakes_arrived (.sts h status)
    (engineTakes_set s h e fun g => { g with again := g.again ++ [r] })
  exact ⟨_, sts_next hu live aw ne (u := setEngine e (fun g => { g with again := g.again ++ [r] }) (without h.txn s))
    (by rw [who]; exact (if_pos again).trans step) {} hh, out, mine⟩

theorem sts_move_fails {status : BitVec 5} (ne : status ≠ 0) {e n off : Nat} {w : Bool} {r : MoveReq} (who : o.who = .move e n off w)
    (carried : carries s e n = true) (ends : ¬ (statusOf status.toNat = .nackRetry ∨ statusOf status.toNat = .parked))
    (found : (engineOf s e).awaits off w = some r) (kind : r.write = w) :
    MovesTo s h (.sts h status) e off w (fun g => g.ended
      = if (engineOf s e).ended = none ∨ ((engineOf s e).endKey.1 = s.env.sc ∧ r.num < (engineOf s e).endKey.2)
        then some { status := statusOf status.toNat, cause := if w then 2 else 1
                    line := BitVec.ofNat 40
                      (((if w ∨ (engineOf s e).kind ≠ 0 then (engineOf s e).dst else (engineOf s e).src) + off) / 256) }
        else (engineOf s e).ended) :=
  failure_moves (fun ok hh => sts_next hu live aw ne (by rw [who]; exact if_neg ends)
    (by rw [moveFailed_awaited (s := without h.txn s) (off := off) (write := w) _ ok carried found]; exact {}) hh) carried found kind

/-! ### Writes of the monitor (R407, R409) -/

omit hu live aw in
/-- A report says nothing of the status bits set in its sc. -/
theorem report_raise (ev react muz detail k : Nat) (u : State) :
    (report ev react muz detail (raise k u)).saf = (report ev react muz detail u).saf := by
  unfold report
  by_cases room : u.saf.queue.length < 64
  · rw [if_pos room, if_pos (show (raise k u).saf.queue.length < 64 from room)]
    rfl
  · rw [if_neg room, if_neg (show ¬ (raise k u).saf.queue.length < 64 from room)]
    rfl

omit hu live aw in
theorem monitorAgain_iff {st : Status} : (st == .nackRetry || st == .parked) = true ↔ st = .nackRetry ∨ st = .parked := by
  rw [Bool.or_eq_true, beq_iff_eq, beq_iff_eq]

theorem sts_report_again {status : BitVec 5} (ne : status ≠ 0) {r : Code} {rest : List Code} (who : o.who = .report)
    (queue : s.saf.queue = r :: rest) (again : statusOf status.toNat = .nackRetry ∨ statusOf status.toNat = .parked)
    (hh : hears s (.sts h status)) : ∃ t m, exec (.sts h status) s = .next t
      ∧ t.out.egress = s.out.egress ++ [m] ∧ m.data = [plain r] ∧ t.saf = { s.saf with rptFlight := some m.txn } := by
  let m := monitorWrite (without h.txn s) (ringAddr (without h.txn s) (fld r 0 32)) r
  let u : State := { without h.txn s with saf := { s.saf with rptFlight := some m.txn } }
  have sent : monitorAnswer o (statusOf status.toNat) s = originate (some .report) m u := by
    unfold monitorAnswer
    dsimp only
    rw [who, answered_eq aw]
    refine (if_pos (monitorAgain_iff.2 again)).trans ?_
    unfold sendReport
    rw [show (without h.txn s).saf.queue = r :: rest from queue]
    rfl
  have same := arrived_same (.sts h status) (originate (some .report) m u)
  refine ⟨_, m, sts_next hu live aw ne (u := originate (some .report) m u) (by rw [who]; exact sent) (originate_untouched _ _ {}) hh,
    ?_, rfl, ?_⟩
  · rw [same.out, originate_egress _ u (monitorWrite_port _ _ _)]
    rfl
  · rw [same.saf, originate_rest]

theorem sts_report_fails {status : BitVec 5} (ne : status ≠ 0) {r : Code} {rest : List Code} (who : o.who = .report)
    (queue : s.saf.queue = r :: rest) (ends : ¬ (statusOf status.toNat = .nackRetry ∨ statusOf status.toNat = .parked))
    (hh : hears s (.sts h status)) : ∃ t, exec (.sts h status) s = .next t
      ∧ t.out = (without h.txn s).out ∧ t.saf = (reportUnqueued 0x71 0 0 (detailN (r.toNat % 2 ^ 16) 0)
          { s with saf := { s.saf with queue := rest, rptFail := true, rptFlight := none } }).saf := by
  let u : State := { without h.txn s with saf := { s.saf with queue := rest, rptFail := true, rptFlight := none } }
  have failed : monitorAnswer o (statusOf status.toNat) s = reportUnqueued 0x71 0 0 (detailN (fld r 0 16) 0) (raise 3 u) := by
    unfold monitorAnswer
    dsimp only
    rw [who, answered_eq aw]
    refine (if_neg fun k => ends (monitorAgain_iff.1 k)).trans ?_
    unfold reportFailed
    rw [show (without h.txn s).saf.queue = r :: rest from queue]
    rfl
  have same := arrived_same (.sts h status) (reportUnqueued 0x71 0 0 (detailN (fld r 0 16) 0) (raise 3 u))
  refine ⟨_, sts_next hu live aw ne (u := reportUnqueued 0x71 0 0 (detailN (fld r 0 16) 0) (raise 3 u))
    (by rw [who]; exact failed) {} hh, ?_, ?_⟩
  · rw [same.out]
    rfl
  · rw [same.saf, show fld r 0 16 = r.toNat % 2 ^ 16 by rw [fld, pow_zero, Nat.div_one]]
    rfl

theorem sts_heartbeat_again {status : BitVec 5} (ne : status ≠ 0) (who : o.who = .heartbeat) (flight : s.saf.hbFlight = some h.txn)
    (again : statusOf status.toNat = .nackRetry ∨ statusOf status.toNat = .parked) (hh : hears s (.sts h status)) :
    ∃ t m, exec (.sts h status) s = .next t
      ∧ t.out.egress = s.out.egress ++ [m] ∧ m.data = [plain s.saf.hbRecord] ∧ t.saf = { s.saf with hbFlight := some m.txn } := by
  let m := monitorWrite (without h.txn s) s.saf.hbAddr s.saf.hbRecord
  let u : State := { without h.txn s with saf := { s.saf with hbFlight := some m.txn } }
  have sent : monitorAnswer o (statusOf status.toNat) s = originate (some .heartbeat) m u := by
    unfold monitorAnswer
    dsimp only
    rw [who, answered_eq aw]
    refine (if_pos (monitorAgain_iff.2 again)).trans ?_
    exact if_pos (flight.trans (congrArg some (awaiting_txn aw).symm))
  have same := arrived_same (.sts h status) (originate (some .heartbeat) m u)
  refine ⟨_, m, sts_next hu live aw ne (u := originate (some .heartbeat) m u) (by rw [who]; exact sent)
    (originate_untouched _ _ {}) hh, ?_, rfl, ?_⟩
  · rw [same.out, originate_egress _ u (monitorWrite_port _ _ _)]
    rfl
  · rw [same.saf, originate_rest]

theorem sts_heartbeat_fails {status : BitVec 5} (ne : status ≠ 0) (who : o.who = .heartbeat) (flight : s.saf.hbFlight = some h.txn)
    (ends : ¬ (statusOf status.toNat = .nackRetry ∨ statusOf status.toNat = .parked)) (hh : hears s (.sts h status)) :
    ∃ t, exec (.sts h status) s = .next t ∧ t.out = (without h.txn s).out
      ∧ t.saf = (report 0x70 0 0 0 { s with saf := { s.saf with hbFail := true, hbFlight := none } }).saf := by
  let u : State := { without h.txn s with saf := { s.saf with hbFail := true, hbFlight := none } }
  have failed : monitorAnswer o (statusOf status.toNat) s = report 0x70 0 0 (detailN 0 0) (raise 4 u) := by
    unfold monitorAnswer
    dsimp only
    rw [who, answered_eq aw]
    refine (if_neg fun k => ends (monitorAgain_iff.1 k)).trans ?_
    exact congrArg heartbeatFailed (if_pos (flight.trans (congrArg some (awaiting_txn aw).symm)))
  have same := arrived_same (.sts h status) (report 0x70 0 0 (detailN 0 0) (raise 4 u))
  have untouched : Untouched s (report 0x70 0 0 (detailN 0 0) (raise 4 u)) := report_untouched _ _ _ _ {}
  refine ⟨_, sts_next hu live aw ne (u := report 0x70 0 0 (detailN 0 0) (raise 4 u)) (by rw [who]; exact failed) untouched hh, ?_, ?_⟩
  · rw [same.out, report_saf]
    rfl
  · rw [same.saf, show detailN 0 0 = 0 by decide, report_raise]
    exact report_congr (s := { s with saf := { s.saf with hbFail := true, hbFlight := none } }) (u := u) rfl rfl rfl 0x70 0 0 0

/-! ### Atomics, contributions, calls -/

omit hu live aw in
theorem result_completes (r : Result) : Completes s h r (complete r (without h.txn s)) ∧ Untouched s (complete r (without h.txn s)) :=
  ⟨complete_completes s h r, {}⟩

theorem atrsp_ends {status : BitVec 5} {succ : BitVec 8} {data : List CodeWord} {c id gd : Nat} {writes : Bool}
    (who : o.who = .atom c id gd writes) {st : Status} {regs : List (Nat × Word64)}
    (hst : (if statusOf status.toNat = .ok ∧ writes ∧ (data.headD { data := 0, poison := true }).poison then Status.poison
      else statusOf status.toNat) = st)
    (hregs : (if st = .ok ∧ writes then regsOf gd (data.headD { data := 0, poison := true }).data else []) = regs) :
    EndsWith s h (.atrsp h status succ data) (Result.mk s.env.sc c id (some st) regs []) := by
  refine endsWith_of (fun untouched hh => ?_) (result_completes _)
  unfold exec execAtrsp
  refine receive_answers hu hh rfl ?_ untouched
  rw [onAnswer_takes aw live, who]
  dsimp only
  rw [hst, hregs, answered_eq aw]

theorem pkrsp_ends {status : BitVec 5} {c id : Nat} (who : o.who = .pctb c id) :
    EndsWith s h (.pkrsp h status) (Result.mk s.env.sc c id (some (statusOf status.toNat)) [] []) := by
  refine endsWith_of (fun untouched hh => ?_) (result_completes _)
  unfold exec execPkrsp
  refine receive_answers hu hh rfl ?_ untouched
  rw [onAnswer_takes aw live, who]
  dsimp only
  rw [answered_eq aw, completeSts]

theorem callrsp_ends {status : BitVec 5} {n : BitVec 4} {data : List CodeWord} {c id gd : Nat} {reply : Bool}
    (who : o.who = .call c id gd reply) {st : Status} {regs : List (Nat × Word64)}
    (hst : (if statusOf status.toNat = .ok ∧ reply ∧ (data.headD { data := 0, poison := true }).poison then Status.poison
      else statusOf status.toNat) = st)
    (hregs : (if reply then (if st = .ok then regsOf gd (data.headD { data := 0, poison := true }).data else [])
      else [(gd, n.zeroExtend 64)]) = regs) :
    EndsWith s h (.callrsp h status n data) (Result.mk s.env.sc c id (some st) regs []) := by
  refine endsWith_of (fun untouched hh => ?_) (result_completes _)
  unfold exec execCallrsp
  refine receive_answers hu hh rfl ?_ untouched
  rw [onAnswer_takes aw live, who]
  dsimp only
  rw [hst, hregs, answered_eq aw]

end

/-- Settles O53. -/
theorem sliceAnswersAnswer : Obligations.SliceAnswersAnswer := by
  unfold Obligations.SliceAnswersAnswer
  intro s h o hu live aw gone arrives ends last line at' moves fault
  refine ⟨?_, ?_, ?_, ?_, ?_, ?_, ?_, fun status ne => ⟨?_, ?_, ?_, ?_, ?_, ?_, ?_, ?_, ?_⟩, ?_, ?_, ?_⟩
  · rintro c id who ⟨p, found, left, fine, fresh, gather⟩
    exact cmp_store hu live aw who found left fine fresh gather
  · exact fun e n off r who carried found => cmp_move hu live aw who carried found
  · exact fun who hh => cmp_report hu live aw who hh
  · exact fun who flight hh => cmp_heartbeat hu live aw who flight hh
  · rintro c id gd k mask crit data w who ⟨p, found, left, fine, fresh, gather⟩ body len word
    have loads := datau_load hu live aw who found left fine fresh gather body len word
    refine ⟨fun clean => ?_, fun bad => ?_⟩
    · rw [clean] at loads
      exact loads
    · rw [bad] at loads
      exact loads
  · intro e n off mask crit data r who carried found kind body len _ words
    have brought := datau_move_words (s := s) e off body len
    refine ⟨fun sound => datau_move_sound hu live aw who carried found brought sound, fun bad => ?_⟩
    refine failure_moves (n := n) (fun ok hh => ?_) carried found kind
    exact datau_next hu live aw (by rw [who]; dsimp only; rw [brought]; exact moveData_poisoned bad)
      (by rw [moveFailed_awaited (s := without h.txn s) (off := off) (write := false) _ ok carried found]; exact {}) hh
  · rintro status rfl hh
    exact sts_nothing live aw hu hh
  · rintro c id who ⟨p, found, left, fine, fresh, gather⟩
    exact sts_store hu live aw ne who found left fine fresh gather
  · rintro c id want gd who ⟨p, found, left, fine, fresh, gather⟩
    exact sts_load hu live aw ne who found left fine fresh gather
  · exact fun c id who => sts_unit hu live aw ne who
  · exact fun e n off w r who carried again found hh ok => sts_move_again hu live aw ne who carried again found hh ok
  · exact fun e n off w r who carried final found kind => sts_move_fails hu live aw ne who carried final found kind
  · exact fun r rest who queue again hh => sts_report_again hu live aw ne who queue again hh
  · exact fun r rest who queue final hh => sts_report_fails hu live aw ne who queue final hh
  · exact fun who flight again hh => sts_heartbeat_again hu live aw ne who flight again hh
  · exact fun who flight final hh => sts_heartbeat_fails hu live aw ne who flight final hh
  · intro status succ data c id gd writes who w st i
    refine ⟨fun ok write clean => ?_, fun ok write bad => ?_, fun other => ?_⟩
    · have whole : (if statusOf status.toNat = .ok ∧ writes ∧ (data.headD { data := 0, poison := true }).poison then Status.poison
          else statusOf status.toNat) = .ok := (if_neg fun k => Bool.false_ne_true (clean.symm.trans k.2.2)).trans ok
      exact atrsp_ends hu live aw who whole (if_pos ⟨rfl, write⟩)
    · exact atrsp_ends hu live aw who (if_pos ⟨ok, write, bad⟩) (if_neg nofun)
    · have none : ¬ (statusOf status.toNat = .ok ∧ writes = true) := by
        rintro ⟨ok, write⟩
        exact other.elim (fun k => k ok) fun k => Bool.false_ne_true (k.symm.trans write)
      exact atrsp_ends hu live aw who (if_neg fun k => none ⟨k.1, k.2.1⟩) (if_neg none)
  · exact fun status c id who => pkrsp_ends hu live aw who
  · intro status n data c id gd reply who w st i
    refine ⟨fun silent => ?_, fun replies ok clean => ?_, fun replies ok bad => ?_, fun replies other => ?_⟩
    · exact callrsp_ends hu live aw who (if_neg fun k => Bool.false_ne_true (silent.symm.trans k.2.1))
        (if_neg fun k => Bool.false_ne_true (silent.symm.trans k))
    · have whole : (if statusOf status.toNat = .ok ∧ reply ∧ (data.headD { data := 0, poison := true }).poison then Status.poison
          else statusOf status.toNat) = .ok := (if_neg fun k => Bool.false_ne_true (clean.symm.trans k.2.2)).trans ok
      exact callrsp_ends hu live aw who whole ((if_pos replies).trans (if_pos rfl))
    · exact callrsp_ends hu live aw who (if_pos ⟨ok, replies, bad⟩) ((if_pos replies).trans (if_neg nofun))
    · exact callrsp_ends hu live aw who (if_neg fun k => other k.1) ((if_pos replies).trans (if_neg other))

end Sys2Proof.Proofs
end

section
/-! SUPPORT. A line at rest in the home (04_coherence_protocol Table 4.7, R118, R124, R126): what a request meets on its way to service. -/

namespace Sys2Proof.Proofs

open Sys2Proof.Machine Sys2Proof.Safety Sys2Proof.Laws

set_option Elab.async false

/-! ### On the way to service -/

theorem reservedForOther_unnamed {s : State} {r : Req} (h : ∀ v ∈ s.coh.resv, v.line ≠ r.line) : reservedForOther s r = false :=
  List.any_eq_false.mpr fun v hv => by simp [h v hv]

theorem resvOf_unnamed {s : State} {line : LineAddr} (h : ∀ v ∈ s.coh.resv, v.line ≠ line) : resvOf s line = none :=
  List.find?_eq_none.mpr fun v hv => by simp [h v hv]

theorem endReservation_unnamed {s : State} {r : Req} (h : ∀ v ∈ s.coh.resv, v.line ≠ r.line) : endReservation r s = s := by
  unfold endReservation
  split
  · rfl
  · rw [List.filter_eq_self.mpr fun v hv => by simp [h v hv]]

theorem fbOf_unbuffered {s : State} {line : LineAddr} (h : ∀ f ∈ s.cache.fb, f.2.line ≠ line) : fbOf s line = none := by
  rw [fbOf, List.find?_eq_none.mpr fun f hf => by simp [h f hf]]
  rfl

theorem dropLineFb_unbuffered {s : State} {line : LineAddr} (h : ∀ f ∈ s.cache.fb, f.2.line ≠ line) : dropLineFb line s = s := by
  rw [dropLineFb, fbOf_unbuffered h]

theorem fromBuffer_unbuffered {s : State} {r : Req} (h : ∀ f ∈ s.cache.fb, f.2.line ≠ r.line) (trk : Option Nat)
    (fetch : State → Option State) : fromBuffer trk r fetch s = fetch s := by
  unfold fromBuffer
  rw [fbOf_unbuffered h]

section
variable {s : State} {r : Req} (h : AtRest s r.line)
include h

theorem atRest_idle : lineActive s r.line = false := by
  rw [lineActive, h.free.1, List.any_eq_false.mpr fun a ha => by simp [h.free.2 a ha]]
  rfl

theorem atRest_outstanding : outstanding s r.line = 0 := by
  rw [outstanding, h.miss]
  rfl

theorem atRest_serves_now (fresh : Bool) : mustWait fresh s r = false := by
  have alone : (s.cache.waiters.any fun w => w.line == r.line && !w.internal) = false :=
    List.any_eq_false.mpr fun w hw => by simp [h.waits w hw]
  rw [mustWait, awaitsFill, h.stay.1, h.stay.2, alone, atRest_outstanding h]
  simp

theorem serveFresh_atRest (fresh : Bool) : serveFresh fresh r s
    = match serveLine r s with
      | some u => countReq fresh r u
      | none => refuse none r .nackRetry s := by
  unfold serveFresh
  simp only [endReservation_unnamed h.resv, dropLineFb_unbuffered h.fetch, ite_self] <;> rfl

theorem admitRequest_atRest (fresh : Bool) : admitRequest fresh r s = serveFresh fresh r s := by
  have bank : bit s.coh.muzBanks (tagBank (lineSet r.line)) = false := h.bank
  have active : (s.coh.active.any fun a => a.line == r.line) = false :=
    List.any_eq_false.mpr fun a ha => by simp [h.free.2 a ha]
  unfold admitRequest
  simp only [bank, h.free.1, atRest_serves_now h, reservedForOther_unnamed h.resv, active, Bool.false_eq_true, if_false]

/-- A request on a line at rest is served as its line stands, or refused where an entry or a way is lacking. -/
theorem homeRequest_atRest (hs : r.str = (decide (r.kind = .wrfull) && streaming s r.cls)) : homeRequest r s
    = match serveLine r s with
      | some u => countReq true r u
      | none => refuse none r .nackRetry s := by
  have same : { r with str := decide (r.kind = .wrfull) && streaming s r.cls } = r := by rw [← hs]
  rw [homeRequest]
  dsimp only
  rw [same, lookUp_passes h.tags, admitRequest_atRest h, serveFresh_atRest h]

omit h in
theorem serveLine_absent (hw : findWay s r.line = none) : serveLine r s = serveHome none r s := by
  rw [serveLine]
  simp only [hw]

theorem serveLine_found {way : Nat} (hw : findWay s r.line = some way) : serveLine r s
    = if r.kind.isRead && namesPoison s (lineSet r.line) way (r.mask &&& (tagAt s (lineSet r.line) way).sv)
      then some (servePoison r (lineSet r.line) way (tagAt s (lineSet r.line) way).sv s)
      else if needsSnoop s r (tagAt s (lineSet r.line) way) then startSnoop r (lineSet r.line) way s
      else serveHome none r s := by
  rw [serveLine]
  simp only [hw, reclaimEntry_alive h.alive]

end

theorem maskOf_single (k : Fin 4) : bitsOf (maskOf 4 [k.val]) = [k.val] := by decide +revert

end Sys2Proof.Proofs
end

section
/-! SUPPORT. Atomics and calls of agents (08_atomic_updates R223, R226, R470, 09_sequencer_architecture R252, R253, Table 9.4). -/

namespace Sys2Proof.Proofs

open Sys2Proof.Machine Sys2Proof.Safety Sys2Proof.Laws

set_option Elab.async false

/-! ### Atomics -/

theorem atRefuse_emits (h : Hdr) {st : Status} (s : State) (hp : st ≠ .poison) (hn : st ≠ .nackRetry) :
    atRefuse h st s = emit (answerMsg h 0xB (.atRsp st 0) [] (s.env.sc + 9) .none) s := by
  rw [atRefuse, if_neg hp, countNack, if_neg hn]
  rfl

theorem kennelAtom_agent {s : State} (hs : ChannelsSound s) {off35 : Nat} {r : Req} {holder : BitVec 14} {op : AtomOp} {opnd cmp : Code}
    {cls : Nat} {refuse : Status → State → State} (hr : kennelRefused s off35 holder true (maskOf 8 [op.cw.toNat]) = none) :
    kennelAtom off35 (.agent r) holder op opnd cmp cls refuse s
      = enqueue (readAccess (s.env.sc + 6) cls 0 true [kennelLoc (off35 % 2 ^ 24 + 32 * op.cw.toNat) / 2]
        (.atomRead (.agent r) op opnd cmp false)) (countStore cls false s) := by
  have sc : (countStore cls false s).env.sc = s.env.sc := by rw [countStore_eq]
  simp only [kennelAtom, checkedSlots_sound hs, hr, sc]

/-- An atomic on a line without copies, whose sector is valid, starts its read. -/
theorem serveHome_atom {s : State} {r : Req} {way : Nat} (hk : r.kind = .atom) (on : atomOff s = false) (hw : findWay s r.line = some way)
    (hv : r.missing (tagAt s (lineSet r.line) way).sv = 0) :
    serveHome none r s = some (atomHere none r (lineSet r.line) way s) := by
  unfold serveHome
  simp only [hk, on, hw, hv]
  rfl

theorem missing_atom {r : Req} {k : Nat} {sv : BitVec 4} (hk : r.kind = .atom) (hm : r.mask = maskOf 4 [k]) (lt : k < 4)
    (hv : sv.getLsbD k = true) : r.missing sv = 0 := by
  have all : ∀ (k : Fin 4) (sv : BitVec 4), sv.getLsbD k = true → maskOf 4 [k.val] &&& ~~~sv = 0 := by decide
  rw [Req.missing, hk, hm]
  exact all ⟨k, lt⟩ sv hv

section
variable {s : State} {h : Hdr} {op : AtomOp} {data : List CodeWord} (hu : inUse s) (hh : hears s (.atreq h op data))

/-- The fields of an atomic are in order (R470, Table 8.1). -/
def AtomFits (h : Hdr) (op : AtomOp) (data : List CodeWord) : Prop :=
  h.ndf = 1 ∧ atomValid op = true ∧ data.length = if op.aop = 9 then 2 else 1

include hu hh

theorem atreq_muzzled (off : atomOff s = true) : exec (.atreq h op data) s
    = .next (arrived (.atreq h op data) (emit (answerMsg h 0xB (.atRsp .muzzled 0) [] (s.env.sc + 9) .none) s)) := by
  unfold exec execAtreq
  refine receive_answers hu hh rfl ?_ (emit_untouched _ {})
  exact (if_pos off).trans (atRefuse_emits h s nofun nofun)

theorem atreq_parked (on : atomOff s = false) (drain : draining s = true) : exec (.atreq h op data) s
    = .next (arrived (.atreq h op data) (emit (answerMsg h 0xB (.atRsp .parked 0) [] (s.env.sc + 9) .none) s)) := by
  unfold exec execAtreq
  refine receive_answers hu hh rfl ?_ (emit_untouched _ {})
  exact (if_neg (Bool.eq_false_iff.1 on)).trans ((if_pos drain).trans (atRefuse_emits h s nofun nofun))

theorem atreq_bounds (on : atomOff s = false) (drain : draining s = false)
    (bad : badSource s h.agent h.die = true ∨ ¬ AtomFits h op data) : exec (.atreq h op data) s
    = .next (arrived (.atreq h op data) (emit (answerMsg h 0xB (.atRsp .bounds 0) [] (s.env.sc + 9) .none) s)) := by
  unfold exec execAtreq
  refine receive_answers hu hh rfl ?_ (emit_untouched _ {})
  refine (if_neg (Bool.eq_false_iff.1 on)).trans ((if_neg (Bool.eq_false_iff.1 drain)).trans ((if_pos ?_).trans
    (atRefuse_emits h s nofun nofun)))
  rcases bad with bad | bad
  · simp [bad]
  · by_contra none
    simp [atomOperands] at none
    exact bad ⟨none.1.1.2, none.1.2, of_decide_eq_true none.2⟩

/-- An atomic that is taken for service. -/
theorem atreq_serves {t : State} (on : atomOff s = false) (ha : Admitted s h) (fits : AtomFits h op data)
    (serves : (match kennelLine s h.line with
      | some off => kennelAtom off (.agent (atomReq s h op data)) (agentHolder h.agent h.die) op (data.getD 0 default).data
          (data.getD 1 default).data (atomReq s h op data).cls (atRefuse h) s
      | none => homeRequest (atomReq s h op data) s) = t) (untouched : Untouched s t) :
    exec (.atreq h op data) s = .next (arrived (.atreq h op data) t) := by
  obtain ⟨ndf, valid, words⟩ := fits
  have fine : (badSource s h.agent h.die || !decide (h.ndf = 1) || !atomValid op || !decide (data.length = atomOperands op)) = false := by
    simp [ha.source, ndf, valid, words, atomOperands]
  unfold exec execAtreq
  refine receive_answers hu hh rfl ?_ untouched
  exact (if_neg (Bool.eq_false_iff.1 on)).trans ((if_neg (Bool.eq_false_iff.1 ha.drain)).trans ((if_neg (Bool.eq_false_iff.1 fine)).trans
    serves))

end

/-- The read of an atomic of an agent stands at the end of the queue (R226, R229). -/
def AtomReads (s : State) (h : Hdr) (op : AtomOp) (data : List CodeWord) (sec : Nat) (kennel : Bool) (t : State) : Prop :=
  ∃ a, t.fg.accs = s.fg.accs ++ [a] ∧ a.ready = s.env.sc + 6 ∧ a.secs = [sec] ∧ a.isWrite = false ∧ a.kennel = kennel ∧ t.out = s.out
    ∧ a.purpose = .atomRead (.agent (atomReq s h op data)) op (data.getD 0 default).data (data.getD 1 default).data (!kennel)

/-- The read of an atomic. -/
def atomAccess (s : State) (h : Hdr) (op : AtomOp) (data : List CodeWord) (sec : Nat) (kennel : Bool) : Access :=
  readAccess (s.env.sc + 6) (atomReq s h op data).cls 0 kennel [sec] (.atomRead (.agent (atomReq s h op data)) op
    (data.getD 0 default).data (data.getD 1 default).data (!kennel))

theorem atomReads_enqueued {s u : State} {h : Hdr} {op : AtomOp} {data : List CodeWord} {sec : Nat} {kennel : Bool} (c : Instr)
    (fg : u.fg = s.fg) (out : u.out = s.out) :
    AtomReads s h op data sec kennel (arrived c (enqueue (atomAccess s h op data sec kennel) u)) := by
  have same := arrived_same c (enqueue (atomAccess s h op data sec kennel) u)
  refine ⟨{ atomAccess s h op data sec kennel with id := s.fg.nextId }, ?_, rfl, rfl, rfl, rfl, same.out.trans out, rfl⟩
  rw [same.fg, enqueue, fg]

section
variable {s : State} {h : Hdr} {op : AtomOp} {data : List CodeWord} (hh : hears s (.atreq h op data)) (on : atomOff s = false)
  (ha : Admitted s h) (fits : AtomFits h op data)
include hh on ha fits

theorem atreq_reads_kennel {off35 : Nat} (sound : ChannelsSound s) (line : kennelLine s h.line = some off35)
    (free : kennelRefused s off35 (agentHolder h.agent h.die) true (maskOf 8 [op.cw.toNat]) = none) :
    ∃ t, exec (.atreq h op data) s = .next t
      ∧ AtomReads s h op data (kennelLoc (off35 % 2 ^ 24 + 32 * op.cw.toNat) / 2) true t := by
  have kept : Untouched s (countStore (atomReq s h op data).cls false s) := countStore_untouched _ _ {}
  have serves := kennelAtom_agent sound (r := atomReq s h op data) (opnd := (data.getD 0 default).data)
    (cmp := (data.getD 1 default).data) (cls := (atomReq s h op data).cls) (refuse := atRefuse h) free
  refine ⟨_, atreq_serves ha.use hh on ha fits
    (t := enqueue (atomAccess s h op data _ true) (countStore (atomReq s h op data).cls false s))
    ?_ (kept.trans {}), atomReads_enqueued _ ?_ ?_⟩
  · rw [line]
    exact serves
  · rw [countStore_eq]
  · rw [countStore_eq]

theorem atreq_reads_line {way : Nat} (rest : AtRest s h.line) (found : findWay s h.line = some way)
    (alone : (tagAt s (lineSet h.line) way).dst = dirU) (valid : (tagAt s (lineSet h.line) way).sv.getLsbD (op.cw.toNat / 2) = true) :
    ∃ t, exec (.atreq h op data) s = .next t
      ∧ AtomReads s h op data (location (lineSet h.line) way (64 * (op.cw.toNat / 2)) / 2) false t := by
  let r := atomReq s h op data
  have half : op.cw.toNat / 2 < 4 := by have := op.cw.isLt; omega
  have lacks : r.missing (tagAt s (lineSet h.line) way).sv = 0 := missing_atom rfl rfl half valid
  have secs : maskSecs (lineSet h.line) way r.mask = [location (lineSet h.line) way (64 * (op.cw.toNat / 2)) / 2] := by
    show maskSecs (lineSet h.line) way (maskOf 4 [op.cw.toNat / 2]) = _
    rw [maskSecs, maskOf_single ⟨_, half⟩]
    rfl
  have quiet : needsSnoop s r (tagAt s (lineSet h.line) way) = false := by
    simp [needsSnoop, alone, dirU, dirX, dirSP, dirSB]
  have serves : homeRequest r s = countReq true r (atomHere none r (lineSet h.line) way s) := by
    rw [homeRequest_atRest (r := r) rest rfl, serveLine_found (r := r) rest found]
    have reads : r.kind.isRead = false := rfl
    have served := serveHome_atom (r := r) rfl on found lacks
    rw [reads, Bool.false_and, if_neg Bool.false_ne_true, show needsSnoop s r (tagAt s (lineSet r.line) way) = false from quiet,
      if_neg Bool.false_ne_true, served]
    rfl
  have reads : countReq true r (atomHere none r (lineSet h.line) way s) = enqueue
      (atomAccess s h op data (location (lineSet h.line) way (64 * (op.cw.toNat / 2)) / 2) false)
      { s with cache := (countReq true r (atomHere none r (lineSet h.line) way s)).cache } := by
    rw [countReq, if_pos rfl, countStore_eq, atomHere, secs]
    rfl
  refine ⟨_, atreq_serves ha.use hh on ha fits (t := countReq true r (atomHere none r (lineSet h.line) way s)) ?_
    (countStore_untouched _ _ {}), ?_⟩
  · rw [rest.memory]
    exact serves
  · rw [reads]
    exact atomReads_enqueued _ rfl rfl

end

/-! ### Calls -/

theorem answerCall_emits (h : Hdr) {st : Status} (c : Nat) (s : State) (hn : st ≠ .nackRetry) :
    answerCall h st c s = emit (answerMsg h 0xA (.callRsp st (BitVec.ofNat 4 c)) [] (s.env.sc + 9) .none) s := by
  rw [answerCall, countNack, if_neg hn]
  rfl

/-- A pool context that a call of an entry may start (Table 9.4). -/
def Callable (s : State) (e : Entry) (c : Nat) : Prop :=
  (getCtx s c).state = .idle ∧ s.seq.pool.getLsbD (c - 1) = true ∧ e.cmask.getLsbD c = true

theorem callable_iff {s : State} {e : Entry} {c : Nat} :
    (decide ((getCtx s c).state = .idle) && bit s.seq.pool (c - 1) && bit e.cmask c) = true ↔ Callable s e c := by
  simp [Callable, bit, and_assoc]

theorem callable_none {s : State} {e : Entry} (h : ∀ c, 1 ≤ c → c < 16 → ¬ Callable s e c) : callable s e = none := by
  refine List.find?_eq_none.mpr fun c hc k => ?_
  have range : c ∈ List.range' 1 15 := hc
  obtain ⟨low, high⟩ := List.mem_range'_1.1 range
  exact h c low high (callable_iff.1 k)

theorem callable_first {s : State} {e : Entry} {c : Nat} (low : 1 ≤ c) (high : c < 16) (free : Callable s e c)
    (first : ∀ d, 1 ≤ d → d < c → ¬ Callable s e d) : callable s e = some c := by
  refine (List.find?_range'_eq_some (s := 1) (n := 15)).2 ⟨callable_iff.2 free, List.mem_range'_1.2 ⟨low, high⟩, fun d ge lt => ?_⟩
  rw [Bool.eq_false_iff.2 (mt callable_iff.1 (first d ge lt))]
  rfl

/-- The record that a called context keeps of its caller (R252). -/
def calledBy (h : Hdr) (reply : Bool) : CallRec :=
  { holder := agentHolder h.agent h.die, txn := h.txn, reply := reply, port := h.port, line := h.line, label := h.label }

/-- A call starts context c at an entry (R253). -/
def called (h : Hdr) (e : Entry) (reply : Bool) (args : Code) (c : Nat) (s : State) : State :=
  startCtx c e.pc (h.label % 16) ((List.range 4).map (word64 args)) ((agentHolder h.agent h.die).zeroExtend 64) (some (calledBy h reply))
    (countStore (h.label % 16) false s)

theorem called_untouched (h : Hdr) (e : Entry) (reply : Bool) (args : Code) (c : Nat) (s : State) :
    Untouched s (called h e reply args c (noisy s)) :=
  (countStore_untouched (h.label % 16) false (s := s) (u := noisy s) {}).trans {}

theorem called_out (h : Hdr) (e : Entry) (reply : Bool) (args : Code) (c : Nat) (s : State) : (called h e reply args c s).out = s.out := by
  rw [called, countStore_eq]
  rfl

/-- The argument registers g0 to g3 of a called context. -/
theorem calledCtx_args (x : Ctx) (args : Code) (g4 : Word64) {k : Nat} (hk : k < 4) :
    tget 0 (x.setRegs ((((List.range 4).map (word64 args)).zipIdx.map fun p => (p.2, p.1)) ++ [(4, g4)])).g k
      = args.extractLsb' (64 * k) 64 := by
  have ends (t : Table Word64) {j k : Nat} (v : Word64) (h : k ≠ j) : tget 0 (tset 0 t j v) k = tget 0 t k := tget_tset_ne 0 t v h
  have regs : (((List.range 4).map (word64 args)).zipIdx.map fun p => (p.2, p.1)) ++ [(4, g4)]
      = [(0, word64 args 0), (1, word64 args 1), (2, word64 args 2), (3, word64 args 3), (4, g4)] := rfl
  rw [regs]
  simp only [Ctx.setRegs, Ctx.setReg, List.foldl_cons, List.foldl_nil]
  match k, hk with
  | 0, _ => rw [ends _ _ (by decide), ends _ _ (by decide), ends _ _ (by decide), ends _ _ (by decide), tget_tset_self]; rfl
  | 1, _ => rw [ends _ _ (by decide), ends _ _ (by decide), ends _ _ (by decide), tget_tset_self]; rfl
  | 2, _ => rw [ends _ _ (by decide), ends _ _ (by decide), tget_tset_self]; rfl
  | 3, _ => rw [ends _ _ (by decide), tget_tset_self]; rfl

theorem setRegs_control (l : List (Nat × Word64)) (x : Ctx) :
    (x.setRegs l).state = x.state ∧ (x.setRegs l).pc = x.pc ∧ (x.setRegs l).cls = x.cls := by
  induction l generalizing x with
  | nil => exact ⟨rfl, rfl, rfl⟩
  | cons p l ih => exact ih (x.setReg p.1 p.2)

/-- Context c is ready at an entry with the arguments of a call, and the other contexts are as in s. -/
structure RunsAt (s : State) (h : Hdr) (e : Entry) (args : Code) (c : Nat) (t : State) : Prop where
  state : (getCtx t c).state = .ready
  pc : (getCtx t c).pc = e.pc
  cls : (getCtx t c).cls = h.label % 16
  words : ∀ k, k < 4 → tget 0 (getCtx t c).g k = args.extractLsb' (64 * k) 64
  rest : ∀ d, d ≠ c → getCtx t d = getCtx s d

theorem RunsAt.of_seq {s t u : State} {h : Hdr} {e : Entry} {args : Code} {c : Nat} (runs : RunsAt s h e args c t) (same : u.seq = t.seq) :
    RunsAt s h e args c u := by
  have ctx (d : Nat) : getCtx u d = getCtx t d := by rw [getCtx, same]; rfl
  obtain ⟨state, pc, cls, words, rest⟩ := runs
  constructor <;> simp only [ctx] <;> assumption

theorem called_sc (h : Hdr) (e : Entry) (reply : Bool) (args : Code) (c : Nat) (s : State) :
    (called h e reply args c s).env.sc = s.env.sc := by
  rw [called, countStore_eq]
  rfl

theorem called_runs (s : State) (h : Hdr) (e : Entry) (reply : Bool) (args : Code) (c : Nat) :
    RunsAt s h e args c (called h e reply args c (noisy s)) := by
  let regs := (((List.range 4).map (word64 args)).zipIdx.map fun p => (p.2, p.1)) ++ [(4, (agentHolder h.agent h.die).zeroExtend 64)]
  let x : Ctx := { Ctx.idle with pc := e.pc, cls := h.label % 16, call := some (calledBy h reply), state := .ready }
  have own : getCtx (called h e reply args c (noisy s)) c = x.setRegs regs := getCtx_startCtx_self _ _ _ _ _ _ _
  obtain ⟨state, pc, cls⟩ := setRegs_control regs x
  refine ⟨?_, ?_, ?_, fun k hk => ?_, fun d hd => ?_⟩
  · rw [own, state]
  · rw [own, pc]
  · rw [own, cls]
  · rw [own]
    exact calledCtx_args x args _ hk
  · refine (getCtx_startCtx_ne _ _ _ _ _ _ hd).trans ?_
    rw [countStore_eq]
    rfl

section
variable {s : State} {h : Hdr} {entry : BitVec 8} {reply : Bool} {args : Code} (hu : inUse s)
  (hh : hears s (.callMessage h entry reply args))
include hu hh

theorem call_answers {t : State} (body : (match reqRefused s h true (decide (h.ndf = 1)) with
    | some st => answerCall h st 0 (noisy s)
    | none => acceptCall h entry reply args (noisy s)) = t) (untouched : Untouched s t) :
    exec (.callMessage h entry reply args) s = .next (arrived (.callMessage h entry reply args) t) := by
  unfold exec execCallMessage
  exact receive_answers hu hh rfl body untouched

theorem call_refused {st : Status} (refused : reqRefused s h true (decide (h.ndf = 1)) = some st) (hn : st ≠ .nackRetry) :
    exec (.callMessage h entry reply args) s = .next (arrived (.callMessage h entry reply args)
      (emit (answerMsg h 0xA (.callRsp st 0) [] (s.env.sc + 9) .none) (noisy s))) := by
  refine call_answers hu hh ?_ (emit_untouched _ {})
  rw [refused]
  exact answerCall_emits h 0 (noisy s) hn

theorem call_taken {t : State} (ha : Admitted s h) (ndf : h.ndf = 1) (body : acceptCall h entry reply args (noisy s) = t)
    (untouched : Untouched s t) : exec (.callMessage h entry reply args) s = .next (arrived (.callMessage h entry reply args) t) := by
  refine call_answers hu hh ?_ untouched
  rw [admitted_refuses_none ha true (decide_eq_true ndf)]
  exact body

end

/-- The sequencer takes the calls of a slice that is not FATAL. -/
theorem seqMuzzled_noisy {s : State} (hf : s.saf.fatal = false) : seqMuzzled (noisy s) = s.seq.muz := by
  rw [seqMuzzled]
  exact (congrArg (s.seq.muz || ·) hf).trans (Bool.or_false _)

section
variable {s : State} {h : Hdr} {entry : BitVec 8} {reply : Bool} {args : Code} (on : seqMuzzled s = false)
include on

theorem acceptCall_invalid (invalid : (tget default s.seq.entries entry.toNat).valid = false) : acceptCall h entry reply args s
    = emit (answerMsg h 0xA (.callRsp .bounds 0) [] (s.env.sc + 9) .none) s := by
  unfold acceptCall
  dsimp only
  rw [if_neg (Bool.eq_false_iff.1 on), invalid]
  exact answerCall_emits h 0 s nofun

theorem acceptCall_retries (valid : (tget default s.seq.entries entry.toNat).valid = true)
    (lacks : s.seq.en = false ∨ callable s (tget default s.seq.entries entry.toNat) = none) : acceptCall h entry reply args s
    = emit (answerMsg h 0xA (.callRsp .nackRetry 0) [] (s.env.sc + 9) .none)
      { s with coh := { s.coh with nackNow := min 1023 (s.coh.nackNow + 1) } } := by
  unfold acceptCall
  dsimp only
  rw [if_neg (Bool.eq_false_iff.1 on), valid]
  rcases lacks with disabled | busy
  · rw [disabled]
    rfl
  · rw [busy]
    cases s.seq.en <;> rfl

theorem acceptCall_starts {c : Nat} (valid : (tget default s.seq.entries entry.toNat).valid = true) (en : s.seq.en = true)
    (free : callable s (tget default s.seq.entries entry.toNat) = some c) : acceptCall h entry reply args s
    = if reply then called h (tget default s.seq.entries entry.toNat) reply args c s
      else answerCall h .ok c (called h (tget default s.seq.entries entry.toNat) reply args c s) := by
  unfold acceptCall
  dsimp only
  rw [if_neg (Bool.eq_false_iff.1 on), valid, en, free]
  rfl

end

/-- Settles O46, by the cases of R470 and of Table 9.4. -/
theorem atomicAndCallRequestsAnswer : Obligations.AtomicAndCallRequestsAnswer := by
  unfold Obligations.AtomicAndCallRequestsAnswer
  intro s h hu
  refine ⟨fun op data hh => ?_, fun entry reply args hh => ?_⟩
  · intro c refused fits read
    have live (m : s.atom.muz = false) (f : s.saf.fatal = false) : atomOff s = false := by rw [atomOff, m, f]; rfl
    refine ⟨fun off => ?_, fun m f d => atreq_parked hu hh (live m f) d, fun m f d bad => atreq_bounds hu hh (live m f) d bad, ?_, ?_⟩
    · exact atreq_muzzled hu hh (by simpa [atomOff] using off)
    · intro off35 m ha fit sound line st
      refine ⟨fun x hx poison => ?_, fun free => atreq_reads_kennel hh (live m ha.fatal) ha fit sound line free⟩
      refine atreq_serves hu hh (live m ha.fatal) ha fit ?_ (emit_untouched _ {})
      rw [line]
      exact (kennelAtom_refused sound hx).trans (atRefuse_emits h s poison (kennelRefused_ne_nackRetry hx))
    · exact fun way m ha fit rest found alone valid => atreq_reads_line hh (live m ha.fatal) ha fit rest found alone valid
  · intro m e answered free admitted
    have kept : Untouched s (noisy s) := {}
    refine ⟨fun f => ?_, fun f d => ?_, fun f d bad => ?_, ?_, ?_, ?_, ?_⟩
    · exact call_refused hu hh (reqRefused_fatal h true _ f) nofun
    · exact call_refused hu hh (reqRefused_draining h _ f rfl d) nofun
    · exact call_refused hu hh (reqRefused_bounds f (fun _ => d) (bad.imp_right fun k => decide_eq_false k)) nofun
    · rintro ⟨ha, ndf⟩ muz
      refine call_taken hu hh ha ndf ?_ (emit_untouched _ kept)
      exact (if_pos ((seqMuzzled_noisy ha.fatal).trans muz)).trans (answerCall_emits h 0 (noisy s) nofun)
    · rintro ⟨ha, ndf⟩ muz invalid
      refine call_taken hu hh ha ndf ?_ (emit_untouched _ kept)
      exact acceptCall_invalid ((seqMuzzled_noisy ha.fatal).trans muz) invalid
    · rintro ⟨ha, ndf⟩ muz valid lacks
      refine call_taken hu hh ha ndf ?_ (emit_untouched _ {})
      exact acceptCall_retries ((seqMuzzled_noisy ha.fatal).trans muz) valid (lacks.imp id fun none => callable_none none)
    · rintro c ⟨ha, ndf⟩ muz valid en low high takes first
      have starts : acceptCall h entry reply args (noisy s) = if reply then called h e reply args c (noisy s)
          else answerCall h .ok c (called h e reply args c (noisy s)) :=
        acceptCall_starts ((seqMuzzled_noisy ha.fatal).trans muz) valid en (callable_first low high takes first)
      have runs := called_runs s h e reply args c
      cases reply with
      | false =>
        have answers : acceptCall h entry false args (noisy s)
            = emit (answerMsg h 0xA (.callRsp .ok (BitVec.ofNat 4 c)) [] (s.env.sc + 9) .none) (called h e false args c (noisy s)) := by
          rw [starts, if_neg Bool.false_ne_true, answerCall_emits (st := .ok) h c _ nofun, called_sc]
          rfl
        have same := arrived_same m
          (emit (answerMsg h 0xA (.callRsp .ok (BitVec.ofNat 4 c)) [] (s.env.sc + 9) .none) (called h e false args c (noisy s)))
        obtain ⟨state, pc, cls, words, rest⟩ := runs.of_seq (same.seq.trans (by rw [emit_rest]))
        refine ⟨_, call_taken hu hh ha ndf answers (emit_untouched _ (called_untouched h e false args c s)), state, pc, cls, words, rest,
          nofun, fun _ => ?_⟩
        rw [same.out]
        exact emit_out (called_out h e false args c (noisy s))
      | true =>
        have same := arrived_same m (called h e true args c (noisy s))
        obtain ⟨state, pc, cls, words, rest⟩ := runs.of_seq same.seq
        exact ⟨_, call_taken hu hh ha ndf (starts.trans (if_pos rfl)) (called_untouched h e true args c s), state, pc, cls, words, rest,
          fun _ => same.out.trans (called_out h e true args c (noisy s)), nofun⟩

end Sys2Proof.Proofs
end

section
/-! SUPPORT. A hit whose set and way share their entry of the tag table with another pair of numbers (04_coherence_protocol Table 4.7): way
16 of set 0, which is no way of the cache, reads the entry of way 0 of set 1. -/

namespace Sys2Proof.Proofs

open Sys2Proof.Machine Sys2Proof.Safety Sys2Proof.Laws

set_option Elab.async false

/-- The entry of line 1 in way 0 of set 1: every sector valid and clean, no copies, AGE 1. -/
def agedEntry : TagEntry := ({ (default : TagEntry) with tv := true, sv := 15, age := 1 } : TagEntry).sealed

/-- In service, the cache holds line 1 alone. -/
def lineOneHeld : State := { State.reset with
  env := { Env.reset with phase := .ready, sc := 20000 }
  cache := { State.reset.cache with tags := [(16, agedEntry)] } }

/-- A request of the slice's agent 170 for line 1. -/
def lineOneHdr : Hdr := { port := .mpa, agent := 170, die := 0, txn := 0, line := 1, label := 0, ndf := 0 }

theorem lineOneHeld_admits : Admitted lineOneHeld lineOneHdr :=
  ⟨⟨by decide +kernel, by decide +kernel⟩, by decide +kernel, by decide +kernel, by decide +kernel⟩

theorem lineOneHeld_rests : AtRest lineOneHeld lineOneHdr.line where
  memory := by decide +kernel
  bank := by decide +kernel
  tags := by decide +kernel
  dir := fun w hw => by
    have found : findWay lineOneHeld lineOneHdr.line = some 0 := by decide +kernel
    cases Option.some.inj (found.symm.trans hw)
    decide +kernel
  resv := nofun
  waits := nofun
  stay := by decide +kernel
  free := ⟨by decide +kernel, nofun⟩
  miss := by decide +kernel
  fetch := nofun
  alive := by decide +kernel

/-- AGE of the entry that way 16 of set 0 names, after a command. -/
def agesAfter : Host.Outcome State Fault Refusal → Option (BitVec 2)
  | .next t => some (tagAt t 0 16).age
  | _ => none

theorem read_ages_entry : agesAfter (exec (.rdu lineOneHdr 1 0) lineOneHeld) = some 0 := by decide +kernel

/-- Refutes O39: a hit in way 0 of set 1 sets AGE to 0 in the entry that way 16 of set 0 names too, and the statement says that the
entry of every other pair of set and way stays, without a bound on the way. -/
theorem not_homeServesHits : ¬ Obligations.HomeServesHits := by
  unfold Obligations.HomeServesHits
  intro h
  obtain ⟨reads, -⟩ := h (.rdu lineOneHdr 1 0) lineOneHeld lineOneHdr 0 false lineOneHeld_admits
    ⟨.inr (by decide +kernel), by decide +kernel⟩ lineOneHeld_rests rfl (by decide +kernel)
  obtain ⟨t, ht, -, -, others, -⟩ := reads .rdu 1 0 rfl nofun (by decide +kernel) (by decide +kernel) (by decide +kernel)
    (by decide +kernel)
  have stays : tagAt t 0 16 = tagAt lineOneHeld 0 16 := others 0 16 (.inl (by decide +kernel))
  have ages := read_ages_entry
  rw [ht, agesAfter, stays] at ages
  exact absurd ages (by decide +kernel)

end Sys2Proof.Proofs
end

section
/-! SUPPORT. A transaction that awaits a writeback of no agent expires (05_coherence_failures R139, R142): no answer is counted as missing,
so the count of missing answers stays as it stood, though it stood above the 16 bits that its register holds. -/

namespace Sys2Proof.Proofs

open Sys2Proof.Machine Sys2Proof.Safety Sys2Proof.Laws

set_option Elab.async false

/-- A read of agent 3 for line 1. -/
def expiredReq : Req :=
  { (default : Req) with kind := .rds, port := .mpa, agent := 3, txn := 9, line := 1, mask := 1, internal := false }

/-- Its transaction, which awaits the writeback of an owner that it does not name, and whose timer has run out. -/
def ownerless : Tracker :=
  { newTracker 1 1 0 .tfs (some expiredReq) dirX with wbp := true, timerFrom := some 0, elapsed := 1048576 }

/-- In service, with that transaction alone, and the count of missing answers at 65,536. -/
def countedAbove : State := { State.reset with
  env := { Env.reset with phase := .ready, sc := 20000 }
  coh := { State.reset.coh with trk := [(0, ownerless)], snoopTmo := 65536 } }

/-- The count of missing answers after a command. -/
def missingAfter : Host.Outcome State Fault Refusal → Option Nat
  | .next t => some t.coh.snoopTmo
  | _ => none

theorem expiry_counts_none : missingAfter (exec .homeTimeout countedAbove) = some 65536 := by decide +kernel

/-- Refutes O42: where no agent's answer is missing, an expiry leaves the count of missing answers alone, and the statement takes the
minimum with 65,535 of a count that no hypothesis bounds. -/
theorem not_homeTimeoutAnswers : ¬ Obligations.HomeTimeoutAnswers := by
  unfold Obligations.HomeTimeoutAnswers
  intro h
  have missing : ownerless.missing = [] := by decide +kernel
  obtain ⟨t, ht, -, -, -, -, -, -, -, -, -, count, -⟩ := h countedAbove 0 ownerless expiredReq ⟨by decide +kernel, by decide +kernel⟩ rfl
    (by decide +kernel) nofun rfl nofun rfl (by decide +kernel) (by rw [missing]; exact List.nodup_nil) (by rw [missing]; decide)
    (by rw [missing]; nofun) (by decide +kernel)
  have counts := expiry_counts_none
  rw [ht, missingAfter, count, missing] at counts
  exact absurd counts (by decide +kernel)

end Sys2Proof.Proofs
end

section
/-! SUPPORT. A pack that passes over the line it would write (04_coherence_protocol R473, 05_coherence_failures R139): a transaction of the
line has ended poisoned, so no write of the pack is performed on it. -/

namespace Sys2Proof.Proofs

open Sys2Proof.Machine Sys2Proof.Safety Sys2Proof.Laws

set_option Elab.async false

/-- A pack of eight binary32 elements that is to write its result into line 1. -/
def writingPack : Pack := { (default : Pack) with desc := 8 <<< 64 ||| 1 <<< 8, phase := .writing }

/-- In service, the cache holds line 1 without copies, a pack is to write it, and a transaction of the line has ended poisoned. -/
def lineSpoiled : State := { State.reset with
  env := { Env.reset with phase := .ready, sc := 20000 }
  cache := { State.reset.cache with tags := [(16, agedEntry)] }
  red := { State.reset.red with packs := [(0, writingPack)], spoiled := [1] } }

theorem lineSpoiled_rests : AtRest lineSpoiled (writingPack.lineAddr writingPack.line) where
  memory := by decide +kernel
  bank := by decide +kernel
  tags := by decide +kernel
  dir := fun w hw => by
    have found : findWay lineSpoiled (writingPack.lineAddr writingPack.line) = some 0 := by decide +kernel
    cases Option.some.inj (found.symm.trans hw)
    decide +kernel
  resv := nofun
  waits := nofun
  stay := by decide +kernel
  free := ⟨by decide +kernel, nofun⟩
  miss := by decide +kernel
  fetch := nofun
  alive := by decide +kernel

/-- The number of accesses queued after a command. -/
def queuedAfter : Host.Outcome State Fault Refusal → Option Nat
  | .next t => some t.fg.accs.length
  | _ => none

theorem spoiled_writes_nothing : queuedAfter (exec .internalLookup lineSpoiled) = some 0 := by decide +kernel

/-- Refutes O43: a pack does not write its result into a line of which a transaction has ended poisoned, which the hypotheses on the line
do not exclude. -/
theorem not_walkCommandsAnswer : ¬ Obligations.WalkCommandsAnswer := by
  unfold Obligations.WalkCommandsAnswer
  intro h
  obtain ⟨-, packs, -⟩ := h lineSpoiled ⟨by decide +kernel, by decide +kernel⟩
  obtain ⟨t, a, ht, queued, -⟩ := packs 0 writingPack 0 rfl (by decide +kernel) rfl rfl rfl (by decide +kernel) lineSpoiled_rests rfl
    (by decide +kernel) (by decide +kernel) (by decide +kernel)
  have writes := spoiled_writes_nothing
  rw [ht, queuedAfter, queued, List.length_append] at writes
  exact absurd (Option.some.inj writes) (Nat.succ_ne_zero _)

end Sys2Proof.Proofs
end

section
/-! SUPPORT. Writebacks, clean evictions and snoop answers (04_coherence_protocol R107, R109, R112, R114, Table 4.7). -/

namespace Sys2Proof.Proofs

open Sys2Proof.Machine Sys2Proof.Safety Sys2Proof.Laws

set_option Elab.async false

/-! ### The class of writebacks -/

theorem outsider_source {s : State} {h : Hdr} (hb : badSource s h.agent h.die = false) : outsider s h = false := by
  rw [outsider, hb, Bool.false_and]

theorem goneAgent_source {s : State} {h : Hdr} (hb : badSource s h.agent h.die = false) : goneAgent s h.agent h.die = false := by
  rw [badSource, Bool.or_eq_false_iff] at hb
  exact hb.2

theorem takeWb_fatal {s : State} {h : Hdr} {act : State → State} (f : s.saf.fatal = true) : takeWb h s act = ackNow h s := if_pos f

theorem takeWb_outsider {s : State} {h : Hdr} {act : State → State} (f : s.saf.fatal = false) (o : outsider s h = true) :
    takeWb h s act = emit (answerMsg h 8 (.status .bounds) [] (s.env.sc + 9) .none) s :=
  (if_neg (Bool.eq_false_iff.1 f)).trans ((if_pos o).trans (answerSts_eq s nofun))

theorem takeWb_acts {s : State} {h : Hdr} {act : State → State} (f : s.saf.fatal = false) (o : outsider s h = false) :
    takeWb h s act = act s := (if_neg (Bool.eq_false_iff.1 f)).trans (if_neg (Bool.eq_false_iff.1 o))

/-- The messages of the class of writebacks, with what a slice does that takes them. -/
def wbForm : Instr → Option (Hdr × (State → State))
  | .wbd h mask data => some (h, fun s => lookUp h.line (.wb h mask data (decide (h.ndf = (bitsOf mask).length)
      && decide (data.length = 2 * (bitsOf mask).length))) s (writeBack h mask data (decide (h.ndf = (bitsOf mask).length)
      && decide (data.length = 2 * (bitsOf mask).length))))
  | .evc h => some (h, fun s => lookUp h.line (.wb h 0 [] (decide (h.ndf = 0))) s (writeBack h 0 [] (decide (h.ndf = 0))))
  | .wbUnassigned h _ => some (h, fun s => ackNow h (protocolEvent h.line (lineTrans s h.line) h.agent false s))
  | _ => none

theorem wb_answers {c : Instr} {s t : State} {h : Hdr} {act : State → State} (hu : inUse s) (hh : hears s c)
    (hc : wbForm c = some (h, act)) (body : takeWb h s act = t) (untouched : Untouched s t) : exec c s = .next (arrived c t) := by
  cases c <;> cases hc
  case wbd =>
    unfold exec execWbd
    exact receive_answers hu hh rfl body untouched
  case evc =>
    unfold exec execEvc
    exact receive_answers hu hh rfl body untouched
  case wbUnassigned =>
    unfold exec execWbUnassigned
    exact receive_answers hu hh rfl body untouched

/-- WbAck at once (R109). -/
def wbAck (s : State) (h : Hdr) : OutMsg := answerMsg h 7 .none [] (s.env.sc + 9) .none

theorem wb_fatal {c : Instr} {s : State} {h : Hdr} {act : State → State} (hu : inUse s) (hh : hears s c) (hc : wbForm c = some (h, act))
    (f : s.saf.fatal = true) : exec c s = .next (arrived c (emit (wbAck s h) s)) :=
  wb_answers hu hh hc (takeWb_fatal f) (emit_untouched _ {})

theorem wb_outsider {c : Instr} {s : State} {h : Hdr} {act : State → State} (hu : inUse s) (hh : hears s c)
    (hc : wbForm c = some (h, act)) (f : s.saf.fatal = false) (o : outsider s h = true) :
    exec c s = .next (arrived c (emit (answerMsg h 8 (.status .bounds) [] (s.env.sc + 9) .none) s)) :=
  wb_answers hu hh hc (takeWb_outsider f o) (emit_untouched _ {})

/-! ### Protocol events -/

/-- PROTO_ERR and its report, of an agent's message on a line in no transaction (R109, R114). -/
def protoEvent (s : State) (h : Hdr) : State :=
  report 0x22 0 0 (detailL h.line 0 0 [h.agent] 4) (raise 1 { s with coh := { s.coh with protoErr := true } })

theorem protocolEvent_free {s : State} {h : Hdr} (free : trackerOf s h.line = none) :
    protocolEvent h.line (lineTrans s h.line) h.agent false s = protoEvent s h := by
  rw [lineTrans, free]
  rfl

theorem protoEvent_untouched (s : State) (h : Hdr) : Untouched s (protoEvent s h) := report_untouched _ _ _ _ {}

theorem protoEvent_sc (s : State) (h : Hdr) : (protoEvent s h).env.sc = s.env.sc := by
  rw [protoEvent, report_saf]
  rfl

theorem wbUnassigned_event {s : State} {h : Hdr} {op : BitVec 4} (hu : inUse s) (hh : hears s (.wbUnassigned h op))
    (f : s.saf.fatal = false) (o : outsider s h = false) (free : trackerOf s h.line = none) :
    exec (.wbUnassigned h op) s = .next (arrived (.wbUnassigned h op) (emit (wbAck s h) (protoEvent s h))) := by
  refine wb_answers hu hh rfl ((takeWb_acts f o).trans ?_) (emit_untouched _ (protoEvent_untouched s h))
  show ackNow h (protocolEvent h.line (lineTrans s h.line) h.agent false s) = _
  rw [protocolEvent_free free, ackNow, protoEvent_sc]
  rfl

/-! ### The owner returns its line -/

section
variable {s : State} {h : Hdr} {way : Nat} (bank : s.coh.muzBanks.getLsbD (tagBank (lineSet h.line)) = false)
  (source : caching s h.agent h.die = true) (good : badSource s h.agent h.die = false) (free : trackerOf s h.line = none)
  (stays : leaving s h.line = false) (filled : filling s h.line = false) (miss : missOf s h.line = none)
  (found : findWay s h.line = some way) (owned : (tagAt s (lineSet h.line) way).dst = dirX)
  (owner : (tagAt s (lineSet h.line) way).ptr0.toNat = h.agent)

include bank source good free found owned owner in
theorem writeBack_owner (mask : BitVec 4) (data : List CodeWord) : writeBack h mask data true s
    = ackNow h (setTag (lineSet h.line) way (fun e => e.withDir e.dir.uncached)
      (sinkSectors h.line (classOf s h.line h.label) mask data s)) := by
  have off : bit s.coh.muzBanks (tagBank (lineSet h.line)) = false := bank
  unfold writeBack
  simp only [off, source, goneAgent_source good, free, found, owned, owner, Bool.not_true, Bool.or_self, Bool.false_eq_true, if_false,
    and_self, if_true]

/-- The words of the sectors that a writeback carries, by place in the line. -/
def carriedWords (mask : BitVec 4) (data : List CodeWord) : Table CodeWord :=
  ((bitsOf mask).flatMap fun i => [2 * i, 2 * i + 1]).zip data

/-- The array write of the dirty sectors that an owner returns (R119). -/
def sinkWrite (s : State) (h : Hdr) (way : Nat) (mask : BitVec 4) (data : List CodeWord) : Access :=
  writeAccess (s.env.sc + 6) (classOf s h.line h.label) 0 false
    ((carriedWords mask data).map fun p => (location (lineSet h.line) way (32 * p.1), p.2)) .write

include stays filled miss found in
theorem sinkSectors_held (mask : BitVec 4) (data : List CodeWord) :
    sinkSectors h.line (classOf s h.line h.label) mask data s
      = (if (carriedWords mask data).isEmpty then id else enqueue (sinkWrite s h way mask data))
        (setTag (lineSet h.line) way (fun e => { e with sv := e.sv ||| mask, sd := e.sd ||| mask }) (dropLineFb h.line s)) := by
  have drop := dropLineFb_eq h.line s
  unfold sinkSectors
  dsimp only
  rw [drop]
  generalize (dropLineFb h.line s).cache.fb = fb
  have victims : s.cache.victims.find? (fun v => v.line == h.line) = none := by
    rw [leaving, Bool.or_eq_false_iff] at stays
    exact List.find?_eq_none.mpr fun v hv => by simpa using List.any_eq_false.1 stays.2 v hv
  have full : filling { s with cache := { s.cache with fb := fb } } h.line = false := filled
  have none : missOf { s with cache := { s.cache with fb := fb } } h.line = none := miss
  have way' : findWay { s with cache := { s.cache with fb := fb } } h.line = some way := found
  have late : outstanding { s with cache := { s.cache with fb := fb } } h.line = 0 := by rw [outstanding, none]; rfl
  have all : ((carriedWords mask data).filter fun p => !bit (mask &&& 0) (p.1 / 2)) = carriedWords mask data :=
    List.filter_eq_self.mpr fun p _ => by simp [bit]
  dsimp only
  rw [victims]
  dsimp only
  rw [full, if_neg Bool.false_ne_true, way', none, late]
  dsimp only
  rw [show ((bitsOf mask).flatMap fun i => [2 * i, 2 * i + 1]).zip data = carriedWords mask data from rfl, all]
  have kept : ∀ m : BitVec 4, m &&& ~~~(m &&& 0) = m := by decide
  rw [kept]
  split <;> rfl

/-- The line that its owner has returned, with the dirty sectors named (Table 4.7). -/
def lineReturned (s : State) (h : Hdr) (way : Nat) (mask : BitVec 4) (data : List CodeWord) : State :=
  setTag (lineSet h.line) way (fun e => e.withDir e.dir.uncached)
    ((if (carriedWords mask data).isEmpty then id else enqueue (sinkWrite s h way mask data))
      (setTag (lineSet h.line) way (fun e => { e with sv := e.sv ||| mask, sd := e.sd ||| mask }) (dropLineFb h.line s)))

omit bank source good free stays filled miss found owned owner in
theorem lineReturned_entry (mask : BitVec 4) (data : List CodeWord) :
    (tagAt (lineReturned s h way mask data) (lineSet h.line) way).dst = dirU
    ∧ (tagAt (lineReturned s h way mask data) (lineSet h.line) way).sv = (tagAt s (lineSet h.line) way).sv ||| mask
    ∧ (tagAt (lineReturned s h way mask data) (lineSet h.line) way).sd = (tagAt s (lineSet h.line) way).sd ||| mask := by
  have same : tagAt (dropLineFb h.line s) (lineSet h.line) way = tagAt s (lineSet h.line) way := by
    rw [dropLineFb_eq]
    rfl
  have through (words : Bool) (a : Access) (v : State) :
      tagAt ((if words then id else enqueue a) v) (lineSet h.line) way = tagAt v (lineSet h.line) way := by
    cases words <;> rfl
  unfold lineReturned
  rw [tagAt_setTag_self, through, tagAt_setTag_self, same]
  exact ⟨rfl, rfl, rfl⟩

omit bank source good free stays filled miss found owned owner in
/-- What the return of a line leaves alone: all but its entry, the fetch buffer, and the queue of accesses. -/
theorem lineReturned_rest (mask : BitVec 4) (data : List CodeWord) :
    lineReturned s h way mask data = { s with
      cache := (lineReturned s h way mask data).cache
      fg := if (carriedWords mask data).isEmpty then s.fg else (enqueue (sinkWrite s h way mask data) s).fg }
    ∧ Untouched s (lineReturned s h way mask data) := by
  have drop := dropLineFb_eq h.line s
  unfold lineReturned
  rw [drop]
  generalize (dropLineFb h.line s).cache.fb = fb
  cases (carriedWords mask data).isEmpty
  · exact ⟨rfl, {}⟩
  · exact ⟨rfl, {}⟩

include bank source good free stays filled miss found owned owner

/-- The return of a line by its owner: the home acknowledges it, and its directory state is U. -/
theorem wb_returns {c : Instr} {mask : BitVec 4} {data : List CodeWord} (hu : inUse s) (hh : hears s c) (f : s.saf.fatal = false)
    (tags : ∀ w ∈ openWays s, (tagAt s (lineSet h.line) w).passes = true)
    (hc : wbForm c = some (h, fun s => lookUp h.line (.wb h mask data true) s (writeBack h mask data true))) :
    exec c s = .next (arrived c (emit (wbAck s h) (lineReturned s h way mask data))) := by
  obtain ⟨rest, untouched⟩ := lineReturned_rest (s := s) (h := h) (way := way) mask data
  have sc : (lineReturned s h way mask data).env.sc = s.env.sc := by rw [rest]
  refine wb_answers hu hh hc ((takeWb_acts f (outsider_source good)).trans ?_) (emit_untouched _ untouched)
  rw [lookUp_passes tags, writeBack_owner bank source good free found owned owner, sinkSectors_held stays filled miss found, ackNow]
  show answer h 7 .none [] ((lineReturned s h way mask data).env.sc + 9) .none (lineReturned s h way mask data) = _
  rw [sc]
  rfl

end

/-! ### Answers to snoops -/

section
variable {s : State} {h : Hdr} {outcome : BitVec 3} {mask : BitVec 4} {data : List CodeWord} (hu : inUse s)
  (hh : hears s (.snprsp h outcome mask data))
include hu hh

theorem snprsp_fatal (f : s.saf.fatal = true) :
    exec (.snprsp h outcome mask data) s = .next (arrived (.snprsp h outcome mask data) s) := by
  unfold exec execSnprsp
  exact receive_answers hu hh rfl (if_pos f) {}

theorem snprsp_outsider (f : s.saf.fatal = false) (o : outsider s h = true) : exec (.snprsp h outcome mask data) s
    = .next (arrived (.snprsp h outcome mask data) (emit (answerMsg h 8 (.status .bounds) [] (s.env.sc + 9) .none) s)) := by
  unfold exec execSnprsp
  refine receive_answers hu hh rfl ?_ (emit_untouched _ {})
  exact (if_neg (Bool.eq_false_iff.1 f)).trans ((if_pos o).trans (answerSts_eq s nofun))

theorem snprsp_acts {t : State} (f : s.saf.fatal = false) (o : outsider s h = false)
    (tags : ∀ w ∈ openWays s, (tagAt s (lineSet h.line) w).passes = true) (body : snoopAnswer h outcome.toNat mask data s = t)
    (untouched : Untouched s t) :
    exec (.snprsp h outcome mask data) s = .next (arrived (.snprsp h outcome mask data) t) := by
  unfold exec execSnprsp
  refine receive_answers hu hh rfl ?_ untouched
  exact (if_neg (Bool.eq_false_iff.1 f)).trans ((if_neg (Bool.eq_false_iff.1 o)).trans ((lookUp_passes tags _ _).trans body))

end

section
variable {s : State} {h : Hdr} {mask : BitVec 4} {data : List CodeWord} (bank : s.coh.muzBanks.getLsbD (tagBank (lineSet h.line)) = false)
include bank

theorem snoopAnswer_unawaited (outcome : Nat) (free : trackerOf s h.line = none) : snoopAnswer h outcome mask data s = protoEvent s h := by
  have off : bit s.coh.muzBanks (tagBank (lineSet h.line)) = false := bank
  unfold snoopAnswer
  simp only [off, free, protocolEvent_free free, Bool.false_eq_true, if_false]

/-- The agent no longer has an answer missing (R142). -/
def heardFrom (s : State) (a : Nat) : State := { s with coh := { s.coh with tmoCnt := terase s.coh.tmoCnt a } }

theorem snoopAnswer_awaited {outcome i : Nat} {x : Tracker} (source : caching s h.agent h.die = true)
    (good : badSource s h.agent h.die = false) (busy : trackerOf s h.line = some i) (hx : tfind s.coh.trk i = some x)
    (awaited : h.agent ∈ x.await) (sent : h.agent ∈ x.sentTo) (legal : legalOutcome x h.agent outcome = true) :
    snoopAnswer h outcome mask data s = acceptAnswer i h.agent outcome mask data (heardFrom s h.agent) := by
  have off : bit s.coh.muzBanks (tagBank (lineSet h.line)) = false := bank
  have own : getTracker s i = x := by rw [getTracker, tget, hx]; rfl
  have waits : x.await.isEmpty = false := by
    cases h' : x.await with
    | nil => rw [h'] at awaited; cases awaited
    | cons _ _ => rfl
  have asked : askedAgent s x h = true := by
    simp [askedAgent, source, goneAgent_source good, sent]
  unfold snoopAnswer
  simp only [off, busy, own, waits, asked, legal, Bool.false_eq_true, if_false, Bool.not_true, if_true,
    List.contains_iff_mem.2 awaited]
  rfl

end

section
variable {s : State} {i : Nat} {x : Tracker} (hx : tfind s.coh.trk i = some x)
include hx

theorem getTracker_setTracker (f : Tracker → Tracker) : getTracker (setTracker i f s) i = f x := by
  rw [getTracker, setTracker, tget]
  dsimp only
  rw [tfind_tupd_self f hx]
  rfl

/-- The answer of a sharer that holds no copy any more, while others are awaited. -/
theorem acceptAnswer_invalid {a : Nat} {mask : BitVec 4} {data : List CodeWord} (rest : x.await.filter (· ≠ a) ≠ []) :
    acceptAnswer i a 0 mask data s = setTracker i (fun t => { t with await := t.await.filter (· ≠ a) }) s := by
  have waits : ((getTracker (setTracker i (fun t => { t with await := t.await.filter (· ≠ a) }) s) i).await).isEmpty = false := by
    rw [getTracker_setTracker hx]
    cases h : x.await.filter (· ≠ a) with
    | nil => exact absurd h rest
    | cons _ _ => rfl
  unfold acceptAnswer
  simp only [Nat.reduceEqDiff, or_self, if_false, waits, Bool.false_eq_true]

/-- The directory part of a line that owner and requester share (Table 4.7). -/
def sharedBy (d : DirPart) (o a : Nat) : DirPart := { d.withSharers [o, a] with dst := dirSP }

/-- The transaction whose owner has sent the data itself has ended, with owner and requester as sharers. -/
def forwardedBy (i a o : Nat) (r : Req) (d : DirPart) (s : State) : State :=
  setTracker i (fun t => { t with served := true, endsAt := some s.env.sc })
    (setTracker i (fun t => { t with next := some (sharedBy d o r.agent) })
      (setTracker i (fun t => { t with await := t.await.filter (· ≠ a) }) s))

theorem acceptAnswer_forwards {a o : Nat} {r : Req} {mask : BitVec 4} {data : List CodeWord} (req : x.req = some r)
    (owner : x.owner = some o) (alive : isDead s r.agent r.die = false) :
    acceptAnswer i a 4 mask data s = forwardedBy i a o r (tagAt s x.set x.way).dir s := by
  have own : getTracker s i = x := by rw [getTracker, tget, hx]; rfl
  have live : isDead (setTracker i (fun t => { t with await := t.await.filter (· ≠ a) }) s) r.agent r.die = false := alive
  unfold acceptAnswer
  simp only [Nat.reduceEqDiff, or_false, or_self, if_false, if_true, own, req, owner, Option.getD_some, live, Bool.false_eq_true]
  rfl

theorem forwardedBy_entry (a o : Nat) (r : Req) (d : DirPart) : getTracker (forwardedBy i a o r d s) i
    = { x with await := x.await.filter (· ≠ a), next := some (sharedBy d o r.agent), served := true, endsAt := some s.env.sc } := by
  have first : tfind (setTracker i (fun t => { t with await := t.await.filter (· ≠ a) }) s).coh.trk i
      = some { x with await := x.await.filter (· ≠ a) } := tfind_tupd_self _ hx
  have second := tfind_tupd_self (fun t : Tracker => { t with next := some (sharedBy d o r.agent) }) first
  exact getTracker_setTracker (s := setTracker i (fun t => { t with next := some (sharedBy d o r.agent) })
    (setTracker i (fun t => { t with await := t.await.filter (· ≠ a) }) s)) second _

end

theorem sharedBy_sharers (d : DirPart) {o a : Nat} (ho : o < 256) (ha : a < 256) : (sharedBy d o a).sharers = [o, a] := by
  have two : bitsOf (BitVec.ofNat 4 (ones (min 4 [o, a].length))) = [0, 1] := by
    show bitsOf (BitVec.ofNat 4 (ones 2)) = [0, 1]
    decide
  unfold DirPart.sharers
  rw [show (sharedBy d o a).pv = BitVec.ofNat 4 (ones (min 4 [o, a].length)) from rfl, two]
  have first : (sharedBy d o a).ptr 0 = o := Nat.mod_eq_of_lt ho
  have second : (sharedBy d o a).ptr 1 = a := Nat.mod_eq_of_lt ha
  rw [List.map_cons, List.map_cons, List.map_nil, first, second]

theorem emit_accs (m : OutMsg) (s : State) : (emit m s).fg.accs = s.fg.accs := by
  unfold emit
  split <;> rfl

theorem carriedWords_some {mask : BitVec 4} {data : List CodeWord} (hm : mask ≠ 0) (len : data.length = 2 * (bitsOf mask).length) :
    (carriedWords mask data).isEmpty = false := by
  have some : ∀ m : BitVec 4, m ≠ 0 → 0 < (bitsOf m).length ∧ ((bitsOf m).flatMap fun i => [2 * i, 2 * i + 1]).length
      = 2 * (bitsOf m).length := by decide
  obtain ⟨few, words⟩ := some mask hm
  have size : 0 < (carriedWords mask data).length := by
    rw [carriedWords, List.length_zip, words, len]
    omega
  cases h : carriedWords mask data with
  | nil => rw [h] at size; cases size
  | cons _ _ => rfl

theorem wbAck_out {s u : State} (h : Hdr) (same : u.out = s.out) : (emit (wbAck s h) u).out = (emit (wbAck s h) s).out := emit_out same

/-- Settles O45, by the messages: what a source outside or a FATAL slice gets, the owner's return, and the answers to snoops. -/
theorem writebacksAnswer : Obligations.WritebacksAnswer := by
  unfold Obligations.WritebacksAnswer
  intro s h hu set acks event source plainly
  refine ⟨fun c form hh => ?_, fun outcome mask data hh => ?_, fun op hh f o free => wbUnassigned_event hu hh f o free, ?_, ?_⟩
  · obtain ⟨act, hc⟩ : ∃ act, wbForm c = some (h, act) := by
      rcases form with ⟨mask, data, rfl⟩ | rfl | ⟨op, rfl⟩ <;> exact ⟨_, rfl⟩
    exact ⟨wb_fatal hu hh hc, wb_outsider hu hh hc⟩
  · refine ⟨snprsp_fatal hu hh, snprsp_outsider hu hh, ?_⟩
    rintro ⟨f, bank, tags⟩ o free
    exact snprsp_acts hu hh f o tags (snoopAnswer_unawaited bank _ free) (protoEvent_untouched s h)
  · rintro way ⟨caches, good⟩ ⟨f, bank, tags⟩ free stays filled miss found owned owner
    have returns {c : Instr} {mask : BitVec 4} {data : List CodeWord} := wb_returns (c := c) (mask := mask) (data := data) bank caches good
      free stays filled miss found owned owner hu (f := f) (tags := tags)
    have left (c : Instr) (mask : BitVec 4) (data : List CodeWord) :
        (arrived c (emit (wbAck s h) (lineReturned s h way mask data))).out = (acks s).out
        ∧ tagAt (arrived c (emit (wbAck s h) (lineReturned s h way mask data))) set way = tagAt (lineReturned s h way mask data) set way
        ∧ (arrived c (emit (wbAck s h) (lineReturned s h way mask data))).fg.accs = (lineReturned s h way mask data).fg.accs := by
      have same := arrived_same c (emit (wbAck s h) (lineReturned s h way mask data))
      obtain ⟨rest, -⟩ := lineReturned_rest (s := s) (h := h) (way := way) mask data
      refine ⟨same.out.trans (wbAck_out h ?_), ?_, ?_⟩
      · rw [rest]
      · rw [tagAt, same.cache, emit_rest]
        rfl
      · rw [same.fg, emit_accs]
    refine ⟨fun mask data hh some ndf len => ?_, fun hh ndf => ?_⟩
    · obtain ⟨rest, -⟩ := lineReturned_rest (s := s) (h := h) (way := way) mask data
      obtain ⟨dst, sv, sd⟩ := lineReturned_entry (s := s) (h := h) (way := way) mask data
      obtain ⟨out, entry, accs⟩ := left (.wbd h mask data) mask data
      refine ⟨_, { sinkWrite s h way mask data with id := s.fg.nextId }, returns hh (by simp [wbForm, ndf, len]), out, ?_, ?_, ?_, ?_, rfl,
        rfl, rfl⟩
      · rw [entry, dst]
      · rw [entry, sv]
      · rw [entry, sd]
      · rw [accs, rest, carriedWords_some some len]
        rfl
    · obtain ⟨rest, -⟩ := lineReturned_rest (s := s) (h := h) (way := way) 0 []
      obtain ⟨dst, sv, sd⟩ := lineReturned_entry (s := s) (h := h) (way := way) 0 []
      obtain ⟨out, entry, accs⟩ := left (.evc h) 0 []
      refine ⟨_, returns hh (by simp [wbForm, ndf]), out, ?_, ?_, ?_, ?_⟩
      · rw [entry, dst]
      · rw [entry, sv]
        exact BitVec.or_zero
      · rw [entry, sd]
        exact BitVec.or_zero
      · rw [accs, rest]
        rfl
  · rintro i x mask data ⟨caches, good⟩ ⟨f, bank, tags⟩ busy hx awaited sent
    have heard : tfind (heardFrom s h.agent).coh.trk i = some x := hx
    refine ⟨fun hh kind rest => ?_, fun r o hh kind req owner alive ho ha => ?_⟩
    · have legal : legalOutcome x h.agent 0 = true := by
        rcases kind with kind | kind <;> simp [legalOutcome, kind]
      have body := (snoopAnswer_awaited (mask := mask) (data := data) bank caches good busy hx awaited sent legal).trans
        (acceptAnswer_invalid heard rest)
      refine ⟨_, snprsp_acts hu hh f (outsider_source good) tags body {}, ?_⟩
      have same := arrived_same (.snprsp h 0 mask data)
        (setTracker i (fun t => { t with await := t.await.filter (· ≠ h.agent) }) (heardFrom s h.agent))
      refine ⟨?_, same.out, same.cache, same.saf⟩
      rw [getTracker, same.coh]
      exact getTracker_setTracker heard _
    · have legal : legalOutcome x h.agent 4 = true := by simp [legalOutcome, kind]
      have body := (snoopAnswer_awaited (mask := mask) (data := data) bank caches good busy hx awaited sent legal).trans
        (acceptAnswer_forwards heard req owner alive)
      refine ⟨_, sharedBy (tagAt s x.set x.way).dir o r.agent, snprsp_acts hu hh f (outsider_source good) tags body {}, ?_⟩
      have same := arrived_same (.snprsp h 4 mask data)
        (forwardedBy i h.agent o r (tagAt (heardFrom s h.agent) x.set x.way).dir (heardFrom s h.agent))
      refine ⟨?_, rfl, sharedBy_sharers _ ho ha, same.cache, same.out⟩
      rw [getTracker, same.coh]
      exact forwardedBy_entry heard _ _ _ _

end Sys2Proof.Proofs
end

section
/-! SUPPORT. Scrub steps, calendar slots and calibration (13_background_work R355, R356, R358, R368, Table 13.1). -/

namespace Sys2Proof.Proofs

open Sys2Proof.Machine Sys2Proof.Safety Sys2Proof.Laws

set_option Elab.async false

/-! ### The code words that a slot writes -/

/-- From s to t the code words of a sector that a mask names are written, and no other cell changes (R356). -/
structure SectorWritten (sec : Nat) (mask : BitVec 2) (lo hi : CodeWord) (s t : State) : Prop where
  low : mask.getLsbD 0 = true → cellsOf t (2 * sec) = some (wordCells s (2 * sec) lo)
  high : mask.getLsbD 1 = true → cellsOf t (2 * sec + 1) = some (wordCells s (2 * sec + 1) hi)
  rest : ∀ loc, loc < 2 ^ 19 → (∀ i, i < 2 → mask.getLsbD i = true → loc ≠ 2 * sec + i) → cellsOf t loc = cellsOf s loc
  banks : t.fg.bankFree = s.fg.bankFree
  kept : Untouched s t

/-- Two states whose cells read alike. -/
structure CellsAlike (s t : State) : Prop where
  cells : ∀ loc, cellsOf t loc = cellsOf s loc
  words : ∀ loc w, wordCells t loc w = wordCells s loc w

theorem SectorWritten.after {sec : Nat} {mask : BitVec 2} {lo hi : CodeWord} {s u t : State} (alike : CellsAlike s u)
    (h : SectorWritten sec mask lo hi u t) (banks : u.fg.bankFree = s.fg.bankFree) (kept : Untouched s u) :
    SectorWritten sec mask lo hi s t where
  low k := by rw [h.low k, alike.words]
  high k := by rw [h.high k, alike.words]
  rest loc lt k := by rw [h.rest loc lt k, alike.cells]
  banks := h.banks.trans banks
  kept := kept.trans h.kept

/-- One code word of a sector is written where a condition says so. -/
def writeIf (c : Bool) (write : CodeWord → State → State) (w : CodeWord) (s : State) : State := if c then write w s else s

/-- A write of a code word into its cells. -/
structure WritesWord (loc : Nat) (write : CodeWord → State → State) : Prop where
  own : ∀ w s, cellsOf (write w s) loc = some (wordCells s loc w)
  other : ∀ w s k, k < 2 ^ 19 → k ≠ loc → cellsOf (write w s) k = cellsOf s k
  words : ∀ w s k v, wordCells (write w s) k v = wordCells s k v
  banks : ∀ w s, (write w s).fg.bankFree = s.fg.bankFree
  kept : ∀ w s, Untouched s (write w s)

theorem sector_written {sec : Nat} (hs : sec < 2 ^ 18) {first second : CodeWord → State → State} (hf : WritesWord (2 * sec) first)
    (hsec : WritesWord (2 * sec + 1) second) (mask : BitVec 2) (lo hi : CodeWord) (s : State) :
    SectorWritten sec mask lo hi s (writeIf (mask.getLsbD 1) second hi (writeIf (mask.getLsbD 0) first lo s)) := by
  have fits : 2 * sec < 2 ^ 19 := by omega
  have apart : 2 * sec ≠ 2 * sec + 1 := by omega
  constructor
  · intro k
    have one : cellsOf (writeIf (mask.getLsbD 0) first lo s) (2 * sec) = some (wordCells s (2 * sec) lo) := by
      rw [writeIf, if_pos k, hf.own]
    rw [writeIf]
    split
    · rw [hsec.other _ _ _ fits apart, one]
    · exact one
  · intro k
    rw [writeIf, if_pos k, hsec.own, writeIf]
    split
    · rw [hf.words]
    · rfl
  · intro loc lt ne
    have one : cellsOf (writeIf (mask.getLsbD 0) first lo s) loc = cellsOf s loc := by
      rw [writeIf]
      split
      · next k => exact hf.other _ _ _ lt (ne 0 (by decide) k)
      · rfl
    rw [writeIf]
    split
    · next k => rw [hsec.other _ _ _ lt (ne 1 (by decide) k), one]
    · exact one
  · have one : (writeIf (mask.getLsbD 0) first lo s).fg.bankFree = s.fg.bankFree := by
      rw [writeIf]
      split
      · exact hf.banks _ _
      · rfl
    rw [writeIf]
    split
    · exact (hsec.banks _ _).trans one
    · exact one
  · have one : Untouched s (writeIf (mask.getLsbD 0) first lo s) := by
      rw [writeIf]
      split
      · exact hf.kept _ _
      · exact Untouched.refl s
    rw [writeIf]
    split
    · exact one.trans (hsec.kept _ _)
    · exact one

theorem putCells_writes {loc : Nat} (hl : loc < 2 ^ 19) : WritesWord loc fun w s => putCells loc (wordCells s loc w) s where
  own _ _ := cellsOf_putCells_self ..
  other _ _ _ lt ne := cellsOf_putCells_ne _ _ hl lt ne
  words _ _ _ _ := rfl
  banks _ _ := rfl
  kept _ _ := {}

theorem writeWord_writes {loc : Nat} (hl : loc < 2 ^ 19) : WritesWord loc fun w s => writeWord loc w s where
  own _ _ := cellsOf_writeWord_self ..
  other _ _ _ lt ne := cellsOf_writeWord_ne _ _ hl lt ne
  words _ _ _ _ := rfl
  banks _ _ := rfl
  kept _ _ := {}

theorem writeNamed_written {sec : Nat} (hs : sec < 2 ^ 18) (mask : BitVec 2) (lo hi : CodeWord) (s : State) :
    SectorWritten sec mask lo hi s (writeNamed sec mask lo hi s) :=
  sector_written hs (putCells_writes (by omega)) (putCells_writes (by omega)) mask lo hi s

/-- A state with other background work queued. -/
def workLeft (work : List BgWork) (s : State) : State := { s with bg := { s.bg with work := work } }

/-- Poison marks are written once the sector's queued work is dropped. -/
theorem writeMarks_eq (w : BgWork) (mask : BitVec 2) (s : State) : ∃ work, writeMarks w mask s
    = writeNamed w.sec mask { data := 0, poison := true } { data := 0, poison := true } (workLeft work s) := ⟨_, rfl⟩

theorem workLeft_written {sec : Nat} (hs : sec < 2 ^ 18) (mask : BitVec 2) (lo hi : CodeWord) (work : List BgWork) (s : State) :
    SectorWritten sec mask lo hi s (writeNamed sec mask lo hi (workLeft work s)) :=
  SectorWritten.after (u := workLeft work s) ⟨fun _ => rfl, fun _ _ => rfl⟩ (writeNamed_written hs mask lo hi (workLeft work s)) rfl {}

/-- Background work of orders 1 to 4 writes the code words that it names. -/
theorem doWork_written {w : BgWork} {mask : BitVec 2} {lo hi : CodeWord} {s : State} (hs : w.sec < 2 ^ 18)
    (words : bgWords w.kind = some (mask, lo, hi)) (clear : w.kind.order = 1 → marksOf s w.sec = none) :
    SectorWritten w.sec mask lo hi s (doWork w s) := by
  have dropped : CellsAlike s (dropWork w s) := ⟨fun _ => rfl, fun _ _ => rfl⟩
  unfold doWork
  cases hk : w.kind with
  | writeback m a b =>
    rw [hk] at words clear
    cases words
    dsimp only
    rw [clear rfl]
    exact (writeNamed_written hs _ _ _ _).after dropped rfl {}
  | telemetry a b =>
    rw [hk] at words
    cases words
    have both := sector_written hs (writeWord_writes (by omega)) (writeWord_writes (by omega)) 3 (plain a) (plain b) (dropWork w s)
    exact both.after dropped rfl {}
  | marks m =>
    rw [hk] at words
    cases words
    obtain ⟨work, same⟩ := writeMarks_eq w mask s
    dsimp only
    rw [same]
    exact workLeft_written hs mask _ _ work s
  | rewrite m a b =>
    rw [hk] at words
    cases words
    exact (writeNamed_written hs _ _ _ _).after dropped rfl {}
  | scrubRead =>
    rw [hk] at words
    cases words

/-! ### The choice of a slot's work -/

theorem workOf_head (s : State) (b n : Nat) :
    workOf s b n = (s.bg.work.filter fun w => secBank w.sec == b && w.kind.order == n).head? := (List.head?_filter ..).symm

theorem workOf_none {s : State} {b : Nat} (h : ∀ w ∈ s.bg.work, secBank w.sec ≠ b) (n : Nat) : workOf s b n = none :=
  List.find?_eq_none.mpr fun w hw => by simp [h w hw]

/-- The first row of orders 1 to 4 that has work. -/
theorem fillSlot_works {s : State} {b n : Nat} {w : BgWork} (low : 1 ≤ n) (high : n ≤ 4) (own : workOf s b n = some w)
    (before : ∀ m, 1 ≤ m → m < n → workOf s b m = none) : fillSlot b s = doWork w s := by
  unfold fillSlot
  match n, low, high with
  | 1, _, _ => simp only [own, Option.some_or]
  | 2, _, _ => simp only [before 1 (by decide) (by decide), own, Option.none_or, Option.some_or]
  | 3, _, _ => simp only [before 1 (by decide) (by decide), before 2 (by decide) (by decide), own, Option.none_or, Option.some_or]
  | 4, _, _ =>
    simp only [before 1 (by decide) (by decide), before 2 (by decide) (by decide), before 3 (by decide) (by decide), own, Option.none_or]

theorem skipCopies_none {s : State} {b : Nat} (h : copyOf s b = none) (n : Nat) : skipCopies b n s = s := by
  cases n with
  | zero => rfl
  | succ n => rw [skipCopies, h]

theorem fillSlot_idle {s : State} {b : Nat} (work : ∀ w ∈ s.bg.work, secBank w.sec ≠ b) (copies : ∀ c ∈ s.bg.copies, c.bank ≠ b)
    (cals : ∀ c ∈ s.bg.cals, c.bank ≠ b) :
    fillSlot b s = { s with bg := { s.bg with tel := { s.bg.tel with idle := min (2 ^ 32 - 1) (s.bg.tel.idle + 1) } } } := by
  have noCopy : copyOf s b = none := List.find?_eq_none.mpr fun c hc => by simp [copies c hc]
  have noCal : (s.bg.cals.find? fun c => c.bank == b) = none := List.find?_eq_none.mpr fun c hc => by simp [cals c hc]
  have skips : skipCopies b 64 s = s := skipCopies_none noCopy 64
  have scrubs : skipScrub b s = s := by
    unfold skipScrub
    rw [workOf_none work]
  unfold fillSlot
  simp only [workOf_none work, Option.none_or, skips, noCopy, noCal, scrubs]
  rfl

/-! ### Calibration -/

/-- A calibration of a bank is queued, unless one of it is unfinished (R368). -/
def queueCal (cals : List Cal) (b : Nat) : List Cal :=
  if cals.any fun c => c.bank == b then cals else cals ++ [{ bank := b, passes := [] }]

theorem queueCalibrations_eq (s : State) :
    queueCalibrations s = { s with bg := { s.bg with cals := (List.range 16).foldl queueCal s.bg.cals } } := by
  have all (l : List Nat) (s : State) : l.foldl (fun s b => if s.bg.cals.any fun c => c.bank == b then s
      else { s with bg := { s.bg with cals := s.bg.cals ++ [{ bank := b, passes := [] }] } }) s
      = { s with bg := { s.bg with cals := l.foldl queueCal s.bg.cals } } := by
    induction l generalizing s with
    | nil => rfl
    | cons b l ih =>
      rw [List.foldl_cons, ih, List.foldl_cons, queueCal]
      split <;> rfl
  exact all _ s

theorem mem_queueCal {cals : List Cal} {b : Nat} {k : Cal} :
    k ∈ queueCal cals b ↔ k ∈ cals ∨ (k = { bank := b, passes := [] } ∧ ∀ c ∈ cals, c.bank ≠ b) := by
  unfold queueCal
  split
  · next some =>
    obtain ⟨c, hc, same⟩ := List.any_eq_true.1 some
    exact ⟨.inl, fun h => h.elim id fun h => absurd (beq_iff_eq.1 same) (h.2 c hc)⟩
  · next none =>
    have away : ∀ c ∈ cals, c.bank ≠ b := fun c hc same => none (List.any_eq_true.2 ⟨c, hc, beq_iff_eq.2 same⟩)
    rw [List.mem_append, List.mem_singleton, and_iff_left away]

theorem mem_queueCals (l : List Nat) (cals : List Cal) (k : Cal) :
    k ∈ l.foldl queueCal cals ↔ k ∈ cals ∨ (k.bank ∈ l ∧ k.passes = [] ∧ ∀ c ∈ cals, c.bank ≠ k.bank) := by
  induction l generalizing cals with
  | nil => simp
  | cons b l ih =>
    have new (c : Cal) (h : ∀ d ∈ queueCal cals b, d.bank ≠ c.bank) : ∀ d ∈ cals, d.bank ≠ c.bank :=
      fun d hd => h d (mem_queueCal.2 (.inl hd))
    rw [List.foldl_cons, ih, mem_queueCal]
    constructor
    · rintro ((h | ⟨rfl, away⟩) | ⟨bank, passes, away⟩)
      · exact .inl h
      · exact .inr ⟨List.mem_cons_self, rfl, away⟩
      · exact .inr ⟨List.mem_cons_of_mem b bank, passes, new k away⟩
    · rintro (h | ⟨bank, passes, away⟩)
      · exact .inl (.inl h)
      · by_cases same : k.bank = b
        · exact .inl (.inr ⟨by cases k; cases same; cases passes; rfl, fun c hc => same ▸ away c hc⟩)
        · refine .inr ⟨(List.mem_cons.1 bank).resolve_left same, passes, fun c hc => ?_⟩
          rcases mem_queueCal.1 hc with hc | ⟨rfl, -⟩
          · exact away c hc
          · exact fun k => same k.symm

/-- The state of a bank's slot as it begins: the bank is taken, and its period is passed (R28). -/
def slotBegun (s : State) (b : Nat) : State :=
  { s with
    fg := { s.fg with bankFree := tset 0 s.fg.bankFree b (s.env.sc + 8) }
    bg := { s.bg with slotPeriod := tset 0 s.bg.slotPeriod b (bankPeriod s b + 1) } }

section
variable {s : State} (hu : inUse s) {b : Fin 16}
include hu

theorem scrubStep_answers {t : State} (due : scrubStepDue s b = true)
    (body : (if scrubQueued s b then { s with env := { s.env with done := { s.env.done with scrub := setBit s.env.done.scrub b true } } }
      else { s with
        env := { s.env with done := { s.env.done with scrub := setBit s.env.done.scrub b true } }
        bg := { s.bg with
          work := s.bg.work ++ [{ sec := b * 16384 + tget 0 s.bg.scrubPtr b, kind := .scrubRead }]
          scrubPtr := tset 0 s.bg.scrubPtr b ((tget 0 s.bg.scrubPtr b + 1) % 16384) } }) = t) (kept : Untouched s t) :
    exec (.scrubStepDue b) s = .next t := by
  unfold exec execScrubStepDue
  exact eventIf_answers (due := fun s => scrubStepDue s b) hu due body kept

theorem calendarSlot_answers {t : State} (held : withheld s b = true) (awake : s.env.pkAck = false)
    (free : tget 0 s.fg.bankFree b ≤ s.env.sc) (body : (if s.saf.fatal then slotBegun s b else fillSlot b (slotBegun s b)) = t)
    (kept : Untouched s t) : exec (.calendarSlot b) s = .next t := by
  have due : slotDue s b = true := by
    rw [slotDue, awake, held]
    simpa using free
  unfold exec execCalendarSlot
  exact eventIf_answers (due := fun s => slotDue s b) hu due body kept

end

theorem slotBegun_alike (s : State) (b : Nat) : CellsAlike s (slotBegun s b) := ⟨fun _ => rfl, fun _ _ => rfl⟩

/-- Settles O35, by the events: a scrub step, what fills a slot, and a calibration that falls due. -/
theorem calendarCommandsAnswer : Obligations.CalendarCommandsAnswer := by
  unfold Obligations.CalendarCommandsAnswer
  intro s b hu valid awake
  refine ⟨fun due => ?_, fun held free => ?_, fun boundary frame calib fatal due => ?_⟩
  · intro done p
    exact ⟨fun queued => scrubStep_answers hu due (if_pos queued) {},
      fun none => scrubStep_answers hu due (if_neg (Bool.eq_false_iff.1 none)) {}⟩
  · intro period fg bg row
    refine ⟨fun fatal => ?_, fun fatal work copies cals => ?_, fun n w rest mask lo hi fatal low high own before words fits clear => ?_⟩
    · exact calendarSlot_answers hu held awake free (if_pos fatal) {}
    · exact calendarSlot_answers hu held awake free
        ((if_neg (Bool.eq_false_iff.1 fatal)).trans (fillSlot_idle (s := slotBegun s b) work copies cals)) {}
    · have first : workOf (slotBegun s b) b n = some w := (workOf_head (slotBegun s b) b n).trans (congrArg List.head? own)
      have earlier (m : Nat) (h : 1 ≤ m) (k : m < n) : workOf (slotBegun s b) b m = none :=
        (workOf_head (slotBegun s b) b m).trans (congrArg List.head? (before m h k))
      have order : w.kind.order = n := by
        have mem : w ∈ row n := own ▸ List.mem_cons_self
        have both := (List.mem_filter.1 mem).2
        simp only [Bool.and_eq_true, beq_iff_eq] at both
        exact both.2
      have written := doWork_written (s := slotBegun s b) fits words fun k => clear (order.symm.trans k)
      have alike := slotBegun_alike s b
      refine ⟨_, calendarSlot_answers hu held awake free
        ((if_neg (Bool.eq_false_iff.1 fatal)).trans (fillSlot_works low high first earlier))
        (Untouched.trans (t := slotBegun s b) {} written.kept), fun k => ?_, fun k => ?_, fun loc lt k => ?_, written.banks⟩
      · rw [written.low k, alike.words]
      · rw [written.high k, alike.words]
      · rw [written.rest loc lt k, alike.cells]
  · have now : calibrationDue s = true := by
      have zero : onMultiple s s.tick.frameLog2.toNat = true := by rw [onMultiple, valid, boundary]; rfl
      rw [calibrationDue, zero, frame, calib, awake, fatal]
      rcases due with deferred | ⟨some, multiple⟩
      · simp [deferred]
      · rw [calFrame, decide_eq_true some, decide_eq_true multiple]
        rfl
    have queued := queueCalibrations_eq s
    have members := mem_queueCals (List.range 16) s.bg.cals
    generalize (List.range 16).foldl queueCal s.bg.cals = cals at queued members
    refine ⟨{ s with
      bg := { s.bg with cals := cals, calDeferred := false }
      env := { s.env with done := { s.env.done with calib := true } } }, ?_, fun k => ?_, rfl⟩
    · unfold exec execCalibrationDue
      refine eventIf_answers hu now ?_ {}
      rw [queued]
    · rw [members, List.mem_range]

end Sys2Proof.Proofs
end

section
/-! SUPPORT. Requests that recall copies, that fetch, or that are put off (04_coherence_protocol Table 4.7, R118, R119, R124, R126, R129,
03_cache_behaviour R85). -/

namespace Sys2Proof.Proofs

open Sys2Proof.Machine Sys2Proof.Safety Sys2Proof.Laws

set_option Elab.async false

/-! ### Requests that reach the home -/

/-- A request of a header for the home. -/
structure OfHeader (h : Hdr) (s : State) (r : Req) : Prop where
  port : r.port = h.port
  txn : r.txn = h.txn
  line : r.line = h.line
  agent : r.agent = h.agent
  die : r.die = h.die
  label : r.label = h.label
  outer : r.internal = false
  kind : r.kind ≠ .atom
  str : r.str = (decide (r.kind = .wrfull) && streaming s r.cls)

/-- The home's answer to a request that it takes up, with no lookup pending. -/
def homeServes (r : Req) (s : State) : State :=
  match serveLine r s with
  | some u => countReq true r u
  | none => refuse none r .nackRetry s

/-- NACK-RETRY, with no other effect than its count (R124). -/
def nacked (h : Hdr) (s : State) : State :=
  emit (answerMsg h 8 (.status .nackRetry) [] (s.env.sc + 9) .none)
    { s with coh := { s.coh with nackNow := min 1023 (s.coh.nackNow + 1) } }

theorem OfHeader.answer {h : Hdr} {s : State} {r : Req} (hr : OfHeader h s r) (op : Nat) (body : Body) (data : List CodeWord) (ready : Nat)
    (tx : TxRef) : answerMsg r.hdr op body data ready tx = answerMsg h op body data ready tx := by
  rw [answerMsg, Req.hdr, hr.port, hr.txn, hr.line, hr.agent, hr.die, hr.label]
  rfl

theorem refuse_nacks {h : Hdr} {s : State} {r : Req} (hr : OfHeader h s r) (u : State) (sc : u.env.sc = s.env.sc) :
    refuse none r .nackRetry u = emit (answerMsg h 8 (.status .nackRetry) [] (s.env.sc + 9) .none)
      { u with coh := { u.coh with nackNow := min 1023 (u.coh.nackNow + 1) } } := by
  unfold refuse
  rw [hr.outer, if_neg Bool.false_ne_true, respondSts, if_neg hr.kind, sc]
  exact (respond_answers 8 _ _ _ _ hr.outer).trans (by rw [hr.answer]; rfl)

section
variable {c : Instr} {s : State} {h : Hdr} {full : Bool} (ha : Admitted s h) (hh : hears s c)
  (framed : reqForm c = some (h, full, true, true)) (memory : kennelLine s h.line = none)
include ha hh framed memory

theorem read_reaches {kind : ReqKind} {mask : BitVec 4} {crit : BitVec 2} (form : readForm c = some (kind, h, mask, crit))
    (named : kind ≠ .upg → mask.getLsbD crit.toNat = true) (caches : kind = .upg → caching s h.agent h.die = true) {t : State}
    (body : homeRequest (mkReq s kind h mask crit 0 [] default) s = t) (kept : Untouched s t) : exec c s = .next (arrived c t) := by
  have ndf : h.ndf = 0 := by
    cases c <;> cases form <;>
      (simp only [reqForm, Option.some.injEq, Prod.mk.injEq, true_and, decide_eq_true_eq] at framed
       exact framed.2)
  refine readForm_answers hh ha form ndf ?_ kept
  unfold serveRead
  rw [memory]
  dsimp only
  by_cases upg : kind = .upg
  · rw [if_pos upg, caches upg]
    exact body
  · rw [if_neg upg, bit, named upg]
    exact body

theorem write_reaches {cw : BitVec 8} {data : List CodeWord} (form : writeForm c = some (h, cw, data)) (some : cw ≠ 0) {t : State}
    (body : homeRequest (mkReq s (if cw = 255 then .wrfull else .wrpart) h 0 0 cw data default) s = t) (kept : Untouched s t) :
    exec c s = .next (arrived c t) := by
  have size : h.ndf = ((bitsOf cw).length + 1) / 2 ∧ data.length = (bitsOf cw).length := by
    cases c <;> cases form
    case wrfull =>
      simp only [reqForm, Option.some.injEq, Prod.mk.injEq, true_and, decide_eq_true_eq] at framed
      exact framed.2
    case wrpart =>
      simp only [reqForm, Option.some.injEq, Prod.mk.injEq, true_and, decide_eq_true_eq] at framed
      exact framed.2
  refine writeForm_answers hh ha form size.1 size.2 ?_ kept
  unfold serveWrite
  rw [if_neg some, memory]
  exact body

end

/-! ### Snoops -/

/-- A snoop of a transaction (Table 4.2). -/
def snoopMsg (op dst i : Nat) (line : LineAddr) (label : Nat) (body : Body) (s : State) : OutMsg :=
  { port := if dst = 255 then .mpa else if dst % 2 = 0 then .mpa else .mpb, cls := .fwd, op := BitVec.ofNat 4 op
    dstAgent := dst, dstDie := s.env.idDie.toNat, txn := s.env.idSub ++ BitVec.ofNat 14 i, line := line
    label := label, body := body, data := [], ready := s.env.sc + 9, tx := .tracker i }

/-- Messages handed to the mesh ports. -/
def handed (ms : List OutMsg) (s : State) : State := { s with out := { s.out with egress := s.out.egress ++ ms } }

theorem snoop_handed (op dst i : Nat) (line : LineAddr) (label : Nat) (body : Body) (s : State) :
    snoop op dst i line label body s = handed [snoopMsg op dst i line label body s] s := by
  have mesh : (snoopMsg op dst i line label body s).port ≠ .xp := by
    unfold snoopMsg
    dsimp only
    split
    · nofun
    · split <;> nofun
  exact if_neg mesh

theorem snoops_handed (i : Nat) (line : LineAddr) (label : Nat) (ags : List Nat) (s : State) :
    ags.foldl (fun s a => snoop 2 a i line label (.snpInv false 0) s) s
      = handed (ags.map fun a => snoopMsg 2 a i line label (.snpInv false 0) s) s := by
  induction ags generalizing s with
  | nil => exact (congrArg (fun l => ({ s with out := { s.out with egress := l } } : State)) (List.append_nil s.out.egress)).symm
  | cons a ags ih =>
    rw [List.foldl_cons, ih, snoop_handed]
    exact congrArg (fun l => ({ s with out := { s.out with egress := l } } : State)) (List.append_assoc ..)

/-- What the snoops of a transaction have in common. -/
def IsSnoop (s : State) (line : LineAddr) (op : BitVec 4) (m : OutMsg) : Prop :=
  m.cls = .fwd ∧ m.line = line ∧ m.ready = s.env.sc + 9 ∧ m.op = op

/-- The agent that an invalidation leaves out (R129): the requester, where it becomes the owner. -/
def spared (s : State) (r : Req) : Nat :=
  if caching s r.agent r.die && (r.effective s = .rdx || r.effective s = .upg) then r.agent else 255

/-- From s to t a transaction has begun whose snoops have been sent to the agents named (R118, R129). -/
structure Recalled (s : State) (i set way : Nat) (r : Req) (asked : List Nat) (op : BitVec 4) (t : State) : Prop where
  entry : tagAt t set way = ({ tagAt s set way with dst := dirT } : TagEntry).sealed
  req : (getTracker t i).req = some r
  prev : (getTracker t i).prev = (tagAt s set way).dst
  line : (getTracker t i).line = r.line
  await : (getTracker t i).await = asked
  sentTo : (getTracker t i).sentTo = asked
  broadcast : (getTracker t i).broadcast = decide ((tagAt s set way).dst = dirSB)
  owner : (tagAt s set way).dst = dirX → (getTracker t i).owner = some (tagAt s set way).ptr0.toNat
  kept : Untouched s t
  snoops : ∃ ms, t.out.egress = s.out.egress ++ ms
    ∧ ms.map (fun m => m.dstAgent) = (if (tagAt s set way).dst = dirSB then [255] else asked)
    ∧ ∀ m ∈ ms, IsSnoop s r.line op m ∧ ((tagAt s set way).dst = dirSB → m.body = .snpInv true (spared s r))

/-- The tracker entry of a request that snoops (R118, Table 4.6). -/
def snoopTracker (r : Req) (set way : Nat) (s : State) : Tracker :=
  { newTracker r.line set way (snoopTransient (r.effective s) (tagAt s set way).dst) (some r) (tagAt s set way).dst with
    owner := if (tagAt s set way).dst = dirX then some (tagAt s set way).ptr0.toNat else none }

/-- The transaction of a request that snoops, with its tracker entry taken (R118). -/
def snooping (i : Nat) (r : Req) (set way : Nat) (s : State) : State :=
  setTag set way (fun e => { e with dst := dirT })
    { s with coh := { s.coh with trk := tput s.coh.trk i (snoopTracker r set way s) } }

theorem snooping_tracker (i : Nat) (r : Req) (set way : Nat) (s : State) :
    tfind (snooping i r set way s).coh.trk i = some (snoopTracker r set way s) := tfind_tput_self ..

/-- The operation that recalls a line from its owner (Table 4.7). -/
def forwardOp : ReqKind → BitVec 4
  | .rds => 0
  | .rdx | .upg => 1
  | .rdu => 3
  | .wrfull => 2
  | _ => 4

theorem startSnoop_none {s : State} (full : freeTracker s = none) (r : Req) (set way : Nat) : startSnoop r set way s = none := by
  unfold startSnoop
  rw [full]
  rfl

/-- What is awaited of the agents named, and the messages to them, added to a transaction that has begun. -/
theorem recalled_of {s : State} {i set way : Nat} {r : Req} {asked : List Nat} {op : BitVec 4} {ms : List OutMsg} {b : Bool}
    (hb : b = decide ((tagAt s set way).dst = dirSB))
    (dst : ms.map (fun m => m.dstAgent) = (if (tagAt s set way).dst = dirSB then [255] else asked))
    (alike : ∀ m ∈ ms, IsSnoop s r.line op m ∧ ((tagAt s set way).dst = dirSB → m.body = .snpInv true (spared s r))) {u : State}
    (trk : tfind u.coh.trk i = some { snoopTracker r set way s with await := asked, sentTo := asked, broadcast := b })
    (cache : u.cache = (snooping i r set way s).cache) (out : u.out = s.out) (kept : Untouched s u) :
    Recalled s i set way r asked op (handed ms u) := by
  have own : getTracker (handed ms u) i = { snoopTracker r set way s with await := asked, sentTo := asked, broadcast := b } := by
    rw [getTracker, tget]
    exact congrArg (·.getD default) trk
  have entry : tagAt (handed ms u) set way = ({ tagAt s set way with dst := dirT } : TagEntry).sealed := by
    have same : tagAt (handed ms u) set way = tagAt (snooping i r set way s) set way := by
      unfold tagAt
      rw [show (handed ms u).cache = _ from cache]
    rw [same, snooping, tagAt_setTag_self]
    rfl
  refine ⟨entry, ?_, ?_, ?_, ?_, ?_, ?_, fun x => ?_, kept.trans {}, ms, ?_, dst, alike⟩
  · rw [own]; rfl
  · rw [own]; rfl
  · rw [own]; rfl
  · rw [own]
  · rw [own]
  · rw [own]; exact hb
  · rw [own]; exact if_pos x
  · exact congrArg (fun o => o.egress ++ ms) out

theorem isSnoop_msg (s : State) (op dst i : Nat) (line : LineAddr) (label : Nat) (body : Body) {u : State} (env : u.env = s.env) :
    IsSnoop s line (BitVec.ofNat 4 op) (snoopMsg op dst i line label body u) :=
  ⟨rfl, rfl, congrArg (fun e => e.sc + 9) env, rfl⟩

section
variable {s : State} {r : Req} {set way i : Nat}

theorem awaitFrom_snooping (asked : List Nat) : tfind (awaitFrom i asked (snooping i r set way s)).coh.trk i
    = some { snoopTracker r set way s with await := asked, sentTo := asked } := tfind_tupd_self _ (snooping_tracker i r set way s)

/-- The one snoop that goes to the owner of a line. -/
theorem recalled_owner (x : (tagAt s set way).dst = dirX) (op : Nat) (body : Body) :
    Recalled s i set way r [(tagAt s set way).ptr0.toNat] (BitVec.ofNat 4 op) (snoop op (tagAt s set way).ptr0.toNat i r.line r.label body
      (awaitFrom i [(tagAt s set way).ptr0.toNat] (snooping i r set way s))) := by
  have apart : ¬ (tagAt s set way).dst = dirSB := by rw [x]; decide
  rw [snoop_handed]
  refine recalled_of (b := false) (by rw [decide_eq_false apart]) (by rw [if_neg apart]; rfl) (fun m hm => ?_)
    (awaitFrom_snooping [(tagAt s set way).ptr0.toNat]) rfl rfl {}
  rw [List.mem_singleton.1 hm]
  exact ⟨isSnoop_msg s op _ i r.line r.label body rfl, fun sb => absurd sb apart⟩

/-- The snoop of an owner, by the transient of its transaction (Table 4.6). -/
def snoopOwner (k : Transient) (o i : Nat) (r : Req) (s : State) : State :=
  match k with
  | .tfs => snoop 0 o i r.line r.label (.snpFwd r.agent r.die r.txn r.mask) s
  | .tfx => snoop 1 o i r.line r.label (.snpFwd r.agent r.die r.txn r.mask) s
  | .td => snoop 3 o i r.line r.label .none s
  | .tr => snoop 4 o i r.line r.label .none s
  | _ => snoop 2 o i r.line r.label (.snpInv false 0) s

/-- An invalidation that awaits an answer goes on with them; another has ended. -/
def awaitOrEnd (i : Nat) (s : State) : State := if (getTracker s i).await.isEmpty then finishTi i s else s

theorem startSnoop_eq (free : freeTracker s = some i) (r : Req) (set way : Nat) : startSnoop r set way s
    = some (if (tagAt s set way).dst = dirX
      then snoopOwner (snoopTransient (r.effective s) (tagAt s set way).dst) (tagAt s set way).ptr0.toNat i r
        (awaitFrom i [(tagAt s set way).ptr0.toNat] (snooping i r set way s))
      else awaitOrEnd i (invalidate i r.line r.label (tagAt s set way).dir (spared s r) (snooping i r set way s))) := by
  unfold startSnoop
  rw [free]
  rfl

/-- A line is recalled from its owner with the operation that its request calls for (Table 4.7). -/
theorem startSnoop_owner (free : freeTracker s = some i) (x : (tagAt s set way).dst = dirX) : ∃ u, startSnoop r set way s = some u
    ∧ Recalled s i set way r [(tagAt s set way).ptr0.toNat] (forwardOp (r.effective s)) u := by
  refine ⟨_, (startSnoop_eq free r set way).trans (congrArg some (if_pos x)), ?_⟩
  have sent (op : Nat) (body : Body) := recalled_owner (s := s) (r := r) (i := i) x op body
  rw [x]
  cases r.effective s with
  | rds => exact sent 0 _
  | rdx => exact sent 1 _
  | upg => exact sent 1 _
  | rdu => exact sent 3 _
  | wrfull => exact sent 2 _
  | wrpart => exact sent 4 _
  | atom => exact sent 4 _

/-- The agents that an invalidation asks (R129, R147). -/
def invalidated (s : State) (r : Req) (e : TagEntry) : List Nat :=
  if e.dst = dirSB then broadcastAwait s (spared s r) else e.sharers.filter fun a => a ≠ spared s r

/-- The one message of a broadcast invalidation. -/
theorem recalled_broadcast (sb : (tagAt s set way).dst = dirSB) : Recalled s i set way r (broadcastAwait s (spared s r)) 2
    (invalidate i r.line r.label (tagAt s set way).dir (spared s r) (snooping i r set way s)) := by
  have sends : invalidate i r.line r.label (tagAt s set way).dir (spared s r) (snooping i r set way s)
      = handed [snoopMsg 2 255 i r.line r.label (.snpInv true (spared s r)) (snooping i r set way s)]
        (setTracker i (fun t => { t with broadcast := true })
          (awaitFrom i (broadcastAwait s (spared s r)) (snooping i r set way s))) := (if_pos sb).trans (snoop_handed ..)
  rw [sends]
  refine recalled_of (b := true) (by rw [decide_eq_true sb]) (by rw [if_pos sb]; rfl) (fun m hm => ?_)
    (tfind_tupd_self (fun t : Tracker => { t with broadcast := true }) (awaitFrom_snooping (broadcastAwait s (spared s r)))) rfl rfl {}
  rw [List.mem_singleton.1 hm]
  exact ⟨isSnoop_msg s 2 255 i r.line r.label _ rfl, fun _ => rfl⟩

/-- The messages of an invalidation of the sharers that the pointers name. -/
theorem recalled_sharers (sb : (tagAt s set way).dst ≠ dirSB) :
    Recalled s i set way r ((tagAt s set way).sharers.filter fun a => a ≠ spared s r) 2
      (invalidate i r.line r.label (tagAt s set way).dir (spared s r) (snooping i r set way s)) := by
  let asked := (tagAt s set way).sharers.filter fun a => a ≠ spared s r
  have sends : invalidate i r.line r.label (tagAt s set way).dir (spared s r) (snooping i r set way s)
      = handed (asked.map fun a => snoopMsg 2 a i r.line r.label (.snpInv false 0) (awaitFrom i asked (snooping i r set way s)))
        (awaitFrom i asked (snooping i r set way s)) := (if_neg sb).trans (snoops_handed ..)
  rw [sends]
  refine recalled_of (b := false) (by rw [decide_eq_false sb]) ?_ (fun m hm => ?_) (awaitFrom_snooping asked) rfl rfl {}
  · rw [if_neg sb, List.map_map]
    exact List.map_id _
  · obtain ⟨a, -, rfl⟩ := List.mem_map.1 hm
    exact ⟨isSnoop_msg s 2 a i r.line r.label _ rfl, fun k => absurd k sb⟩

/-- The copies of a line in SP or SB are invalidated (Table 4.7). -/
theorem startSnoop_sharers (free : freeTracker s = some i) (x : (tagAt s set way).dst ≠ dirX)
    (some' : invalidated s r (tagAt s set way) ≠ []) : ∃ u, startSnoop r set way s = some u
      ∧ Recalled s i set way r (invalidated s r (tagAt s set way)) 2 u := by
  have goes : Recalled s i set way r (invalidated s r (tagAt s set way)) 2
      (invalidate i r.line r.label (tagAt s set way).dir (spared s r) (snooping i r set way s)) := by
    unfold invalidated
    split
    · next sb => exact recalled_broadcast sb
    · next sb => exact recalled_sharers sb
  have waits : ((getTracker (invalidate i r.line r.label (tagAt s set way).dir (spared s r) (snooping i r set way s)) i).await).isEmpty
      = false := by
    rw [goes.await]
    exact List.isEmpty_eq_false_iff.2 some'
  refine ⟨_, (startSnoop_eq free r set way).trans (congrArg some ((if_neg x).trans ?_)), goes⟩
  exact if_neg (by rw [waits]; decide)

end

/-! ### Requests that recall -/

/-- What a recall says of tags, trackers and messages stands while these do. -/
theorem Recalled.stands {s u v : State} {i set way : Nat} {r : Req} {asked : List Nat} {op : BitVec 4}
    (h : Recalled s i set way r asked op u) (tags : v.cache.tags = u.cache.tags) (trk : v.coh.trk = u.coh.trk)
    (out : v.out.egress = u.out.egress) (kept : Untouched s v) : Recalled s i set way r asked op v := by
  have entry : tagAt v set way = tagAt u set way := by rw [tagAt, tagAt, tags]
  have tracker : getTracker v i = getTracker u i := by rw [getTracker, getTracker, trk]
  exact ⟨entry ▸ h.entry, tracker ▸ h.req, tracker ▸ h.prev, tracker ▸ h.line, tracker ▸ h.await, tracker ▸ h.sentTo,
    tracker ▸ h.broadcast, tracker ▸ h.owner, kept, out ▸ h.snoops⟩

theorem Recalled.counted {s u : State} {i set way : Nat} {r : Req} {asked : List Nat} {op : BitVec 4}
    (h : Recalled s i set way r asked op u) : Recalled s i set way r asked op (countReq true r u) := by
  have same : countReq true r u = countStore r.cls (decide (r.kind = .wrfull)) u := rfl
  have eq := countStore_eq r.cls (decide (r.kind = .wrfull)) u
  refine h.stands ?_ ?_ ?_ (same ▸ countStore_untouched _ _ h.kept) <;> rw [same, eq]

/-- The agents whose copies a request recalls. -/
def recalledFrom (s : State) (r : Req) (e : TagEntry) : List Nat := if e.dst = dirX then [e.ptr0.toNat] else invalidated s r e

/-- The operation that recalls the copies of a line (Table 4.7). -/
def recallOp (s : State) (r : Req) (e : TagEntry) : BitVec 4 := if e.dst = dirX then forwardOp (r.effective s) else 2

theorem startSnoop_recalls {s : State} {r : Req} {set way i : Nat} (free : freeTracker s = some i)
    (some' : recalledFrom s r (tagAt s set way) ≠ []) : ∃ u, startSnoop r set way s = some u
      ∧ Recalled s i set way r (recalledFrom s r (tagAt s set way)) (recallOp s r (tagAt s set way)) u := by
  unfold recalledFrom recallOp at *
  split at some'
  · next x =>
    rw [if_pos x, if_pos x]
    exact startSnoop_owner free x
  · next x =>
    rw [if_neg x, if_neg x]
    exact startSnoop_sharers free x some'

section
variable {s : State} {h : Hdr} {r : Req} {way : Nat} (of : OfHeader h s r) (rest : AtRest s h.line) (found : findWay s h.line = some way)
  (sound : (r.kind.isRead && namesPoison s (lineSet h.line) way (r.mask &&& (tagAt s (lineSet h.line) way).sv)) = false)
  (copies : needsSnoop s r (tagAt s (lineSet h.line) way) = true)
include of rest found sound copies

theorem homeRequest_recalls : homeRequest r s = match startSnoop r (lineSet h.line) way s with
    | some u => countReq true r u
    | none => refuse none r .nackRetry s := by
  have line := of.line
  rw [← line] at rest found sound copies ⊢
  rw [homeRequest_atRest rest of.str, serveLine_found rest found, sound, if_neg Bool.false_ne_true, copies, if_pos rfl] <;> rfl

theorem homeRequest_full (full : freeTracker s = none) : homeRequest r s = nacked h s ∧ Untouched s (nacked h s) := by
  refine ⟨?_, emit_untouched _ {}⟩
  rw [homeRequest_recalls of rest found sound copies, startSnoop_none full]
  exact refuse_nacks of s rfl

theorem homeRequest_recalled {i : Nat} (free : freeTracker s = some i)
    (some' : recalledFrom s r (tagAt s (lineSet h.line) way) ≠ []) : ∃ u, homeRequest r s = u
      ∧ Recalled s i (lineSet h.line) way r (recalledFrom s r (tagAt s (lineSet h.line) way))
        (recallOp s r (tagAt s (lineSet h.line) way)) u := by
  obtain ⟨u, start, goes⟩ := startSnoop_recalls free some'
  refine ⟨countReq true r u, ?_, goes.counted⟩
  rw [homeRequest_recalls of rest found sound copies, start]

end

end Sys2Proof.Proofs
end

section
/-! SUPPORT. Requests for a line that is absent, and for one with a transaction active (03_cache_behaviour R85, R86, R89;
04_coherence_protocol R118, R124, R126). -/

namespace Sys2Proof.Proofs

open Sys2Proof.Machine Sys2Proof.Safety Sys2Proof.Laws

set_option Elab.async false

/-! ### Fetches -/

/-- A way with nothing in it, and what a fill still brings it. -/
def wayEmptied (set way : Nat) (s : State) : State :=
  detachWay set way { s with cache := { s.cache with tags := terase s.cache.tags (set * 16 + way) } }

theorem expel_empty {s : State} {set way : Nat} (empty : (tagAt s set way).tv = false) (cls label : Nat) (miss : Option Nat) :
    expel set way cls label miss s = wayEmptied set way s := by
  unfold expel
  dsimp only
  rw [empty]
  rfl

/-- An invalid way is taken as it is (R89). -/
theorem makeWay_empty {s : State} {line : LineAddr} {way need : Nat}
    (hw : (candidates s (lineSet line)).find? (fun w => !(tagAt s (lineSet line) w).tv) = some way) (room : need ≤ trackersLeft s)
    (cls label i : Nat) : makeWay line cls label i need s = some (way, wayEmptied (lineSet line) way s) := by
  have empty : (tagAt s (lineSet line) way).tv = false := by simpa using List.find?_some hw
  have chosen : chooseWay (lineSet line) s = (some way, s) := by
    unfold chooseWay
    dsimp only
    rw [hw]
  have alone : reclaimEntry (lineSet line) way s = s := by
    unfold reclaimEntry
    dsimp only
    rw [empty]
    rfl
  have few : ¬ trackersLeft s < need + b01 (needsTb s (lineSet line) way) := by
    rw [needsTb, empty]
    exact Nat.not_lt.2 room
  unfold makeWay
  dsimp only
  rw [chosen]
  dsimp only
  rw [alone, if_neg few, expel_empty empty]

/-- A miss entry that awaits the sectors named of a line (R85). -/
def missFor (j way : Nat) (r : Req) (missing : BitVec 4) (held : Bool) : Miss :=
  { line := r.line, way := way, cls := r.cls, asked := missing, got := 0, pois := 0, buf := [], merge := [], tracker := some j
    joined := [], granted := false, owed := [], since := [], held := held, uncached := false }

/-- The tracker entry of a request whose line has its way, ahead of the fetch (R118). -/
def fetchTracker (way : Nat) (r : Req) : Tracker :=
  { newTracker r.line (lineSet r.line) way .tm (some r) dirU with owner := none }

/-- A request whose line has its way and a tracker entry j (R89, R118). -/
def wayTaken (j way : Nat) (r : Req) (s : State) : State :=
  let e := wayEmptied (lineSet r.line) way s
  setTracker j (fun x => { x with prev := dirU, next := none })
    { e with
      cache := { e.cache with tags := tput e.cache.tags (lineSet r.line * 16 + way) (newEntry r.line).sealed }
      coh := { e.coh with trk := tput e.coh.trk j (fetchTracker way r) } }

theorem fetchAbsent_opens {s : State} {r : Req} {i j way : Nat} (miss : freeMiss s = some i) (free : freeTracker s = some j)
    (room : s.coh.trk.length < 48)
    (hw : (candidates s (lineSet r.line)).find? (fun w => !(tagAt s (lineSet r.line) w).tv) = some way) : fetchAbsent none r s
      = some (seedMiss i r (r.missing 0) 0
        (openMiss i j way r (r.missing 0) (victimIn (wayTaken j way r s) i) false (wayTaken j way r s))) := by
  have needed : b01 (none : Option Nat).isNone ≤ trackersLeft s := Nat.le_sub_of_add_le (by rw [Nat.add_comm]; exact room)
  have tracker : freeTracker (wayEmptied (lineSet r.line) way s) = some j := free
  unfold fetchAbsent
  rw [miss]
  dsimp only
  rw [makeWay_empty hw needed]
  unfold ensureTracker
  dsimp only [Option.bind_some]
  rw [show freeTracker { wayEmptied (lineSet r.line) way s with
    cache := { (wayEmptied (lineSet r.line) way s).cache with
      tags := tput (wayEmptied (lineSet r.line) way s).cache.tags (lineSet r.line * 16 + way) (newEntry r.line).sealed } }
    = some j from tracker]
  rfl

/-- Sectors named with the critical one come in its order, the critical one first (R78, R86). -/
theorem sectorOrder_critical : ∀ (mask : BitVec 4) (crit : BitVec 2), mask.getLsbD crit.toNat = true →
    (sectorOrder mask crit.toNat).headD 0 = crit.toNat := by decide

/-- The fetch of the sectors that a read names has begun. -/
structure FetchBegun (s : State) (i j way : Nat) (r : Req) (t : State) : Prop where
  line : (getMiss t i).line = r.line
  asked : (getMiss t i).asked = r.mask
  tracker : (getMiss t i).tracker = some j
  place : (getMiss t i).way = way
  tr : (getTracker t j).tr = .tm
  req : (getTracker t j).req = some r
  entry : tagAt t (lineSet r.line) way = (newEntry r.line).sealed
  xpq : t.fg.xpq = s.fg.xpq ++ [xpReadMsg i r.line r.cls r.mask (2 * r.crit.toNat) s]
  kept : Untouched s t

theorem openMiss_begins {s : State} {r : Req} {i j way : Nat} (read : r.kind = .rds ∨ r.kind = .rdx ∨ r.kind = .rdu)
    (named : r.mask.getLsbD r.crit.toNat = true) (held : Bool) :
    FetchBegun s i j way r (openMiss i j way r (r.missing 0) held false (wayTaken j way r s)) := by
  have missing : r.missing 0 = r.mask := by
    have all : r.mask &&& ~~~(0 : BitVec 4) = r.mask := by generalize r.mask = m; decide +revert
    rcases read with k | k | k <;> (rw [Req.missing, k]; exact all)
  have first : r.critWord r.mask = 2 * r.crit.toNat := by
    have plain : r.kind ≠ .atom := by rcases read with k | k | k <;> (rw [k]; decide)
    rw [Req.critWord, if_neg plain, sectorOrder_critical _ _ named]
  have some' : r.mask ≠ 0 := fun z => by rw [z] at named; simp at named
  have trk : tfind (wayTaken j way r s).coh.trk j = some { fetchTracker way r with prev := dirU, next := none } :=
    tfind_tupd_self (fun x : Tracker => { x with prev := dirU, next := none }) (tfind_tput_self ..)
  rw [openMiss, missing, first, xpRead_eq _ _ _ _ some']
  refine ⟨?_, ?_, ?_, ?_, ?_, ?_, ?_, rfl, {}⟩
  · exact congrArg Miss.line (tget_tput_self default _ i (missFor j way r r.mask held))
  · exact congrArg Miss.asked (tget_tput_self default _ i (missFor j way r r.mask held))
  · exact congrArg Miss.tracker (tget_tput_self default _ i (missFor j way r r.mask held))
  · exact congrArg Miss.way (tget_tput_self default _ i (missFor j way r r.mask held))
  · exact congrArg (fun o => (Option.getD o default).tr) (tfind_tupd_self (fun t : Tracker => { t with missIndex := some i }) trk)
  · exact congrArg (fun o => (Option.getD o default).req) (tfind_tupd_self (fun t : Tracker => { t with missIndex := some i }) trk)
  · exact tget_tput_self default _ (lineSet r.line * 16 + way) (newEntry r.line).sealed

/-- What a fetch has begun stands while the streaming counts change. -/
theorem FetchBegun.counted {s u : State} {i j way : Nat} {r : Req} (h : FetchBegun s i j way r u) :
    FetchBegun s i j way r (countReq true r u) := by
  have same : countReq true r u = countStore r.cls (decide (r.kind = .wrfull)) u := rfl
  have kept := countStore_untouched r.cls (decide (r.kind = .wrfull)) h.kept
  rw [same]
  obtain ⟨line, asked, tracker, place, tr, req, entry, xpq, -⟩ := h
  have eq := countStore_eq r.cls (decide (r.kind = .wrfull)) u
  generalize countStore r.cls (decide (r.kind = .wrfull)) u = v at eq kept
  generalize v.cache.streamCnt = cnt at eq
  subst eq
  exact ⟨line, asked, tracker, place, tr, req, entry, xpq, kept⟩

section
variable {s : State} {h : Hdr} {r : Req} (of : OfHeader h s r)
include of

/-- A read of an absent line takes an invalid way and begins the fetch of its sectors (R85, R89). -/
theorem homeRequest_fetches {i j way : Nat} (rest : AtRest s h.line) (absent : findWay s h.line = none)
    (read : r.kind = .rds ∨ r.kind = .rdx ∨ r.kind = .rdu) (named : r.mask.getLsbD r.crit.toNat = true)
    (miss : freeMiss s = some i) (free : freeTracker s = some j) (room : s.coh.trk.length < 48)
    (hw : (candidates s (lineSet h.line)).find? (fun w => !(tagAt s (lineSet h.line) w).tv) = some way) :
    ∃ u, homeRequest r s = u ∧ FetchBegun s i j way r u := by
  have line := of.line
  rw [← line] at rest absent hw
  have on : cacheOff s = false := by
    have mem : way ∈ openWays s := (List.mem_filter.1 (List.mem_of_find?_eq_some hw)).1
    exact List.isEmpty_eq_false_iff.2 (List.ne_nil_of_mem mem)
  have plain : ¬ (r.kind = .atom ∧ atomOff s) := fun k => by rcases read with q | q | q <;> (rw [q] at k; exact nomatch k.1)
  have serves : serveHome none r s = fetchAbsent none r s := by
    unfold serveHome
    dsimp only
    rw [if_neg plain, absent]
    dsimp only
    rcases read with k | k | k <;>
      (rw [k]; dsimp only; rw [on, if_neg Bool.false_ne_true]; exact fromBuffer_unbuffered rest.fetch none _)
  have still (u : State) : seedMiss i r (r.missing 0) 0 u = u := by
    unfold seedMiss
    rcases read with k | k | k <;> rw [k]
  refine ⟨_, ?_, (openMiss_begins read named (victimIn (wayTaken j way r s) i)).counted⟩
  refine (homeRequest_atRest rest of.str).trans ?_
  rw [serveLine_absent absent, serves, fetchAbsent_opens miss free room hw, still]

/-! ### Requests that are put off -/

/-- A line with a transaction active is reserved, and the request is put off (R124, R126). -/
theorem homeRequest_active (bank : s.coh.muzBanks.getLsbD (tagBank (lineSet h.line)) = false)
    (tags : ∀ w ∈ openWays s, (tagAt s (lineSet h.line) w).passes = true) (resv : ∀ v ∈ s.coh.resv, v.line ≠ h.line)
    (leave : leaving s h.line = false) (fill : filling s h.line = false) (free : trackerOf s h.line = none)
    (active : ∃ a ∈ s.coh.active, a.line = h.line) (room : s.coh.resv.length < 64) : homeRequest r s
      = nacked h { s with coh := { s.coh with
          resv := s.coh.resv ++ [{ line := h.line, agent := h.agent, die := h.die, running := none }] } } := by
  have same : { r with str := decide (r.kind = .wrfull) && streaming s r.cls } = r := by rw [← of.str]
  have line := of.line
  have busy : (s.coh.active.any fun a => a.line == h.line) = true := by
    obtain ⟨a, mem, eq⟩ := active
    exact List.any_eq_true.2 ⟨a, mem, beq_iff_eq.2 eq⟩
  have now : mustWait true s r = false := by
    have on : lineActive s h.line = true := by rw [lineActive, busy, Bool.or_true]
    rw [mustWait, awaitsFill, line, leave, fill, on]
    simp
  have off : bit s.coh.muzBanks (tagBank (lineSet h.line)) = false := bank
  have takes : nackActive r s = nacked h { s with coh := { s.coh with
      resv := s.coh.resv ++ [{ line := h.line, agent := h.agent, die := h.die, running := none }] } } := by
    unfold nackActive
    rw [line, resvOf_unnamed resv, of.outer, decide_eq_true room, of.agent, of.die]
    exact refuse_nacks of _ rfl
  rw [homeRequest]
  dsimp only
  rw [same, lookUp_passes (line ▸ tags)]
  unfold admitRequest
  rw [line, off, free]
  dsimp only
  rw [now, reservedForOther_unnamed (line ▸ resv), busy]
  exact takes

end

/-! ### The answers -/

theorem ofHeader_mkReq (s : State) (kind : ReqKind) (h : Hdr) (mask : BitVec 4) (crit : BitVec 2) (cw : BitVec 8) (data : List CodeWord)
    (plain : kind ≠ .atom) (str : Bool) (hs : str = (decide (kind = .wrfull) && streaming s (classOf s h.line h.label))) :
    OfHeader h s { mkReq s kind h mask crit cw data default with str := str } := ⟨rfl, rfl, rfl, rfl, rfl, rfl, rfl, plain, hs⟩

theorem arrived_untouched (c : Instr) {s u : State} (h : Untouched s u) : Untouched s (arrived c u) := by
  unfold arrived
  split
  · exact registered_untouched _ h
  · exact h

theorem readForm_kind {c : Instr} {kind : ReqKind} {h : Hdr} {mask : BitVec 4} {crit : BitVec 2}
    (form : readForm c = some (kind, h, mask, crit)) : kind = .rds ∨ kind = .rdx ∨ kind = .rdu ∨ kind = .upg := by
  cases c <;> cases form <;> simp

/-- A request whose line must be recalled: NACK-RETRY where no tracker entry is free, else its transaction begins. -/
def RecallAnswers (c : Instr) (s : State) (h : Hdr) (way : Nat) (r : Req) : Prop :=
  (freeTracker s = none → exec c s = .next (arrived c (nacked h s)))
  ∧ ∀ i, freeTracker s = some i → recalledFrom s r (tagAt s (lineSet h.line) way) ≠ [] → ∃ t, exec c s = .next t
    ∧ Recalled s i (lineSet h.line) way r (recalledFrom s r (tagAt s (lineSet h.line) way))
      (recallOp s r (tagAt s (lineSet h.line) way)) t

theorem recallAnswers {c : Instr} {s : State} {h : Hdr} {r : Req} {way : Nat} (of : OfHeader h s r) (rest : AtRest s h.line)
    (found : findWay s h.line = some way)
    (sound : (r.kind.isRead && namesPoison s (lineSet h.line) way (r.mask &&& (tagAt s (lineSet h.line) way).sv)) = false)
    (copies : needsSnoop s r (tagAt s (lineSet h.line) way) = true)
    (reaches : ∀ t, homeRequest r s = t → Untouched s t → exec c s = .next (arrived c t)) : RecallAnswers c s h way r := by
  refine ⟨fun full => ?_, fun i free some' => ?_⟩
  · obtain ⟨body, kept⟩ := homeRequest_full of rest found sound copies full
    exact reaches _ body kept
  · obtain ⟨u, body, goes⟩ := homeRequest_recalled of rest found sound copies free some'
    have same := arrived_same c u
    exact ⟨_, reaches u body goes.kept, goes.stands (by rw [same.cache])
      (by rw [same.coh]) (by rw [same.out]) (arrived_untouched c goes.kept)⟩

theorem FetchBegun.arrived {c : Instr} {s u : State} {i j way : Nat} {r : Req} (h : FetchBegun s i j way r u) :
    FetchBegun s i j way r (arrived c u) := by
  have same := arrived_same c u
  have kept := arrived_untouched c h.kept
  obtain ⟨line, asked, tracker, place, tr, req, entry, xpq, -⟩ := h
  refine ⟨?_, ?_, ?_, ?_, ?_, ?_, ?_, ?_, kept⟩
  · rw [getMiss, same.cache]; exact line
  · rw [getMiss, same.cache]; exact asked
  · rw [getMiss, same.cache]; exact tracker
  · rw [getMiss, same.cache]; exact place
  · rw [getTracker, same.coh]; exact tr
  · rw [getTracker, same.coh]; exact req
  · rw [tagAt, same.cache]; exact entry
  · rw [same.fg]; exact xpq

/-- Settles O40: the request reaches the home; on a line at rest it takes a tracker entry and recalls the copies, or takes an invalid
way and fetches, and on another it is put off. -/
theorem homeRecallsAndFetches : Obligations.HomeRecallsAndFetches := by
  unfold Obligations.HomeRecallsAndFetches
  intro c s h way full ha hh framed set e nack recalled
  have recalls {r : Req} (answers : RecallAnswers c s h way r) (agent : r.agent = h.agent) (die : r.die = h.die)
      (line : r.line = h.line) : recalled r := by
    refine ⟨answers.1, fun i free some' => ?_⟩
    have spares : spared s r = if caching s h.agent h.die && (r.effective s = .rdx || r.effective s = .upg) then h.agent else 255 := by
      rw [spared, agent, die]
    have asked : recalledFrom s r e = if e.dst = dirX then [e.ptr0.toNat] else if e.dst = dirSB then broadcastAwait s
        (if caching s h.agent h.die && (r.effective s = .rdx || r.effective s = .upg) then h.agent else 255)
        else e.sharers.filter fun a => a ≠
          (if caching s h.agent h.die && (r.effective s = .rdx || r.effective s = .upg) then h.agent else 255) := by
      rw [recalledFrom, invalidated, spares]
    obtain ⟨t, runs, goes⟩ := answers.2 i free (asked ▸ some')
    obtain ⟨entry, req, prev, of, await, sent, broadcast, owner, -, ms, egress, dst, alike⟩ := goes
    refine ⟨t, runs, entry, req, prev, of.trans line, await.trans asked, sent.trans asked, broadcast, owner, ms, egress,
      dst.trans (by rw [← asked]), fun m hm => ?_⟩
    obtain ⟨⟨cls, same, ready, op⟩, body⟩ := alike m hm
    refine ⟨cls, same.trans line, ready, op.trans ?_, fun sb => (body sb).trans (by rw [spares])⟩
    by_cases x : e.dst = dirX
    · rw [recallOp, if_pos x, if_neg (not_not.2 x)]
      rfl
    · rw [recallOp, if_neg x, if_pos x]
  refine ⟨?_, ?_⟩
  · intro kind mask crit form named caches r
    have kinds := readForm_kind form
    have of : OfHeader h s r := by
      refine ofHeader_mkReq s kind h mask crit 0 [] ?_ false ?_ <;> rcases kinds with k | k | k | k <;> (rw [k]; simp)
    refine ⟨fun rest found sound copies => ?_, fun rest absent reads i j miss free room hw => ?_,
      fun memory bank tags resv leave fill free active room => ?_⟩
    · refine recalls (recallAnswers of rest found ?_ copies fun t body kept =>
        read_reaches ha hh framed rest.memory form named caches body kept) rfl rfl rfl
      exact Bool.and_eq_false_imp.2 fun _ => sound
    · have read : kind = .rds ∨ kind = .rdx ∨ kind = .rdu := by
        rcases kinds with k | k | k | k
        · exact .inl k
        · exact .inr (.inl k)
        · exact .inr (.inr k)
        · exact absurd k reads
      obtain ⟨u, body, begun⟩ := homeRequest_fetches of rest absent read (named reads) miss free room hw
      have done := begun.arrived (c := c)
      exact ⟨arrived c u, read_reaches ha hh framed rest.memory form named caches body begun.kept, done.line, done.asked, done.tracker,
        done.place, done.tr, done.req, done.entry, _, done.xpq, rfl, rfl, rfl, rfl, rfl, rfl⟩
    · exact read_reaches ha hh framed memory form named caches
        (homeRequest_active of bank tags resv leave fill free active room) (emit_untouched _ {})
  · intro cw data form some' rest found r copies
    have of : OfHeader h s r := by
      have kinds : (if cw = 255 then ReqKind.wrfull else .wrpart) ≠ .atom
          ∧ decide ((if cw = 255 then ReqKind.wrfull else .wrpart) = .wrfull) = decide (cw = 255) := by
        split
        · next all => exact ⟨nofun, by rw [decide_eq_true all]; rfl⟩
        · next all => exact ⟨nofun, by rw [decide_eq_false all]; rfl⟩
      exact ofHeader_mkReq s _ h 0 0 cw data kinds.1 _ (by rw [kinds.2])
    have written : r.kind.isRead = false := by
      show (if cw = 255 then ReqKind.wrfull else .wrpart).isRead = false
      split <;> rfl
    refine recalls (recallAnswers of rest found (by rw [written]; rfl) copies fun t body kept =>
      write_reaches ha hh framed rest.memory form some' body kept) rfl rfl rfl

end Sys2Proof.Proofs
end

section
/-! SUPPORT. Lines that are poisoned (05_coherence_failures R139, R150, R406): the marks, the entry, the counts and the report. -/

namespace Sys2Proof.Proofs

open Sys2Proof.Machine Sys2Proof.Safety Sys2Proof.Laws

set_option Elab.async false

/-! ### Poison marks -/

theorem queueMarks_work (sec : Nat) (mask : BitVec 2) (s : State) :
    queueMarks sec mask s = { s with bg := { s.bg with work := (queueMarks sec mask s).bg.work } } := by
  unfold queueMarks
  dsimp only
  split <;> rfl

/-- A piece of work marks a code word. -/
def BgWork.marks (w : BgWork) (loc : Nat) : Prop := w.sec = loc / 2 ∧ ∃ m, w.kind = .marks m ∧ m.getLsbD (loc % 2) = true

theorem markPending_iff {s : State} {loc : Nat} : markPending s loc = true ↔ ∃ w ∈ s.bg.work, BgWork.marks w loc := by
  simp only [markPending, List.any_eq_true, Bool.and_eq_true, beq_iff_eq, BgWork.marks]
  refine exists_congr fun w => and_congr_right fun _ => and_congr_right fun _ => ?_
  cases w.kind <;> simp [bit]

/-- Queued marks name at least what they named before. -/
theorem queueMarks_keeps {s : State} {loc : Nat} (sec : Nat) (mask : BitVec 2) (h : markPending s loc = true) :
    markPending (queueMarks sec mask s) loc = true := by
  obtain ⟨w, hw, at', m, kind, named⟩ := markPending_iff.1 h
  refine markPending_iff.2 ?_
  unfold queueMarks
  dsimp only
  split
  · refine ⟨_, List.mem_map_of_mem hw, ?_⟩
    rw [kind]
    dsimp only
    split
    · exact ⟨at', _, rfl, by simp [named]⟩
    · exact ⟨at', m, kind, named⟩
  · exact ⟨w, List.mem_append_left _ hw, at', m, kind, named⟩

theorem poisonSector_marks (sec k : Nat) (hk : k < 2) (s : State) : markPending (poisonSector sec s) (2 * sec + k) = true := by
  have half : (2 * sec + k) / 2 = sec := by omega
  have rest : (2 * sec + k) % 2 = k := by omega
  have both : ∀ (k : Fin 2) (m : BitVec 2), (m ||| 3).getLsbD k = true := by decide
  have three : (3 : BitVec 2).getLsbD k = true := by
    have := both ⟨k, hk⟩ 0
    simpa using this
  refine markPending_iff.2 ?_
  unfold poisonSector queueMarks
  dsimp only
  split
  · next some =>
    obtain ⟨w, hw, same⟩ := List.any_eq_true.1 some
    simp only [Bool.and_eq_true, beq_iff_eq] at same
    obtain ⟨at', kind⟩ := same
    refine ⟨_, List.mem_map_of_mem hw, ?_⟩
    cases hk' : w.kind with
    | marks m =>
      dsimp only
      rw [if_pos at']
      exact ⟨at'.trans half.symm, _, rfl, by rw [rest]; exact both ⟨k, hk⟩ m⟩
    | _ => rw [hk'] at kind; cases kind
  · exact ⟨_, List.mem_append_right _ (List.mem_singleton_self _), half.symm, 3, rfl, by rw [rest]; exact three⟩

theorem poisonSectors (l : List Nat) (s : State) :
    l.foldl (fun s x => poisonSector x s) s
      = { s with bg := { s.bg with work := (l.foldl (fun s x => poisonSector x s) s).bg.work } }
    ∧ (∀ loc, markPending s loc = true → markPending (l.foldl (fun s x => poisonSector x s) s) loc = true)
    ∧ ∀ x ∈ l, ∀ k < 2, markPending (l.foldl (fun s x => poisonSector x s) s) (2 * x + k) = true := by
  induction l generalizing s with
  | nil => exact ⟨rfl, fun _ h => h, nofun⟩
  | cons y l ih =>
    obtain ⟨same, kept, marked⟩ := ih (poisonSector y s)
    refine ⟨?_, fun loc h => kept loc (queueMarks_keeps y 3 h), fun x hx k hk => ?_⟩
    · have one := queueMarks_work y 3 s
      refine same.trans ?_
      exact congrArg (fun v : State => { v with bg := { v.bg with
        work := (l.foldl (fun s x => poisonSector x s) (poisonSector y s)).bg.work } }) one
    · rcases List.mem_cons.1 hx with rfl | hx
      · exact kept _ (poisonSector_marks x k hk s)
      · exact marked x hx k hk

/-! ### A poisoned line -/

/-- The entry of a line that is poisoned: every sector valid and dirty (R150). -/
def poisonedEntry (e : TagEntry) : TagEntry := { e with tv := true, sv := 15, sd := 15 }

/-- From s to t the line in a set and way is poisoned: its entry, the marks, and the count (R150). -/
structure LinePoisoned (set way : Nat) (s t : State) : Prop where
  entry : tagAt t set way = (poisonedEntry (tagAt s set way)).sealed
  others : ∀ a v, a * 16 + v ≠ set * 16 + way → tagAt t a v = tagAt s a v
  cache : t.cache = { s.cache with tags := t.cache.tags }
  marks : ∀ x ∈ lineSecs set way, ∀ k < 2, markPending t (2 * x + k) = true
  keeps : ∀ loc, markPending s loc = true → markPending t loc = true
  coh : t.coh = { s.coh with poisonLines := min 65535 (s.coh.poisonLines + 1) }
  env : t.env = s.env
  out : t.out = s.out
  fg : t.fg = s.fg
  reports : s.saf.queue.length < 64 → ∃ b, t.saf.queue = s.saf.queue ++ [b] ∧ fld b 80 8 = 0x25
  kept : Untouched s t

theorem reported_queue {s : State} (h : s.saf.queue.length < 64) (ev react muz detail : Nat) :
    ∃ r, (report ev react muz detail s).saf.queue = s.saf.queue ++ [r] ∧ fld r 80 8 = ev % 2 ^ 8
      ∧ ∀ lo w, lo + w ≤ 128 → fld r (128 + lo) w = detail / 2 ^ lo % 2 ^ w := by
  obtain ⟨r, fields, same⟩ := report_room h ev react muz detail
  refine ⟨r, by rw [same], ?_, fun lo w fit => ?_⟩
  · rw [fld_eq, fields.ev, BitVec.toNat_ofNat]
  · have part : r.extractLsb' (128 + lo) w = (r.extractLsb' 128 128).extractLsb' lo w := by
      apply BitVec.eq_of_getLsbD_eq
      intro j hj
      simp only [BitVec.getLsbD_extractLsb', hj, decide_true, Bool.true_and, Nat.add_assoc]
      simp [show lo + j < 128 by omega]
    rw [fld_eq, part, fields.detail, BitVec.extractLsb'_toNat, BitVec.toNat_ofNat, Nat.shiftRight_eq_div_pow]
    exact mod_div_mod fit

/-- A poisoned line is counted (R150, R371). -/
def linePoisonCounted (s : State) : State :=
  { s with
    coh := { s.coh with poisonLines := satAdd 65535 s.coh.poisonLines 1 }
    bg := { s.bg with tel := { s.bg.tel with poisonLines := satAdd 65535 s.bg.tel.poisonLines 1 } } }

theorem poisonLine_eq (set way trans : Nat) {cause : Nat} (hc : cause ≠ 4) (s : State) : poisonLine set way cause trans s
    = report 0x25 2 0 (detailL (lineOf (tagAt s set way).tag set) trans 0 [] cause)
      (linePoisonCounted (markLine set way (setTag set way poisonedEntry s))) := by
  unfold poisonLine
  dsimp only
  rw [if_neg hc]
  rfl

/-- What the marks and the count of a poisoned line change. -/
theorem markLine_counted (set way : Nat) (u : State) : ∃ bg, linePoisonCounted (markLine set way u)
      = { u with coh := { u.coh with poisonLines := min 65535 (u.coh.poisonLines + 1) }, bg := bg }
    ∧ Untouched u (linePoisonCounted (markLine set way u))
    ∧ (∀ x ∈ lineSecs set way, ∀ k < 2, markPending (linePoisonCounted (markLine set way u)) (2 * x + k) = true)
    ∧ ∀ loc, markPending u loc = true → markPending (linePoisonCounted (markLine set way u)) loc = true := by
  have pending (m : State) (loc : Nat) : markPending (linePoisonCounted m) loc = markPending m loc := rfl
  have marks := poisonSectors (lineSecs set way) u
  rw [show (lineSecs set way).foldl (fun s x => poisonSector x s) u = markLine set way u from rfl] at marks
  generalize markLine set way u = m at marks ⊢
  obtain ⟨same, kept, marked⟩ := marks
  refine ⟨(linePoisonCounted m).bg, ?_, ?_, fun x hx k hk => ?_, fun loc h => ?_⟩
  · rw [same]
    rfl
  · rw [same]
    exact {}
  · rw [pending]
    exact marked x hx k hk
  · rw [pending]
    exact kept loc h

theorem poisonLine_poisons (set way trans : Nat) {cause : Nat} (hc : cause ≠ 4) (s : State) :
    LinePoisoned set way s (poisonLine set way cause trans s) := by
  rw [poisonLine_eq set way trans hc]
  generalize detailL (lineOf (tagAt s set way).tag set) trans 0 [] cause = d
  obtain ⟨bg, same, kept, marked, keeps⟩ := markLine_counted set way (setTag set way poisonedEntry s)
  have entry := tagAt_setTag_self s set way poisonedEntry
  have others {a v : Nat} (h : a * 16 + v ≠ set * 16 + way) := tagAt_setTag_ne s poisonedEntry h
  have tags : (setTag set way poisonedEntry s)
      = { s with cache := { s.cache with tags := (setTag set way poisonedEntry s).cache.tags } } := rfl
  generalize linePoisonCounted (markLine set way (setTag set way poisonedEntry s)) = v at *
  generalize setTag set way poisonedEntry s = u at *
  have saf := report_saf 0x25 2 0 d v
  have room (h : v.saf.queue.length < 64) := reported_queue h 0x25 2 0 d
  have reported : Untouched v (report 0x25 2 0 d v) := report_untouched _ _ _ _ {}
  generalize report 0x25 2 0 d v = t at *
  have pending {loc : Nat} : markPending t loc = markPending v loc := by rw [saf]; rfl
  have us : Untouched s u := by rw [tags]; exact {}
  have fields : t.cache = u.cache ∧ t.coh = { s.coh with poisonLines := min 65535 (s.coh.poisonLines + 1) } ∧ t.env = s.env
      ∧ t.out = s.out ∧ t.fg = s.fg ∧ v.saf = s.saf := by
    rw [saf, same, tags]
    exact ⟨rfl, rfl, rfl, rfl, rfl, rfl⟩
  obtain ⟨cache, coh, env, out, fg, safs⟩ := fields
  refine ⟨?_, fun a v h => ?_, ?_, fun x hx k hk => pending.trans (marked x hx k hk), fun loc h => pending.trans (keeps loc ?_), coh, env,
    out, fg, fun few => ?_, us.trans (kept.trans reported)⟩
  · rw [tagAt, cache]
    exact entry
  · rw [tagAt, cache]
    exact others h
  · rw [cache, tags]
  · rw [tags]
    exact h
  · rw [← safs] at few ⊢
    obtain ⟨r, queue, ev, -⟩ := room few
    exact ⟨r, queue, ev⟩

end Sys2Proof.Proofs
end

section
/-! SUPPORT. The ends of transactions, reservations, and requests that waited (03_cache_behaviour R94, 04_coherence_protocol R118, R120,
R126). -/

namespace Sys2Proof.Proofs

open Sys2Proof.Machine Sys2Proof.Safety Sys2Proof.Laws

set_option Elab.async false

/-! ### Acknowledgements -/

theorem tfind_tupd_none {α : Type} (t : Table α) {j : Nat} (k : Nat) (f : α → α) (h : tfind t j = none) : tfind (tupd t k f) j = none := by
  by_cases eq : j = k
  · subst eq
    rw [tupd, h]
    exact h
  · rw [tfind_tupd_ne t f eq, h]

/-- WbAck for a return that was held (R120). -/
def heldMsg (a : HeldAck) (ready : Nat) : OutMsg :=
  answerMsg { port := a.port, agent := a.agent, die := a.die, txn := a.txn, line := a.line, label := a.label, ndf := 0 } 7 .none []
    ready .none

/-- Messages have been handed to the ports, and nothing else has changed. -/
structure Handed (s t : State) : Prop where
  rest : t = { s with out := { s.out with egress := t.out.egress }, fg := { s.fg with xpq := t.fg.xpq } }
  more : ∃ ms, t.out.egress = s.out.egress ++ ms

theorem Handed.trans {s t u : State} (h : Handed s t) (k : Handed t u) : Handed s u := by
  obtain ⟨rest, ms, more⟩ := h
  obtain ⟨rest', ms', more'⟩ := k
  refine ⟨?_, ms ++ ms', by rw [more', more, List.append_assoc]⟩
  rw [rest', rest]

theorem emit_handed (m : OutMsg) (s : State) : Handed s (emit m s) := by
  unfold emit
  split
  · exact ⟨rfl, [], (List.append_nil _).symm⟩
  · exact ⟨rfl, [m], rfl⟩

/-- The WbAcks that were held leave (R120). -/
def acksSent (acks : List HeldAck) (s : State) : State := acks.foldl (fun s a => sendAck { a with } s.env.sc s) s

theorem acksSent_handed (acks : List HeldAck) (s : State) :
    Handed s (acksSent acks s) ∧ ∀ a ∈ acks, a.port ≠ .xp → heldMsg a s.env.sc ∈ (acksSent acks s).out.egress := by
  induction acks generalizing s with
  | nil => exact ⟨⟨rfl, [], (List.append_nil _).symm⟩, nofun⟩
  | cons a acks ih =>
    have first : Handed s (sendAck a s.env.sc s) := emit_handed (heldMsg a s.env.sc) s
    have sc : (sendAck a s.env.sc s).env.sc = s.env.sc := by rw [first.rest]
    obtain ⟨rest, sent⟩ := ih (sendAck a s.env.sc s)
    refine ⟨first.trans rest, fun b hb mesh => ?_⟩
    rcases List.mem_cons.1 hb with rfl | hb
    · obtain ⟨ms, more⟩ := rest.more
      have now : (sendAck b s.env.sc s).out.egress = s.out.egress ++ [heldMsg b s.env.sc] := by
        show (emit (heldMsg b s.env.sc) s).out.egress = _
        rw [emit, if_neg (show (heldMsg b s.env.sc).port ≠ .xp from mesh)]
      refine more.symm ▸ List.mem_append_left _ ?_
      rw [now]
      exact List.mem_append_right _ (List.mem_singleton_self _)
    · exact sc ▸ sent b hb mesh

/-! ### Ports -/

/-- What a mesh port that starts a message leaves as it was. -/
structure PortStarted (s t : State) : Prop where
  cache : t.cache = s.cache
  resv : t.coh.resv = s.coh.resv
  trk : ∀ i, tfind s.coh.trk i = none → tfind t.coh.trk i = none
  msgs : ∀ m ∈ s.out.egress ++ s.out.wire, m ∈ t.out.egress ++ t.out.wire
  kept : Untouched s t

theorem PortStarted.trans {s t u : State} (h : PortStarted s t) (k : PortStarted t u) : PortStarted s u :=
  ⟨k.cache.trans h.cache, k.resv.trans h.resv, fun i q => k.trk i (h.trk i q), fun m q => k.msgs m (h.msgs m q), h.kept.trans k.kept⟩

theorem txLeft_started (m : OutMsg) (last : Nat) (s : State) : PortStarted s (txLeft m last s) := by
  have same : PortStarted s s := ⟨rfl, rfl, fun _ h => h, fun _ h => h, {}⟩
  have tracked (i : Nat) (f : Tracker → Tracker) : PortStarted s (setTracker i f s) :=
    ⟨rfl, rfl, fun _ h => tfind_tupd_none _ _ _ h, fun _ h => h, {}⟩
  unfold txLeft
  split
  · split
    · split
      · exact same
      · exact tracked ..
    · split
      · exact same
      · exact tracked ..
  · split
    · exact same
    · exact ⟨rfl, rfl, fun _ h => h, fun _ h => h, {}⟩
  · exact same

theorem startPort_started (p : Port) (s : State) : PortStarted s (startPort p s) := by
  unfold startPort
  split
  · exact ⟨rfl, rfl, fun _ h => h, fun _ h => h, {}⟩
  · next m _ =>
    unfold launch
    dsimp only
    refine PortStarted.trans ?_ (txLeft_started m _ _)
    refine ⟨rfl, rfl, fun _ h => h, fun n hn => ?_, {}⟩
    by_cases eq : n = m
    · exact List.mem_append_right _ (List.mem_append_right _ (List.mem_singleton.2 eq))
    · rcases List.mem_append.1 hn with hn | hn
      · exact List.mem_append_left _ ((List.mem_erase_of_ne eq).2 hn)
      · exact List.mem_append_right _ (List.mem_append_left _ hn)

/-! ### Ends -/

/-- The reservations recorded for a line begin (R126). -/
def reservations (line : LineAddr) (s : State) : List Resv := s.coh.resv.map fun v =>
  if v.line = line ∧ v.running = none then { v with running := some 512 } else v

theorem startReservation_eq (line : LineAddr) (s : State) :
    startReservation line s = { s with coh := { s.coh with resv := reservations line s } } := by
  simp only [startReservation, reservations, Option.isNone_iff_eq_none]

theorem retireMiss_misses (i : Nat) (s : State) :
    retireMiss i s = { s with cache := { s.cache with miss := (retireMiss i s).cache.miss } } := by
  unfold retireMiss
  split
  · rfl
  · dsimp only
    split <;> rfl

/-- The directory state that a transaction leaves its line with (R120). -/
def endState (x : Tracker) (e : TagEntry) : BitVec 3 := if e.dst = dirT then (x.next.map DirPart.dst).getD x.prev else e.dst

/-- From s to t the tracked transaction x has ended (R120, R126). -/
structure TrackerEnded (x : Tracker) (i : Nat) (s t : State) : Prop where
  gone : tfind t.coh.trk i = none
  resv : t.coh.resv = reservations x.line s
  entry : ∀ way, findWay s x.line = some way →
    (tagAt t (lineSet x.line) way).dst = endState x (tagAt s (lineSet x.line) way)
  acks : ∀ a ∈ x.held, a.port ≠ .xp → heldMsg a s.env.sc ∈ t.out.egress ++ t.out.wire
  kept : Untouched s t

/-- The directory state that a transaction leaves its line with, in the line's entry. -/
def stateLeft (x : Tracker) (s : State) : State :=
  match findWay s x.line with
  | some way => setTag (lineSet x.line) way (fun e => if e.dst = dirT then e.withDir (x.next.getD { e.dir with dst := x.prev }) else e) s
  | none => s

theorem stateLeft_entry (x : Tracker) (s : State) : stateLeft x s = { s with cache := { s.cache with tags := (stateLeft x s).cache.tags } }
    ∧ ∀ way, findWay s x.line = some way →
      (tagAt (stateLeft x s) (lineSet x.line) way).dst = endState x (tagAt s (lineSet x.line) way) := by
  unfold stateLeft
  cases findWay s x.line with
  | none => exact ⟨rfl, nofun⟩
  | some way =>
    refine ⟨rfl, fun w eq => ?_⟩
    cases eq
    dsimp only
    rw [tagAt_setTag_self]
    show (if (tagAt s (lineSet x.line) way).dst = dirT then _ else _ : TagEntry).dst = _
    unfold endState
    split
    · cases x.next <;> rfl
    · rfl

/-- The miss entry of a transaction goes where it can. -/
def missLeft (x : Tracker) (s : State) : State :=
  match x.missIndex with
  | some m => retireMiss m s
  | none => s

theorem missLeft_misses (x : Tracker) (s : State) :
    missLeft x s = { s with cache := { s.cache with miss := (missLeft x s).cache.miss } } := by
  unfold missLeft
  split
  · exact retireMiss_misses ..
  · rfl

/-- A transaction whose tracker entry is freed. -/
def trackerFreed (i : Nat) (s : State) : State := { s with coh := { s.coh with trk := terase s.coh.trk i } }

theorem endTracker_eq {s : State} {i : Nat} {x : Tracker} (named : tfind s.coh.trk i = some x) : endTracker i s
    = startReservation x.line (acksSent x.held (missLeft x (stateLeft x (trackerFreed i s)))) := by
  unfold endTracker
  rw [named]
  rfl

theorem endTracker_ends {s : State} {i : Nat} {x : Tracker} (named : tfind s.coh.trk i = some x) :
    TrackerEnded x i s (endTracker i s) := by
  have freed : tfind (trackerFreed i s).coh.trk i = none := tfind_terase_self s.coh.trk i
  obtain ⟨same, entry⟩ := stateLeft_entry x (trackerFreed i s)
  have misses := missLeft_misses x (stateLeft x (trackerFreed i s))
  rw [endTracker_eq named, startReservation_eq]
  generalize stateLeft x (trackerFreed i s) = u at same entry misses
  generalize missLeft x u = v at misses
  obtain ⟨⟨rest, -⟩, sent⟩ := acksSent_handed x.held v
  generalize acksSent x.held v = t at rest sent
  have sc : v.env.sc = s.env.sc := by rw [misses, same]; rfl
  have coh : t.coh = (trackerFreed i s).coh := by rw [rest, misses, same]
  have tags : t.cache.tags = u.cache.tags := by rw [rest, misses]
  have kept : Untouched s t := by rw [rest, misses, same]; exact {}
  refine ⟨?_, ?_, fun way found => ?_, fun a ha mesh => ?_, kept.trans {}⟩
  · show tfind t.coh.trk i = none
    rw [coh]
    exact freed
  · show reservations x.line t = _
    rw [reservations, coh]
    rfl
  · refine (congrArg (fun l => (tget default l (lineSet x.line * 16 + way)).dst) tags).trans ?_
    exact entry way found
  · exact List.mem_append_left _ (sc ▸ sent a ha mesh)

theorem TrackerEnded.started {s t u : State} {x : Tracker} {i : Nat} (h : TrackerEnded x i s t) (k : PortStarted t u) :
    TrackerEnded x i s u := by
  have entry (way : Nat) : tagAt u (lineSet x.line) way = tagAt t (lineSet x.line) way := by rw [tagAt, tagAt, k.cache]
  exact ⟨k.trk i h.gone, k.resv.trans h.resv, fun way found => (entry way).symm ▸ h.entry way found,
    fun a ha mesh => k.msgs _ (h.acks a ha mesh), h.kept.trans k.kept⟩

theorem transactionEnd_tracker {s : State} (hu : inUse s) {i : Nat} {x : Tracker} (ended : endedTracker s = some i)
    (named : tfind s.coh.trk i = some x) : ∃ t, exec .transactionEnd s = .next t ∧ TrackerEnded x i s t := by
  have done := ((endTracker_ends named).started (startPort_started .mpa _)).started (startPort_started .mpb _)
  refine ⟨_, ?_, done⟩
  unfold exec execTransactionEnd
  exact event_answers hu (by rw [ended]) done.kept

theorem transactionEnd_active {s : State} (hu : inUse s) {k : Nat} {x : Active} (none : endedTracker s = none)
    (ended : endedActive s = some k) (named : s.coh.active.find? (fun a => a.id == k) = some x) : exec .transactionEnd s
      = .next { s with coh := { s.coh with active := s.coh.active.filter (fun a => a.id != k), resv := reservations x.line s } } := by
  unfold exec execTransactionEnd
  refine event_answers hu ?_
  rw [none, ended]
  dsimp only
  unfold endActive
  rw [named]
  exact startReservation_eq ..

theorem reservationExpiry_frees {s : State} (hu : inUse s) {v : Resv} (ended : expiredResv s = some v) :
    exec .reservationExpiry s = .next { s with coh := { s.coh with resv := s.coh.resv.erase v } } := by
  unfold exec execReservationExpiry
  exact event_answers hu (by rw [ended])

end Sys2Proof.Proofs
end

section
/-! SUPPORT. A request that waited goes on (03_cache_behaviour R79, R94, R346). -/

namespace Sys2Proof.Proofs

open Sys2Proof.Machine Sys2Proof.Safety Sys2Proof.Laws

set_option Elab.async false

/-- The access that reads the sectors of a hit (R79). -/
def hitRead (s : State) (r : Req) (way : Nat) : Access :=
  readAccess (s.env.sc + 6) r.cls 0 false (maskSecs (lineSet r.line) way r.mask)
    (.home r (if r.grants s then .active s.coh.nextActive else .none)
      (grantEntry (r.effective s) r.agent (tagAt s (lineSet r.line) way).dir).1 (tagAt s (lineSet r.line) way).dir)

/-- What the grant of a hit changes: the tag entry, and the transactions that are active. -/
structure HitGranted (s u : State) : Prop where
  same : u = { s with cache := { s.cache with tags := u.cache.tags }
                      coh := { s.coh with active := u.coh.active, nextActive := u.coh.nextActive } }

theorem storeDir_none (set way : Nat) (d : DirPart) (s : State) : ∃ tags,
    storeDir set way none d s = { s with cache := { s.cache with tags := tags } } := ⟨_, rfl⟩

theorem grant_none (r : Req) (set way : Nat) (s : State) (atRest : (tagAt s set way).dst ≠ dirT) :
    (grant r set way none s).1 = (grantEntry (r.effective s) r.agent (tagAt s set way).dir).1
    ∧ HitGranted s (grant r set way none s).2 := by
  have now : presentDir s (tagAt s set way) none = (tagAt s set way).dir := if_neg atRest
  unfold grant
  rw [now]
  dsimp only
  split
  · exact ⟨rfl, ⟨rfl⟩⟩
  · obtain ⟨tags, h⟩ := storeDir_none set way (grantEntry (r.effective s) r.agent (tagAt s set way).dir).2 s
    rw [h]
    exact ⟨rfl, ⟨rfl⟩⟩

theorem txFor_none (r : Req) (s : State) :
    (txFor none r s).1 = (if r.grants s then .active s.coh.nextActive else .none) ∧ HitGranted s (txFor none r s).2
    ∧ (txFor none r s).2.cache = s.cache ∧ (txFor none r s).2.env = s.env ∧ (txFor none r s).2.coh.nclust = s.coh.nclust := by
  unfold txFor
  dsimp only
  split
  · exact ⟨rfl, ⟨rfl⟩, rfl, rfl, rfl⟩
  · exact ⟨rfl, ⟨rfl⟩, rfl, rfl, rfl⟩

theorem startRead_enqueues {s : State} {r : Req} {way : Nat} (atRest : (tagAt s (lineSet r.line) way).dst ≠ dirT) (named : r.mask ≠ 0) :
    ∃ u, startRead none r (lineSet r.line) way s = enqueue (hitRead s r way) u ∧ HitGranted s u := by
  let aged := setTag (lineSet r.line) way (fun e => { e with age := 0 }) s
  have entry : (tagAt aged (lineSet r.line) way).dir = (tagAt s (lineSet r.line) way).dir :=
    (congrArg TagEntry.dir (tagAt_setTag_self ..)).trans rfl
  have state : (tagAt aged (lineSet r.line) way).dst ≠ dirT := (congrArg DirPart.dst entry).trans_ne atRest
  obtain ⟨tx, ⟨opened⟩, cache, env, nclust⟩ := txFor_none r aged
  have read : startRead none r (lineSet r.line) way s = enqueue (readAccess (s.env.sc + 6) r.cls 0 false
      (maskSecs (lineSet r.line) way r.mask) (.home r (txFor none r aged).1 (grant r (lineSet r.line) way none (txFor none r aged).2).1
        (presentDir (txFor none r aged).2 (tagAt (txFor none r aged).2 (lineSet r.line) way) none)))
      (grant r (lineSet r.line) way none (txFor none r aged).2).2 := if_neg named
  rw [read, tx]
  generalize (txFor none r aged).2 = v at *
  have tag : tagAt v (lineSet r.line) way = tagAt aged (lineSet r.line) way := by rw [tagAt, cache]; rfl
  have kind : r.effective v = r.effective s := by rw [Req.effective, caching, env, nclust]; rfl
  obtain ⟨op, ⟨granted⟩⟩ := grant_none r (lineSet r.line) way v (tag ▸ state)
  rw [op, presentDir, tag, if_neg state, entry, kind]
  refine ⟨_, rfl, ⟨?_⟩⟩
  generalize (grant r (lineSet r.line) way none v).2 = u at *
  rw [granted, opened]
  rfl

section
variable {s : State} {r : Req} {way : Nat} (fromHome : r.kind = .rds ∨ r.kind = .rdx ∨ r.kind = .rdu)
  (rest : AtRest { s with cache := { s.cache with waiters := [] } } r.line) (found : findWay s r.line = some way)
  (named : r.mask ≠ 0) (present : r.mask &&& ~~~(tagAt s (lineSet r.line) way).sv = 0)
  (sound : namesPoison s (lineSet r.line) way r.mask = false) (alone : needsSnoop s r (tagAt s (lineSet r.line) way) = false)
include fromHome rest found named present sound alone

/-- A read that has waited, of a line all in the cache and no copy to recall, starts its access (R79, R94). -/
theorem admitRequest_resumes : ∃ u, admitRequest false r s = enqueue (hitRead s r way) u ∧ HitGranted s u := by
  obtain ⟨memory, bank, tags, dir, resv, -, stay, free, miss, fetch, alive⟩ := rest
  have read : r.kind.isRead = true := by rcases fromHome with k | k | k <;> (rw [k]; rfl)
  replace resv : ∀ v ∈ s.coh.resv, v.line ≠ r.line := resv
  replace fetch : ∀ f ∈ s.cache.fb, f.2.line ≠ r.line := fetch
  have off : bit s.coh.muzBanks (tagBank (lineSet r.line)) = false := bank
  have none : trackerOf s r.line = none := free.1
  have still : outstanding s r.line = 0 := by
    rw [outstanding, show missOf s r.line = Option.none from miss]
    rfl
  have now : mustWait false s r = false := by
    rw [mustWait, awaitsFill, show leaving s r.line = false from stay.1, show filling s r.line = false from stay.2, still]
    simp
  have idle : (s.coh.active.any fun a => a.line == r.line) = false := List.any_eq_false.mpr fun a ha => by simp [free.2 a ha]
  have dead : s.coh.dead = 0 := alive
  have covered : r.mask &&& (tagAt s (lineSet r.line) way).sv = r.mask := by
    generalize r.mask = m at present ⊢
    generalize (tagAt s (lineSet r.line) way).sv = v at present ⊢
    revert m v
    decide
  have lacks : r.missing (tagAt s (lineSet r.line) way).sv = 0 := by
    rcases fromHome with k | k | k <;> (rw [Req.missing, k]; exact present)
  have serves : serveLine r s = some (startRead Option.none r (lineSet r.line) way s) := by
    have plain : ¬ (r.kind = .atom ∧ atomOff s) := fun k => by rcases fromHome with q | q | q <;> (rw [q] at k; exact nomatch k.1)
    have home : serveHome Option.none r s = some (startRead Option.none r (lineSet r.line) way s) := by
      unfold serveHome
      dsimp only
      rw [if_neg plain, found]
      dsimp only
      rw [lacks]
      rcases fromHome with k | k | k <;> (rw [k]; rfl)
    unfold serveLine
    simp only [found, reclaimEntry_alive dead, covered, sound, alone, Bool.and_false, Bool.false_eq_true, if_false, home]
  obtain ⟨u, starts, granted⟩ := startRead_enqueues (show (tagAt s (lineSet r.line) way).dst ≠ dirT from dir way found) named
  refine ⟨u, ?_, granted⟩
  rw [← starts]
  unfold admitRequest serveFresh
  simp only [off, none, now, reservedForOther_unnamed resv, idle, endReservation_unnamed resv, dropLineFb_unbuffered fetch, ite_self,
    Bool.false_eq_true, if_false]
  rw [serves]
  rfl

end

theorem waitedRequestResume_starts {s : State} (hu : inUse s) {r : Req} {way : Nat} (goes : resumable s = some r)
    (rest : AtRest { s with cache := { s.cache with waiters := [] } } r.line) (found : findWay s r.line = some way)
    (fromHome : r.kind = .rds ∨ r.kind = .rdx ∨ r.kind = .rdu) (outer : r.internal = false)
  (named : r.mask ≠ 0) (present : r.mask &&& ~~~(tagAt s (lineSet r.line) way).sv = 0)
  (sound : namesPoison s (lineSet r.line) way r.mask = false) (alone : needsSnoop s r (tagAt s (lineSet r.line) way) = false) :
    ∃ t, exec .waitedRequestResume s = .next t ∧ t.cache.waiters = s.cache.waiters.erase r ∧ t.env.done.lookup = true
      ∧ t.fg.accs = s.fg.accs ++ [{ hitRead s r way with id := s.fg.nextId }] := by
  let u : State := { s with cache := { s.cache with waiters := s.cache.waiters.erase r }
                            env := { s.env with done := { s.env.done with lookup := true } } }
  have tags : ∀ w ∈ openWays u, (tagAt u (lineSet r.line) w).passes = true := rest.tags
  have atRest : AtRest { u with cache := { u.cache with waiters := [] } } r.line :=
    ⟨rest.memory, rest.bank, rest.tags, rest.dir, rest.resv, nofun, rest.stay, rest.free, rest.miss, rest.fetch, rest.alive⟩
  obtain ⟨v, starts, ⟨granted⟩⟩ := admitRequest_resumes (s := u) fromHome atRest found named present sound alone
  refine ⟨enqueue (hitRead u r way) v, ?_, ?_, ?_, ?_⟩
  · unfold exec execWaitedRequestResume
    refine event_answers hu ?_ ?_
    · rw [goes]
      dsimp only
      rw [outer, if_neg Bool.false_ne_true]
      exact (lookUp_passes tags _ _).trans starts
    · rw [granted]
      exact {}
  · rw [granted]
    rfl
  · rw [granted]
    rfl
  · rw [granted]
    rfl

end Sys2Proof.Proofs
end

section
/-! SUPPORT. The reclamation walk (05_coherence_failures R148, R149, Table 5.1). -/

namespace Sys2Proof.Proofs

open Sys2Proof.Machine Sys2Proof.Safety Sys2Proof.Laws

set_option Elab.async false

/-- The agent is one of this home that has been declared dead. -/
def deadHere (s : State) (a : Nat) : Bool := isDead s a s.env.idDie.toNat

/-- The pointers of an entry that name living agents. -/
def livePointers (s : State) (e : TagEntry) : BitVec 4 := maskOf 4 ((bitsOf e.pv).filter fun i => !deadHere s (e.dir.ptr i))

theorem bitsOf_maskOf_filter (v : BitVec 4) (p : Nat → Bool) : bitsOf (maskOf 4 ((bitsOf v).filter p)) = (bitsOf v).filter p := by
  have table : ∀ (v : BitVec 4) (a b c d : Bool),
      bitsOf (maskOf 4 ((bitsOf v).filter fun i => if i = 0 then a else if i = 1 then b else if i = 2 then c else d))
        = (bitsOf v).filter fun i => if i = 0 then a else if i = 1 then b else if i = 2 then c else d := by decide
  have same : (bitsOf v).filter p
      = (bitsOf v).filter fun i => if i = 0 then p 0 else if i = 1 then p 1 else if i = 2 then p 2 else p 3 := by
    refine List.filter_congr fun i hi => ?_
    have lt : i < 4 := List.mem_range.1 (List.mem_filter.1 hi).1
    match i, lt with
    | 0, _ => rfl
    | 1, _ => rfl
    | 2, _ => rfl
    | 3, _ => rfl
  rw [same]
  exact table v (p 0) (p 1) (p 2) (p 3)

theorem bitsOf_eq_nil : ∀ v : BitVec 4, bitsOf v = [] ↔ v = 0 := by decide

/-- What the reclamation of a line does to its entry, and the marks it queues (Table 5.1). -/
structure LineReclaimed (s : State) (set w : Nat) (t : State) : Prop where
  shared : (tagAt s set w).tv = true → (tagAt s set w).dst = dirSP → (tagAt s set w).sharers.any (deadHere s) = true →
    (tagAt t set w).sharers = (tagAt s set w).sharers.filter (fun a => !deadHere s a)
    ∧ (tagAt t set w).dst = if (tagAt s set w).sharers.all (deadHere s) then dirU else dirSP
  owned : (tagAt s set w).tv = true → (tagAt s set w).dst = dirX → deadHere s (tagAt s set w).ptr0.toNat = true →
    (tagAt t set w).dst = dirU ∧ (tagAt t set w).sv = 15 ∧ (tagAt t set w).sd = 15
    ∧ ∀ x ∈ lineSecs set w, markPending t (2 * x) = true ∧ markPending t (2 * x + 1) = true
  stays : (tagAt s set w).tv = false ∨ (tagAt s set w).dst = dirU ∨ (tagAt s set w).dst = dirSB → tagAt t set w = tagAt s set w

/-- What the reclamation of lines leaves as it was. -/
structure ReclaimKeeps (s t : State) : Prop where
  coh : t.coh = { s.coh with poisonLines := t.coh.poisonLines }
  env : t.env = s.env
  marks : ∀ loc, markPending s loc = true → markPending t loc = true
  kept : Untouched s t

theorem ReclaimKeeps.refl (s : State) : ReclaimKeeps s s := ⟨rfl, rfl, fun _ h => h, {}⟩

theorem ReclaimKeeps.trans {s t u : State} (h : ReclaimKeeps s t) (k : ReclaimKeeps t u) : ReclaimKeeps s u := by
  refine ⟨?_, k.env.trans h.env, fun loc q => k.marks loc (h.marks loc q), h.kept.trans k.kept⟩
  rw [k.coh, h.coh]

theorem ReclaimKeeps.dead {s t : State} (h : ReclaimKeeps s t) (a : Nat) : deadHere t a = deadHere s a := by
  rw [deadHere, isDead, h.coh, h.env]
  rfl

theorem livePointers_sharers (s : State) (e : TagEntry) :
    (bitsOf (livePointers s e)).map e.dir.ptr = e.sharers.filter (fun a => !deadHere s a) := by
  rw [livePointers, bitsOf_maskOf_filter, TagEntry.sharers, DirPart.sharers, List.filter_map]
  rfl

theorem livePointers_none (s : State) (e : TagEntry) : livePointers s e = 0 ↔ e.sharers.all (deadHere s) = true := by
  rw [← bitsOf_eq_nil, ← List.map_eq_nil_iff (f := e.dir.ptr), livePointers_sharers, List.filter_eq_nil_iff, List.all_eq_true]
  simp

theorem reclaimEntry_reclaims (set w : Nat) (s : State) : LineReclaimed s set w (reclaimEntry set w s)
    ∧ ReclaimKeeps s (reclaimEntry set w s)
    ∧ ∀ v, set * 16 + v ≠ set * 16 + w → tagAt (reclaimEntry set w s) set v = tagAt s set v := by
  have eq : reclaimEntry set w s = if !(tagAt s set w).tv then s
      else if (tagAt s set w).dst = dirSP ∧ (tagAt s set w).sharers.any (deadHere s) then
        setTag set w (fun e => { e with pv := livePointers s (tagAt s set w)
                                        dst := if livePointers s (tagAt s set w) = 0 then dirU else dirSP }) s
      else if (tagAt s set w).dst = dirX ∧ deadHere s (tagAt s set w).ptr0.toNat then
        poisonLine set w 2 0 (setTag set w (fun e => { e with dst := dirU, pv := 0 }) s)
      else s := rfl
  rw [eq]
  by_cases tv : (tagAt s set w).tv = false
  · rw [tv]
    exact ⟨⟨nofun ∘ (tv.symm.trans ·), nofun ∘ (tv.symm.trans ·), fun _ => rfl⟩, .refl s, fun _ _ => rfl⟩
  rw [Bool.not_eq_false] at tv
  rw [tv, if_neg (by decide)]
  by_cases sp : (tagAt s set w).dst = dirSP ∧ (tagAt s set w).sharers.any (deadHere s) = true
  · rw [if_pos sp]
    obtain ⟨shared, -⟩ := sp
    generalize hf : (fun e : TagEntry => { e with pv := livePointers s (tagAt s set w)
                                                  dst := if livePointers s (tagAt s set w) = 0 then dirU else dirSP }) = f
    have self := tagAt_setTag_self s set w f
    refine ⟨⟨fun _ _ _ => ?_, fun _ x => absurd (shared.symm.trans x) (by decide), fun no => ?_⟩, ⟨rfl, rfl, fun _ h => h, {}⟩,
      fun v h => tagAt_setTag_ne s f h⟩
    · rw [self, ← hf]
      refine ⟨livePointers_sharers s (tagAt s set w), ?_⟩
      show (if livePointers s (tagAt s set w) = 0 then dirU else dirSP) = _
      simp only [livePointers_none]
    · rcases no with no | no | no
      · exact absurd (tv.symm.trans no) (by decide)
      · exact absurd (shared.symm.trans no) (by decide)
      · exact absurd (shared.symm.trans no) (by decide)
  rw [if_neg sp]
  by_cases x : (tagAt s set w).dst = dirX ∧ deadHere s (tagAt s set w).ptr0.toNat = true
  · rw [if_pos x]
    obtain ⟨owned, -⟩ := x
    generalize hf : (fun e : TagEntry => { e with dst := dirU, pv := 0 }) = f
    have self := tagAt_setTag_self s set w f
    have keeps : ReclaimKeeps s (setTag set w f s) := ⟨rfl, rfl, fun _ h => h, {}⟩
    have poisoned := poisonLine_poisons set w 0 (cause := 2) (by decide) (setTag set w f s)
    have apart {v : Nat} (h : set * 16 + v ≠ set * 16 + w) := tagAt_setTag_ne s f h
    generalize poisonLine set w 2 0 (setTag set w f s) = t at poisoned ⊢
    generalize setTag set w f s = u at *
    refine ⟨⟨fun _ sp => absurd (owned.symm.trans sp) (by decide), fun _ _ _ => ?_, fun no => ?_⟩,
      keeps.trans ⟨?_, poisoned.env, poisoned.keeps, poisoned.kept⟩,
      fun v h => (poisoned.others set v h).trans (apart h)⟩
    · rw [poisoned.entry, self, ← hf]
      exact ⟨rfl, rfl, rfl, fun y hy => ⟨poisoned.marks y hy 0 (by decide), poisoned.marks y hy 1 (by decide)⟩⟩
    · rcases no with no | no | no
      · exact absurd (tv.symm.trans no) (by decide)
      · exact absurd (owned.symm.trans no) (by decide)
      · exact absurd (owned.symm.trans no) (by decide)
    · rw [poisoned.coh]
  · rw [if_neg x]
    exact ⟨⟨fun _ p q => absurd ⟨p, q⟩ sp, fun _ p q => absurd ⟨p, q⟩ x, fun _ => rfl⟩, .refl s, fun _ _ => rfl⟩

theorem reclaimEntries_reclaim (set : Nat) (ways : List Nat) (once : ways.Nodup) (s : State) :
    ReclaimKeeps s (ways.foldl (fun s w => reclaimEntry set w s) s)
    ∧ (∀ v, v ∉ ways → tagAt (ways.foldl (fun s w => reclaimEntry set w s) s) set v = tagAt s set v)
    ∧ ∀ w ∈ ways, LineReclaimed s set w (ways.foldl (fun s w => reclaimEntry set w s) s) := by
  induction ways generalizing s with
  | nil => exact ⟨.refl s, fun _ _ => rfl, nofun⟩
  | cons w ways ih =>
    obtain ⟨apart, once⟩ := List.nodup_cons.1 once
    obtain ⟨first, keeps, others⟩ := reclaimEntry_reclaims set w s
    obtain ⟨keeps', others', rest⟩ := ih once (reclaimEntry set w s)
    rw [List.foldl_cons]
    generalize ways.foldl (fun s w => reclaimEntry set w s) (reclaimEntry set w s) = t at *
    generalize reclaimEntry set w s = u at *
    refine ⟨keeps.trans keeps', fun v hv => ?_, fun v hv => ?_⟩
    · rw [others' v fun h => hv (List.mem_cons_of_mem _ h)]
      exact others v fun eq => hv (by rw [Nat.add_left_cancel eq]; exact List.mem_cons_self)
    · rcases List.mem_cons.1 hv with rfl | hv
      · have same := others' v apart
        obtain ⟨shared, owned, stays⟩ := first
        refine ⟨same.symm ▸ shared, fun tv x dead => ?_, same.symm ▸ stays⟩
        obtain ⟨dst, sv, sd, marks⟩ := owned tv x dead
        rw [same]
        exact ⟨dst, sv, sd, fun y hy => ⟨keeps'.marks _ (marks y hy).1, keeps'.marks _ (marks y hy).2⟩⟩
      · have same : tagAt u set v = tagAt s set v := others v fun eq => apart (Nat.add_left_cancel eq ▸ hv)
        have dead : deadHere u = deadHere s := funext keeps.dead
        obtain ⟨shared, owned, stays⟩ := rest v hv
        rw [same, dead] at shared owned
        rw [same] at stays
        exact ⟨shared, owned, stays⟩

/-- One step of the walk (R149). -/
theorem reclaimWalkStep_reclaims {s : State} (hu : inUse s) {set : Nat} (walks : s.coh.reclaim = some set)
    (intake : s.env.done.intake = false) (first : s.env.done.reclaim = false) (runs : s.env.pkAck = false) :
    ∃ t, exec .reclaimWalkStep s = .next t ∧ t.coh.reclaim = (if set + 1 < 4096 then some (set + 1) else none)
      ∧ t.env.done.reclaim = true
      ∧ (s.coh.muzBanks.getLsbD (tagBank set) = false → ∀ w ∈ openWays s, LineReclaimed s set w t) := by
  have due : reclaimDue s = true := by
    rw [reclaimDue, walks, intake, first, runs]
    rfl
  let u := if bit s.coh.muzBanks (tagBank set) then s else (openWays s).foldl (fun s w => reclaimEntry set w s) s
  have once : (openWays s).Nodup := List.nodup_range.filter _
  obtain ⟨keeps, -, lines⟩ := reclaimEntries_reclaim set (openWays s) once s
  have kept : Untouched s u := by
    show Untouched s (if bit s.coh.muzBanks (tagBank set) then s else _)
    split
    · exact {}
    · exact keeps.kept
  refine ⟨{ u with coh := { u.coh with reclaim := if set + 1 < 4096 then some (set + 1) else none }
                   env := { u.env with done := { u.env.done with reclaim := true } } }, ?_, rfl, rfl, fun on w hw => ?_⟩
  · unfold exec execReclaimWalkStep
    refine eventIf_answers hu due ?_ (kept.trans {})
    rw [walks]
  · have walked : u = (openWays s).foldl (fun s w => reclaimEntry set w s) s := if_neg (by rw [bit, on]; decide)
    obtain ⟨shared, owned, stays⟩ := walked.symm ▸ lines w hw
    exact ⟨shared, owned, stays⟩

/-- Settles O41: the ends of transactions and reservations, the walk over the ways of a set, and a read that waited, one by one. -/
theorem homeEventsAnswer : Obligations.HomeEventsAnswer := by
  unfold Obligations.HomeEventsAnswer
  intro s hu reserved
  refine ⟨fun i x ended named => ?_, fun k x none ended named => transactionEnd_active hu none ended named,
    fun v ended => reservationExpiry_frees hu ended, fun set walks intake first runs => ?_, ?_⟩
  · obtain ⟨t, runs, gone, resv, entry, acks, -⟩ := transactionEnd_tracker hu ended named
    exact ⟨t, runs, gone, resv, entry, fun a ha mesh => ⟨_, acks a ha mesh, rfl, rfl, rfl, rfl, rfl, rfl, rfl⟩⟩
  · obtain ⟨t, step, next, done, lines⟩ := reclaimWalkStep_reclaims hu walks intake first runs
    refine ⟨t, step, next, done, fun on w hw => ?_⟩
    obtain ⟨shared, owned, stays⟩ := lines on w hw
    exact ⟨shared, owned, stays⟩
  · intro r way goes rest found fromHome outer named e present sound alone
    exact waitedRequestResume_starts hu goes rest found fromHome outer named present sound alone

end Sys2Proof.Proofs
end

section
/-! SUPPORT. What a read of sectors through the corrector leaves as it was (02_data_array_and_boleri_code R53, R59, R62, R64). -/

namespace Sys2Proof.Proofs

open Sys2Proof.Machine Sys2Proof.Safety Sys2Proof.Laws

set_option Elab.async false

/-- From s to t the array, its background work, the reports, the counts of the classes and tag entries may have changed. -/
structure ReadAside (s t : State) : Prop where
  env : t.env = { s.env with done := { s.env.done with raised := t.env.done.raised } } := by rfl
  tick : t.tick = s.tick := by rfl
  coh : t.coh = s.coh := by rfl
  ken : t.ken = s.ken := by rfl
  red : t.red = s.red := by rfl
  atom : t.atom = s.atom := by rfl
  seq : t.seq = s.seq := by rfl
  mov : t.mov = s.mov := by rfl
  det : t.det = s.det := by rfl
  lnk : t.lnk = s.lnk := by rfl
  fg : t.fg = s.fg := by rfl
  out : t.out = s.out := by rfl
  kept : Untouched s t := by exact {}

theorem ReadAside.trans {s t u : State} (h : ReadAside s t) (k : ReadAside t u) : ReadAside s u :=
  ⟨by rw [k.env, h.env], k.tick.trans h.tick, k.coh.trans h.coh, k.ken.trans h.ken, k.red.trans h.red, k.atom.trans h.atom,
    k.seq.trans h.seq, k.mov.trans h.mov, k.det.trans h.det, k.lnk.trans h.lnk, k.fg.trans h.fg, k.out.trans h.out, h.kept.trans k.kept⟩

theorem report_aside (ev react muz detail : Nat) (s : State) : ReadAside s (report ev react muz detail s) := by
  have kept := report_untouched ev react muz detail (s := s) {}
  have saf := report_saf ev react muz detail s
  generalize (report ev react muz detail s).saf = m at saf
  rw [saf] at kept ⊢
  exact { kept := kept }

theorem raise_aside (i : Nat) (s : State) : ReadAside s (raise i s) := by
  unfold raise
  exact {}

theorem queueMarks_aside (sec : Nat) (mask : BitVec 2) (s : State) : ReadAside s (queueMarks sec mask s) := by
  rw [queueMarks_work]
  exact {}

theorem queueRewrite_aside (loc : Nat) (d : Code) (s : State) : ReadAside s (queueRewrite loc d s) := by
  unfold queueRewrite
  dsimp only
  split
  · exact {}
  · split
    · exact {}
    · exact {}

theorem retireRow_aside (bank row : Nat) (s : State) : ReadAside s (retireRow bank row s) := by
  unfold retireRow
  split
  · exact report_aside ..
  · split
    · exact (ReadAside.trans {} (raise_aside ..)).trans (report_aside ..)
    · exact {}

theorem trackRow_aside (bank row : Nat) (s : State) : ReadAside s (trackRow bank row s) := by
  unfold trackRow
  split
  · dsimp only
    split
    · exact ReadAside.trans {} (retireRow_aside ..)
    · exact {}
  · split
    · exact {}
    · exact {}

theorem logCorrection_aside (src loc : Nat) (c : Corrected) (s : State) : ReadAside s (logCorrection src loc c s) := by
  unfold logCorrection
  dsimp only
  split
  · exact {}
  · exact {}

theorem noteCorrection_aside (src : Nat) (x : Seen) (c : Corrected) (s : State) : ReadAside s (noteCorrection src x c s) := by
  unfold noteCorrection
  split
  · exact {}
  · have logged (u : State) (h : ReadAside s u) : ReadAside s (logCorrection src x.loc c u) := h.trans (logCorrection_aside ..)
    dsimp only
    split
    · refine ReadAside.trans ?_ (trackRow_aside ..)
      split
      · exact logged _ {}
      · exact (logged _ {}).trans (queueRewrite_aside ..)
    · exact logged _ {}

theorem reportUe_aside (src loc : Nat) (poisoned : Bool) (s : State) : ReadAside s (reportUe src loc poisoned s) :=
  ReadAside.trans {} (report_aside ..)

theorem findUe_aside (src : Nat) (line : Option LineAddr) (victim : Bool) (mask : BitVec 2) (x : Seen) (s : State) :
    ReadAside s (findUe src line victim mask x s).2 := by
  unfold findUe
  dsimp only
  split
  · dsimp only
    split
    · exact reportUe_aside ..
    · exact (reportUe_aside ..).trans {}
  · generalize (if x.known then mask else mask &&& setBit 0 (x.loc % 2) true) = marks
    dsimp only
    split
    · exact reportUe_aside ..
    · exact (reportUe_aside ..).trans (queueMarks_aside ..)

theorem settleRead_aside (src : Nat) (line : Option LineAddr) (victim : Bool) (mask : BitVec 2) (x : Seen) (c : Corrected) (s : State) :
    ReadAside s (settleRead src line victim mask x c s).2 := by
  have noted : ReadAside s (if x.noted then noteCorrection src x c s else s) := by
    split
    · exact noteCorrection_aside ..
    · exact {}
  unfold settleRead
  split
  · exact {}
  · exact noted
  · exact noted
  · exact {}
  · split
    · exact findUe_aside ..
    · exact {}

theorem postCheck_aside (src loc : Nat) (c : Corrected) (s : State) : ReadAside s (postCheck src loc c s).2 := by
  have either (data : Bool) : ReadAside s (if data && s.arr.postBad.contains loc then
      (true, report 0x11 2 0 (detailA loc src) { s with arr := { s.arr with postBad := s.arr.postBad.erase loc } })
    else (false, s)).2 := by
    split
    · exact ReadAside.trans {} (report_aside ..)
    · exact {}
  exact either _

theorem settleWord_aside (src : Nat) (line : Option LineAddr) (victim : Bool) (mask : BitVec 2) (x : Seen) (c : Corrected) (s : State) :
    ReadAside s (settleWord src line victim mask x c s).2 := (settleRead_aside ..).trans (postCheck_aside ..)

theorem settleSeen_aside (src : Nat) (line : Option LineAddr) (victim : Bool) (l : List Seen) (s : State) :
    ReadAside s (settleSeen src line victim l s).2 := by
  induction l using List.twoStepInduction generalizing s with
  | nil => exact {}
  | singleton a => exact {}
  | cons_cons a b l ih _ => exact ((settleWord_aside ..).trans (settleWord_aside ..)).trans (ih _)

theorem seeWord_aside (loc : Nat) (s : State) : ReadAside s (seeWord loc s).2 := by
  unfold seeWord
  split
  · exact {}
  · unfold cellsAt
    dsimp only
    split
    · exact {}
    · exact {}

theorem seeSectors_aside (secs : List Nat) (s : State) : ReadAside s (seeSectors secs s).2 := by
  induction secs generalizing s with
  | nil => exact {}
  | cons x secs ih => exact ((seeWord_aside ..).trans (seeWord_aside ..)).trans (ih _)

theorem readSectors_aside (src : Nat) (victim : Bool) (secs : List Nat) (s : State) : ReadAside s (readSectors src victim secs s).2 :=
  (seeSectors_aside ..).trans (settleSeen_aside ..)

theorem chargeSector_aside (c bank : Nat) (s : State) : ReadAside s (chargeSector c bank s) := by
  unfold chargeSector charge
  split
  · exact {}
  · exact {}

/-- With no access under way, what an engine reads changes the array's side alone. -/
theorem engineRead_aside {s : State} (idle : idleArray s) (src cls off n : Nat) : ReadAside s (engineRead src cls off n s).2 := by
  obtain ⟨accs, reads⟩ := idle
  have now : performBefore true (kennelSecs off n) (2 * s.fg.accs.length + 16) s = s := by
    rw [accs]
    unfold performBefore
    rw [reads, accs]
    rfl
  unfold engineRead
  dsimp only
  rw [now]
  have read := readSectors_aside src false (kennelSecs off n) s
  generalize (readSectors src false (kennelSecs off n) s).2 = t at read
  rw [read.fg, accs]
  refine List.foldlRecOn (motive := ReadAside s) _ _ read fun u h x _ => h.trans (chargeSector_aside ..)

end Sys2Proof.Proofs
end

section
/-! SUPPORT. Channels: targets, answers, and RESERVE requests that wait (06_kennels_and_channels R172, R178, R179). -/

namespace Sys2Proof.Proofs

open Sys2Proof.Machine Sys2Proof.Safety Sys2Proof.Laws

set_option Elab.async false

/-! ### Litters -/

/-- The same change of every target entry of a litter. -/
theorem targets_changed (f : Target → Target) (l : List Nat) (once : l.Nodup) (s : State) :
    l.foldl (fun s x => setTarget x f s) s
      = { s with ken := { s.ken with tgt := (l.foldl (fun s x => setTarget x f s) s).ken.tgt } }
    ∧ ∀ y, targetAt (l.foldl (fun s x => setTarget x f s) s) y = if y ∈ l then f (targetAt s y) else targetAt s y := by
  induction l generalizing s with
  | nil => exact ⟨rfl, fun y => (if_neg List.not_mem_nil).symm⟩
  | cons x l ih =>
    obtain ⟨apart, once⟩ := List.nodup_cons.1 once
    obtain ⟨same, targets⟩ := ih once (setTarget x f s)
    rw [List.foldl_cons]
    refine ⟨same, fun y => (targets y).trans ?_⟩
    by_cases eq : y = x
    · subst eq
      rw [if_neg apart, targetAt_setTarget_self, if_pos List.mem_cons_self]
    · have mem : y ∈ x :: l ↔ y ∈ l := ⟨fun h => (List.mem_cons.1 h).resolve_left eq, List.mem_cons_of_mem x⟩
      rw [targetAt_setTarget_ne s f eq]
      simp only [mem]

theorem litter_nodup (c : Channel) : c.litter.Nodup := (List.nodup_range).map fun _ _ h => Nat.add_left_cancel h

/-! ### Answers -/

/-- What an answer of a channel operation leaves as it was. -/
structure Spoken (s t : State) : Prop where
  env : t.env = s.env
  tick : t.tick = s.tick
  ken : t.ken = s.ken
  saf : t.saf = s.saf
  accs : t.fg.accs = s.fg.accs
  reads : t.fg.reads = s.fg.reads
  kept : Untouched s t

theorem chAnswer_spoken (p : ChParty) (st : Status) (slot off : Nat) (s : State) : Spoken s (chAnswer p st slot off s) := by
  cases p with
  | agent h =>
    simp only [chAnswer, answer, emit, countNack]
    split <;> split <;> exact ⟨rfl, rfl, rfl, rfl, rfl, rfl, {}⟩
  | ctx c id => exact ⟨rfl, rfl, rfl, rfl, rfl, rfl, {}⟩
  | gone _ => exact ⟨rfl, rfl, rfl, rfl, rfl, rfl, {}⟩

theorem emit_congr (m : OutMsg) {s u : State} (out : u.out = s.out) (seq : u.seq = s.seq) :
    (emit m u).out = (emit m s).out ∧ (emit m u).seq = (emit m s).seq := by
  unfold emit
  split
  · exact ⟨out, seq⟩
  · exact ⟨congrArg (fun o => { o with egress := o.egress ++ [m] }) out, seq⟩

theorem countNack_fields (st : Status) (s : State) : (countNack st s).out = s.out ∧ (countNack st s).seq = s.seq := by
  unfold countNack
  split <;> exact ⟨rfl, rfl⟩

/-- What is answered, and to whom, goes by the time, the messages and the instructions pending. -/
theorem chAnswer_congr {s u : State} (env : u.env = s.env) (out : u.out = s.out) (seq : u.seq = s.seq) (p : ChParty) (st : Status)
    (slot off : Nat) : (chAnswer p st slot off u).out = (chAnswer p st slot off s).out
    ∧ (chAnswer p st slot off u).seq = (chAnswer p st slot off s).seq := by
  cases p with
  | agent h =>
    unfold chAnswer answer
    rw [env]
    exact emit_congr _ ((countNack_fields st u).1.trans (out.trans (countNack_fields st s).1.symm))
      ((countNack_fields st u).2.trans (seq.trans (countNack_fields st s).2.symm))
  | ctx c id => simp only [chAnswer, complete, pendOf, getCtx, env, out, seq, and_self]
  | gone _ => exact ⟨out, seq⟩

/-! ### Waiting RESERVE requests -/

/-- No check of the channel fails, and only RESERVE waits on it. -/
structure Reserving (s : State) (ch : Nat) : Prop where
  chan : (chanOf s ch).parityBad = false
  slot : ∀ k, (slotAt s ch k).parityBad = false
  waits : ∀ w ∈ s.ken.waits, w.ch = ch → w.take = false

/-- What serving RESERVE requests leaves as it was. -/
structure Reserved (ch : Nat) (s t : State) : Prop where
  chan : chanOf t ch = { chanOf s ch with pi := (chanOf t ch).pi }
  tgt : t.ken.tgt = s.ken.tgt
  saf : t.saf = s.saf
  kept : Untouched s t

theorem Reserved.trans {ch : Nat} {s t u : State} (h : Reserved ch s t) (k : Reserved ch t u) : Reserved ch s u :=
  ⟨by rw [k.chan, h.chan], k.tgt.trans h.tgt, k.saf.trans h.saf, h.kept.trans k.kept⟩

theorem checkSlot_passes {s : State} {ch k : Nat} (chan : (chanOf s ch).parityBad = false) (slot : (slotAt s ch k).parityBad = false) :
    checkSlot ch k s = s := by
  unfold checkSlot
  simp only [chan, slot, Bool.false_and, Bool.false_eq_true, if_false]

theorem tryReserve_reserves {ch : Nat} {p : ChParty} {s t : State} (h : tryReserve ch p s = some t) (r : Reserving s ch) :
    Reserved ch s t ∧ Reserving t ch := by
  unfold tryReserve at h
  dsimp only at h
  split at h
  · cases h
    generalize (if (slotAt s ch (chanOf s ch).pi).state = .poison then Status.poison else .ok) = st
    let handed : Slot := { state := .resv, holder := some p.holder, age := 0, commit := none, parityBad := false, since := s.env.sc }
    let v := setSlot ch (chanOf s ch).pi (fun _ => handed) s
    let u := setChan ch (fun c => { c with pi := nextIndex c.pi c.nslots.toNat }) v
    have spoken := chAnswer_spoken p st (chanOf s ch).pi (slotOffset (chanOf s ch) (chanOf s ch).pi) u
    have chan : chanOf u ch = { chanOf s ch with pi := nextIndex (chanOf s ch).pi (chanOf s ch).nslots.toNat } :=
      chanOf_setChan_self ..
    have slots (k : Nat) : (slotAt u ch k).parityBad = false := by
      show (slotAt v ch k).parityBad = false
      by_cases eq : k = (chanOf s ch).pi
      · rw [eq, slotAt_setSlot_self]
      · rw [slotAt_setSlot_ne _ _ (by omega)]
        exact r.slot k
    have kept : Untouched s u := {}
    show Reserved ch s (chAnswer p st _ _ u) ∧ Reserving (chAnswer p st _ _ u) ch
    generalize chAnswer p st (chanOf s ch).pi (slotOffset (chanOf s ch) (chanOf s ch).pi) u = t at *
    have same : chanOf t ch = chanOf u ch := by rw [chanOf, spoken.ken]; rfl
    refine ⟨⟨by rw [same, chan], by rw [spoken.ken]; rfl, by rw [spoken.saf]; rfl, kept.trans spoken.kept⟩, ?_, fun k => ?_, ?_⟩
    · rw [same, chan]
      exact r.chan
    · rw [slotAt, spoken.ken]
      exact slots k
    · rw [spoken.ken]
      exact r.waits
  · cases h

theorem serveOne_reserves {ch : Nat} {s t : State} (h : serveOne ch s = some t) (r : Reserving s ch) :
    Reserved ch s t ∧ Reserving t ch := by
  have noTake : (s.ken.waits.find? fun w => w.ch == ch && w.take == true) = none :=
    List.find?_eq_none.mpr fun w hw => by
      by_cases eq : w.ch = ch
      · simp [r.waits w hw eq]
      · simp [eq]
  simp only [serveOne, noTake] at h
  cases hf : s.ken.waits.find? fun w => w.ch == ch && w.take == false with
  | none => simp only [hf] at h; cases h
  | some w =>
    simp only [hf, checkSlot_passes r.chan (r.slot _), Bool.false_eq_true, if_false] at h
    by_cases muz : (chanOf s ch).muz = true
    · simp only [muz, if_true] at h
      cases h
      exact ⟨⟨rfl, rfl, rfl, {}⟩, r⟩
    · simp only [muz] at h
      cases ht : tryReserve ch w.party s with
      | none => rw [ht] at h; cases h
      | some u =>
        obtain ⟨res, again⟩ := tryReserve_reserves ht r
        rw [ht] at h
        cases h
        exact ⟨⟨res.chan, res.tgt, res.saf, res.kept.trans {}⟩, again.chan, again.slot,
          fun v hv => again.waits v (List.mem_of_mem_erase hv)⟩

theorem serveWaits_reserves {ch : Nat} (n : Nat) {s : State} (r : Reserving s ch) : Reserved ch s (serveWaits ch n s) := by
  induction n generalizing s with
  | zero => exact ⟨rfl, rfl, rfl, {}⟩
  | succ n ih =>
    unfold serveWaits
    cases h : serveOne ch s with
    | none => exact ⟨rfl, rfl, rfl, {}⟩
    | some t =>
      obtain ⟨res, again⟩ := serveOne_reserves h r
      exact res.trans (ih again)

theorem afterChange_reserves {ch : Nat} {s : State} (r : Reserving s ch) : Reserved ch s (afterChange ch s) := serveWaits_reserves _ r

end Sys2Proof.Proofs
end

section
/-! SUPPORT. Pushes (06_kennels_and_channels R178, R179, R186). -/

namespace Sys2Proof.Proofs

open Sys2Proof.Machine Sys2Proof.Safety Sys2Proof.Laws

set_option Elab.async false

/-! ### A POISON slot is passed over; a push ends -/

/-- The index after k of a channel. -/
theorem nextIndex_eq (k n : Nat) : nextIndex k n = if k + 1 < n then k + 1 else 0 := rfl

theorem report_reserving {s : State} {ch : Nat} (r : Reserving s ch) (ev react muz detail : Nat) :
    Reserving (report ev react muz detail s) ch := by
  have eq := report_saf ev react muz detail s
  generalize (report ev react muz detail s).saf = m at eq
  rw [eq]
  exact ⟨r.chan, r.slot, r.waits⟩

theorem setSlot_reserving {s : State} {ch k : Nat} {f : Slot → Slot} (r : Reserving s ch)
    (sound : ∀ x : Slot, x.parityBad = false → (f x).parityBad = false) : Reserving (setSlot ch k f s) ch := by
  refine ⟨r.chan, fun j => ?_, r.waits⟩
  by_cases eq : j = k
  · rw [eq, slotAt_setSlot_self]
    exact sound _ (r.slot k)
  · rw [slotAt_setSlot_ne _ _ (by omega)]
    exact r.slot j

theorem setChan_reserving {s : State} {ch : Nat} {f : Channel → Channel} (r : Reserving s ch)
    (sound : (f (chanOf s ch)).parityBad = false) : Reserving (setChan ch f s) ch :=
  ⟨by rw [chanOf_setChan_self]; exact sound, r.slot, r.waits⟩

section
variable {s : State} (hu : inUse s) {ch : Nat} (sound : ChannelsSound s)
include hu sound

/-- A POISON slot at CI is passed over, with a report (R186). -/
theorem pushStart_passes (next : pushNext s = some ch) (poison : (slotAt s ch (chanOf s ch).ci).state = .poison)
    (waits : ∀ w ∈ s.ken.waits, w.ch = ch → w.take = false) : ∃ u, exec .pushStart s = .next (afterChange ch u)
      ∧ Reserving u ch ∧ Untouched s u ∧ u.ken.waits = s.ken.waits ∧ u.out = s.out
      ∧ chanOf u ch = { chanOf s ch with ci := nextIndex (chanOf s ch).ci (chanOf s ch).nslots.toNat }
      ∧ slotAt u ch (chanOf s ch).ci = default
      ∧ u.saf = (report 0x31 2 0 (detailH ch (chanOf s ch).ci ((slotAt s ch (chanOf s ch).ci).holder.getD 0).toNat 0 0) s).saf := by
  have reserving : Reserving s ch := ⟨sound.chan ch, sound.slot ch, waits⟩
  have ready : pushReady s ch = true := List.find?_some next
  have on : (chanOf s ch).muz = false := by
    simp only [pushReady, Bool.and_eq_true, Bool.not_eq_true'] at ready
    exact ready.1.1.2
  have rep := report_saf 0x31 2 0 (detailH ch (chanOf s ch).ci ((slotAt s ch (chanOf s ch).ci).holder.getD 0).toNat 0 0) s
  have kept : Untouched s (report 0x31 2 0 (detailH ch (chanOf s ch).ci ((slotAt s ch (chanOf s ch).ci).holder.getD 0).toNat 0 0) s) :=
    report_untouched _ _ _ _ {}
  have again := report_reserving reserving 0x31 2 0
    (detailH ch (chanOf s ch).ci ((slotAt s ch (chanOf s ch).ci).holder.getD 0).toNat 0 0)
  have runs (u : State) (kept : Untouched s (afterChange ch u))
      (body : u = setChan ch (fun c => { c with ci := nextIndex c.ci c.nslots.toNat })
      (setSlot ch (chanOf s ch).ci (fun _ => default)
        (report 0x31 2 0 (detailH ch (chanOf s ch).ci ((slotAt s ch (chanOf s ch).ci).holder.getD 0).toNat 0 0) s))) :
      exec .pushStart s = .next (afterChange ch u) := by
    unfold exec execPushStart
    refine event_answers hu ?_ kept
    rw [next]
    dsimp only
    rw [checkSlot_sound sound, on, if_neg Bool.false_ne_true, if_pos poison, body]
  generalize report 0x31 2 0 (detailH ch (chanOf s ch).ci ((slotAt s ch (chanOf s ch).ci).holder.getD 0).toNat 0 0) s = v at *
  have emptied : Reserving (setSlot ch (chanOf s ch).ci (fun _ => default) v) ch := setSlot_reserving again fun _ _ => rfl
  have chan : chanOf v ch = chanOf s ch := by rw [rep]; rfl
  have ready' : Reserving (setChan ch (fun c => { c with ci := nextIndex c.ci c.nslots.toNat })
      (setSlot ch (chanOf s ch).ci (fun _ => default) v)) ch := setChan_reserving emptied emptied.chan
  refine ⟨_, runs _ ?_ rfl, ready', kept.trans {}, ?_, ?_, ?_, slotAt_setSlot_self v ch (chanOf s ch).ci (fun _ => default), rfl⟩
  · exact (kept.trans {}).trans (afterChange_reserves ready').kept
  · rw [rep]; rfl
  · rw [rep]; rfl
  · rw [chanOf_setChan_self]
    show ({ chanOf v ch with ci := nextIndex (chanOf v ch).ci (chanOf v ch).nslots.toNat } : Channel) = _
    rw [chan]

/-- The slot of a push that has ended (R178). -/
theorem pushEnd_frees (next : pushEnding s = some ch) (waits : ∀ w ∈ s.ken.waits, w.ch = ch → w.take = false) :
    ∃ u, exec .pushEnd s = .next (afterChange ch u)
      ∧ Reserving u ch ∧ Untouched s u ∧ u.ken.waits = s.ken.waits ∧ u.ken.tgt = s.ken.tgt ∧ u.saf = s.saf ∧ u.out = s.out
      ∧ chanOf u ch = { chanOf s ch with ci := nextIndex (chanOf s ch).ci (chanOf s ch).nslots.toNat, push := .idle }
      ∧ ((slotAt s ch (chanOf s ch).ci).state ≠ .poison → slotAt u ch (chanOf s ch).ci = default) := by
  have reserving : Reserving s ch := ⟨sound.chan ch, sound.slot ch, waits⟩
  let n := nextIndex (chanOf s ch).ci (chanOf s ch).nslots.toNat
  let v := if (slotAt s ch (chanOf s ch).ci).state = .poison then s else setSlot ch (chanOf s ch).ci (fun _ => default) s
  let w := setChan ch (fun c => { c with ci := n, push := .idle }) v
  let u := if (slotAt w ch n).state = .full then setSlot ch n (fun k => { k with since := w.env.sc }) w else w
  have emptied : Reserving v ch ∧ v = { s with ken := { s.ken with slots := v.ken.slots } }
      ∧ ((slotAt s ch (chanOf s ch).ci).state ≠ .poison → slotAt v ch (chanOf s ch).ci = default) := by
    dsimp only [v]
    split
    · next p => exact ⟨reserving, rfl, fun no => absurd p no⟩
    · exact ⟨setSlot_reserving reserving fun _ _ => rfl, rfl, fun _ => slotAt_setSlot_self ..⟩
  obtain ⟨rv, same, empty⟩ := emptied
  have chan : chanOf w ch = { chanOf s ch with ci := n, push := .idle } := by
    have old : chanOf v ch = chanOf s ch := by rw [same]; rfl
    rw [chanOf_setChan_self, old]
  have rw' : Reserving w ch := setChan_reserving rv rv.chan
  have restarted : Reserving u ch ∧ u = { w with ken := { w.ken with slots := u.ken.slots } }
      ∧ (slotAt w ch (chanOf s ch).ci = default → slotAt u ch (chanOf s ch).ci = default) := by
    dsimp only [u]
    split
    · next full =>
      refine ⟨setSlot_reserving rw' fun _ h => h, rfl, fun none => ?_⟩
      have apart : (chanOf s ch).ci ≠ n := fun eq => by
        rw [← eq, none] at full
        cases full
      rw [slotAt_setSlot_ne _ _ (by omega), none]
    · exact ⟨rw', rfl, id⟩
  obtain ⟨ru, same', stays⟩ := restarted
  have kept : Untouched s u := by
    rw [same']
    dsimp only [w]
    rw [same]
    exact {}
  refine ⟨u, ?_, ru, kept, ?_, ?_, ?_, ?_, ?_, fun no => stays (empty no)⟩
  · unfold exec execPushEnd
    refine event_answers hu ?_ (kept.trans (afterChange_reserves ru).kept)
    rw [next]
    dsimp only
    rw [checkSlot_sound sound]
  · rw [same']; dsimp only [w]; rw [same]; rfl
  · rw [same']; dsimp only [w]; rw [same]; rfl
  · rw [same']; dsimp only [w]; rw [same]; rfl
  · rw [same']; dsimp only [w]; rw [same]; rfl
  · rw [chanOf, same']
    exact chan

end

/-! ### Credits -/

/-- From s to u credits of the targets named have been taken for a push of the channel. -/
structure CreditsTaken (s : State) (ch : Nat) (taken : List Nat) (u : State) : Prop where
  same : u = { s with ken := { s.ken with ch := u.ken.ch, tgt := u.ken.tgt } }
  chan : chanOf u ch = { chanOf s ch with push := (chanOf u ch).push }
  targets : ∀ y, targetAt u y = { targetAt s y with
    credits := if y ∈ taken then (targetAt s y).credits - 1 else (targetAt s y).credits }

/-- A target with a credit gives it (R179). -/
theorem takeCredits_step {s : State} {ch start held x : Nat} {rest : List Nat} (on : (chanOf s ch).muz = false)
    (sound : (targetAt s x).parityBad = false) : takeCredits ch start held (x :: rest) s
      = if (targetAt s x).credits = 0 then setChan ch (fun c => { c with push := .reserving start held }) s
        else takeCredits ch start (held + 1) rest (setTarget x (fun t => { t with credits := t.credits - 1 })
          (setChan ch (fun c => { c with push := .reserving start held }) s)) := by
  let u := setChan ch (fun c => { c with push := .reserving start held }) s
  have check : checkTarget x u = u := if_neg (by rw [show targetAt u x = targetAt s x from rfl, sound]; decide)
  have muz : (chanOf u ch).muz = false := by
    rw [chanOf_setChan_self]
    exact on
  show (if (chanOf (checkTarget x u) ch).muz || (targetAt (checkTarget x u) x).credits == 0 then checkTarget x u else _) = _
  rw [check, muz, Bool.false_or]
  simp only [beq_iff_eq]
  rfl

/-- The credits of the targets ahead of the others are taken, where each has one. -/
theorem takeCredits_takes {ch start : Nat} (ahead rest : List Nat) (held : Nat) {s : State} (on : (chanOf s ch).muz = false)
    (sound : ∀ y, (targetAt s y).parityBad = false) (once : ahead.Nodup) (has : ∀ y ∈ ahead, 1 ≤ (targetAt s y).credits) :
    ∃ u, takeCredits ch start held (ahead ++ rest) s = takeCredits ch start (held + ahead.length) rest u
      ∧ CreditsTaken s ch ahead u := by
  induction ahead generalizing held s with
  | nil => exact ⟨s, rfl, rfl, rfl, fun y => rfl⟩
  | cons x ahead ih =>
    obtain ⟨apart, once⟩ := List.nodup_cons.1 once
    let v := setTarget x (fun t => { t with credits := t.credits - 1 }) (setChan ch (fun c => { c with push := .reserving start held }) s)
    have some' : (targetAt s x).credits ≠ 0 := Nat.one_le_iff_ne_zero.1 (has x List.mem_cons_self)
    have chan : chanOf v ch = { chanOf s ch with push := .reserving start held } :=
      chanOf_setChan_self s ch (fun c => { c with push := .reserving start held })
    have self : targetAt v x = { targetAt s x with credits := (targetAt s x).credits - 1 } := targetAt_setTarget_self ..
    have others {y : Nat} (h : y ≠ x) : targetAt v y = targetAt s y := targetAt_setTarget_ne _ _ h
    have sound' (y : Nat) : (targetAt v y).parityBad = false := by
      by_cases eq : y = x
      · rw [eq, self]
        exact sound x
      · rw [others eq]
        exact sound y
    obtain ⟨u, runs, same, chan', targets⟩ := ih (held + 1) (s := v) (by rw [chan]; exact on) sound' once fun y hy => by
      rw [others fun eq => apart (eq ▸ hy)]
      exact has y (List.mem_cons_of_mem x hy)
    refine ⟨u, ?_, same, by rw [chan', chan], fun y => ?_⟩
    · rw [List.cons_append, takeCredits_step on (sound x), if_neg some', List.length_cons, Nat.add_comm ahead.length, ← Nat.add_assoc]
      exact runs
    · rw [targets]
      by_cases eq : y = x
      · subst eq
        rw [self, if_neg apart, if_pos List.mem_cons_self]
      · have mem : y ∈ x :: ahead ↔ y ∈ ahead := ⟨fun h => (List.mem_cons.1 h).resolve_left eq, List.mem_cons_of_mem x⟩
        rw [others eq]
        simp only [mem]

section
variable {s : State} (hu : inUse s) {ch : Nat} (sound : ChannelsSound s) (next : pushNext s = some ch)
  (data : (slotAt s ch (chanOf s ch).ci).state ≠ .poison)
include hu sound next data

omit hu sound data in
theorem pushNext_on : (chanOf s ch).muz = false := by
  have ready : pushReady s ch = true := List.find?_some next
  simp only [pushReady, Bool.and_eq_true, Bool.not_eq_true'] at ready
  exact ready.1.1.2

theorem pushStart_takes {t : State} (body : takeCredits ch s.env.sc 0 (chanOf s ch).litter s = t) (kept : Untouched s t) :
    exec .pushStart s = .next t := by
  unfold exec execPushStart
  refine event_answers hu ?_ kept
  rw [next]
  dsimp only
  rw [checkSlot_sound sound, pushNext_on next, if_neg Bool.false_ne_true, if_neg data, body]

/-- A push stops at the first target that has no credit (R179). -/
theorem pushStart_stops {j x : Nat} (at' : (chanOf s ch).litter[j]? = some x) (none : (targetAt s x).credits = 0)
    (has : ∀ i y, i < j → (chanOf s ch).litter[i]? = some y → 1 ≤ (targetAt s y).credits) : ∃ t, exec .pushStart s = .next t
      ∧ chanOf t ch = { chanOf s ch with push := .reserving s.env.sc j }
      ∧ (∀ y, targetAt t y = { targetAt s y with
          credits := if y ∈ (chanOf s ch).litter.take j then (targetAt s y).credits - 1 else (targetAt s y).credits })
      ∧ slotAt t ch (chanOf s ch).ci = slotAt s ch (chanOf s ch).ci ∧ t.out = s.out := by
  have once := litter_nodup (chanOf s ch)
  have lt : j < (chanOf s ch).litter.length := (List.getElem?_eq_some_iff.1 at').1
  have split : (chanOf s ch).litter = (chanOf s ch).litter.take j ++ x :: (chanOf s ch).litter.drop (j + 1) := by
    rw [← (List.getElem?_eq_some_iff.1 at').2, ← List.drop_eq_getElem_cons lt, List.take_append_drop]
  have len : ((chanOf s ch).litter.take j).length = j := by rw [List.length_take]; omega
  have apart : x ∉ (chanOf s ch).litter.take j := fun mem => by
    rw [split] at once
    exact (List.nodup_append.1 once).2.2 x mem x List.mem_cons_self rfl
  obtain ⟨u, runs, taken⟩ := takeCredits_takes (ch := ch) (start := s.env.sc) ((chanOf s ch).litter.take j)
    (x :: (chanOf s ch).litter.drop (j + 1)) 0 (pushNext_on next) sound.target
    ((List.take_sublist j _).nodup once) fun y hy => by
    obtain ⟨i, hi, eq⟩ := List.getElem_of_mem hy
    rw [List.length_take] at hi
    rw [List.getElem_take] at eq
    exact has i y (by omega) (List.getElem?_eq_some_iff.2 ⟨by omega, eq⟩)
  obtain ⟨same, chan, targets⟩ := taken
  have on : (chanOf u ch).muz = false := by
    rw [chan]
    exact pushNext_on next
  have empty : (targetAt u x).credits = 0 := by
    rw [targets, if_neg apart]
    exact none
  have clean : (targetAt u x).parityBad = false := by
    rw [targets]
    exact sound.target x
  refine ⟨setChan ch (fun c => { c with push := .reserving s.env.sc j }) u, pushStart_takes hu sound next data ?_ ?_, ?_, targets, ?_, ?_⟩
  · rw [split, runs, takeCredits_step on clean, if_pos empty, len, Nat.zero_add]
  · rw [same]
    exact {}
  · rw [chanOf_setChan_self, chan]
  · rw [same]
    rfl
  · rw [same]
    rfl

end

end Sys2Proof.Proofs
end

section
/-! SUPPORT. A push that starts, and one whose budget ends (06_kennels_and_channels R178, R179). -/

namespace Sys2Proof.Proofs

open Sys2Proof.Machine Sys2Proof.Safety Sys2Proof.Laws

set_option Elab.async false

/-! ### A push starts -/

/-- The answer to the COMMIT of a slot. -/
def commitAnswered (k : Slot) (st : Status) (s : State) : State :=
  match k.commit with
  | some q => chAnswer q.1 st 0 0 s
  | none => s

theorem commitAnswered_spoken (k : Slot) (st : Status) (s : State) : Spoken s (commitAnswered k st s) := by
  unfold commitAnswered
  split
  · exact chAnswer_spoken ..
  · exact ⟨rfl, rfl, rfl, rfl, rfl, rfl, {}⟩

theorem commitAnswered_congr {s u : State} (env : u.env = s.env) (out : u.out = s.out) (seq : u.seq = s.seq) (k : Slot) (st : Status) :
    (commitAnswered k st u).out = (commitAnswered k st s).out ∧ (commitAnswered k st u).seq = (commitAnswered k st s).seq := by
  unfold commitAnswered
  split
  · exact chAnswer_congr env out seq ..
  · exact ⟨out, seq⟩

/-- The slot of a push that has started. -/
def pushedSlot (sc : Nat) (k : Slot) : Slot := { k with state := .taken, holder := none, age := 0, commit := none, since := sc }

/-- The class that a push of a slot is sent in. -/
def pushClass (k : Slot) : Nat :=
  match k.commit with
  | some q => q.2
  | none => 0

/-- The slot at CI is read for its push, its commit answered (R178). -/
def pushRead (ch : Nat) (s : State) : List CodeWord × State :=
  engineRead 5 (pushClass (slotAt s ch (chanOf s ch).ci)) (slotOffset (chanOf s ch) (chanOf s ch).ci) (chanOf s ch).slotBytes
    (let u := commitAnswered (slotAt s ch (chanOf s ch).ci) .ok s
     setSlot ch (chanOf s ch).ci (pushedSlot u.env.sc) u)

/-- The flits of a push (R180). -/
def pushFlits (ch : Nat) (s : State) : List OutMsg :=
  (slotSectors (slotOffset (chanOf s ch) (chanOf s ch).ci) (pushRead ch s).1).flatMap fun q =>
    ((chanOf s ch).litter.map (targetAt (pushRead ch s).2)).map fun t =>
      pushFlit (pushRead ch s).2 ch (chanOf s ch).ci (pushClass (slotAt s ch (chanOf s ch).ci)) q.1
        (decide (q.1 + 32 * q.2.length = (chanOf s ch).slotBytes)) q.2 t

/-- The next buffer of a target is used (R181). -/
def nextBuffer (t : Target) : Target := { t with next := nextIndex t.next t.nbuf.toNat }

theorem startPush_eq (ch : Nat) (s : State) : startPush ch s = setChan ch (fun c => { c with push := .pushing })
    ((chanOf s ch).litter.foldl (fun s x => setTarget x nextBuffer s)
      (passTxn ((pushFlits ch s).foldl (fun s m => emit m s) (pushRead ch s).2))) := rfl

theorem emits_mesh (ms : List OutMsg) (mesh : ∀ m ∈ ms, m.port ≠ .xp) (s : State) : ms.foldl (fun s m => emit m s) s = handed ms s := by
  induction ms generalizing s with
  | nil => exact (congrArg (fun l => ({ s with out := { s.out with egress := l } } : State)) (List.append_nil s.out.egress)).symm
  | cons m ms ih =>
    rw [List.foldl_cons, ih fun n hn => mesh n (List.mem_cons_of_mem m hn), emit, if_neg (mesh m List.mem_cons_self)]
    exact congrArg (fun l => ({ s with out := { s.out with egress := l } } : State)) (List.append_assoc ..)

theorem pushFlit_mesh (s : State) (ch k cls off : Nat) (last : Bool) (words : List CodeWord) (t : Target) :
    (pushFlit s ch k cls off last words t).port ≠ .xp := by
  show (if t.agent.toNat = 255 then (if bit (0 : LineAddr) 0 then Port.mpb else .mpa)
    else (if t.agent.toNat % 2 = 0 then .mpa else .mpb)) ≠ .xp
  split <;> split <;> nofun

/-- From s to t a push of the channel has started (R178, R180, R181). -/
structure PushStarted (s : State) (ch : Nat) (t : State) : Prop where
  chan : chanOf t ch = { chanOf s ch with push := .pushing }
  slot : slotAt t ch (chanOf s ch).ci = pushedSlot s.env.sc (slotAt s ch (chanOf s ch).ci)
  targets : ∀ x ∈ (chanOf s ch).litter, targetAt t x = nextBuffer (targetAt s x)
  flits : ∃ ms, t.out.egress = (commitAnswered (slotAt s ch (chanOf s ch).ci) .ok s).out.egress ++ ms
    ∧ ∀ m ∈ ms, m.op = 0xD ∧ m.cls = .rsp ∧ m.ready = s.env.sc + 20 ∧ m.tx = .push ch
      ∧ m.label = pushClass (slotAt s ch (chanOf s ch).ci)
      ∧ ∃ x ∈ (chanOf s ch).litter, m.dstAgent = (targetAt s x).agent.toNat ∧ m.dstDie = (targetAt s x).die.toNat
  kept : Untouched s t

theorem startPush_starts {s : State} (idle : idleArray s) (ch : Nat) : PushStarted s ch (startPush ch s) := by
  have spoken := commitAnswered_spoken (slotAt s ch (chanOf s ch).ci) .ok s
  rw [startPush_eq]
  unfold pushFlits
  have aside : ReadAside (setSlot ch (chanOf s ch).ci (pushedSlot (commitAnswered (slotAt s ch (chanOf s ch).ci) .ok s).env.sc)
      (commitAnswered (slotAt s ch (chanOf s ch).ci) .ok s)) (pushRead ch s).2 :=
    engineRead_aside (s := setSlot ch (chanOf s ch).ci (pushedSlot (commitAnswered (slotAt s ch (chanOf s ch).ci) .ok s).env.sc)
      (commitAnswered (slotAt s ch (chanOf s ch).ci) .ok s)) ⟨spoken.accs.trans idle.1, spoken.reads.trans idle.2⟩ ..
  generalize answered : commitAnswered (slotAt s ch (chanOf s ch).ci) .ok s = u at *
  generalize pushRead ch s = read at *
  have ken : read.2.ken = (setSlot ch (chanOf s ch).ci (pushedSlot s.env.sc) s).ken := by
    rw [aside.ken, setSlot, spoken.ken, spoken.env]
    rfl
  have sc : read.2.env.sc = s.env.sc := by
    rw [aside.env, ← spoken.env]
    rfl
  have out : read.2.out = u.out := by
    rw [aside.out]
    rfl
  have kept : Untouched s read.2 := (spoken.kept.trans {}).trans aside.kept
  have target (x : Nat) : targetAt read.2 x = targetAt s x := by
    rw [targetAt, ken]
    rfl
  generalize hms : (slotSectors (slotOffset (chanOf s ch) (chanOf s ch).ci) read.1).flatMap (fun q =>
    ((chanOf s ch).litter.map (targetAt read.2)).map fun t =>
      pushFlit read.2 ch (chanOf s ch).ci (pushClass (slotAt s ch (chanOf s ch).ci)) q.1
        (decide (q.1 + 32 * q.2.length = (chanOf s ch).slotBytes)) q.2 t) = ms
  have flits : ∀ m ∈ ms, ∃ q : Nat × List CodeWord, ∃ x ∈ (chanOf s ch).litter, m = pushFlit read.2 ch (chanOf s ch).ci
      (pushClass (slotAt s ch (chanOf s ch).ci)) q.1 (decide (q.1 + 32 * q.2.length = (chanOf s ch).slotBytes)) q.2 (targetAt s x) := by
    intro m hm
    rw [← hms] at hm
    obtain ⟨q, -, hm⟩ := List.mem_flatMap.1 hm
    obtain ⟨t, ht, rfl⟩ := List.mem_map.1 hm
    obtain ⟨x, hx, rfl⟩ := List.mem_map.1 ht
    exact ⟨q, x, hx, by rw [target]⟩
  rw [emits_mesh ms fun m hm => by obtain ⟨q, x, -, rfl⟩ := flits m hm; exact pushFlit_mesh _ _ _ _ _ _ _ _]
  obtain ⟨same, targets⟩ := targets_changed nextBuffer (chanOf s ch).litter (litter_nodup _) (passTxn (handed ms read.2))
  generalize (chanOf s ch).litter.foldl (fun s x => setTarget x nextBuffer s) (passTxn (handed ms read.2)) = v at *
  refine ⟨?_, ?_, fun x hx => ?_, ⟨ms, ?_, fun m hm => ?_⟩, ?_⟩
  · rw [chanOf_setChan_self]
    have old : chanOf v ch = chanOf s ch := by
      rw [same]
      show tget default read.2.ken.ch ch = _
      rw [ken]
      rfl
    rw [old]
  · rw [same]
    show tget default read.2.ken.slots (ch * 65536 + (chanOf s ch).ci) = _
    rw [ken]
    exact slotAt_setSlot_self ..
  · exact ((targets x).trans (if_pos hx)).trans (congrArg nextBuffer (target x))
  · rw [same]
    rw [answered]
    exact congrArg (fun o : Out => o.egress ++ ms) out
  · obtain ⟨q, x, hx, rfl⟩ := flits m hm
    exact ⟨rfl, rfl, by rw [← sc]; rfl, rfl, rfl, x, hx, rfl, rfl⟩
  · rw [same]
    exact kept.trans {}

/-- A push starts where every target has a credit (R178). -/
theorem pushStart_starts {s : State} (hu : inUse s) {ch : Nat} (sound : ChannelsSound s) (next : pushNext s = some ch)
    (data : (slotAt s ch (chanOf s ch).ci).state ≠ .poison) (has : ∀ x ∈ (chanOf s ch).litter, 1 ≤ (targetAt s x).credits)
    (idle : idleArray s) : ∃ t ms, exec .pushStart s = .next t
      ∧ chanOf t ch = { chanOf s ch with push := .pushing }
      ∧ slotAt t ch (chanOf s ch).ci = pushedSlot s.env.sc (slotAt s ch (chanOf s ch).ci)
      ∧ (∀ x ∈ (chanOf s ch).litter, targetAt t x = nextBuffer { targetAt s x with credits := (targetAt s x).credits - 1 })
      ∧ t.out.egress = (commitAnswered (slotAt s ch (chanOf s ch).ci) .ok s).out.egress ++ ms
      ∧ (∀ m ∈ ms, m.op = 0xD ∧ m.cls = .rsp ∧ m.ready = s.env.sc + 20 ∧ m.tx = .push ch
          ∧ m.label = pushClass (slotAt s ch (chanOf s ch).ci)
          ∧ ∃ x ∈ (chanOf s ch).litter, m.dstAgent = (targetAt s x).agent.toNat ∧ m.dstDie = (targetAt s x).die.toNat) := by
  obtain ⟨u, runs, same, chan, targets⟩ := takeCredits_takes (ch := ch) (start := s.env.sc) (chanOf s ch).litter [] 0 (pushNext_on next)
    sound.target (litter_nodup _) has
  rw [List.append_nil] at runs
  have starts := startPush_starts (s := u) (by rw [same]; exact idle) ch
  have kept : Untouched s u := by
    rw [same]
    exact {}
  have ci : (chanOf u ch).ci = (chanOf s ch).ci := by rw [chan]
  have litter : (chanOf u ch).litter = (chanOf s ch).litter := by rw [chan]; rfl
  have slot (k : Nat) : slotAt u ch k = slotAt s ch k := by rw [same]; rfl
  have answered : (commitAnswered (slotAt s ch (chanOf s ch).ci) .ok u).out = (commitAnswered (slotAt s ch (chanOf s ch).ci) .ok s).out :=
    (commitAnswered_congr (by rw [same]) (by rw [same]) (by rw [same]) ..).1
  have sc : u.env.sc = s.env.sc := by rw [same]
  obtain ⟨chan', slot', targets', ⟨ms, egress, flits⟩, kept'⟩ := starts
  rw [ci, slot] at slot'
  rw [ci, slot, answered] at egress
  rw [litter] at targets' flits
  rw [ci, slot, sc] at flits
  refine ⟨startPush ch u, ms, pushStart_takes hu sound next data runs (kept.trans kept'), by rw [chan', chan], sc ▸ slot', fun x hx => ?_,
    egress, fun m hm => ?_⟩
  · rw [targets' x hx, targets, if_pos hx]
  · obtain ⟨op, cls, ready, tx, label, x, hx, agent, die⟩ := flits m hm
    rw [targets] at agent die
    exact ⟨op, cls, ready, tx, label, x, hx, agent, die⟩

/-! ### The budget of a push ends -/

/-- A target gets a credit back (R179). -/
def creditBack (t : Target) : Target := { t with credits := t.credits + 1 }

theorem returnCredits_reserving {s : State} {ch start held : Nat} (push : (chanOf s ch).push = .reserving start held) :
    returnCredits ch s = setChan ch (fun c => { c with push := .idle })
      (((chanOf s ch).litter.take held).foldl (fun s x => setTarget x creditBack s) s) := by
  unfold returnCredits
  rw [push]
  rfl

/-- What the return of credits leaves as it was. -/
theorem returnCredits_returns {s : State} {ch start held : Nat} (push : (chanOf s ch).push = .reserving start held) :
    returnCredits ch s = { s with ken := { s.ken with ch := (returnCredits ch s).ken.ch, tgt := (returnCredits ch s).ken.tgt } }
    ∧ chanOf (returnCredits ch s) ch = { chanOf s ch with push := .idle }
    ∧ ∀ y, targetAt (returnCredits ch s) y = { targetAt s y with
        credits := if y ∈ (chanOf s ch).litter.take held then (targetAt s y).credits + 1 else (targetAt s y).credits } := by
  rw [returnCredits_reserving push]
  obtain ⟨same, targets⟩ := targets_changed creditBack ((chanOf s ch).litter.take held)
    ((List.take_sublist held _).nodup (litter_nodup _)) s
  generalize ((chanOf s ch).litter.take held).foldl (fun s x => setTarget x creditBack s) s = v at *
  refine ⟨?_, ?_, fun y => ?_⟩
  · rw [setChan, same]
  · rw [chanOf_setChan_self, same]
    rfl
  · show targetAt v y = _
    rw [targets]
    split <;> rfl

/-- The slot goes back to its producer, and its COMMIT is answered, when the budget of its push ends (R179). -/
theorem litterBudgetEnd_returns {s : State} (hu : inUse s) {ch start held : Nat} (ending : budgetEnding s = some ch)
    (push : (chanOf s ch).push = .reserving start held) : ∃ t, exec .litterBudgetEnd s = .next t
      ∧ start + 2 ^ ((chanOf s ch).lb.toNat + 8) ≤ s.env.sc
      ∧ chanOf t ch = { chanOf s ch with push := .idle }
      ∧ (∀ q, (slotAt s ch (chanOf s ch).ci).commit = some q → slotAt t ch (chanOf s ch).ci =
          { slotAt s ch (chanOf s ch).ci with
            state := .resv, holder := some q.1.holder, age := 0, commit := none, since := s.env.sc })
      ∧ (∀ y, targetAt t y = { targetAt s y with
          credits := if y ∈ (chanOf s ch).litter.take held then (targetAt s y).credits + 1 else (targetAt s y).credits })
      ∧ t.out = (commitAnswered (slotAt s ch (chanOf s ch).ci) .litterBusy s).out
      ∧ t.seq = (commitAnswered (slotAt s ch (chanOf s ch).ci) .litterBusy s).seq ∧ t.saf = s.saf := by
  have spent : start + 2 ^ ((chanOf s ch).lb.toNat + 8) ≤ s.env.sc := by
    have due : budgetOver s ch = true := List.find?_some ending
    rw [budgetOver, push] at due
    exact of_decide_eq_true due
  obtain ⟨same, chan, targets⟩ := returnCredits_returns push
  have runs {t : State} (body : (match (slotAt s ch (chanOf s ch).ci).commit with
      | none => returnCredits ch s
      | some q => chAnswer q.1 .litterBusy 0 0 (setSlot ch (chanOf s ch).ci (fun k =>
          { k with state := .resv, holder := some q.1.holder, age := 0, commit := none
                   since := (returnCredits ch s).env.sc }) (returnCredits ch s))) = t) (kept : Untouched s t) :
      exec .litterBudgetEnd s = .next t := by
    unfold exec execLitterBudgetEnd
    refine event_answers hu ?_ kept
    rw [ending]
    exact body
  generalize returnCredits ch s = u at *
  have kept : Untouched s u := by
    rw [same]
    exact {}
  unfold commitAnswered
  cases commit : (slotAt s ch (chanOf s ch).ci).commit with
  | none =>
    rw [commit] at runs
    refine ⟨u, runs rfl kept, spent, chan, nofun, targets, ?_, ?_, ?_⟩ <;> rw [same]
  | some q =>
    rw [commit] at runs
    dsimp only at runs
    generalize hf : (fun k : Slot => { k with state := .resv, holder := some q.1.holder, age := 0, commit := none
                                              since := u.env.sc }) = f at runs
    have spoken := chAnswer_spoken q.1 .litterBusy 0 0 (setSlot ch (chanOf s ch).ci f u)
    obtain ⟨out, seq⟩ := chAnswer_congr (s := s) (u := setSlot ch (chanOf s ch).ci f u) (by rw [same]; rfl) (by rw [same]; rfl)
      (by rw [same]; rfl) q.1 .litterBusy 0 0
    refine ⟨_, runs rfl ((kept.trans {}).trans spoken.kept), spent, ?_, fun q' eq => ?_, fun y => ?_, out, seq, ?_⟩
    · rw [chanOf, spoken.ken]
      exact chan
    · cases eq
      rw [slotAt, spoken.ken]
      refine (slotAt_setSlot_self u ch (chanOf s ch).ci f).trans ?_
      rw [← hf, same]
      rfl
    · rw [targetAt, spoken.ken]
      exact targets y
    · rw [spoken.saf, same]
      rfl

end Sys2Proof.Proofs
end

section
/-! SUPPORT. Slot watchdogs that expire (06_kennels_and_channels R183, R184). -/

namespace Sys2Proof.Proofs

open Sys2Proof.Machine Sys2Proof.Safety Sys2Proof.Laws

set_option Elab.async false

/-! ### Channels that are muzzled -/

/-- What the answers of a channel that is muzzled leave as it was: who holds each slot, and in which state. -/
structure SlotsStand (s t : State) : Prop where
  slots : ∀ c k, (slotAt t c k).state = (slotAt s c k).state ∧ (slotAt t c k).holder = (slotAt s c k).holder
  saf : t.saf = s.saf
  kept : Untouched s t

theorem SlotsStand.trans {s t u : State} (h : SlotsStand s t) (k : SlotsStand t u) : SlotsStand s u :=
  ⟨fun c j => ⟨(k.slots c j).1.trans (h.slots c j).1, (k.slots c j).2.trans (h.slots c j).2⟩, k.saf.trans h.saf, h.kept.trans k.kept⟩

theorem slotAt_key {c k d j : Nat} (h : c * 65536 + k = d * 65536 + j) (s : State) : slotAt s c k = slotAt s d j :=
  congrArg (tget default s.ken.slots) h

theorem chAnswer_stand (p : ChParty) (st : Status) (slot off : Nat) (s : State) : SlotsStand s (chAnswer p st slot off s) := by
  have spoken := chAnswer_spoken p st slot off s
  exact ⟨fun c k => by rw [slotAt, spoken.ken]; exact ⟨rfl, rfl⟩, spoken.saf, spoken.kept⟩

theorem setSlot_stand (ch k : Nat) {f : Slot → Slot} (same : ∀ x : Slot, (f x).state = x.state ∧ (f x).holder = x.holder) (s : State) :
    SlotsStand s (setSlot ch k f s) := by
  refine ⟨fun c j => ?_, rfl, {}⟩
  by_cases eq : c * 65536 + j = ch * 65536 + k
  · rw [slotAt_key eq, slotAt_key eq, slotAt_setSlot_self]
    exact same _
  · rw [slotAt_setSlot_ne s f eq]
    exact ⟨rfl, rfl⟩

theorem answerWaiting_stand (ch : Nat) (st : Status) (s : State) : SlotsStand s (answerWaiting ch st s) := by
  unfold answerWaiting
  dsimp only
  refine List.foldlRecOn (motive := SlotsStand s) _ _ ?_ fun t h w _ => h.trans (chAnswer_stand ..)
  refine List.foldlRecOn (motive := SlotsStand s) _ _ ⟨fun _ _ => ⟨rfl, rfl⟩, rfl, {}⟩ fun t h q _ => ?_
  exact (h.trans (setSlot_stand ch q.1 (f := fun k => { k with commit := none }) (fun _ => ⟨rfl, rfl⟩) t)).trans (chAnswer_stand ..)

/-- What the return of credits leaves of the channels. -/
theorem returnCredits_chans (ch : Nat) (s : State) :
    returnCredits ch s = { s with ken := { s.ken with ch := (returnCredits ch s).ken.ch, tgt := (returnCredits ch s).ken.tgt } }
    ∧ (∀ c, c ≠ ch → chanOf (returnCredits ch s) c = chanOf s c) ∧ (chanOf (returnCredits ch s) ch).muz = (chanOf s ch).muz := by
  cases push : (chanOf s ch).push with
  | reserving start held =>
    obtain ⟨same, chan, -⟩ := returnCredits_returns push
    refine ⟨same, fun c h => ?_, by rw [chan]⟩
    rw [returnCredits_reserving push, chanOf_setChan_ne _ _ h]
    rw [(targets_changed creditBack ((chanOf s ch).litter.take held) ((List.take_sublist held _).nodup (litter_nodup _)) s).1]
    rfl
  | idle =>
    have same : returnCredits ch s = s := by rw [returnCredits, push]
    rw [same]
    exact ⟨rfl, fun _ _ => rfl, rfl⟩
  | pushing =>
    have same : returnCredits ch s = s := by rw [returnCredits, push]
    rw [same]
    exact ⟨rfl, fun _ _ => rfl, rfl⟩

/-- From s to t the channel has been muzzled (R184). -/
structure ChannelMuzzled (ch : Nat) (s t : State) : Prop where
  stand : SlotsStand s t
  others : ∀ c, c ≠ ch → chanOf t c = chanOf s c
  muz : (chanOf t ch).muz = true
  waits : ∀ w ∈ t.ken.waits, w ∈ s.ken.waits
  answered : (chanOf s ch).muz = false → ∀ w ∈ t.ken.waits, w.ch ≠ ch

theorem muzzleChannel_muzzles (ch : Nat) (s : State) : ChannelMuzzled ch s (muzzleChannel ch s) := by
  unfold muzzleChannel
  split
  · next on => exact ⟨⟨fun _ _ => ⟨rfl, rfl⟩, rfl, {}⟩, fun _ _ => rfl, on, fun _ h => h,
      fun off => absurd (on.symm.trans off) (by decide)⟩
  · have marked : (chanOf (setChan ch (fun c => { c with muz := true }) s) ch).muz = true := by rw [chanOf_setChan_self]
    have others (c : Nat) (h : c ≠ ch) := chanOf_setChan_ne s (fun c : Channel => { c with muz := true }) h
    have saf : (setChan ch (fun c => { c with muz := true }) s) = { s with ken := { s.ken with
      ch := (setChan ch (fun c => { c with muz := true }) s).ken.ch } } := rfl
    generalize setChan ch (fun c => { c with muz := true }) s = u at *
    obtain ⟨same, others', muz⟩ := returnCredits_chans ch u
    generalize returnCredits ch u = v at *
    have stand := answerWaiting_stand ch .muzzled v
    obtain ⟨chans, waits⟩ := answerWaiting_answered ch .muzzled v
    generalize answerWaiting ch .muzzled v = t at *
    have before : SlotsStand s v := by
      rw [same, saf]
      exact ⟨fun _ _ => ⟨rfl, rfl⟩, rfl, {}⟩
    have chan (c : Nat) : chanOf t c = chanOf v c := by rw [chanOf, chans]; rfl
    have left : t.ken.waits = s.ken.waits.filter fun w => w.ch != ch := by
      rw [waits, same, saf]
    refine ⟨before.trans stand, fun c h => ((chan c).trans (others' c h)).trans (others c h), by rw [chan, muz, marked], fun w hw => ?_,
      fun _ w hw => ?_⟩
    · rw [left] at hw
      exact (List.mem_filter.1 hw).1
    · rw [left] at hw
      exact bne_iff_ne.1 (List.mem_filter.1 hw).2

/-- From s to t the channels of the slots named have been muzzled. -/
structure ChannelsMuzzled (due : List (Nat × Slot)) (s t : State) : Prop where
  stand : SlotsStand s t
  others : ∀ c, (∀ p ∈ due, p.1 / 65536 ≠ c) → chanOf t c = chanOf s c
  muz : ∀ p ∈ due, (chanOf t (p.1 / 65536)).muz = true
  waits : ∀ w ∈ t.ken.waits, w ∈ s.ken.waits
  answered : ∀ p ∈ due, (chanOf s (p.1 / 65536)).muz = false → ∀ w ∈ t.ken.waits, w.ch ≠ p.1 / 65536

theorem muzzleChannels_muzzle (due : List (Nat × Slot)) (s : State) :
    ChannelsMuzzled due s (due.foldl (fun s p => muzzleChannel (p.1 / 65536) s) s) := by
  induction due generalizing s with
  | nil => exact ⟨⟨fun _ _ => ⟨rfl, rfl⟩, rfl, {}⟩, fun _ _ => rfl, nofun, fun _ h => h, nofun⟩
  | cons p due ih =>
    obtain ⟨stand, others, muz, waits, answered⟩ := muzzleChannel_muzzles (p.1 / 65536) s
    obtain ⟨stand', others', muz', waits', answered'⟩ := ih (muzzleChannel (p.1 / 65536) s)
    rw [List.foldl_cons]
    generalize due.foldl (fun s p => muzzleChannel (p.1 / 65536) s) (muzzleChannel (p.1 / 65536) s) = t at *
    generalize muzzleChannel (p.1 / 65536) s = u at *
    refine ⟨stand.trans stand', fun c h => ?_, fun q hq => ?_, fun w hw => waits w (waits' w hw), fun q hq off w hw => ?_⟩
    · rw [others' c fun q hq => h q (List.mem_cons_of_mem p hq), others c (h p List.mem_cons_self).symm]
    · by_cases mem : ∃ r ∈ due, r.1 / 65536 = q.1 / 65536
      · obtain ⟨r, hr, eq⟩ := mem
        exact eq ▸ muz' r hr
      · have eq : q = p := (List.mem_cons.1 hq).resolve_right fun h => mem ⟨q, h, rfl⟩
        rw [others' _ fun r hr eq => mem ⟨r, hr, eq⟩, eq]
        exact muz
    · by_cases same : q.1 / 65536 = p.1 / 65536
      · rw [same] at off ⊢
        exact answered off w (waits' w hw)
      · refine answered' q ((List.mem_cons.1 hq).resolve_left fun eq => same (by rw [eq])) ?_ w hw
        rw [others _ same]
        exact off

/-! ### Expired slots -/

/-- The slots named become POISON, and no other changes (R183). -/
theorem slots_spoiled (due : List (Nat × Slot)) (s : State) :
    (due.foldl (fun s p => setSlot (p.1 / 65536) (p.1 % 65536) (Slot.spoil s.env.sc) s) s)
      = { s with ken := { s.ken with
          slots := (due.foldl (fun s p => setSlot (p.1 / 65536) (p.1 % 65536) (Slot.spoil s.env.sc) s) s).ken.slots } }
    ∧ ∀ c k, ((∃ p ∈ due, p.1 = c * 65536 + k) →
        (slotAt (due.foldl (fun s p => setSlot (p.1 / 65536) (p.1 % 65536) (Slot.spoil s.env.sc) s) s) c k).state = .poison
        ∧ (slotAt (due.foldl (fun s p => setSlot (p.1 / 65536) (p.1 % 65536) (Slot.spoil s.env.sc) s) s) c k).holder = none)
      ∧ ((∀ p ∈ due, p.1 ≠ c * 65536 + k) →
        slotAt (due.foldl (fun s p => setSlot (p.1 / 65536) (p.1 % 65536) (Slot.spoil s.env.sc) s) s) c k = slotAt s c k) := by
  induction due generalizing s with
  | nil => exact ⟨rfl, fun c k => ⟨nofun, fun _ => rfl⟩⟩
  | cons p due ih =>
    have key : p.1 / 65536 * 65536 + p.1 % 65536 = p.1 := by omega
    obtain ⟨same, slots⟩ := ih (setSlot (p.1 / 65536) (p.1 % 65536) (Slot.spoil s.env.sc) s)
    rw [List.foldl_cons]
    generalize due.foldl (fun s p => setSlot (p.1 / 65536) (p.1 % 65536) (Slot.spoil s.env.sc) s)
      (setSlot (p.1 / 65536) (p.1 % 65536) (Slot.spoil s.env.sc) s) = t at *
    refine ⟨same, fun c k => ⟨fun ⟨q, hq, eq⟩ => ?_, fun none => ?_⟩⟩
    · by_cases mem : ∃ r ∈ due, r.1 = c * 65536 + k
      · exact (slots c k).1 mem
      · have at' : p.1 = c * 65536 + k := by
          rcases List.mem_cons.1 hq with h | h
          · exact h ▸ eq
          · exact absurd ⟨q, h, eq⟩ mem
        rw [(slots c k).2 fun r hr eq => mem ⟨r, hr, eq⟩]
        have here : slotAt (setSlot (p.1 / 65536) (p.1 % 65536) (Slot.spoil s.env.sc) s) c k
            = Slot.spoil s.env.sc (slotAt s (p.1 / 65536) (p.1 % 65536)) :=
          (slotAt_key (at'.symm.trans key.symm) _).trans (slotAt_setSlot_self ..)
        rw [here]
        exact ⟨rfl, rfl⟩
    · rw [(slots c k).2 fun r hr => none r (List.mem_cons_of_mem p hr)]
      exact slotAt_setSlot_ne _ _ (by rw [key]; exact (none p List.mem_cons_self).symm)

/-- The reports of the slots named (R183). -/
def slotReports (due : List (Nat × Slot)) (s : State) : State :=
  due.foldl (fun s p => report 0x30 3 (0x2000 + p.1 / 65536) (detailH (p.1 / 65536) (p.1 % 65536) ((p.2.holder.getD 0).toNat) 0 0) s) s

theorem slotReports_saf (due : List (Nat × Slot)) (s : State) :
    slotReports due s = { s with saf := (slotReports due s).saf } ∧ Untouched s (slotReports due s) := by
  refine List.foldlRecOn (motive := fun t : State => t = { s with saf := t.saf } ∧ Untouched s t) _ _ ⟨rfl, {}⟩ fun t h p _ => ?_
  obtain ⟨same, kept⟩ := h
  exact ⟨(report_saf ..).trans (congrArg (fun u : State => { u with saf := (report 0x30 3 (0x2000 + p.1 / 65536)
    (detailH (p.1 / 65536) (p.1 % 65536) ((p.2.holder.getD 0).toNat) 0 0) t).saf }) same), report_untouched _ _ _ _ kept⟩

theorem slotWatchdogExpiry_applies {s : State} (hu : inUse s) (due : slotExpiryDue s = true) : ∃ t, exec .slotWatchdogExpiry s = .next t
    ∧ (∀ p ∈ expiredSlots s, (slotAt t (p.1 / 65536) (p.1 % 65536)).state = .poison
        ∧ (slotAt t (p.1 / 65536) (p.1 % 65536)).holder = none ∧ (chanOf t (p.1 / 65536)).muz = true
        ∧ ∀ w ∈ t.ken.waits, w.ch ≠ p.1 / 65536)
    ∧ (∀ ch k, k < 65536 → (∀ p ∈ expiredSlots s, p.1 ≠ ch * 65536 + k) →
        (slotAt t ch k).state = (slotAt s ch k).state ∧ (slotAt t ch k).holder = (slotAt s ch k).holder)
    ∧ (∀ ch, (∀ p ∈ expiredSlots s, p.1 / 65536 ≠ ch) → chanOf t ch = chanOf s ch)
    ∧ t.saf = (slotReports (expiredSlots s) s).saf := by
  have off : ∀ p ∈ expiredSlots s, (chanOf s (p.1 / 65536)).muz = false := fun p hp => by
    have timed := (List.mem_filter.1 hp).2
    simp only [slotTimed, Bool.and_eq_true, Bool.not_eq_true'] at timed
    exact timed.1.1.1.1.2
  obtain ⟨same, kept⟩ := slotReports_saf (expiredSlots s) s
  obtain ⟨same', slots⟩ := slots_spoiled (expiredSlots s) (slotReports (expiredSlots s) s)
  have done := muzzleChannels_muzzle (expiredSlots s) ((expiredSlots s).foldl
    (fun s p => setSlot (p.1 / 65536) (p.1 % 65536) (Slot.spoil s.env.sc) s) (slotReports (expiredSlots s) s))
  have runs {t : State} (body : (expiredSlots s).foldl (fun s p => muzzleChannel (p.1 / 65536) s) ((expiredSlots s).foldl
      (fun s p => setSlot (p.1 / 65536) (p.1 % 65536) (Slot.spoil s.env.sc) s) (slotReports (expiredSlots s) s)) = t)
      (kept : Untouched s t) : exec .slotWatchdogExpiry s = .next t := by
    unfold exec execSlotWatchdogExpiry
    exact eventIf_answers hu due body kept
  generalize slotReports (expiredSlots s) s = u at *
  generalize (expiredSlots s).foldl (fun s p => setSlot (p.1 / 65536) (p.1 % 65536) (Slot.spoil s.env.sc) s) u = v at *
  obtain ⟨⟨stand, saf, kept'⟩, others, muz, waits, answered⟩ := done
  have chan (c : Nat) : chanOf v c = chanOf s c := by
    rw [same', same]
    rfl
  have slot (c k : Nat) : slotAt u c k = slotAt s c k := by
    rw [same]
    rfl
  have before : Untouched s v := by
    rw [same']
    exact kept.trans {}
  refine ⟨_, runs rfl (before.trans kept'), fun p hp => ?_, fun ch k lt none => ?_, fun ch none => (others ch none).trans (chan ch), ?_⟩
  · obtain ⟨state, holder⟩ := (slots (p.1 / 65536) (p.1 % 65536)).1 ⟨p, hp, by omega⟩
    obtain ⟨state', holder'⟩ := stand (p.1 / 65536) (p.1 % 65536)
    exact ⟨state'.trans state, holder'.trans holder, muz p hp, answered p hp ((chan _).symm ▸ off p hp)⟩
  · obtain ⟨state', holder'⟩ := stand ch k
    rw [state', holder', (slots ch k).2 none, slot]
    exact ⟨rfl, rfl⟩
  · rw [saf, same']

/-- Settles O49: a POISON slot is passed over, a push stops for want of a credit or starts, ends, or is given up; expired slots become
POISON and muzzle their channels. -/
theorem pushEventsAnswer : Obligations.PushEventsAnswer := by
  unfold Obligations.PushEventsAnswer
  intro s hu after answered reserving nobody
  refine ⟨?_, ?_, ?_, slotWatchdogExpiry_applies hu⟩
  · intro ch next sound c k
    refine ⟨fun poison waits => ?_, fun j x data at' none has => pushStart_stops hu sound next data at' none has,
      fun data has idle => ?_⟩
    · obtain ⟨u, runs, res, -, same, out, chan, slot, saf⟩ := pushStart_passes hu sound next poison waits
      have served := afterChange_reserves res
      have ready : pushReady s ch = true := List.find?_some next
      simp only [pushReady, Bool.and_eq_true, beq_iff_eq] at ready
      refine ⟨_, runs, ?_, ?_, served.saf.trans saf, fun none => ?_⟩
      · rw [served.chan, chan]
        rfl
      · rw [served.chan, chan]
        exact ready.1.2
      · rw [afterChange_idle (same ▸ none)]
        exact ⟨slot, chan, out⟩
    · obtain ⟨t, ms, runs, chan, slot, targets, egress, flits⟩ := pushStart_starts hu sound next data has idle
      have cls : pushClass k = (k.commit.map Prod.snd).getD 0 := by
        unfold pushClass
        cases k.commit <;> rfl
      exact ⟨t, ms, runs, chan, slot, targets, egress, cls ▸ flits⟩
  · intro ch ending sound c k waits
    obtain ⟨u, runs, res, -, same, tgt, saf, out, chan, slot⟩ := pushEnd_frees hu sound ending waits
    have served := afterChange_reserves res
    refine ⟨_, runs, ?_, ?_, served.tgt.trans tgt, served.saf.trans saf, fun none => ?_⟩
    · rw [served.chan, chan]
      rfl
    · rw [served.chan, chan]
    · rw [afterChange_idle (same ▸ none)]
      exact ⟨slot, chan, out⟩
  · intro ch start held ending push
    exact litterBudgetEnd_returns hu ending push

end Sys2Proof.Proofs
end

section
/-! SUPPORT. What the home function, the array and the channels never change: which agents are dead, the contexts, and the time
(05_coherence_failures R144, R149). -/

namespace Sys2Proof.Proofs

open Sys2Proof.Machine Sys2Proof.Safety Sys2Proof.Laws

set_option Elab.async false

/-- The agents that are dead, the last declaration, the walk that it began, the contexts, and the time. -/
def calm (s : State) : BitVec 160 × BitVec 2 × BitVec 8 × Option Nat × Table Ctx × Tick :=
  (s.coh.dead, s.coh.lastCause, s.coh.lastDead, s.coh.reclaim, s.seq.ctx, s.tick)

@[simp] theorem calm_mk (pending : List Instr) (fresh : Nat) (env : Env) (tick : Tick) (fuse : Fuse) (arr : Arr) (bg : Bg) (cache : Cache)
    (coh : Coh) (ken : Ken) (red : Red) (atom : Atom) (seq : Seq) (mov : Mov) (reg : Reg) (det : Det) (saf : Saf) (lnk : Lnk) (fg : Fg)
    (out : Out) : calm ⟨pending, fresh, env, tick, fuse, arr, bg, cache, coh, ken, red, atom, seq, mov, reg, det, saf, lnk, fg, out⟩
      = (coh.dead, coh.lastCause, coh.lastDead, coh.reclaim, seq.ctx, tick) := rfl

@[simp] theorem calm_fold (s : State) : (s.coh.dead, s.coh.lastCause, s.coh.lastDead, s.coh.reclaim, s.seq.ctx, s.tick) = calm s := rfl

@[simp] theorem calm_ite (c : Prop) [Decidable c] (a b : State) : calm (if c then a else b) = if c then calm a else calm b :=
  apply_ite calm c a b

@[simp] theorem calm_foldl {α : Type} {f : State → α → State} (h : ∀ s a, calm (f s a) = calm s) (l : List α) (s : State) :
    calm (l.foldl f s) = calm s :=
  List.foldlRecOn (motive := fun t => calm t = calm s) _ _ rfl fun t ht a _ => (h t a).trans ht

theorem ReadAside.calms {s t : State} (h : ReadAside s t) : calm t = calm s := by
  rw [Sys2Proof.Proofs.calm, Sys2Proof.Proofs.calm, h.coh, h.seq, h.tick]

/-- What is calm where a request takes effect, if it does. -/
def Calms (s : State) (o : Option State) : Prop := ∀ t ∈ o, calm t = calm s

@[simp] theorem calms_none (s : State) : Calms s none := fun _ h => nomatch h

@[simp] theorem calms_some (s t : State) : Calms s (some t) ↔ calm t = calm s := ⟨fun h => h t rfl, fun h u hu => by cases hu; exact h⟩

theorem calms_map {α : Type} {s : State} {o : Option α} {f : α → State} (h : ∀ a ∈ o, calm (f a) = calm s) : Calms s (o.map f) := by
  intro t ht
  obtain ⟨a, ha, rfl⟩ := Option.mem_map.1 ht
  exact h a ha

theorem calms_bind {α : Type} {s : State} {o : Option α} {f : α → Option State} (h : ∀ a ∈ o, Calms s (f a)) : Calms s (o.bind f) := by
  intro t ht
  obtain ⟨a, ha, hf⟩ := Option.mem_bind_iff.1 ht
  exact h a ha t hf

theorem calms_ite {s : State} {c : Prop} [Decidable c] {a b : Option State} (ha : Calms s a) (hb : Calms s b) :
    Calms s (if c then a else b) := by
  split
  · exact ha
  · exact hb

theorem calms_getD {s d : State} {o : Option State} (h : Calms s o) (hd : calm d = calm s) : calm (o.getD d) = calm s := by
  cases o with
  | none => exact hd
  | some t => exact h t rfl

@[simp] theorem setClass_calm (s : State) (c : Nat) (f : Machine.Class → Machine.Class) : calm (setClass s c f) = calm s := by
  unfold setClass
  simp

@[simp] theorem charge_calm (c n : Nat) (s : State) : calm (charge c n s) = calm s := by
  unfold charge
  simp

@[simp] theorem chargeSector_calm (c bank : Nat) (s : State) : calm (chargeSector c bank s) = calm s := by
  unfold chargeSector
  simp

@[simp] theorem raise_calm (k : Nat) (s : State) : calm (raise k s) = calm s := by
  unfold raise
  simp

@[simp] theorem logRecord_calm (forQueue : Bool) (ev react muzid detail : Nat) (s : State) :
    calm (logRecord forQueue ev react muzid detail s) = calm s := by
  unfold logRecord
  simp

@[simp] theorem report_calm (ev react muzid detail : Nat) (s : State) : calm (report ev react muzid detail s) = calm s := by
  unfold report
  simp

@[simp] theorem emit_calm (m : OutMsg) (s : State) : calm (emit m s) = calm s := by
  unfold emit
  simp

@[simp] theorem answer_calm (h : Hdr) (op : Nat) (body : Body) (data : List CodeWord) (ready : Nat) (tx : TxRef) (s : State) :
    calm (answer h op body data ready tx s) = calm s := by
  unfold answer
  simp

@[simp] theorem countNack_calm (st : Status) (s : State) : calm (countNack st s) = calm s := by
  unfold countNack
  simp

@[simp] theorem storeCells_calm (loc prow : Nat) (c : Cells) (s : State) : calm (storeCells loc prow c s) = calm s := by
  unfold storeCells
  simp

@[simp] theorem queueMarks_calm (sec : Nat) (mask : BitVec 2) (s : State) : calm (queueMarks sec mask s) = calm s := by
  unfold queueMarks
  simp

@[simp] theorem putCells_calm (loc : Nat) (c : Cells) (s : State) : calm (putCells loc c s) = calm s := by
  unfold putCells
  simp

@[simp] theorem writeWord_calm (loc : Nat) (w : CodeWord) (s : State) : calm (writeWord loc w s) = calm s := by
  unfold writeWord
  simp

@[simp] theorem writeWords_calm (t : Table CodeWord) (s : State) : calm (writeWords t s) = calm s := by
  unfold writeWords
  simp

@[simp] theorem retireRow_calm (bank row : Nat) (s : State) : calm (retireRow bank row s) = calm s := by
  unfold retireRow
  (repeat' split) <;> simp

@[simp] theorem trackRow_calm (bank row : Nat) (s : State) : calm (trackRow bank row s) = calm s := by
  unfold trackRow
  split <;> simp

@[simp] theorem queueRewrite_calm (loc : Nat) (d : Code) (s : State) : calm (queueRewrite loc d s) = calm s := by
  unfold queueRewrite
  simp

@[simp] theorem logCorrection_calm (src loc : Nat) (c : Corrected) (s : State) : calm (logCorrection src loc c s) = calm s := by
  unfold logCorrection
  simp

@[simp] theorem noteCorrection_calm (src : Nat) (x : Seen) (c : Corrected) (s : State) : calm (noteCorrection src x c s) = calm s := by
  unfold noteCorrection
  simp

@[simp] theorem reportUe_calm (src loc : Nat) (poisoned : Bool) (s : State) : calm (reportUe src loc poisoned s) = calm s := by
  unfold reportUe
  simp

@[simp] theorem setTag_calm (set way : Nat) (f : TagEntry → TagEntry) (s : State) : calm (setTag set way f s) = calm s := by
  unfold setTag
  simp

@[simp] theorem poisonSector_calm (sec : Nat) (s : State) : calm (poisonSector sec s) = calm s := by
  unfold poisonSector
  simp

@[simp] theorem enqueue_calm (a : Access) (s : State) : calm (enqueue a s) = calm s := by
  unfold enqueue
  simp

@[simp] theorem dropAccess_calm (id : Nat) (s : State) : calm (dropAccess id s) = calm s := by
  unfold dropAccess
  simp

@[simp] theorem occupy_calm (a : Access) (s : State) : calm (occupy a s) = calm s := by
  unfold occupy
  simp

@[simp] theorem setTracker_calm (i : Nat) (f : Tracker → Tracker) (s : State) : calm (setTracker i f s) = calm s := by
  unfold setTracker
  simp

@[simp] theorem setMiss_calm (i : Nat) (f : Miss → Miss) (s : State) : calm (setMiss i f s) = calm s := by
  unfold setMiss
  simp

@[simp] theorem markLine_calm (set way : Nat) (s : State) : calm (markLine set way s) = calm s := by
  unfold markLine
  simp

@[simp] theorem undoGrant_calm (tx : TxRef) (line : LineAddr) (was : DirPart) (s : State) : calm (undoGrant tx line was s) = calm s := by
  unfold undoGrant
  (repeat' split) <;> simp

@[simp] theorem detachWay_calm (set way : Nat) (s : State) : calm (detachWay set way s) = calm s := by
  unfold detachWay
  simp

@[simp] theorem poisonLine_calm (set way cause trans : Nat) (s : State) : calm (poisonLine set way cause trans s) = calm s := by
  unfold poisonLine
  simp

@[simp] theorem reclaimEntry_calm (set way : Nat) (s : State) : calm (reclaimEntry set way s) = calm s := by
  unfold reclaimEntry
  simp

@[simp] theorem snoop_calm (op dst : Nat) (i : Nat) (line : LineAddr) (label : Nat) (body : Body) (s : State) :
    calm (snoop op dst i line label body s) = calm s := by
  unfold snoop
  simp

@[simp] theorem awaitFrom_calm (i : Nat) (ags : List Nat) (s : State) : calm (awaitFrom i ags s) = calm s := by
  unfold awaitFrom
  simp

@[simp] theorem invalidate_calm (i : Nat) (line : LineAddr) (label : Nat) (d : DirPart) (except : Nat) (s : State) :
    calm (invalidate i line label d except s) = calm s := by
  unfold invalidate
  simp

@[simp] theorem enqueueFill_calm (i sect : Nat) (s : State) : calm (enqueueFill i sect s) = calm s := by
  unfold enqueueFill
  simp

@[simp] theorem retireMiss_calm (i : Nat) (s : State) : calm (retireMiss i s) = calm s := by
  unfold retireMiss
  split <;> simp

@[simp] theorem releaseVictim_calm (line : LineAddr) (s : State) : calm (releaseVictim line s) = calm s := by
  unfold releaseVictim
  (repeat' split) <;> simp

@[simp] theorem pushVictims_calm (n : Nat) (s : State) : calm (pushVictims n s) = calm s := by
  induction n generalizing s with
  | zero => rfl
  | succ n ih =>
    unfold pushVictims
    split <;> simp [ih]

@[simp] theorem expel_calm (set way cls label : Nat) (miss : Option Nat) (s : State) :
    calm (expel set way cls label miss s) = calm s := by
  unfold expel
  dsimp only
  generalize freeTracker _ = free
  cases free <;> simp

@[simp] theorem xpRead_calm (txn : Nat) (line : LineAddr) (cls : Nat) (mask : BitVec 4) (crit : Nat) (s : State) :
    calm (xpRead txn line cls mask crit s) = calm s := by
  unfold xpRead
  simp

@[simp] theorem openMiss_calm (i trk way : Nat) (r : Req) (missing : BitVec 4) (held uncached : Bool) (s : State) :
    calm (openMiss i trk way r missing held uncached s) = calm s := by
  unfold openMiss
  simp

@[simp] theorem setEngine_calm (e : Nat) (f : Engine → Engine) (s : State) : calm (setEngine e f s) = calm s := by
  unfold setEngine
  simp

@[simp] theorem checkEngine_calm (e : Nat) (s : State) : calm (checkEngine e s) = calm s := by
  unfold checkEngine
  simp

@[simp] theorem moveAnswer_calm (e serial off : Nat) (write : Bool) (act : MoveReq → Engine → Engine) (s : State) :
    calm (moveAnswer e serial off write act s) = calm s := by
  unfold moveAnswer
  dsimp only
  (repeat' split) <;> simp

@[simp] theorem moveFailed_calm (e serial off : Nat) (write : Bool) (st : Status) (s : State) :
    calm (moveFailed e serial off write st s) = calm s := by
  unfold moveFailed
  simp

@[simp] theorem moveData_calm (e serial off : Nat) (words : List CodeWord) (s : State) :
    calm (moveData e serial off words s) = calm s := by
  unfold moveData
  simp

@[simp] theorem endNow_calm (tx : TxRef) (s : State) : calm (endNow tx s) = calm s := by
  unfold endNow
  split <;> simp

@[simp] theorem closeTx_calm (tx : TxRef) (s : State) : calm (closeTx tx s) = calm s := by
  unfold closeTx
  (repeat' split) <;> simp

@[simp] theorem respondAt_calm (first : Nat) (r : Req) (op : Nat) (body : Body) (data : List CodeWord) (ready : Nat) (tx : TxRef)
    (s : State) : calm (respondAt first r op body data ready tx s) = calm s := by
  unfold respondAt
  (repeat' split) <;> simp

@[simp] theorem respond_calm (r : Req) (op : Nat) (body : Body) (data : List CodeWord) (ready : Nat) (tx : TxRef) (s : State) :
    calm (respond r op body data ready tx s) = calm s := by
  unfold respond
  simp

@[simp] theorem respondSts_calm (r : Req) (st : Status) (ready : Nat) (tx : TxRef) (s : State) :
    calm (respondSts r st ready tx s) = calm s := by
  unfold respondSts
  simp

@[simp] theorem storeDir_calm (set way : Nat) (trk : Option Nat) (d : DirPart) (s : State) :
    calm (storeDir set way trk d s) = calm s := by
  unfold storeDir
  split <;> simp

@[simp] theorem grant_calm (r : Req) (set way : Nat) (trk : Option Nat) (s : State) : calm (grant r set way trk s).2 = calm s := by
  unfold grant
  dsimp only
  split <;> simp

@[simp] theorem txFor_calm (trk : Option Nat) (r : Req) (s : State) : calm (txFor trk r s).2 = calm s := by
  unfold txFor openActive
  split
  · rfl
  · split <;> simp

@[simp] theorem sendData_calm (r : Req) (op : Nat) (t : Table CodeWord) (ready : Nat) (tx : TxRef) (s : State) :
    calm (sendData r op t ready tx s) = calm s := by
  unfold sendData
  simp

@[simp] theorem refuse_calm (trk : Option Nat) (r : Req) (st : Status) (s : State) : calm (refuse trk r st s) = calm s := by
  unfold refuse
  simp

@[simp] theorem waitHere_calm (r : Req) (s : State) : calm (waitHere r s) = calm s := by
  unfold waitHere
  simp

@[simp] theorem completeWrite_calm (r : Req) (set way : Nat) (tx : TxRef) (ready : Nat) (s : State) :
    calm (completeWrite r set way tx ready s) = calm s := by
  unfold completeWrite
  simp

@[simp] theorem seedMiss_calm (i : Nat) (r : Req) (missing sv : BitVec 4) (s : State) : calm (seedMiss i r missing sv s) = calm s := by
  unfold seedMiss
  split <;> simp

@[simp] theorem writeValid_calm (r : Req) (set way : Nat) (sv : BitVec 4) (s : State) : calm (writeValid r set way sv s) = calm s := by
  unfold writeValid
  simp

theorem ensureTracker_calm {trk : Option Nat} {r : Req} {set way : Nat} {kind : Transient} {prev : BitVec 3} {s : State} {p : Nat × State}
    (h : p ∈ ensureTracker trk r set way kind prev s) : calm p.2 = calm s := by
  unfold ensureTracker at h
  split at h
  · cases h
    simp
  · split at h
    · cases h
    · cases h
      simp

@[simp] theorem chooseWay_calm (set : Nat) (s : State) : calm (chooseWay set s).2 = calm s := by
  unfold chooseWay
  dsimp only
  split
  · rfl
  · split <;> simp

theorem makeWay_calm {line : LineAddr} {cls label i need : Nat} {s : State} {p : Nat × State} (h : p ∈ makeWay line cls label i need s) :
    calm p.2 = calm s := by
  unfold makeWay at h
  dsimp only at h
  split at h
  · cases h
  · split at h
    · cases h
    · cases h
      simp

theorem fetchPresent_calm (trk : Option Nat) (r : Req) (set way : Nat) (s : State) : Calms s (fetchPresent trk r set way s) := by
  unfold fetchPresent
  dsimp only
  split
  · exact calms_none s
  · refine calms_map fun p hp => ?_
    have taken := ensureTracker_calm hp
    split <;> simp [taken]

theorem fetchAbsent_calm (trk : Option Nat) (r : Req) (s : State) : Calms s (fetchAbsent trk r s) := by
  unfold fetchAbsent
  dsimp only
  split
  · exact calms_none s
  · refine calms_bind fun p hp => calms_map fun q hq => ?_
    have made := makeWay_calm hp
    have taken := ensureTracker_calm hq
    rw [calm_mk, calm_fold] at taken
    simp [taken, made]

theorem fetchUncached_calm (trk : Option Nat) (r : Req) (s : State) : Calms s (fetchUncached trk r s) := by
  unfold fetchUncached
  split
  · exact calms_none s
  · refine calms_map fun p hp => ?_
    simp [ensureTracker_calm hp]

@[simp] theorem writeThrough_calm (trk : Option Nat) (r : Req) (s : State) : calm (writeThrough trk r s) = calm s := by
  unfold writeThrough
  split <;> simp

@[simp] theorem dropFb_calm (k : Nat) (s : State) : calm (dropFb k s) = calm s := by
  unfold dropFb
  split <;> simp

@[simp] theorem dropLineFb_calm (line : LineAddr) (s : State) : calm (dropLineFb line s) = calm s := by
  unfold dropLineFb
  split <;> simp

theorem promote_calm (k : Nat) (r : Req) (s : State) : Calms s (promote k r s) := by
  unfold promote
  dsimp only
  refine calms_map fun p hp => ?_
  have placed : calm p.2 = calm s := by
    split at hp
    · cases hp
      simp
    · obtain ⟨q, hq, rfl⟩ := Option.mem_map.1 hp
      simpa using makeWay_calm hq
  generalize decide (r.mask &&& (tget default s.cache.fb k).pois ≠ 0) = bad
  cases bad <;> simp [placed]

theorem convertFb_calm (k : Nat) (r : Req) (s : State) : Calms s (convertFb k r s) := by
  unfold convertFb
  dsimp only
  refine calms_map fun t ht => ?_
  have fetched : calm t = calm s := by
    split at ht
    · exact fetchPresent_calm _ _ _ _ _ t ht
    · exact fetchAbsent_calm _ _ _ t ht
  split <;> simp [fetched]

theorem fromBuffer_calm (trk : Option Nat) (r : Req) {fetch : State → Option State} {s : State} (h : Calms s (fetch s)) :
    Calms s (fromBuffer trk r fetch s) := by
  unfold fromBuffer
  split
  · exact calms_ite (promote_calm _ _ _) (calms_ite (convertFb_calm _ _ _) h)
  · exact h

@[simp] theorem startRead_calm (trk : Option Nat) (r : Req) (set way : Nat) (s : State) : calm (startRead trk r set way s) = calm s := by
  unfold startRead
  dsimp only
  split <;> simp

theorem grantEmpty_calm (r : Req) (s : State) : Calms s (grantEmpty r s) := by
  unfold grantEmpty
  dsimp only
  split
  · simp
  · refine calms_map fun p hp => ?_
    simp [makeWay_calm hp]

@[simp] theorem writeHere_calm (trk : Option Nat) (r : Req) (set way : Nat) (s : State) : calm (writeHere trk r set way s) = calm s := by
  unfold writeHere
  simp

@[simp] theorem atomHere_calm (trk : Option Nat) (r : Req) (set way : Nat) (s : State) : calm (atomHere trk r set way s) = calm s := by
  unfold atomHere
  simp

theorem serveHome_calm (trk : Option Nat) (r : Req) (s : State) : Calms s (serveHome trk r s) := by
  have present (way : Nat) := fetchPresent_calm trk r (lineSet r.line) way s
  have absent := fetchAbsent_calm trk r s
  have uncached := fetchUncached_calm trk r s
  have reads (way : Nat) : Calms s (some (startRead trk r (lineSet r.line) way s)) := by simp
  unfold serveHome
  refine calms_ite (by simp) ?_
  split
  · next way _ =>
    dsimp only
    split
    · exact calms_ite (present way) (by simp)
    · exact calms_ite (present way) (by simp)
    · exact calms_ite (present way) (by simp)
    · exact calms_ite (by simp) (calms_ite (present way) (reads way))
    · exact calms_ite (fromBuffer_calm _ _ (present way)) (reads way)
  · split
    · exact calms_ite (by simp) absent
    · exact calms_ite (by simp) absent
    · exact calms_ite uncached absent
    · exact calms_ite (grantEmpty_calm r s) (calms_ite uncached absent)
    · exact calms_ite uncached (fromBuffer_calm _ _ absent)

@[simp] theorem stall_calm (i : Nat) (r : Req) (s : State) : calm (stall i r s) = calm s := by
  unfold stall
  simp

@[simp] theorem serveTracked_calm (i : Nat) (r : Req) (s : State) : calm (serveTracked i r s) = calm s :=
  calms_getD (serveHome_calm (some i) r s) (stall_calm i r s)

@[simp] theorem serveAsU_calm (i : Nat) (s : State) : calm (serveAsU i s) = calm s := by
  unfold serveAsU
  dsimp only
  split <;> simp

@[simp] theorem finishTi_calm (i : Nat) (s : State) : calm (finishTi i s) = calm s := by
  unfold finishTi
  dsimp only
  split <;> simp

@[simp] theorem nackActive_calm (r : Req) (s : State) : calm (nackActive r s) = calm s := by
  unfold nackActive
  simp

@[simp] theorem endReservation_calm (r : Req) (s : State) : calm (endReservation r s) = calm s := by
  unfold endReservation
  simp

theorem startSnoop_calm (r : Req) (set way : Nat) (s : State) : Calms s (startSnoop r set way s) := by
  unfold startSnoop
  refine calms_map fun i hi => ?_
  dsimp only
  split
  · split <;> simp
  · simp

@[simp] theorem servePoison_calm (r : Req) (set way : Nat) (sv : BitVec 4) (s : State) : calm (servePoison r set way sv s) = calm s := by
  unfold servePoison
  simp

theorem serveLine_calm (r : Req) (s : State) : Calms s (serveLine r s) := by
  have serves {u : State} (same : calm u = calm s) : Calms s (match findWay u r.line with
      | none => serveHome none r u
      | some way =>
        if r.kind.isRead && namesPoison u (lineSet r.line) way (r.mask &&& (tagAt u (lineSet r.line) way).sv) then
          some (servePoison r (lineSet r.line) way (tagAt u (lineSet r.line) way).sv u)
        else if needsSnoop u r (tagAt u (lineSet r.line) way) then startSnoop r (lineSet r.line) way u
        else serveHome none r u) := by
    have home : Calms s (serveHome none r u) := fun t ht => (serveHome_calm none r u t ht).trans same
    split
    · exact home
    · next way _ =>
      exact calms_ite (by simp [same])
        (calms_ite (fun t ht => (startSnoop_calm r (lineSet r.line) way u t ht).trans same) home)
  unfold serveLine
  exact serves (by split <;> simp)

@[simp] theorem countStore_calm (cls : Nat) (full : Bool) (s : State) : calm (countStore cls full s) = calm s := by
  unfold countStore
  simp

@[simp] theorem countReq_calm (fresh : Bool) (r : Req) (s : State) : calm (countReq fresh r s) = calm s := by
  unfold countReq
  simp

@[simp] theorem joinMiss_calm (m : Nat) (r : Req) (s : State) : calm (joinMiss m r s) = calm s := by
  unfold joinMiss
  simp

@[simp] theorem answerMuzzled_calm (r : Req) (s : State) : calm (answerMuzzled r s) = calm s := by
  unfold answerMuzzled
  dsimp only
  split <;> simp

@[simp] theorem serveFresh_calm (fresh : Bool) (r : Req) (s : State) : calm (serveFresh fresh r s) = calm s := by
  unfold serveFresh
  dsimp only
  split
  · next u hu => simpa using serveLine_calm _ _ u hu
  · simp

@[simp] theorem admitRequest_calm (fresh : Bool) (r : Req) (s : State) : calm (admitRequest fresh r s) = calm s := by
  unfold admitRequest
  (repeat' split) <;> simp

@[simp] theorem countAtom_calm (st : Status) (s : State) : calm (countAtom st s) = calm s := by
  unfold countAtom
  simp

@[simp] theorem respondAtom_calm (r : Req) (old : Code) (succ : BitVec 8) (ready : Nat) (s : State) :
    calm (respondAtom r old succ ready s) = calm s := by
  unfold respondAtom
  simp

@[simp] theorem muzzleAtom_calm (sec : Nat) (half : Bool) (s : State) : calm (muzzleAtom sec half s) = calm s := by
  unfold muzzleAtom
  simp

@[simp] theorem chargeAtom_calm (cls sec : Nat) (s : State) : calm (chargeAtom cls sec s) = calm s := by
  unfold chargeAtom
  simp

@[simp] theorem failAtom_calm (who : AtomParty) (st : Status) (ready : Nat) (s : State) : calm (failAtom who st ready s) = calm s := by
  unfold failAtom
  split <;> simp

@[simp] theorem atomMuzzled_calm (who : AtomParty) (s : State) : calm (atomMuzzled who s) = calm s := by
  unfold atomMuzzled
  simp

@[simp] theorem laneCheck_calm (loc : Nat) (s : State) : calm (laneCheck loc s).2 = calm s := by
  unfold laneCheck
  split <;> simp

@[simp] theorem atomRead_calm (who : AtomParty) (op : AtomOp) (opnd cmp : Code) (cls sec : Nat) (kennel : Bool) (a b : CodeWord)
    (s : State) : calm (atomRead who op opnd cmp cls sec kennel a b s) = calm s := by
  unfold atomRead
  cases who <;> simp

@[simp] theorem unsaid_calm (q : AtomPend) (s : State) : calm (unsaid q s) = calm s := by
  unfold unsaid
  simp

@[simp] theorem atomWriteStart_calm (sec : Nat) (words : Table CodeWord) (res : Option Result) (s : State) :
    calm (atomWriteStart sec words res s) = calm s := by
  unfold atomWriteStart
  dsimp only
  (repeat' split) <;> simp

theorem refetch_calm (r : Req) (tx : TxRef) (op : Nat) (was : DirPart) (again : BitVec 4) (words : Table CodeWord) (s : State) :
    Calms s (refetch r tx op was again words s) := by
  unfold refetch
  dsimp only
  split
  · exact calms_map fun i _ => by simp
  · refine calms_bind fun p hp => calms_map fun q hq => ?_
    have placed : calm p.2 = calm s := by
      split at hp
      · cases hp
        simp
      · obtain ⟨i, -, rfl⟩ := Option.mem_map.1 hp
        simp
    have owned : calm q.2 = calm p.2 := by
      split at hq
      · obtain ⟨u, hu, rfl⟩ := Option.mem_map.1 hq
        simpa using ensureTracker_calm hu
      · cases hq
        rfl
    simp [owned, placed]

@[simp] theorem homeRead_calm (r : Req) (tx : TxRef) (op : Nat) (was : DirPart) (secs : List Nat) (got : List Got) (s : State) :
    calm (homeRead r tx op was secs got s) = calm s := by
  have again (d : State) (h : calm d = calm s) :
      calm ((refetch r tx op was (againMask secs got) (gotWords secs got) s).getD d) = calm s := calms_getD (refetch_calm _ _ _ _ _ _ _) h
  unfold homeRead
  dsimp only
  cases findWay s r.line <;> simp [again]

@[simp] theorem putOwed_calm (i : Nat) (o : Owed) (new : Option Owed) (s : State) : calm (putOwed i o new s) = calm s := by
  unfold putOwed
  simp

@[simp] theorem withdrawGrant_calm (o : Owed) (s : State) : calm (withdrawGrant o s) = calm s := by
  unfold withdrawGrant
  split <;> simp

@[simp] theorem sendSector_calm (o : Owed) (n ready : Nat) (tx : TxRef) (s : State) : calm (sendSector o n ready tx s) = calm s := by
  unfold sendSector
  simp

@[simp] theorem sendOwed_calm (i : Nat) (o : Owed) (s : State) : calm (sendOwed i o s) = calm s := by
  unfold sendOwed
  simp

@[simp] theorem fillAtom_calm (i : Nat) (r : Req) (tx : TxRef) (s : State) : calm (fillAtom i r tx s) = calm s := by
  unfold fillAtom
  simp

@[simp] theorem captureOwed_calm (i : Nat) (s : State) : calm (captureOwed i s) = calm s := by
  unfold captureOwed
  simp

@[simp] theorem settleOwed_calm (i : Nat) (s : State) : calm (settleOwed i s) = calm s := by
  unfold settleOwed
  simp

@[simp] theorem sendMiss_calm (i : Nat) (tx : TxRef) (q : Req) (op : Nat) (was : DirPart) (s : State) :
    calm (sendMiss i tx q op was s) = calm s := by
  unfold sendMiss
  simp

@[simp] theorem sendRead_calm (i : Nat) (q : Req) (secs : List Nat) (got : List Got) (s : State) :
    calm (sendRead i q secs got s) = calm s := by
  unfold sendRead
  split <;> simp

@[simp] theorem grantShared_calm (i t : Nat) (all : List Req) (s : State) : calm (grantShared i t all s) = calm s := by
  unfold grantShared
  simp

@[simp] theorem grantMiss_calm (i : Nat) (s : State) : calm (grantMiss i s) = calm s := by
  unfold grantMiss
  dsimp only
  split
  · simp
  · split <;> simp

@[simp] theorem wayFreed_calm (i : Nat) (s : State) : calm (wayFreed i s) = calm s := by
  unfold wayFreed
  dsimp only
  split <;> simp

@[simp] theorem victimGone_calm (line : LineAddr) (s : State) : calm (victimGone line s) = calm s := by
  unfold victimGone
  dsimp only
  split <;> simp

@[simp] theorem forgetSector_calm (line : LineAddr) (x : Nat) (s : State) : calm (forgetSector line x s) = calm s := by
  unfold forgetSector
  simp

@[simp] theorem evictRead_calm (line : LineAddr) (got : List Got) (s : State) : calm (evictRead line got s) = calm s := by
  unfold evictRead
  split
  · simp
  · split <;> simp

@[simp] theorem sendAck_calm (a : HeldAck) (ready : Nat) (s : State) : calm (sendAck a ready s) = calm s := by
  unfold sendAck
  simp

@[simp] theorem endTb_calm (i : Nat) (s : State) : calm (endTb i s) = calm s := by
  unfold endTb
  dsimp only
  split
  · simp
  · split <;> simp

@[simp] theorem finishSnoops_calm (i : Nat) (s : State) : calm (finishSnoops i s) = calm s := by
  unfold finishSnoops
  split <;> simp

@[simp] theorem endPoisoned_calm (i cause : Nat) (s : State) : calm (endPoisoned i cause s) = calm s := by
  unfold endPoisoned
  dsimp only
  (repeat' split) <;> simp

@[simp] theorem dropHolder_calm (agent die : Nat) (s : State) : calm (dropHolder agent die s) = calm s := by
  unfold dropHolder
  simp

@[simp] theorem reclaimTracker_calm (d i : Nat) (s : State) : calm (reclaimTracker d i s) = calm s := by
  unfold reclaimTracker
  simp

@[simp] theorem complete_calm (r : Result) (s : State) : calm (complete r s) = calm s := by
  unfold complete
  simp

@[simp] theorem handOver_calm (c id : Nat) (use : Handoff) (words : List CodeWord) (due : Nat) (s : State) :
    calm (handOver c id use words due s) = calm s := by
  unfold handOver
  simp

@[simp] theorem kennelRead_calm (r : Req) (got : List Got) (s : State) : calm (kennelRead r got s) = calm s := by
  unfold kennelRead
  simp

@[simp] theorem atomAgain_calm (who : AtomParty) (sec : Nat) (s : State) : calm (atomAgain who sec s) = calm s := by
  unfold atomAgain
  cases who with
  | agent r =>
    have again (d : State) (h : calm d = calm s) :
        calm ((refetch r (atomTx r s) 0xB default r.mask [] s).getD d) = calm s := calms_getD (refetch_calm _ _ _ _ _ _ _) h
    dsimp only
    split <;> simp [again]
  | ctx c id gd => rfl

@[simp] theorem atomForgets_calm (who : AtomParty) (sec : Nat) (bad : Bool) (s : State) : calm (atomForgets who sec bad s) = calm s := by
  unfold atomForgets
  split <;> simp

@[simp] theorem timedAnswer_calm (r : Req) (tx : TxRef) (op : Nat) (st : Status) (words : Table CodeWord) (s : State) :
    calm (timedAnswer r tx op st words s) = calm s := by
  unfold timedAnswer
  simp

@[simp] theorem readStarted_calm (a : Access) (s : State) : calm (readStarted a s) = calm s := by
  unfold readStarted
  cases a.ghost
  · simpa using (seeSectors_aside a.secs s).calms
  · simp

@[simp] theorem setChan_calm (i : Nat) (f : Channel → Channel) (s : State) : calm (setChan i f s) = calm s := by
  unfold setChan
  simp

@[simp] theorem setTarget_calm (i : Nat) (f : Target → Target) (s : State) : calm (setTarget i f s) = calm s := by
  unfold setTarget
  simp

@[simp] theorem setSlot_calm (ch k : Nat) (f : Slot → Slot) (s : State) : calm (setSlot ch k f s) = calm s := by
  unfold setSlot
  simp

@[simp] theorem chAnswer_calm (p : ChParty) (st : Status) (slot off : Nat) (s : State) : calm (chAnswer p st slot off s) = calm s := by
  unfold chAnswer
  split <;> simp

@[simp] theorem returnCredits_calm (ch : Nat) (s : State) : calm (returnCredits ch s) = calm s := by
  unfold returnCredits
  split <;> simp

@[simp] theorem answerWaiting_calm (ch : Nat) (st : Status) (s : State) : calm (answerWaiting ch st s) = calm s := by
  unfold answerWaiting
  simp

@[simp] theorem muzzleChannel_calm (ch : Nat) (s : State) : calm (muzzleChannel ch s) = calm s := by
  unfold muzzleChannel
  simp

@[simp] theorem checkSlot_calm (ch k : Nat) (s : State) : calm (checkSlot ch k s) = calm s := by
  unfold checkSlot
  simp

theorem tryReserve_calm (ch : Nat) (p : ChParty) (s : State) : Calms s (tryReserve ch p s) := by
  unfold tryReserve
  dsimp only
  split <;> simp

theorem tryTake_calm (ch : Nat) (p : ChParty) (s : State) : Calms s (tryTake ch p s) := by
  unfold tryTake
  dsimp only
  split <;> simp

theorem serveOne_calm (ch : Nat) (s : State) : Calms s (serveOne ch s) := by
  have served {u : State} (same : calm u = calm s) {w : ChWait} {o : Option State} (h : Calms u o) :
      Calms s (o.map fun t => { t with ken := { t.ken with waits := t.ken.waits.erase w } }) :=
    calms_map fun t ht => by simpa using (h t ht).trans same
  have attempts (k : Nat) (w : ChWait) {o : State → Option State} (h : ∀ u, Calms u (o u)) :
      Calms s (if (chanOf (checkSlot ch k s) ch).muz then some (checkSlot ch k s)
        else (o (checkSlot ch k s)).map fun t => { t with ken := { t.ken with waits := t.ken.waits.erase w } }) :=
    calms_ite (by simp) (served (checkSlot_calm ch k s) (h _))
  unfold serveOne
  dsimp only
  split
  · next t ht =>
    split at ht
    · cases ht
    · next w _ =>
      rw [calms_some]
      exact attempts (chanOf s ch).pi w (tryReserve_calm ch w.party) t ht
  · split
    · exact calms_none s
    · next w _ => exact attempts (chanOf s ch).ci w (tryTake_calm ch w.party)

@[simp] theorem serveWaits_calm (ch n : Nat) (s : State) : calm (serveWaits ch n s) = calm s := by
  induction n generalizing s with
  | zero => rfl
  | succ n ih =>
    unfold serveWaits
    split
    · next t ht => exact (ih t).trans (serveOne_calm ch s t ht)
    · rfl

@[simp] theorem afterChange_calm (ch : Nat) (s : State) : calm (afterChange ch s) = calm s := serveWaits_calm ..

end Sys2Proof.Proofs
end

section
/-! SUPPORT. Agents that are declared dead (05_coherence_failures R144, R147, R149; 06_kennels_and_channels R172, R186). -/

namespace Sys2Proof.Proofs

open Sys2Proof.Machine Sys2Proof.Safety Sys2Proof.Laws

set_option Elab.async false

/-- An agent is declared dead, and the waiting requests that this lets complete have completed. -/
def declared (d cause : Nat) (s : State) : State := afterDeath s (declareDead d cause s)

/-- The command c declares agent d dead in s; out is what the outputs become. -/
structure Declares (c : Instr) (s : State) (d cause : Nat) (out : State → Out) : Prop where
  settled : Untouched s (declared d cause s) → exec c s = .next { declared d cause s with out := out (declared d cause s) }
  runs : ∃ t, exec c s = .next t ∧ t.coh = { (declared d cause s).coh with
    nclust := s.coh.nclust, homeTmo := s.coh.homeTmo, lock := s.coh.lock }
  same : ∀ t, t.out = s.out → t.env.sc = s.env.sc → out t = out s
  egress : ∀ t, (out t).egress = t.out.egress

theorem agentDown_declares {s : State} (hu : inUse s) (d : BitVec 8) : Declares (.agentDown d) s d.toNat 2 (fun t => t.out) := by
  have runs : exec (.agentDown d) s = .next (keepConfig (fun s => afterDeath s (declareDead d.toNat 2 s)) s) := by
    unfold exec execAgentDown
    exact event_next hu _
  refine ⟨fun kept => runs.trans (congrArg _ ?_), ⟨_, runs, rfl⟩, fun _ h _ => h, fun _ => rfl⟩
  exact keepConfig_eq kept

theorem agentDownWrite_declares {s : State} (ha : sbActs s) (v : Word32) :
    Declares (.agentDownWrite v) s (v.extractLsb' 0 8).toNat 3 (fun t => responded t 0 0) := by
  have agent : fld v 0 8 = (v.extractLsb' 0 8).toNat := fld_eq ..
  have runs : exec (.agentDownWrite v) s = sbWriteOk (.agentDownWrite v) s
      (keepConfig fun s => afterDeath s (declareDead (v.extractLsb' 0 8).toNat 3 s)) := by
    rw [← agent]
    rfl
  refine ⟨fun kept => ?_, ⟨_, runs.trans (sbWriteOk_next ha _ _), rfl⟩, fun t out sc => ?_, fun _ => rfl⟩
  · rw [runs]
    exact sbWriteOk_settled ha (t := declared (v.extractLsb' 0 8).toNat 3 s) (keepConfig_eq kept) (sbSettle_eq kept)
  · rw [responded, out, sc]
    rfl

section
variable {s : State} {d cause : Nat}

/-- An agent that does not exist is not declared (R144). -/
theorem declared_outside (h : s.coh.nclust.toNat ≤ d) : declared d cause s = { s with
    coh := { s.coh with adRej := true }
    env := { s.env with done := { s.env.done with raised := setBit s.env.done.raised 2 true } } } := by
  rw [declared, declareDead, if_pos h]
  exact if_pos rfl

theorem declared_dead (h : d < s.coh.nclust.toNat) (dead : s.coh.dead.getLsbD d = true) : declared d cause s = s := by
  have same : declareDead d cause s = s := (if_neg (Nat.not_le.2 h)).trans (if_pos dead)
  rw [declared, same]
  exact if_pos rfl

/-- What a declaration changes of the home's own state (R144, R147, R149). -/
def deathNoted (d cause : Nat) (s : State) : State :=
  { s with
    coh := { s.coh with dead := setBit s.coh.dead d true, declared := setBit s.coh.declared d true, lastCause := BitVec.ofNat 2 cause
                        lastDead := BitVec.ofNat 8 d, reclaim := some 0
                        resv := s.coh.resv.filter fun v => !(v.agent == d && v.die == s.env.idDie.toNat) }
    bg := { s.bg with tel := { s.bg.tel with deadDecl := satAdd 255 s.bg.tel.deadDecl 1 } } }

/-- A death, with its report and the agent's slots and waits gone (R144, R186). -/
def deathReported (d cause : Nat) (s : State) : State :=
  dropHolder d s.env.idDie.toNat (report 0x24 0 0 (pack [(0, 8, d), (8, 2, cause)]) (deathNoted d cause s))

theorem declareDead_eq (h : d < s.coh.nclust.toNat) (alive : s.coh.dead.getLsbD d = false) : declareDead d cause s
    = ((deathReported d cause s).coh.trk.map Prod.fst).foldl (fun s i => reclaimTracker d i s) (deathReported d cause s) :=
  (if_neg (Nat.not_le.2 h)).trans (if_neg (by rw [bit, alive]; decide))

theorem deathReported_calm : calm (deathReported d cause s) = calm (deathNoted d cause s) := by
  unfold deathReported
  simp

theorem declared_calm (h : d < s.coh.nclust.toNat) (alive : s.coh.dead.getLsbD d = false) :
    calm (declared d cause s) = calm (deathNoted d cause s) := by
  have trackers (l : List Nat) (u : State) : calm (l.foldl (fun s i => reclaimTracker d i s) u) = calm u := by simp
  have after (u : State) : calm (afterDeath s u) = calm u := by
    unfold afterDeath
    split <;> simp
  rw [declared, after, declareDead_eq h alive, trackers, deathReported_calm]

theorem deathReported_saf : deathReported d cause s = { s with
    coh := (deathNoted d cause s).coh, bg := (deathNoted d cause s).bg
    saf := (report 0x24 0 0 (pack [(0, 8, d), (8, 2, cause)]) (deathNoted d cause s)).saf
    ken := (dropHolder d s.env.idDie.toNat s).ken } := by
  rw [deathReported, report_saf]
  rfl

/-- A transaction that awaits nothing of the agent goes on. -/
theorem reclaimTracker_apart {u : State} {i : Nat} (owner : (getTracker u i).owner ≠ some d) (await : d ∉ (getTracker u i).await) :
    reclaimTracker d i u = u := by
  unfold reclaimTracker
  dsimp only
  rw [if_neg owner, List.contains_eq_mem, decide_eq_false await]
  simp

theorem tfind_of_mem {α : Type} {t : Table α} (sorted : t.Pairwise fun a b => a.1 < b.1) {x : Nat × α} (h : x ∈ t) :
    tfind t x.1 = some x.2 := by
  induction t with
  | nil => cases h
  | cons p t ih =>
    obtain ⟨ahead, sorted⟩ := List.pairwise_cons.1 sorted
    rcases List.mem_cons.1 h with rfl | h
    · exact if_pos rfl
    · exact (if_neg (ahead x h).ne).trans (ih sorted h)

theorem getTracker_of_mem {u : State} (sorted : u.coh.trk.Pairwise fun a b => a.1 < b.1) {x : Nat × Tracker} (h : x ∈ u.coh.trk) :
    getTracker u x.1 = x.2 := by
  rw [getTracker, tget, tfind_of_mem sorted h]
  rfl

/-- Where no transaction awaits the agent, its death is noted, reported, and its slots and waits go. -/
theorem declared_quiet (h : d < s.coh.nclust.toNat) (alive : s.coh.dead.getLsbD d = false)
    (apart : ∀ x ∈ s.coh.trk, x.2.owner ≠ some d ∧ d ∉ x.2.await) (sorted : s.coh.trk.Pairwise fun a b => a.1 < b.1) :
    declareDead d cause s = deathReported d cause s := by
  have trk : (deathReported d cause s).coh.trk = s.coh.trk := by
    rw [deathReported_saf]
    rfl
  rw [declareDead_eq h alive]
  refine List.foldlRecOn (motive := fun u => u = deathReported d cause s) _ _ rfl fun u hu i hi => ?_
  subst hu
  obtain ⟨x, hx, rfl⟩ := List.mem_map.1 hi
  have own := getTracker_of_mem (trk ▸ sorted) hx
  rw [trk] at hx
  exact reclaimTracker_apart (own ▸ (apart x hx).1) (own ▸ (apart x hx).2)

theorem deathNoted_dead (lt : d < 160) (a : Nat) :
    (deathNoted d cause s).coh.dead.getLsbD a = (s.coh.dead.getLsbD a || decide (a = d)) := by
  refine (getLsbD_setBit s.coh.dead lt true a).trans ?_
  by_cases eq : a = d <;> simp [eq]

/-- A slot after the death of an agent (R186). -/
def slotDropped (d die sc : Nat) (k : Slot) : Slot :=
  if k.holder = some (agentHolder d die) then { k with state := .poison, holder := none, age := 0, since := sc }
  else { k with commit := k.commit.map fun q => match q.1 with
    | .agent h => if h.agent = d ∧ h.die = die then (.gone (agentHolder d die), q.2) else q
    | _ => q }

theorem dropHolder_slots (die : Nat) (u : State) (n : Nat) :
    tfind (dropHolder d die u).ken.slots n = (tfind u.ken.slots n).map (slotDropped d die u.env.sc) := by
  refine Eq.trans ?_ (tfind_map_snd (slotDropped d die u.env.sc) u.ken.slots n)
  refine congrArg (fun l => tfind l n) (List.map_congr_left fun p _ => ?_)
  unfold slotDropped
  split <;> rfl

theorem slotDropped_held {die sc : Nat} {k : Slot} (h : k.holder = some (agentHolder d die)) :
    slotDropped d die sc k = { k with state := .poison, holder := none, age := 0, since := sc } := if_pos h

/-- The COMMIT that waits at a slot is the agent's no more. -/
theorem slotDropped_other {die sc : Nat} {k : Slot} (h : k.holder ≠ some (agentHolder d die)) :
    ∃ q, slotDropped d die sc k = { k with commit := q }
      ∧ (∀ h cls, k.commit = some (.agent h, cls) → h.agent = d → h.die = die → q = some (.gone (agentHolder d die), cls))
      ∧ ((∀ h cls, k.commit = some (.agent h, cls) → ¬ (h.agent = d ∧ h.die = die)) → q = k.commit) := by
  refine ⟨_, if_neg h, fun g cls commit agent same => ?_, fun none => ?_⟩
  · rw [commit]
    exact congrArg some (if_pos ⟨agent, same⟩)
  · rcases commit : k.commit with _ | ⟨party, cls⟩
    · rfl
    · cases party with
      | agent g => exact congrArg some (if_neg (none g cls commit))
      | ctx c id => rfl
      | gone m => rfl

theorem deathReported_waits : (deathReported d cause s).ken.waits = s.ken.waits.filter fun w => match w.party with
    | .agent h => !(h.agent == d && h.die == s.env.idDie.toNat)
    | _ => true := by
  rw [deathReported_saf]
  rfl

theorem deathReported_untouched : Untouched s (deathReported d cause s) := by
  have kept : Untouched s (report 0x24 0 0 (pack [(0, 8, d), (8, 2, cause)]) (deathNoted d cause s)) := report_untouched _ _ _ _ {}
  rw [deathReported]
  exact kept.trans {}

/-- The channels whose waits are looked at after a death. -/
theorem declared_eq {u : State} (dies : declareDead d cause s = u) (dead : u.coh.dead ≠ s.coh.dead) : declared d cause s
    = ((u.ken.waits.map fun w => w.ch).dedup).foldl (fun s ch => afterChange ch s) u := by
  rw [declared, dies]
  exact if_neg dead

end

/-- What a death leaves where nothing that waits is another's (R144, R186). -/
def deathWith (out : Out) (s t : State) : State :=
  { s with coh := t.coh, ken := { s.ken with slots := t.ken.slots, waits := [] }, saf := t.saf
           bg := { s.bg with tel := { s.bg.tel with deadDecl := min 255 (s.bg.tel.deadDecl + 1) } }, out := out }

section
variable {s : State} {d : BitVec 8} {cause : Nat} {c : Instr} {out : State → Out} (D : Declares c s d.toNat cause out)
include D

theorem Declares.of_outside (h : s.coh.nclust.toNat ≤ d.toNat) : exec c s = .next { s with
    coh := { s.coh with adRej := true }, out := out s
    env := { s.env with done := { s.env.done with raised := setBit s.env.done.raised 2 true } } } := by
  have same := declared_outside (cause := cause) h
  generalize hu : ({ s with
    coh := { s.coh with adRej := true }
    env := { s.env with done := { s.env.done with raised := setBit s.env.done.raised 2 true } } } : State) = u at same
  have left : out u = out s := D.same u (hu ▸ rfl) (hu ▸ rfl)
  have kept : Untouched s u := hu ▸ {}
  rw [D.settled (same ▸ kept), same, left, ← hu]

theorem Declares.of_dead (h : d.toNat < s.coh.nclust.toNat) (dead : s.coh.dead.getLsbD d.toNat = true) :
    exec c s = .next { s with out := out s } := by
  have same := declared_dead (cause := cause) h dead
  have kept : Untouched s (declared d.toNat cause s) := by
    rw [same]
    exact {}
  rw [D.settled kept, same]

variable (lt : d.toNat < s.coh.nclust.toNat) (most : s.coh.nclust.toNat ≤ 160) (alive : s.coh.dead.getLsbD d.toNat = false)
include lt most alive

omit D alive in
/-- Its bit of SL_DEAD is set, the cause and the agent are shown, and the walk begins. -/
theorem deathNoted_shows : (∀ a, a < 160 →
      (deathNoted d.toNat cause s).coh.dead.getLsbD a = (s.coh.dead.getLsbD a || decide (a = d.toNat)))
    ∧ (deathNoted d.toNat cause s).coh.lastDead = d :=
  ⟨fun a _ => deathNoted_dead (lt.trans_le most) a, (BitVec.ofNat_toNat 8 d).trans (BitVec.setWidth_eq d)⟩

theorem Declares.shows : ∃ t, exec c s = .next t
    ∧ (∀ a, a < 160 → t.coh.dead.getLsbD a = (s.coh.dead.getLsbD a || decide (a = d.toNat)))
    ∧ t.coh.lastCause = BitVec.ofNat 2 cause ∧ t.coh.lastDead = d ∧ t.coh.reclaim = some 0 := by
  obtain ⟨t, runs, coh⟩ := D.runs
  have same : calm (declared d.toNat cause s) = calm (deathNoted d.toNat cause s) := declared_calm lt alive
  simp only [calm, Prod.mk.injEq] at same
  obtain ⟨dead, lastCause, lastDead, reclaim, -, -⟩ := same
  have shown := deathNoted_shows (cause := cause) lt most
  refine ⟨t, runs, ?_⟩
  rw [coh]
  exact ⟨dead ▸ shown.1, lastCause, lastDead.trans shown.2, reclaim⟩

end

section
variable {s : State} {d : BitVec 8} {cause : Nat} {c : Instr} {out : State → Out} (D : Declares c s d.toNat cause out)
variable (lt : d.toNat < s.coh.nclust.toNat) (most : s.coh.nclust.toNat ≤ 160) (alive : s.coh.dead.getLsbD d.toNat = false)

/-- The agent's bit was not set before. -/
theorem deathReported_dead (lt : d.toNat < 160) (alive : s.coh.dead.getLsbD d.toNat = false) :
    (deathReported d.toNat cause s).coh.dead ≠ s.coh.dead := by
  intro same
  have set := deathNoted_dead (s := s) (cause := cause) lt d.toNat
  have dead : (deathNoted d.toNat cause s).coh.dead = s.coh.dead := (congrArg Prod.fst deathReported_calm).symm.trans same
  rw [dead, alive] at set
  simp at set

theorem report_pends (ev react muz detail : Nat) (u : State) :
    (report ev react muz detail u).saf.seq = nextSeq u.saf.seq ∧ (report ev react muz detail u).saf.pend = true := by
  unfold report logRecord
  split <;> exact ⟨rfl, rfl⟩

section
variable (none : ∀ w ∈ s.ken.waits, ∃ h, w.party = .agent h ∧ h.agent = d.toNat ∧ h.die = s.env.idDie.toNat)
include none

theorem deathReported_alone : (deathReported d.toNat cause s).ken.waits = [] := by
  rw [deathReported_waits]
  refine List.filter_eq_nil_iff.2 fun w hw => ?_
  obtain ⟨h, party, agent, die⟩ := none w hw
  simp [party, agent, die]

theorem deathReported_left : deathReported d.toNat cause s = deathWith s.out s (deathReported d.toNat cause s) := by
  have left := deathReported_saf (s := s) (d := d.toNat) (cause := cause)
  have gone := deathReported_alone (cause := cause) none
  generalize deathReported d.toNat cause s = t at left gone ⊢
  subst left
  exact congrArg (fun waits => { s with
    coh := (deathNoted d.toNat cause s).coh, bg := (deathNoted d.toNat cause s).bg
    saf := (report 0x24 0 0 (pack [(0, 8, d.toNat), (8, 2, cause)]) (deathNoted d.toNat cause s)).saf
    ken := { s.ken with slots := (dropHolder d.toNat s.env.idDie.toNat s).ken.slots, waits := waits } }) gone

include D lt most alive

/-- Where no transaction awaits the agent and only its own requests wait, its death is all that happens. -/
theorem Declares.alone (apart : ∀ x ∈ s.coh.trk, x.2.owner ≠ some d.toNat ∧ d.toNat ∉ x.2.await)
    (sorted : s.coh.trk.Pairwise fun a b => a.1 < b.1) :
    exec c s = .next (deathWith (out s) s (deathReported d.toNat cause s)) := by
  have dies : declared d.toNat cause s = deathReported d.toNat cause s := by
    rw [declared_eq (declared_quiet lt alive apart sorted) (deathReported_dead (lt.trans_le most) alive), deathReported_alone none]
    rfl
  have left := deathReported_left (cause := cause) none
  rw [D.settled (dies ▸ deathReported_untouched), dies]
  have same : out (deathReported d.toNat cause s) = out s := D.same _ (left ▸ rfl) (left ▸ rfl)
  rw [same]
  generalize deathReported d.toNat cause s = t at left ⊢
  exact congrArg (fun u : State => Host.Outcome.next { u with out := out s }) left

end

section
variable {ch : Nat} {g : Hdr} (sound : ChannelsSound s) (other : ¬ (g.agent = d.toNat ∧ g.die = s.env.idDie.toNat))
    (waits : s.ken.waits = [{ ch := ch, take := false, party := .agent g }]) (muz : (chanOf s ch).muz = false)
    (held : (slotAt s ch (chanOf s ch).pi).holder = some (agentHolder d.toNat s.env.idDie.toNat))

theorem deathReported_chan (i : Nat) : chanOf (deathReported d.toNat cause s) i = chanOf s i := by
  rw [deathReported_saf]
  rfl

theorem deathReported_slotAt (i k : Nat) : slotAt (deathReported d.toNat cause s) i k = slotAt s i k
    ∨ ∃ p, tfind s.ken.slots (i * 65536 + k) = some p
      ∧ slotAt (deathReported d.toNat cause s) i k = slotDropped d.toNat s.env.idDie.toNat s.env.sc p := by
  have slots : (deathReported d.toNat cause s).ken.slots = (dropHolder d.toNat s.env.idDie.toNat s).ken.slots := by
    rw [deathReported_saf]
  rw [slotAt, slotAt, tget, tget, slots, dropHolder_slots]
  cases found : tfind s.ken.slots (i * 65536 + k) with
  | none => exact .inl rfl
  | some p => exact .inr ⟨p, rfl, rfl⟩

theorem slotAt_of_find {i k : Nat} {p : Slot} (h : tfind s.ken.slots (i * 65536 + k) = some p) : slotAt s i k = p := by
  rw [slotAt, tget, h]
  rfl

include sound in
theorem deathReported_sound : ChannelsSound (deathReported d.toNat cause s) := by
  refine ⟨fun i => (congrArg Channel.parityBad (deathReported_chan i)).trans (sound.chan i), fun i k => ?_, fun t => ?_⟩
  · rcases deathReported_slotAt (cause := cause) (d := d) i k with same | ⟨p, found, same⟩
    · exact (congrArg Slot.parityBad same).trans (sound.slot i k)
    · have ok := sound.slot i k
      rw [slotAt_of_find found] at ok
      rw [same, slotDropped]
      split <;> exact ok
  · rw [targetAt, deathReported_saf]
    exact sound.target t

include held in
theorem deathReported_poisons : (slotAt (deathReported d.toNat cause s) ch (chanOf s ch).pi).state = .poison := by
  cases found : tfind s.ken.slots (ch * 65536 + (chanOf s ch).pi) with
  | none =>
    rw [slotAt, tget, found] at held
    cases held
  | some k =>
    rw [slotAt_of_find found] at held
    have slots : (deathReported d.toNat cause s).ken.slots = (dropHolder d.toNat s.env.idDie.toNat s).ken.slots := by
      rw [deathReported_saf]
    rw [slotAt, tget, slots, dropHolder_slots, found, Option.map_some, slotDropped_held held]
    rfl

include D lt most alive sound other waits muz held

/-- A reservation that waits on a slot of the dead agent completes, with POISON (R172). -/
theorem Declares.hands (none : s.coh.trk = []) : ∃ t, exec c s = .next t ∧ t.ken.waits = []
    ∧ (slotAt t ch (chanOf s ch).pi).state = .resv
    ∧ (slotAt t ch (chanOf s ch).pi).holder = some (agentHolder g.agent g.die)
    ∧ (g.port ≠ .xp → chMsg g .poison (BitVec.ofNat 16 (chanOf s ch).pi)
        (BitVec.ofNat 24 (slotOffset (chanOf s ch) (chanOf s ch).pi)) s.env.sc ∈ t.out.egress) := by
  set u := deathReported d.toNat cause s with hu
  have chan : chanOf u ch = chanOf s ch := deathReported_chan ch
  have sc : u.env.sc = s.env.sc := by rw [hu, deathReported_saf]
  have left : u.ken.waits = [{ ch := ch, take := false, party := .agent g }] := by
    rw [hu, deathReported_waits, waits]
    refine List.filter_eq_self.2 fun w hw => ?_
    obtain rfl := List.mem_singleton.1 hw
    simpa [imp_iff_not_or] using other
  have spoiled : Reservable u ch .poison := .inr ⟨by rw [chan]; exact deathReported_poisons held, rfl⟩
  have served := afterChange_serves (deathReported_sound sound) (by rw [chan, muz]) left spoiled nofun
  rw [← hu, chan, sc] at served
  have apart : ∀ x ∈ s.coh.trk, x.2.owner ≠ some d.toNat ∧ d.toNat ∉ x.2.await := by
    rw [none]
    exact fun _ h => absurd h List.not_mem_nil
  have sorted : s.coh.trk.Pairwise fun a b => a.1 < b.1 := by
    rw [none]
    exact .nil
  have quiet : declareDead d.toNat cause s = u := declared_quiet lt alive apart sorted
  have changed : u.coh.dead ≠ s.coh.dead := deathReported_dead (lt.trans_le most) alive
  have dies : declared d.toNat cause s = afterChange ch u := by
    rw [declared_eq quiet changed, left]
    rfl
  rw [served] at dies
  generalize hm : chMsg g .poison (BitVec.ofNat 16 (chanOf s ch).pi)
    (BitVec.ofNat 24 (slotOffset (chanOf s ch) (chanOf s ch).pi)) s.env.sc = m at dies ⊢
  have kens : (emit m (reserves u ch (.agent g))).ken = (reserves u ch (.agent g)).ken := by rw [emit_rest]
  have kept : Untouched s (declared d.toNat cause s) := by
    rw [dies]
    have idle (v : State) : Untouched v (unwaiting v) := {}
    have taken : Untouched u (reserves u ch (.agent g)) := {}
    exact (emit_untouched m (deathReported_untouched.trans taken)).trans (idle _)
  have slots : slotAt { declared d.toNat cause s with out := out (declared d.toNat cause s) } ch (chanOf s ch).pi
      = { (default : Slot) with state := .resv, holder := some (agentHolder g.agent g.die), since := u.env.sc } := by
    rw [slotAt, dies, unwaiting]
    dsimp only
    rw [kens, reserves, chan]
    exact slotAt_setSlot_self u ch (chanOf s ch).pi fun _ =>
      { (default : Slot) with state := .resv, holder := some (agentHolder g.agent g.die), since := u.env.sc }
  refine ⟨_, D.settled kept, ?_, ?_, ?_, fun port => ?_⟩
  · rw [dies]
    rfl
  · rw [slots]
  · rw [slots]
  · have egress : (out (declared d.toNat cause s)).egress = (emit m (reserves u ch (.agent g))).out.egress := by
      rw [D.egress, dies]
      rfl
    refine egress ▸ ?_
    rw [emit_egress _ (by rw [← hm]; exact port)]
    exact List.mem_append_right _ (List.mem_singleton_self _)

end

end

/-- The slots after a death: the agent's are poisoned, and a COMMIT of it that waits is its no more. -/
theorem deathReported_slots {s : State} {d cause n : Nat} {k : Slot} (h : tfind s.ken.slots n = some k) :
    tfind (deathReported d cause s).ken.slots n = some (slotDropped d s.env.idDie.toNat s.env.sc k) := by
  have slots : (deathReported d cause s).ken.slots = (dropHolder d s.env.idDie.toNat s).ken.slots := by rw [deathReported_saf]
  rw [slots, dropHolder_slots, h]
  rfl

theorem deathNoted_resv {s : State} {d cause : Nat} (r : Resv) :
    r ∈ (deathNoted d cause s).coh.resv ↔ r ∈ s.coh.resv ∧ ¬ (r.agent = d ∧ r.die = s.env.idDie.toNat) := by
  simp [deathNoted, imp_iff_not_or]

theorem deathNoted_coh {s : State} {d cause : Nat} {x : BitVec 8} (h : (deathNoted d cause s).coh.lastDead = x) :
    (deathNoted d cause s).coh = { s.coh with
      dead := (deathNoted d cause s).coh.dead, declared := (deathNoted d cause s).coh.declared
      lastCause := BitVec.ofNat 2 cause, lastDead := x, reclaim := some 0, resv := (deathNoted d cause s).coh.resv } := by
  subst h
  rfl

theorem deathReported_coh {s : State} {d cause : Nat} : (deathReported d cause s).coh = (deathNoted d cause s).coh := by
  rw [deathReported_saf]

theorem deathReported_report {s : State} {d cause : Nat} :
    (deathReported d cause s).saf = (report 0x24 0 0 (pack [(0, 8, d), (8, 2, cause)]) (deathNoted d cause s)).saf := by
  rw [deathReported_saf]

/-- Settles O27: a death runs as its declaration does; where nothing else waits, that is all; a reservation on a slot of the
dead agent completes. -/
theorem agentDownAnswers : Obligations.AgentDownAnswers := by
  unfold Obligations.AgentDownAnswers
  intro s d v word die me down
  have both {c : Instr} {out : State → Out} {cause : Nat} (D : Declares c s d.toNat cause out) :
      down c (out s) (BitVec.ofNat 2 cause) := by
    refine ⟨D.of_outside, D.of_dead, fun lt most alive => ⟨D.shows lt most alive, fun apart sorted none => ?_,
      fun ch g trk sound _ waits other muz held => ?_⟩⟩
    · have shown := deathNoted_shows (cause := cause) lt most
      have coh := deathReported_coh (s := s) (d := d.toNat) (cause := cause)
      have pends := report_pends 0x24 0 0 (pack [(0, 8, d.toNat), (8, 2, cause)]) (deathNoted d.toNat cause s)
      rw [← deathReported_report] at pends
      have slots {n : Nat} {k : Slot} (h : tfind s.ken.slots n = some k) := deathReported_slots (d := d.toNat) (cause := cause) h
      have runs := D.alone lt most alive none apart sorted
      generalize deathReported d.toNat cause s = t at coh pends slots runs
      refine ⟨_, runs, ?_, ?_, fun r => ?_, rfl, fun n k found => ⟨fun held => ?_, fun free => ?_⟩, pends.1, pends.2, rfl⟩
      · have left := deathNoted_coh shown.2
        rw [← coh] at left
        exact left
      · exact coh ▸ shown.1
      · exact coh ▸ deathNoted_resv r
      · exact (slots found).trans (congrArg some (slotDropped_held held))
      · obtain ⟨q, dropped, gone, left⟩ := slotDropped_other (sc := s.env.sc) free
        exact ⟨q, (slots found).trans (congrArg some dropped), gone, left⟩
    · obtain ⟨t, runs, gone, state, holder, sent⟩ := D.hands lt most alive sound other waits muz held trk
      exact ⟨t, runs, gone, state, holder, fun port => ⟨_, sent port, rfl, rfl, rfl, rfl, _, _, rfl⟩⟩
  refine ⟨fun hu => both (agentDown_declares hu d), fun ha => ?_⟩
  have D := agentDownWrite_declares ha v
  rw [word] at D
  exact both D

end Sys2Proof.Proofs
end

section
/-! SUPPORT. What an engine's read of code words leaves alone: the state of every context; DUMP and RESTORE of an image
(09_sequencer_architecture R259, R261, R267; 15_containment_and_safety R403). -/

namespace Sys2Proof.Proofs

open Sys2Proof.Machine Sys2Proof.Safety Sys2Proof.Laws

set_option Elab.async false

/-! ### The states of the contexts -/

/-- The state of every context. -/
def ctxStates (s : State) : Nat → CtxState := fun c => (getCtx s c).state

theorem ctxStates_of_calm {s t : State} (h : calm t = calm s) : ctxStates t = ctxStates s := by
  have same : t.seq.ctx = s.seq.ctx := congrArg (fun x => x.2.2.2.2.1) h
  unfold ctxStates getCtx
  rw [same]

theorem setCtx_states (c : Nat) {f : Ctx → Ctx} (h : ∀ x, (f x).state = x.state) (s : State) :
    ctxStates (setCtx c f s) = ctxStates s := by
  funext k
  by_cases eq : k = c
  · subst eq
    exact (congrArg Ctx.state (getCtx_setCtx_self ..)).trans (h _)
  · exact congrArg Ctx.state (getCtx_setCtx_ne s f eq)

theorem setPend_states (c id : Nat) (f : Pending → Pending) (s : State) : ctxStates (setPend c id f s) = ctxStates s :=
  setCtx_states c (f := fun x => { x with pend := x.pend.map fun p => if p.id = id then f p else p }) (fun _ => rfl) s

theorem gatherDone_states (c id : Nat) (q : Pending) (due : Nat) (s : State) :
    ctxStates (gatherDone c id q due s) = ctxStates s := by
  refine ctxStates_of_calm ?_
  unfold gatherDone
  dsimp only
  split
  · split <;> simp
  · simp
  · simp

theorem partDone_states (c id : Nat) (words : Table CodeWord) (bad : Option Status) (due : Nat) (s : State) :
    ctxStates (partDone c id words bad due s) = ctxStates s := by
  unfold partDone
  dsimp only
  split
  · rfl
  · split
    · exact (gatherDone_states ..).trans (setPend_states ..)
    · exact setPend_states ..

theorem landRead_states (x : Reading) (s : State) : ctxStates (landRead x s) = ctxStates s := by
  have seen : ctxStates (settleSeen x.acc.purpose.source x.acc.purpose.line x.acc.purpose.isEvict x.seen s).2 = ctxStates s :=
    ctxStates_of_calm (settleSeen_aside ..).calms
  unfold landRead
  dsimp only
  split
  case h_5 => exact (partDone_states ..).trans seen
  all_goals refine Eq.trans (ctxStates_of_calm ?_) seen
  case h_6 => split <;> simp
  all_goals simp

theorem writeStarted_states (a : Access) (s : State) : ctxStates (writeStarted a s) = ctxStates s := by
  unfold writeStarted
  split
  case h_2 => exact (partDone_states ..).trans (ctxStates_of_calm (writeWords_calm ..))
  all_goals exact ctxStates_of_calm (by simp)

theorem startAccess_states (a : Access) (s : State) : ctxStates (startAccess a s) = ctxStates s := by
  have read : ctxStates (readStarted a s) = ctxStates s := ctxStates_of_calm (readStarted_calm a s)
  unfold startAccess
  split
  · exact writeStarted_states a s
  · split
    · split
      · exact ctxStates_of_calm (atomMuzzled_calm ..)
      · exact read
    · exact read

theorem beginAccess_states (a : Access) (s : State) : ctxStates (beginAccess a s) = ctxStates s := by
  refine (startAccess_states ..).trans (ctxStates_of_calm ?_)
  split <;> simp

theorem startGroup_states (group : List Access) (dflt : Nat) (secs : List Nat) (s : State) :
    ctxStates (startGroup group dflt secs s) = ctxStates s := by
  unfold startGroup
  refine (List.foldlRecOn (motive := fun t => ctxStates t = ctxStates _) _ _ rfl fun t same n _ => ?_).trans
    (ctxStates_of_calm (by simp))
  split
  · exact (startAccess_states ..).trans ((ctxStates_of_calm (dropAccess_calm ..)).trans same)
  · exact same

theorem performBefore_states (reads : Bool) (secs : List Nat) (n : Nat) (s : State) :
    ctxStates (performBefore reads secs n s) = ctxStates s := by
  induction n generalizing s with
  | zero => rfl
  | succ n ih =>
    rw [performBefore]
    split
    · exact (ih _).trans (landRead_states ..)
    · split
      · rfl
      · exact (ih _).trans (beginAccess_states ..)

/-- The reads of an engine change the state of no context. -/
theorem engineRead_states (src cls off n : Nat) (s : State) : ctxStates (engineRead src cls off n s).2 = ctxStates s := by
  unfold engineRead
  dsimp only
  have read (u : State) : ctxStates (readSectors src false (kennelSecs off n) u).2 = ctxStates u :=
    ctxStates_of_calm (readSectors_aside ..).calms
  have before := performBefore_states true (kennelSecs off n) (2 * s.fg.accs.length + 16) s
  refine Eq.trans ?_ ((read _).trans before)
  split
  · exact ctxStates_of_calm (by simp)
  · exact startGroup_states ..

/-! ### DUMP -/

/-- Where DUMP is permitted (R267, R403). -/
def DumpPermitted (s : State) : Prop :=
  saveRegionOk s = true ∧ (s.seq.muz = true ∨ s.saf.fatal = true ∨ (getCtx s s.seq.ctxSel.toNat).state = .halt
    ∨ (getCtx s s.seq.ctxSel.toNat).state = .susp ∨ (getCtx s s.seq.ctxSel.toNat).state = .fault)

theorem mayDump_iff (s : State) : mayDump (noisy s) s.seq.ctxSel.toNat = true ↔ DumpPermitted s := by
  have state : (match (getCtx s s.seq.ctxSel.toNat).state with
      | .halt | .susp | .fault => true
      | _ => false) = true
      ↔ (getCtx s s.seq.ctxSel.toNat).state = .halt ∨ (getCtx s s.seq.ctxSel.toNat).state = .susp
        ∨ (getCtx s s.seq.ctxSel.toNat).state = .fault := by
    cases (getCtx s s.seq.ctxSel.toNat).state <;> decide
  rw [DumpPermitted, ← state, ← or_assoc, ← Bool.or_eq_true, ← Bool.or_eq_true, ← Bool.and_eq_true]
  rfl

theorem exec_dump {s : State} (h : sbReads s) : exec .dump s = .next (sbSettle s (sbRespond 0 0 (dumpSelected s))) := by
  unfold exec execDump
  exact sideband_next h .dump fun s => sbRespond 0 0 (dumpSelected s)

theorem dumpSelected_permitted {s : State} (h : DumpPermitted s) :
    dumpSelected s = settle s (settlePeriods s (writeImage s.seq.ctxSel.toNat true (noisy s))) := by
  rw [dumpSelected, keepConfig]
  dsimp only
  rw [show (noisy s).seq.ctxSel = s.seq.ctxSel from rfl, if_pos ((mayDump_iff s).2 h)]

/-- The sequencer of b with what only software writes taken from a. -/
def seqSettled (a b : Machine.Seq) : Machine.Seq :=
  { b with en := a.en, mclass := a.mclass, m0pc := a.m0pc, saveBase := a.saveBase, entrySel := a.entrySel, ctxSel := a.ctxSel,
           entries := a.entries, psPending := a.psPending, pstore := a.pstore }

/-- A permitted DUMP writes the image and answers. -/
theorem dump_permitted {s : State} (h : sbReads s) (may : DumpPermitted s) (idle : idleArray s) :
    ∃ t, exec .dump s = .next t ∧ t.seq = { s.seq with quiet := false } ∧ t.out = responded s 0 0
      ∧ (∀ i w, (saveImage s s.seq.ctxSel.toNat true)[i]? = some w →
          cellsOf t (kennelLoc (imageOffset s s.seq.ctxSel.toNat + 32 * i))
            = some (wordCells s (kennelLoc (imageOffset s s.seq.ctxSel.toNat + 32 * i)) (plain w)))
      ∧ (∀ loc, loc < 2 ^ 19 → (∀ i, i < 70 → loc ≠ kennelLoc (imageOffset s s.seq.ctxSel.toNat + 32 * i)) →
          cellsOf t loc = cellsOf s loc) := by
  have quiet : idleArray (noisy s) := idle
  obtain ⟨outside, written, others⟩ := writeImage_writes quiet s.seq.ctxSel.isLt true
  have runs := exec_dump h
  rw [dumpSelected_permitted may] at runs
  generalize writeImage s.seq.ctxSel.toNat true (noisy s) = u at outside written others runs
  have fuse : u.fuse = s.fuse := (congrArg State.fuse outside :)
  have seq : u.seq = { s.seq with quiet := false } := congrArg State.seq outside
  have out : u.out = s.out := outside.out
  have env : u.env = s.env := outside.env
  have cells (loc : Nat) : cellsOf (sbSettle s (sbRespond 0 0 (settle s (settlePeriods s u)))) loc = cellsOf u loc := by
    have same : (sbSettle s (sbRespond 0 0 (settle s (settlePeriods s u)))).fuse = u.fuse := fuse.symm
    rw [cellsOf, physRow_congr (s := u) same rfl (fun _ _ _ _ => rfl)]
    exact delivered_congr same rfl rfl loc _
  refine ⟨_, runs, ?_, ?_, fun i w hw => (cells _).trans (written i w hw), fun loc hl ne => (cells _).trans (others loc hl ne)⟩
  · exact (congrArg (seqSettled s.seq) seq :)
  · change { u.out with sb := u.out.sb ++ [{ leaves := u.env.sc + 3, resp := 0, data := 0 }] } = responded s 0 0
    rw [out, env]
    rfl

/-- A context command that is not permitted: it is flagged and answered. -/
def commandRejected (s : State) : State :=
  { s with seq := { s.seq with quiet := false, cmdRej := true }, out := responded s 0 0 }

theorem rejected_untouched (s : State) : Untouched s (seqReject (noisy s)) := by constructor <;> rfl

theorem dump_refused {s : State} (h : sbReads s) (may : ¬ DumpPermitted s) (live : s.saf.fatal = false) :
    exec .dump s = .next (commandRejected s) := by
  have body : dumpSelected s = seqReject (noisy s) := by
    rw [← keepConfig_eq (body := fun s => seqReject (noisy s)) (rejected_untouched s), dumpSelected, keepConfig, keepConfig]
    dsimp only
    rw [show (noisy s).seq.ctxSel = s.seq.ctxSel from rfl, if_neg (fun k => may ((mayDump_iff s).1 k)),
      show (noisy s).saf.fatal = false from live, if_neg Bool.false_ne_true]
  rw [exec_dump h, body]
  rfl

/-! ### RESTORE -/

/-- Where RESTORE reads the image (R261). -/
def RestorePermitted (s : State) : Prop :=
  s.seq.muz = false ∧ s.seq.ctxSel.toNat ≠ 0
    ∧ ((getCtx s s.seq.ctxSel.toNat).state = .idle ∨ (getCtx s s.seq.ctxSel.toNat).state = .susp) ∧ saveRegionOk s = true

theorem mayRestore_iff {s : State} (live : s.saf.fatal = false) :
    mayRestore (noisy s) s.seq.ctxSel.toNat = true ↔ RestorePermitted s := by
  have : seqMuzzled s = s.seq.muz := by rw [seqMuzzled, live, Bool.or_false]
  rw [RestorePermitted, ← Bool.not_eq_true', ← this]
  change (!seqMuzzled s && decide (s.seq.ctxSel.toNat ≠ 0)
    && (decide ((getCtx s s.seq.ctxSel.toNat).state = .idle) || decide ((getCtx s s.seq.ctxSel.toNat).state = .susp))
    && saveRegionOk s) = true ↔ _
  simp only [Bool.and_eq_true, Bool.or_eq_true, decide_eq_true_eq, and_assoc]

/-- What RESTORE does where it is permitted. -/
theorem restore_permitted {s : State} (h : sbReads s) (live : s.saf.fatal = false) (may : RestorePermitted s) :
    exec .restore s = .next (sbSettle s (sbRespond 0 0 (settle s (settlePeriods s
      (restoreSelected s.seq.ctxSel.toNat (noisy s)))))) := by
  unfold exec execRestore ctxCommand
  refine (sbWriteOk_next ⟨h, live⟩ .restore (ctxEffect mayRestore restoreSelected)).trans ?_
  rw [ctxEffect, keepConfig]
  dsimp only
  rw [show (noisy s).seq.ctxSel = s.seq.ctxSel from rfl, if_pos ((mayRestore_iff live).2 may)]

/-- The image that RESTORE reads, and the state after the reads (entry 20). -/
def restoring (s : State) : List CodeWord × State :=
  engineRead 1 (getCtx s s.seq.ctxSel.toNat).cls (imageOffset s s.seq.ctxSel.toNat) 2240 (noisy s)

/-- The answer to a RESTORE changes no context. -/
theorem answered_ctx (s u : State) (c : Nat) : getCtx (sbSettle s (sbRespond 0 0 (settle s (settlePeriods s u)))) c = getCtx u c := rfl

/-- A context whose image has been taken up: its reads end 51 sc later (entry 20). -/
def takenUp (words : List CodeWord) (sc : Nat) (x : Ctx) : Ctx :=
  { x with state := .xfer, image := some { words := words.map fun w => w.data, readAt := sc + 51, ready := false, asker := none
                                           susp := x.state == .susp } }

theorem restoreSelected_accepts {s : State} (ok : imageOk s.seq.ctxSel.toNat (restoring s).1 = true) :
    restoreSelected s.seq.ctxSel.toNat (noisy s)
      = setCtx s.seq.ctxSel.toNat (takenUp (restoring s).1 s.env.sc) (restoring s).2 := by
  have begun : beginRestore s.seq.ctxSel.toNat (getCtx s s.seq.ctxSel.toNat).cls none (noisy s)
      = (true, setCtx s.seq.ctxSel.toNat (takenUp (restoring s).1 s.env.sc) (restoring s).2) := if_pos ok
  exact congrArg (fun r : Bool × State => if r.1 then r.2 else seqReject r.2) begun

theorem restoreSelected_rejects {s : State} (bad : imageOk s.seq.ctxSel.toNat (restoring s).1 = false) :
    restoreSelected s.seq.ctxSel.toNat (noisy s) = seqReject (restoring s).2 := by
  have refused : beginRestore s.seq.ctxSel.toNat (getCtx s s.seq.ctxSel.toNat).cls none (noisy s)
      = (false, (restoring s).2) := if_neg (ne_true_of_eq_false bad)
  exact congrArg (fun r : Bool × State => if r.1 then r.2 else seqReject r.2) refused

/-- An accepted image is taken up. -/
theorem restore_accepts {s : State} (h : sbReads s) (live : s.saf.fatal = false) (may : RestorePermitted s)
    (ok : imageOk s.seq.ctxSel.toNat (restoring s).1 = true) :
    ∃ t, exec .restore s = .next t ∧ getCtx t s.seq.ctxSel.toNat
      = takenUp (restoring s).1 s.env.sc (getCtx (restoring s).2 s.seq.ctxSel.toNat) := by
  refine ⟨_, restore_permitted h live may, ?_⟩
  rw [answered_ctx, restoreSelected_accepts ok, getCtx_setCtx_self]

/-- An image that is not accepted is refused. -/
theorem restore_rejects {s : State} (h : sbReads s) (live : s.saf.fatal = false) (may : RestorePermitted s)
    (bad : imageOk s.seq.ctxSel.toNat (restoring s).1 = false) :
    ∃ t, exec .restore s = .next t ∧ getCtx t s.seq.ctxSel.toNat = getCtx (restoring s).2 s.seq.ctxSel.toNat
      ∧ t.seq.cmdRej = true := by
  refine ⟨_, restore_permitted h live may, ?_⟩
  rw [restoreSelected_rejects bad]
  generalize (restoring s).2 = u
  exact ⟨rfl, rfl⟩

theorem restore_refused {s : State} (h : sbReads s) (live : s.saf.fatal = false) (may : ¬ RestorePermitted s) :
    exec .restore s = .next (commandRejected s) := by
  unfold exec execRestore ctxCommand
  refine sbWriteOk_answers (t := seqReject (noisy s)) (body := ctxEffect mayRestore restoreSelected) ⟨h, live⟩ ?_
  rw [← keepConfig_eq (body := fun s => seqReject (noisy s)) (rejected_untouched s), ctxEffect, keepConfig, keepConfig]
  dsimp only
  rw [show (noisy s).seq.ctxSel = s.seq.ctxSel from rfl, if_neg fun k => may ((mayRestore_iff live).1 k)]

/-- Settles O22: a permitted DUMP writes the image, a permitted RESTORE takes up an accepted one, and its reads change the state of
no context. -/
theorem imageCommandsAnswer : Obligations.ImageCommandsAnswer := by
  unfold Obligations.ImageCommandsAnswer
  intro s h
  refine ⟨⟨fun may idle => dump_permitted h may idle, fun may live => dump_refused h may live⟩, fun live => ⟨fun may ok => ?_, ?_, ?_⟩⟩
  · have same : (getCtx (restoring s).2 s.seq.ctxSel.toNat).state = (getCtx s s.seq.ctxSel.toNat).state :=
      congrFun (engineRead_states 1 (getCtx s s.seq.ctxSel.toNat).cls (imageOffset s s.seq.ctxSel.toNat) 2240 (noisy s)) _
    obtain ⟨t, runs, taken⟩ := restore_accepts h live may ok
    rw [takenUp, same] at taken
    exact ⟨t, runs, taken⟩
  · exact fun may bad => restore_rejects h live may bad
  · exact fun may => restore_refused h live may

end Sys2Proof.Proofs
end

section
/-! SUPPORT. What a frame boundary never changes: the time (01_frame_and_timing_contract R18, R20). -/

namespace Sys2Proof.Proofs

open Sys2Proof.Machine Sys2Proof.Safety Sys2Proof.Laws

set_option Elab.async false

theorem tick_of_calm {s t : State} (h : calm t = calm s) : t.tick = s.tick := congrArg (fun x => x.2.2.2.2.2) h

theorem tick_foldl {α : Type} {f : State → α → State} (h : ∀ s a, (f s a).tick = s.tick) (l : List α) (s : State) :
    (l.foldl f s).tick = s.tick :=
  List.foldlRecOn (motive := fun t => t.tick = s.tick) _ _ rfl fun t ht a _ => (h t a).trans ht

/-! ### The ends of a bank that stops (R155) -/

@[simp] theorem endWith_calm (st : Status) (tx : TxRef) (r : Req) (s : State) : calm (endWith st tx r s) = calm s := by
  unfold endWith
  split <;> simp

@[simp] theorem dropTx_calm (tx : TxRef) (s : State) : calm (dropTx tx s) = calm s := by
  unfold dropTx
  rfl

@[simp] theorem endMuzzled_calm (i : Nat) (s : State) : calm (endMuzzled i s) = calm s := by
  unfold endMuzzled
  split
  · rfl
  · split
    · rfl
    · dsimp only
      split <;> simp

@[simp] theorem endActiveMuzzled_calm (a : Active) (s : State) : calm (endActiveMuzzled a s) = calm s := by
  unfold endActiveMuzzled
  simp

@[simp] theorem endBank_calm (bank : Nat) (s : State) : calm (endBank bank s) = calm s := by
  unfold endBank
  simp

@[simp] theorem sendReply_calm (k : CallRec) (c : Nat) (st : Status) (data : List CodeWord) (ready : Nat) (s : State) :
    calm (sendReply k c st data ready s) = calm s := by
  unfold sendReply
  simp

@[simp] theorem enterFatal_calm (ev index : Nat) (s : State) : calm (enterFatal ev index s) = calm s := by
  unfold enterFatal
  simp

/-! ### What also changes the contexts -/

theorem setCtx_tick (c : Nat) (f : Ctx → Ctx) (s : State) : (setCtx c f s).tick = s.tick := rfl

theorem owedReply_tick (c : Nat) (st : Status) (s : State) : (owedReply c st s).tick = s.tick := by
  unfold owedReply
  split
  · split
    · exact (tick_of_calm (sendReply_calm ..)).trans (setCtx_tick ..)
    · rfl
  · rfl

theorem ctxFault_tick (c cause : Nat) (st : Status) (s : State) : (ctxFault c cause st s).tick = s.tick :=
  (owedReply_tick ..).trans ((setCtx_tick ..).trans (tick_of_calm (report_calm ..)))

theorem cancelWait_tick (c : Nat) (keepHeel : Bool) (s : State) : (cancelWait c keepHeel s).tick = s.tick := by
  unfold cancelWait
  dsimp only
  split
  · rfl
  · split
    · split
      · rfl
      · exact (setCtx_tick ..).trans (tick_foldl (fun s q => tick_of_calm (by simp)) _ _)
    · split <;> rfl
    · rfl

theorem finishRestore_tick (c : Nat) (s : State) : (finishRestore c s).tick = s.tick := by
  unfold finishRestore
  split
  · split <;> rfl
  · rfl

theorem enterXfer_tick (c : Nat) (s : State) : (enterXfer c s).tick = s.tick := by
  unfold enterXfer
  dsimp only
  split
  · rfl
  · split
    · exact ctxFault_tick ..
    · exact (setCtx_tick ..).trans (cancelWait_tick ..)

theorem contextsAtBoundary_tick (s : State) : (contextsAtBoundary s).tick = s.tick := by
  unfold contextsAtBoundary
  split
  · rfl
  · exact (tick_foldl (fun s c => enterXfer_tick c s) _ _).trans (tick_foldl (fun s c => finishRestore_tick c s) _ _)

theorem allMuzzled_tick (s : State) : (allMuzzled s).tick = s.tick := by
  unfold allMuzzled
  refine (tick_foldl (fun s ch => tick_of_calm ?_) _ _).trans
    ((tick_foldl (fun s c => owedReply_tick c .muzzled s) _ _).trans (tick_of_calm ?_))
  · split <;> simp
  · simp

theorem checkConfig_tick (s : State) : (checkConfig s).tick = s.tick := by
  have fatal (ev index : Nat) (s : State) : (allMuzzled (enterFatal ev index s)).tick = s.tick :=
    (allMuzzled_tick _).trans (tick_of_calm (enterFatal_calm ..))
  unfold checkConfig
  split
  · rfl
  · split
    · exact fatal ..
    · split
      · exact fatal ..
      · rfl

/-! ### The steps of a boundary (R20) -/

theorem advanceSlots_tick (s : State) : (advanceSlots s).tick = s.tick := by
  unfold advanceSlots
  exact tick_foldl (fun s p => tick_of_calm (checkSlot_calm ..)) _ s

theorem advancePacks_tick (s : State) : (advancePacks s).tick = s.tick := by
  unfold advancePacks
  split <;> rfl

theorem advanceMoves_tick (s : State) : (advanceMoves s).tick = s.tick := by
  unfold advanceMoves
  split <;> rfl

theorem rollCounts_tick (s : State) : (rollCounts s).tick = s.tick := by
  unfold rollCounts
  dsimp only
  rw [allClasses_eq]

theorem telemetry_tick (f log2 : Nat) (s : State) : (telemetry f log2 s).tick = s.tick := by
  unfold telemetry
  split <;> rfl

theorem boundaryActions_tick (s : State) : (boundaryActions s).tick = s.tick := by
  have advanced : (advanceMoves (advancePacks (advanceSlots s))).tick = s.tick :=
    (advanceMoves_tick _).trans ((advancePacks_tick _).trans (advanceSlots_tick s))
  have shown (u : State) : (ageTracker (coverFrame u)).tick = u.tick := rfl
  have counted (u : State) : (ageTracker (coverFrame (rollCounts u))).tick = u.tick := (shown _).trans (rollCounts_tick u)
  unfold boundaryActions
  refine (contextsAtBoundary_tick _).trans (Eq.trans ?_ ((counted _).trans ((checkConfig_tick _).trans advanced)))
  split
  · rfl
  · exact telemetry_tick ..

theorem heartbeat_rest (s : State) : heartbeat s = { s with
    env := { s.env with done := { s.env.done with raised := (heartbeat s).env.done.raised } }
    saf := (heartbeat s).saf, out := (heartbeat s).out, fg := (heartbeat s).fg } := by
  unfold heartbeat
  dsimp only
  split
  · split
    · unfold heartbeatFailed
      rw [report_saf]
      rfl
    · unfold sendHeartbeat
      rw [originate_rest]
  · rfl

end Sys2Proof.Proofs
end

section
/-! SUPPORT. A frame boundary at which nothing fails and no context is suspended or restored (01_frame_and_timing_contract R18, R20,
R22; 12_regulation R353; 13_background_work R364, R371; 15_containment_and_safety R409). -/

namespace Sys2Proof.Proofs

open Sys2Proof.Machine Sys2Proof.Safety Sys2Proof.Laws

set_option Elab.async false

theorem tfind_map_key {α : Type} (f : Nat → α → α) (t : Table α) (k : Nat) :
    tfind (t.map fun p => (p.1, f p.1 p.2)) k = (tfind t k).map (f k) := by
  induction t with
  | nil => rfl
  | cons p t ih =>
    by_cases eq : p.1 = k
    · subst eq
      exact (if_pos rfl).trans (congrArg (Option.map (f p.1)) (if_pos rfl : tfind (p :: t) p.1 = some p.2)).symm
    · exact (if_neg eq).trans (ih.trans (congrArg (Option.map (f k)) (if_neg eq)).symm)

/-! ### The watchdogs (R22) -/

/-- A slot after a frame boundary. -/
def slotAged (s : State) (n : Nat) (k : Slot) : Slot :=
  { k with age := if slotTimed s n k = true ∧ slotHeld s n k = false ∧ k.since < s.env.sc then k.age + 1 else k.age }

/-- A pack after a frame boundary. -/
def packAged (s : State) (k : Pack) : Pack :=
  { k with age := if s.env.smHold = 0 ∧ k.armedAt < s.env.sc then k.age + 1 else k.age }

/-- A mover engine after a frame boundary. -/
def moveAged (s : State) (g : Engine) : Engine :=
  { g with age := if s.env.smHold = 0 ∧ g.busy = true ∧ g.takenAt < s.env.sc then g.age + 1 else g.age }

theorem advanceSlots_eq {s : State} (h : ChannelsSound s) : advanceSlots s
    = { s with ken := { s.ken with slots := s.ken.slots.map fun p => (p.1, slotAged s p.1 p.2) } } := by
  have checked (l : Table Slot) : l.foldl (fun s p => checkSlot (p.1 / 65536) (p.1 % 65536) s) s = s :=
    List.foldlRecOn (motive := fun t => t = s) _ _ rfl fun t same p _ => same ▸ checkSlot_sound (same ▸ h) _ _
  have slots : (s.ken.slots.map fun p => if slotTimed s p.1 p.2 && !slotHeld s p.1 p.2 && decide (p.2.since < s.env.sc)
        then (p.1, { p.2 with age := p.2.age + 1 }) else p) = s.ken.slots.map fun p => (p.1, slotAged s p.1 p.2) := by
    refine List.map_congr_left fun p _ => ?_
    by_cases due : slotTimed s p.1 p.2 = true ∧ slotHeld s p.1 p.2 = false ∧ p.2.since < s.env.sc
    · simp [slotAged, due]
    · rw [slotAged, if_neg due, if_neg fun h => due (by simpa [and_assoc] using h)]
  unfold advanceSlots
  dsimp only
  rw [checked, slots]

theorem advancePacks_eq (s : State) : advancePacks s
    = { s with red := { s.red with packs := s.red.packs.map fun p => (p.1, packAged s p.2) } } := by
  unfold advancePacks
  by_cases held : s.env.smHold = 0
  · rw [if_neg (not_not.2 held)]
    refine congrArg (fun packs => { s with red := { s.red with packs := packs } }) (List.map_congr_left fun p _ => ?_)
    rw [packAged]
    split <;> simp [*]
  · have still (k : Pack) : packAged s k = k := by rw [packAged, if_neg fun h => held h.1]
    have same : (s.red.packs.map fun p => (p.1, packAged s p.2)) = s.red.packs := by simp [still]
    rw [if_pos held, same]

theorem advanceMoves_eq (s : State) : advanceMoves s
    = { s with mov := { s.mov with eng := s.mov.eng.map fun p => (p.1, moveAged s p.2) } } := by
  unfold advanceMoves
  by_cases held : s.env.smHold = 0
  · rw [if_neg (not_not.2 held)]
    refine congrArg (fun eng => { s with mov := { s.mov with eng := eng } }) (List.map_congr_left fun p _ => ?_)
    rw [moveAged]
    by_cases due : p.2.busy = true ∧ p.2.takenAt < s.env.sc
    · simp [held, due]
    · rw [if_neg fun h => due (by simpa using h), if_neg fun h => due h.2]
  · have still (g : Engine) : moveAged s g = g := by rw [moveAged, if_neg fun h => held h.1]
    have same : (s.mov.eng.map fun p => (p.1, moveAged s p.2)) = s.mov.eng := by simp [still]
    rw [if_pos held, same]

/-! ### The counts of the frame, and its telemetry (R353, R364, R371) -/

theorem rollCounts_eq (s : State) : rollCounts s = { s with
    coh := { s.coh with nackPrev := s.coh.nackNow, nackNow := 0 }
    atom := { s.atom with donePrev := s.atom.doneNow, poisPrev := s.atom.poisNow, doneNow := 0, poisNow := 0 }
    reg := { s.reg with cls := (rollCounts s).reg.cls, suspPrev := s.reg.suspNow, suspNow := 0 } } := by
  unfold rollCounts
  dsimp only
  rw [allClasses_eq]

theorem telemetry_records (s : State) (f log2 : Nat) : ∃ bg, telemetry f log2 s = { s with bg := bg }
    ∧ bg.tracker = s.bg.tracker
    ∧ (s.bg.telEn = true → telRingOk s = true → ∃ w, bg.work = s.bg.work ++ w ∧ w.length = 4 ∧ bg.tel = Tel.zero)
    ∧ (s.bg.telEn = false ∨ telRingOk s = false → bg.work = s.bg.work ∧ bg.telMiss = true) := by
  unfold telemetry
  by_cases on : s.bg.telEn = true ∧ telRingOk s = true
  · refine ⟨_, if_pos (by simpa using on), rfl, fun _ _ => ⟨_, rfl, by simp, rfl⟩, fun off => ?_⟩
    simp [on] at off
  · exact ⟨_, if_neg (by simpa using on), rfl, fun telEn ring => absurd ⟨telEn, ring⟩ on, fun _ => ⟨rfl, rfl⟩⟩

/-! ### The boundary -/

/-- s with its watchdogs advanced, the counts of the frame shown, and the classes and the background work given. -/
def boundaryPassed (s : State) (cls : Table Machine.Class) (bg : Bg) : State :=
  { s with
    red := { s.red with packs := s.red.packs.map fun p => (p.1, packAged s p.2) }
    mov := { s.mov with eng := s.mov.eng.map fun p => (p.1, moveAged s p.2) }
    ken := { s.ken with slots := s.ken.slots.map fun p => (p.1, slotAged s p.1 p.2) }
    coh := { s.coh with nackPrev := s.coh.nackNow, nackNow := 0 }
    atom := { s.atom with donePrev := s.atom.doneNow, poisPrev := s.atom.poisNow, doneNow := 0, poisNow := 0 }
    reg := { s.reg with cls := cls, suspPrev := s.reg.suspNow, suspNow := 0 }
    bg := bg }

/-- What a frame boundary makes of the classes and of the background work. -/
structure Recorded (s : State) (cls : Table Machine.Class) (bg : Bg) : Prop where
  rolled : ∀ c, c < 16 → tget Machine.Class.initial cls c = rollClass (bit s.reg.suspNow c) (getClass s c)
  tracker : bg.tracker = s.bg.tracker.filter fun k => decide (frameNumber s < k.first + 1024)
  queued : s.bg.telEn = true → telRingOk s = true → ∃ w, bg.work = s.bg.work ++ w ∧ w.length = 4 ∧ bg.tel = Tel.zero
  missed : s.bg.telEn = false ∨ telRingOk s = false → bg.work = s.bg.work ∧ bg.telMiss = true

theorem watchdogs_eq {s : State} (h : ChannelsSound s) : advanceMoves (advancePacks (advanceSlots s)) = { s with
    red := { s.red with packs := s.red.packs.map fun p => (p.1, packAged s p.2) }
    mov := { s.mov with eng := s.mov.eng.map fun p => (p.1, moveAged s p.2) }
    ken := { s.ken with slots := s.ken.slots.map fun p => (p.1, slotAged s p.1 p.2) } } := by
  rw [advanceMoves_eq, advancePacks_eq, advanceSlots_eq h]
  rfl

theorem checkConfig_quiet {s : State} (live : s.saf.fatal = false) (cfg : s.saf.cfgBad = []) (mon : s.saf.monBad = false) :
    checkConfig s = s := by
  rw [checkConfig, live, cfg, mon]
  rfl

/-- No context is to be suspended or restored. -/
def NoTransfers (s : State) : Prop := ∀ c, c < 16 → (getCtx s c).suspPend = false ∧ (getCtx s c).image = none

theorem contextsAtBoundary_quiet {s : State} (h : NoTransfers s) : contextsAtBoundary s = s := by
  have restores : (List.range 16).foldl (fun s c => finishRestore c s) s = s :=
    List.foldlRecOn (motive := fun t => t = s) _ _ rfl fun t same c hc => by
      rw [same, finishRestore, (h c (List.mem_range.1 hc)).2]
  have suspends : (List.range 16).foldl (fun s c => enterXfer c s) s = s :=
    List.foldlRecOn (motive := fun t => t = s) _ _ rfl fun t same c hc => by
      subst same
      exact if_pos (by rw [(h c (List.mem_range.1 hc)).1]; rfl)
  rw [contextsAtBoundary, restores]
  dsimp only
  rw [suspends, ite_self]

theorem boundaryActions_quiet {s : State} (live : s.saf.fatal = false) (cfg : s.saf.cfgBad = []) (mon : s.saf.monBad = false)
    (sound : ChannelsSound s) (still : NoTransfers s) :
    ∃ cls bg, boundaryActions s = boundaryPassed s cls bg ∧ Recorded s cls bg := by
  obtain ⟨u, hu⟩ : ∃ u, u = advanceMoves (advancePacks (advanceSlots s)) := ⟨_, rfl⟩
  have aged := hu.trans (watchdogs_eq sound)
  have quiet : checkConfig u = u := checkConfig_quiet (aged ▸ live) (aged ▸ cfg) (aged ▸ mon)
  have rolled (c : Nat) (hc : c < 16) : tget Machine.Class.initial (rollCounts u).reg.cls c
      = rollClass (bit s.reg.suspNow c) (getClass s c) := by
    have at_c := getClass_rollCounts u hc
    rw [aged] at at_c ⊢
    exact at_c
  have counts := rollCounts_eq u
  generalize (rollCounts u).reg.cls = cls at rolled counts
  obtain ⟨tel, counted⟩ : ∃ tel, ageTracker (coverFrame (rollCounts u)) = boundaryPassed s cls
      { s.bg with tracker := s.bg.tracker.filter fun k => decide (frameNumber s < k.first + 1024), tel := tel } := by
    rw [counts, aged]
    exact ⟨_, rfl⟩
  obtain ⟨bg, told, tracker, queued, missed⟩ := telemetry_records (boundaryPassed s cls
    { s.bg with tracker := s.bg.tracker.filter fun k => decide (frameNumber s < k.first + 1024), tel := tel })
    ((s.tick.counter.toNat / 2 ^ s.tick.frameLog2.toNat + 2 ^ (64 - s.tick.frameLog2.toNat) - 1) % 2 ^ (64 - s.tick.frameLog2.toNat))
    s.tick.frameLog2.toNat
  have passed : boundaryActions s = boundaryPassed s cls bg := by
    unfold boundaryActions
    dsimp only
    rw [← hu, quiet, counted]
    refine (congrArg contextsAtBoundary ((if_neg (ne_true_of_eq_false live)).trans told)).trans ?_
    exact contextsAtBoundary_quiet still
  exact ⟨cls, bg, passed, rolled, tracker, queued, missed⟩

/-! ### The heartbeat (R409) -/

theorem heartbeat_off {s : State} (off : s.saf.hbEn = false) : heartbeat s = s := by
  rw [heartbeat, off]
  rfl

theorem report_keeps_heartbeat (ev react muz detail : Nat) (s : State) :
    (report ev react muz detail s).saf.hbFail = s.saf.hbFail ∧ (report ev react muz detail s).saf.hbFirst = s.saf.hbFirst
    ∧ (report ev react muz detail s).saf.hbFlight = s.saf.hbFlight := by
  unfold report logRecord
  split <;> exact ⟨rfl, rfl, rfl⟩

/-- A heartbeat to this slice's own window fails, with a report. -/
theorem heartbeat_fails {s : State} (on : s.saf.hbEn = true) (own : ownKennel s (lineOf43 s.saf.hbAddr) ≠ none) :
    (heartbeat s).out = s.out ∧ (heartbeat s).saf.hbFail = true ∧ (heartbeat s).saf.hbFirst = false
    ∧ (heartbeat s).saf.hbFlight = none ∧ (heartbeat s).saf.pend = true := by
  have fails : heartbeat s = heartbeatFailed { s with saf := { s.saf with
      hbRecord := heartbeatRecord s, hbFirst := false, hbFlight := none } } :=
    (if_pos on).trans (if_pos (Option.isSome_iff_ne_none.2 own))
  rw [fails, heartbeatFailed]
  obtain ⟨fail, first, flight⟩ := report_keeps_heartbeat 0x70 0 0 (detailN 0 0) (raise 4 { s with saf := { s.saf with
    hbRecord := heartbeatRecord s, hbFirst := false, hbFlight := none, hbFail := true } })
  refine ⟨?_, fail, first, flight, (report_pends ..).2⟩
  rw [report_saf]
  rfl

/-- The heartbeat carries the number of the frame that begins. -/
theorem heartbeatRecord_frame (s : State) : fld (heartbeatRecord s) 0 64 = frameNumber s := by
  have small : frameNumber s < 2 ^ 64 := by
    unfold frameNumber
    split
    · exact (Nat.div_le_self ..).trans_lt s.tick.counter.isLt
    · exact Nat.two_pow_pos 64
  have low (a b : Code) : fld (a ||| (b <<< 224)) 0 64 = fld a 0 64 := by
    rw [fld, fld, pow_zero, Nat.div_one, Nat.div_one, BitVec.toNat_or, BitVec.toNat_shiftLeft, Nat.or_mod_two_pow]
    have high : b.toNat <<< 224 % 2 ^ 256 % 2 ^ 64 = 0 := by
      rw [Nat.mod_mod_of_dvd _ (Nat.pow_dvd_pow 2 (by decide)), Nat.shiftLeft_eq]
      exact Nat.mod_eq_zero_of_dvd (Dvd.dvd.mul_left (Nat.pow_dvd_pow 2 (by decide)) _)
    rw [high, Nat.or_zero]
  unfold heartbeatRecord
  dsimp only
  rw [low, fld_pack (k := 0) rfl rfl, Nat.mod_eq_of_lt small]

theorem heartbeat_leaves {s : State} (on : s.saf.hbEn = true) (other : ownKennel s (lineOf43 s.saf.hbAddr) = none) :
    (heartbeat s).env = s.env
    ∧ ∃ m w, (heartbeat s).out.egress = s.out.egress ++ [m] ∧ m.op = 5 ∧ m.cls = .req ∧ m.line = lineOf43 s.saf.hbAddr
      ∧ m.label = s.saf.sclass.toNat ∧ m.data = [plain w] ∧ m.body = .cwMask (BitVec.ofNat 8 (2 ^ (s.saf.hbAddr.toNat % 8)))
      ∧ fld w 0 64 = frameNumber s ∧ (heartbeat s).saf.hbFirst = false ∧ (heartbeat s).saf.hbFlight = some m.txn := by
  have sends : heartbeat s = sendHeartbeat { s with saf := { s.saf with
      hbRecord := heartbeatRecord s, hbFirst := false, hbFlight := none } } :=
    (if_pos on).trans (if_neg (Option.not_isSome_iff_eq_none.2 other))
  rw [sends, sendHeartbeat]
  have port : (monitorWrite { s with saf := { s.saf with
      hbRecord := heartbeatRecord s, hbFirst := false, hbFlight := none } } s.saf.hbAddr (heartbeatRecord s)).port ≠ .xp := by
    unfold monitorWrite originMsg
    dsimp only
    split <;> split <;> nofun
  refine ⟨by rw [originate_rest], _, heartbeatRecord s, originate_egress _ _ port, rfl, rfl, rfl, rfl, rfl, rfl,
    heartbeatRecord_frame s, ?_, ?_⟩
  · rw [originate_rest]
  · rw [originate_rest]

/-- An engine that has none is idle, and does not age. -/
theorem engineOf_aged (s : State) (e : Nat) :
    tget default (s.mov.eng.map fun p => (p.1, moveAged s p.2)) e = moveAged s (engineOf s e) := by
  rw [tget, tfind_map_snd, engineOf, tget]
  cases tfind s.mov.eng e with
  | none =>
    have idle : ¬ (s.env.smHold = 0 ∧ (default : Engine).busy = true ∧ (default : Engine).takenAt < s.env.sc) :=
      fun h => Bool.false_ne_true h.2.1
    exact (congrArg (fun age => { (default : Engine) with age := age }) (if_neg idle)).symm
  | some g => rfl

/-! ### The boundary, with the length (R18) -/

/-- The slice after the actions of a boundary left u: a length is in force, another may be pending, and the boundary is taken. -/
def lengthTaken (s u : State) (length : BitVec 5 × Option (BitVec 5)) : State :=
  { settlePeriods s u with
    env := { u.env with done := { u.env.done with frame := true } }
    tick := { (settlePeriods s u).tick with frameLog2 := length.1, framePend := length.2 } }

theorem frameBoundary_runs {s : State} (h : inUse s) (due : frameDue s = true) {t : State}
    (ht : lengthTaken s (boundaryActions s) (takePending s s.tick.frameLog2 s.tick.framePend) = t) :
    exec .frameBoundary s = .next (settle s (settlePeriods t (heartbeat t))) := by
  subst ht
  have runs := inService_next h fun s => if frameDue s then
    settlePeriods (lengthTaken s (boundaryActions s) (takePending s s.tick.frameLog2 s.tick.framePend))
      (heartbeat (lengthTaken s (boundaryActions s) (takePending s s.tick.frameLog2 s.tick.framePend))) else s
  rw [if_pos due] at runs
  exact runs

/-- Settles O34: the steps of a boundary keep the time; where nothing fails and no context moves, each leaves what its rule says. -/
theorem frameBoundaryAnswers : Obligations.FrameBoundaryAnswers := by
  unfold Obligations.FrameBoundaryAnswers
  intro s h valid unparked fresh window multiple length waiting
  have due : frameDue s = true := by simp [frameDue, onMultiple, valid, unparked, fresh, window, multiple]
  have taken : takePending s s.tick.frameLog2 s.tick.framePend = (length, waiting) := (takePending_eq valid _ _).trans (by
    unfold length waiting
    cases s.tick.framePend <;> rfl)
  clear_value length waiting
  have runs := frameBoundary_runs h due rfl
  have time := boundaryActions_tick s
  have quiet := boundaryActions_quiet (s := s)
  rw [taken] at runs
  generalize boundaryActions s = b at runs time quiet
  refine ⟨⟨_, runs, ?_, ?_, ?_, ?_⟩, fun live cfg mon sound still => ?_⟩
  · rw [heartbeat_rest]
    rfl
  · rfl
  · rfl
  · rw [heartbeat_rest]
    have counter : b.tick.counter = s.tick.counter := congrArg Tick.counter time
    exact counter
  · obtain ⟨cls, bg, passed, rolled, tracker, queued, missed⟩ := quiet live cfg mon sound still
    subst passed
    obtain ⟨u, hu⟩ : ∃ u, u = lengthTaken s (boundaryPassed s cls bg) (length, waiting) := ⟨_, rfl⟩
    rw [← hu] at runs
    have rest := heartbeat_rest u
    have off := heartbeat_off (s := u)
    have fails := heartbeat_fails (s := u)
    have leaves := heartbeat_leaves (s := u)
    generalize heartbeat u = hb at rest off fails leaves runs
    have time : u.tick = { s.tick with frameLog2 := length, framePend := waiting } := hu ▸ rfl
    have frames : frameNumber u = frameNumber (settle s (settlePeriods u hb)) := by
      rw [rest]
      rfl
    have on : u.saf = s.saf := hu ▸ rfl
    have own : ownKennel u (lineOf43 s.saf.hbAddr) = ownKennel s (lineOf43 s.saf.hbAddr) := hu ▸ rfl
    have out : u.out = s.out := hu ▸ rfl
    rw [on, own, out] at fails leaves
    rw [on] at off
    have back : hb.bg = bg := by
      rw [rest, hu]
      rfl
    refine ⟨_, runs, fun quiet => ?_, ?_, fun p => ?_, fun e => ?_, fun n => ?_, fun c hc => ?_, ?_, ?_, ?_, ?_, fun telEn ring => ?_,
      fun none => ?_, fun quiet => ?_, fun on own => ?_, fun on other => ?_⟩
    · have env : hb.env = u.env := by
        rcases quiet with no | other
        · exact congrArg State.env (off no)
        · by_cases on : s.saf.hbEn = true
          · exact (leaves on other).1
          · exact congrArg State.env (off (eq_false_of_ne_true on))
      refine Eq.trans (b := u.env.done) (congrArg Env.done env :) ?_
      exact hu ▸ rfl
    · rw [rest]
      exact time
    · have packs : hb.red.packs = s.red.packs.map fun p => (p.1, packAged s p.2) := by
        rw [rest, hu]
        rfl
      exact (congrArg (fun l => tfind l p) packs).trans (tfind_map_snd (packAged s) s.red.packs p)
    · have eng : hb.mov.eng = s.mov.eng.map fun p => (p.1, moveAged s p.2) := by
        rw [rest, hu]
        rfl
      exact (congrArg (fun l => tget default l e) eng).trans (engineOf_aged s e)
    · have slots : hb.ken.slots = s.ken.slots.map fun p => (p.1, slotAged s p.1 p.2) := by
        rw [rest, hu]
        rfl
      exact (congrArg (fun l => tfind l n) slots).trans (tfind_map_key (slotAged s) s.ken.slots n)
    · have classes : hb.reg.cls = cls := by
        rw [rest, hu]
        rfl
      exact (congrArg (fun l => tget Machine.Class.initial l c) classes).trans (rolled c hc)
    · rw [rest, hu]
      rfl
    · rw [rest, hu]
      rfl
    · rw [rest, hu]
      rfl
    · exact (congrArg Bg.tracker back :).trans tracker
    · rw [← back] at queued
      exact queued telEn ring
    · rw [← back] at missed
      exact missed none
    · rw [off quiet]
      exact ⟨out, hu ▸ rfl⟩
    · exact fails on own
    · rw [← frames]
      exact (leaves on other).2

end Sys2Proof.Proofs
end

section
/-! SUPPORT. The access that starts next and the message that leaves XP egress next are the first in the order of R343
(12_regulation R343 to R345; 03_cache_behaviour R93). -/

namespace Sys2Proof.Proofs

open Sys2Proof.Machine Sys2Proof.Safety Sys2Proof.Laws

set_option Elab.async false

/-! ### Orders by one key after another -/

theorem lt_by_key {α β γ : Type} [LinearOrder α] [LinearOrder β] [DecidableEq γ] {f g : γ} {p q : α} {x y : β} {d e : Bool}
    (same : f = g ↔ p = q) (first : f ≠ g → (d = true ↔ p < q)) (rest : e = true ↔ x < y) :
    (if f ≠ g then d else e) = true ↔ toLex (p, x) < toLex (q, y) := by
  rw [Prod.Lex.toLex_lt_toLex]
  by_cases eq : f = g
  · have keys : p = q := same.1 eq
    rw [if_neg (not_not.2 eq), rest, keys]
    simp
  · have keys : p ≠ q := fun h => eq (same.2 h)
    rw [if_pos eq, first eq]
    simp [keys]

theorem le_by_key {α β γ : Type} [LinearOrder α] [LinearOrder β] [DecidableEq γ] {f g : γ} {p q : α} {x y : β} {d e : Bool}
    (same : f = g ↔ p = q) (first : f ≠ g → (d = true ↔ p < q)) (rest : e = true ↔ x ≤ y) :
    (if f ≠ g then d else e) = true ↔ toLex (p, x) ≤ toLex (q, y) := by
  rw [Prod.Lex.toLex_le_toLex]
  by_cases eq : f = g
  · have keys : p = q := same.1 eq
    rw [if_neg (not_not.2 eq), rest, keys]
    simp
  · have keys : p ≠ q := fun h => eq (same.2 h)
    rw [if_pos eq, first eq]
    simp [keys]

/-- Of two flags that differ, the one that is set comes first. -/
theorem flag_first {a b : Bool} (ne : a ≠ b) : a = true ↔ (!a) < (!b) := by
  cases a <;> cases b <;> simp_all

/-! ### The order of the accesses -/

/-- The keys of R343 of an access, the writes of atomics first. -/
def accessKey (s : State) (a : Access) : Bool ×ₗ Bool ×ₗ ℕᵒᵈ ×ₗ ℕ ×ₗ ℕ ×ₗ ℕ :=
  toLex (!a.isAtomWrite, toLex (!a.reserved s, toLex (OrderDual.toDual (level s a.cls), toLex (a.ready, toLex (a.source, a.id)))))

theorem before_iff (s : State) (a b : Access) : a.before s b = true ↔ accessKey s a < accessKey s b := by
  refine lt_by_key (by simp) flag_first (lt_by_key (by simp) flag_first (lt_by_key (by simp) (fun _ => ?_)
    (lt_by_key Iff.rfl (fun _ => ?_) (lt_by_key Iff.rfl (fun _ => ?_) ?_))))
  all_goals simp

theorem before_irrefl (s : State) (a : Access) : a.before s a = false :=
  Bool.eq_false_iff.2 fun h => lt_irrefl _ ((before_iff s a a).1 h)

theorem before_trans {s : State} {a b c : Access} (h : a.before s b = true) (k : b.before s c = true) : a.before s c = true :=
  (before_iff s a c).2 (((before_iff s a b).1 h).trans ((before_iff s b c).1 k))

/-- None of a list comes before an earlier one of it. -/
def InOrder (s : State) (l : List Access) : Prop := l.Pairwise fun a b => b.before s a = false

theorem mem_insertAccess {s : State} {a x : Access} {l : List Access} : x ∈ insertAccess s a l ↔ x = a ∨ x ∈ l := by
  induction l with
  | nil => simp [insertAccess]
  | cons b l ih =>
    rw [insertAccess]
    split
    · exact List.mem_cons
    · rw [List.mem_cons, ih, List.mem_cons]
      tauto

theorem insertAccess_inOrder {s : State} {a : Access} {l : List Access} (h : InOrder s l) : InOrder s (insertAccess s a l) := by
  induction l with
  | nil => exact List.pairwise_singleton _ _
  | cons b l ih =>
    obtain ⟨head, tail⟩ := List.pairwise_cons.1 h
    rw [insertAccess]
    split
    · next first =>
      refine List.pairwise_cons.2 ⟨fun x hx => Bool.eq_false_iff.2 fun early => ?_, h⟩
      rcases List.mem_cons.1 hx with rfl | hx
      · exact ne_true_of_eq_false (before_irrefl s a) (before_trans first early)
      · exact ne_true_of_eq_false (head x hx) (before_trans early first)
    · next later =>
      refine List.pairwise_cons.2 ⟨fun x hx => ?_, ih tail⟩
      rcases mem_insertAccess.1 hx with rfl | hx
      · exact Bool.eq_false_iff.2 later
      · exact head x hx

/-- The accesses of a list in the order of R343. -/
def ordered (s : State) (l : List Access) : List Access := l.foldr (insertAccess s) []

theorem mem_ordered {s : State} {x : Access} {l : List Access} : x ∈ ordered s l ↔ x ∈ l := by
  induction l with
  | nil => exact Iff.rfl
  | cons a l ih => rw [ordered, List.foldr_cons, mem_insertAccess, ← ordered, ih, List.mem_cons]

theorem ordered_inOrder (s : State) (l : List Access) : InOrder s (ordered s l) := by
  induction l with
  | nil => exact .nil
  | cons a l ih => exact insertAccess_inOrder ih

/-- The first access that can start: every bank of it is open and no earlier access of the list holds it. -/
theorem firstStartable_some {s : State} {held : List Nat} {l : List Access} {a : Access} (h : firstStartable s held l = some a) :
    ∃ l1 l2, l = l1 ++ a :: l2 ∧ ∀ b ∈ a.banks, bankOpen s b = true ∧ b ∉ held ∧ ∀ x ∈ l1, b ∉ x.banks := by
  induction l generalizing held with
  | nil => cases h
  | cons c l ih =>
    rw [firstStartable] at h
    split at h
    · next starts =>
      obtain rfl := Option.some.inj h
      refine ⟨[], l, rfl, fun b hb => ?_⟩
      have opens := List.all_eq_true.1 starts b hb
      simp only [Bool.and_eq_true, Bool.not_eq_true', List.contains_eq_mem, decide_eq_false_iff_not] at opens
      exact ⟨opens.1, opens.2, fun _ h => absurd h List.not_mem_nil⟩
    · obtain ⟨l1, l2, rfl, banks⟩ := ih h
      refine ⟨c :: l1, l2, rfl, fun b hb => ?_⟩
      obtain ⟨opens, free, apart⟩ := banks b hb
      rw [List.mem_append, not_or] at free
      refine ⟨opens, free.1, fun x hx => ?_⟩
      rcases List.mem_cons.1 hx with rfl | hx
      · exact free.2
      · exact apart x hx

/-- The access may start: it is ready, and waits for no other on its sectors. -/
def MayStart (s : State) (a : Access) : Prop := a ∈ s.fg.accs ∧ a.ready ≤ s.env.sc ∧ a.blocked s = false

theorem mem_readyAccesses {s : State} {a : Access} : a ∈ readyAccesses s ↔ MayStart s a := by
  rw [readyAccesses, ← ordered, mem_ordered]
  simp [MayStart]

/-- The access that starts next may start, and none before it that may start waits for one of its banks (R344). -/
theorem nextAccess_some {s : State} {a : Access} (h : nextAccess s = some a) : MayStart s a
    ∧ (∀ b ∈ a.banks, bankOpen s b = true)
    ∧ ∀ x, MayStart s x → x.before s a = true → ∀ b ∈ x.banks, b ∉ a.banks := by
  obtain ⟨l1, l2, split, banks⟩ := firstStartable_some h
  have order : InOrder s (readyAccesses s) := ordered_inOrder s _
  rw [split] at order
  refine ⟨mem_readyAccesses.1 (by rw [split]; simp), fun b hb => (banks b hb).1, fun x may early b hx hb => ?_⟩
  have listed := mem_readyAccesses.2 may
  rw [split, List.mem_append, List.mem_cons] at listed
  rcases listed with earlier | rfl | later
  · exact (banks b hb).2.2 x earlier hx
  · exact ne_true_of_eq_false (before_irrefl s x) early
  · have rest := (List.pairwise_append.1 order).2.1
    exact ne_true_of_eq_false ((List.pairwise_cons.1 rest).1 x later) early

/-! ### The order at XP egress -/

/-- The keys of R343 of a message at XP egress. -/
def messageKey (s : State) (m : OutMsg) : Bool ×ₗ ℕᵒᵈ ×ₗ ℕ ×ₗ ℕ :=
  toLex (!withinXp s (xpClass s m), toLex (OrderDual.toDual (level s (xpClass s m)), toLex (m.ready, xpSource m)))

theorem xpBefore_iff (s : State) (a b : OutMsg) : xpBefore s a b = true ↔ messageKey s a ≤ messageKey s b := by
  refine le_by_key (by simp) flag_first (le_by_key (by simp) (fun _ => ?_) (le_by_key Iff.rfl (fun _ => ?_) ?_))
  all_goals simp

theorem xpFirst_none {s : State} {l : List OutMsg} (h : xpFirst s l = none) : l = [] := by
  cases l with
  | nil => rfl
  | cons m l =>
    rw [xpFirst] at h
    split at h
    · cases h
    · split at h <;> cases h

/-- The first message of a list is one of it, and none of it goes before. -/
theorem xpFirst_some {s : State} {l : List OutMsg} {m : OutMsg} (h : xpFirst s l = some m) :
    m ∈ l ∧ ∀ b ∈ l, xpBefore s m b = true := by
  induction l generalizing m with
  | nil => cases h
  | cons c l ih =>
    have self : xpBefore s c c = true := (xpBefore_iff s c c).2 le_rfl
    rw [xpFirst] at h
    split at h
    · next last =>
      obtain rfl := Option.some.inj h
      rw [xpFirst_none last]
      exact ⟨List.mem_singleton_self _, fun b hb => List.mem_singleton.1 hb ▸ self⟩
    · next best found =>
      obtain ⟨listed, first⟩ := ih found
      split at h
      · next ahead =>
        obtain rfl := Option.some.inj h
        refine ⟨List.mem_cons_self, fun b hb => ?_⟩
        rcases List.mem_cons.1 hb with rfl | hb
        · exact self
        · exact (xpBefore_iff ..).2 (((xpBefore_iff ..).1 ahead).trans ((xpBefore_iff ..).1 (first b hb)))
      · next behind =>
        obtain rfl := Option.some.inj h
        refine ⟨List.mem_cons_of_mem _ listed, fun b hb => ?_⟩
        rcases List.mem_cons.1 hb with rfl | hb
        · exact (xpBefore_iff ..).2 (le_of_not_ge fun le => behind ((xpBefore_iff ..).2 le))
        · exact first b hb

/-- The message that leaves XP egress next: it can leave, none that can leave goes before it, and a write of the eviction buffer is
that of its oldest entry not sent (R345). -/
theorem xpNext_some {s : State} {m : OutMsg} (h : xpNext s = some m) : s.fg.xpFree ≤ s.env.sc ∧ m ∈ s.fg.xpq ∧ canLeave s m = true
    ∧ (∀ b ∈ s.fg.xpq, canLeave s b = true → b.isXwr = false → xpBefore s m b = true)
    ∧ (m.isXwr = true → ∃ e ∈ s.cache.ev, e.sent = false ∧ m.txn.toNat = 64 + e.index) := by
  rw [xpNext] at h
  split at h
  · next free =>
    obtain ⟨listed, first⟩ := xpFirst_some h
    rw [xpReady, List.mem_filter, Bool.and_eq_true] at listed
    obtain ⟨queued, leaves, oldest⟩ := listed
    refine ⟨free, queued, leaves, fun b hb may other => first b ?_, fun write => ?_⟩
    · exact List.mem_filter.2 ⟨hb, by simp [may, other]⟩
    · rw [write] at oldest
      cases found : s.cache.ev.find? fun e => !e.sent with
      | none => simp [found] at oldest
      | some e =>
        have unsent := List.find?_some found
        refine ⟨e, List.mem_of_find?_eq_some found, by simpa using unsent, ?_⟩
        simp only [found, Option.map_some, Bool.not_true, Bool.false_or, beq_iff_eq, Option.some.injEq] at oldest
        omega
  · cases h

end Sys2Proof.Proofs
end

section
/-! SUPPORT. What a message that leaves XP egress does (12_regulation R341, R350; 03_cache_behaviour R93; 16_ports_and_signals R423). -/

namespace Sys2Proof.Proofs

open Sys2Proof.Machine Sys2Proof.Safety Sys2Proof.Laws

set_option Elab.async false

/-! ### What is charged -/

theorem charge_eq (c n : Nat) (s : State) : charge c n s = { s with reg := { s.reg with cls := (charge c n s).reg.cls } } := by
  unfold charge
  split <;> rfl

theorem chargeXp_eq (c n : Nat) (s : State) : chargeXp c n s = { s with reg := { s.reg with cls := (chargeXp c n s).reg.cls } } := by
  unfold chargeXp
  split
  · rw [charge_eq]
    rfl
  · rfl

theorem getClass_charge {s : State} (valid : s.tick.cntValid = true) (c n : Nat) : ∃ leftLeash, getClass (charge c n s) c
    = { getClass s c with bytes := (getClass s c).bytes + n, leftLeash := leftLeash } := by
  refine ⟨_, (congrArg (fun t => getClass t c) (if_pos valid)).trans (getClass_setClass_self s c _)⟩

theorem chargeXp_words {s : State} (valid : s.tick.cntValid = true) (c n : Nat) :
    (getClass (chargeXp c n s) c).xpWords = (getClass s c).xpWords + n := by
  obtain ⟨leash, charged⟩ := getClass_charge valid c (32 * n)
  rw [chargeXp, if_pos valid, getClass_setClass_self, charged]

theorem chargeSector_bytes {s : State} (valid : s.tick.cntValid = true) (c bank : Nat) :
    (getClass (chargeSector c bank s) c).bytes = (getClass s c).bytes + 64 := by
  obtain ⟨leash, charged⟩ := getClass_charge valid c 64
  rw [chargeSector, if_pos valid, getClass_setClass_self, charged]

theorem chargeSectors_bytes {s : State} (valid : s.tick.cntValid = true) (c : Nat) (secs : List Nat) :
    (getClass (secs.foldl (fun s x => chargeSector c (secBank x) s) s) c).bytes = (getClass s c).bytes + 64 * secs.length := by
  induction secs generalizing s with
  | nil => rfl
  | cons x secs ih =>
    have still : (chargeSector c (secBank x) s).tick.cntValid = true := by
      obtain ⟨cls, eq⟩ := chargeSector_eq c (secBank x) s
      rw [eq]
      exact valid
    rw [List.foldl_cons, ih still, chargeSector_bytes valid, List.length_cons]
    omega

/-! ### The message that leaves -/

theorem txLeft_eq (m : OutMsg) (last : Nat) (s : State) : txLeft m last s = { s with coh := (txLeft m last s).coh } := by
  unfold txLeft
  split
  · split
    · split <;> rfl
    · split <;> rfl
  · split <;> rfl
  · rfl

/-- A message starts to leave: its flits use credits of its channel. -/
theorem launch_eq (m : OutMsg) (s : State) : ∃ coh last4 txFree txFail, launch m s = { s with
    coh := coh
    lnk := { s.lnk with txCrd := tmod 0 s.lnk.txCrd (portRank m.port * 8 + channelOf m.cls) (· - flits m)
                        last4 := last4, txFree := txFree, txFail := txFail }
    out := { s.out with wire := s.out.wire ++ [m] } } :=
  ⟨_, _, _, _, txLeft_eq ..⟩

/-- The write of an eviction buffer entry is sent. -/
def evictionSent (m : OutMsg) (s : State) : State :=
  if m.isXwr then { s with cache := { s.cache with ev := s.cache.ev.map fun e =>
    if e.index + 64 = m.txn.toNat then { e with sent := true } else e } } else s

theorem evictionSent_eq (m : OutMsg) (s : State) : ∃ cache, evictionSent m s = { s with cache := cache } := by
  unfold evictionSent
  split
  · exact ⟨_, rfl⟩
  · exact ⟨s.cache, rfl⟩

theorem chargeXp_queue (c n : Nat) (s : State) (fg : Fg) :
    chargeXp c n { s with fg := fg } = { s with fg := fg, reg := { s.reg with cls := (chargeXp c n s).reg.cls } } := by
  cases valid : s.tick.cntValid with
  | false => rw [chargeXp, chargeXp, if_neg (ne_true_of_eq_false valid), if_neg (ne_true_of_eq_false valid)]
  | true =>
    rw [chargeXp, chargeXp, if_pos valid, if_pos valid, charge, charge, if_pos valid, if_pos valid]
    rfl

/-- What a message that leaves XP egress changes. -/
theorem xpSend_eq (m : OutMsg) (s : State) : ∃ cache coh last4 txFree txFail, xpSend m s = { s with
    cache := cache, coh := coh
    reg := { s.reg with cls := (chargeXp (xpClass s m) m.data.length s).reg.cls }
    fg := { s.fg with xpq := s.fg.xpq.erase m, xpFree := s.env.sc + flits m }
    lnk := { s.lnk with txCrd := tmod 0 s.lnk.txCrd (portRank m.port * 8 + channelOf m.cls) (· - flits m)
                        last4 := last4, txFree := txFree, txFail := txFail }
    out := { s.out with wire := s.out.wire ++ [m] } } := by
  have charged := chargeXp_queue (xpClass s m) m.data.length s { s.fg with xpq := s.fg.xpq.erase m, xpFree := s.env.sc + flits m }
  obtain ⟨cache, sent⟩ := evictionSent_eq m (chargeXp (xpClass s m) m.data.length
    { s with fg := { s.fg with xpq := s.fg.xpq.erase m, xpFree := s.env.sc + flits m } })
  rw [charged] at sent
  generalize (chargeXp (xpClass s m) m.data.length s).reg.cls = cls at charged sent ⊢
  obtain ⟨coh, last4, txFree, txFail, left⟩ := launch_eq m { s with
    fg := { s.fg with xpq := s.fg.xpq.erase m, xpFree := s.env.sc + flits m }, reg := { s.reg with cls := cls }, cache := cache }
  refine ⟨cache, coh, last4, txFree, txFail, ?_⟩
  have sends : xpSend m s = launch m (evictionSent m (chargeXp (xpClass s m) m.data.length
    { s with fg := { s.fg with xpq := s.fg.xpq.erase m, xpFree := s.env.sc + flits m } })) := rfl
  rw [sends, charged, sent, left]

/-- XP egress sends the message that goes next. -/
theorem xpEgressStart_sends {s : State} (h : inUse s) {m : OutMsg} (next : xpNext s = some m) : ∃ t, exec .xpEgressStart s = .next t
    ∧ t.fg.xpq = s.fg.xpq.erase m ∧ t.fg.xpFree = s.env.sc + flits m ∧ t.out.wire = s.out.wire ++ [m]
    ∧ tget 0 t.lnk.txCrd (portRank m.port * 8 + channelOf m.cls)
        = tget 0 s.lnk.txCrd (portRank m.port * 8 + channelOf m.cls) - flits m
    ∧ (s.tick.cntValid = true →
        (getClass t (xpClass s m)).xpWords = (getClass s (xpClass s m)).xpWords + m.data.length) := by
  have runs : exec .xpEgressStart s = .next (keepConfig (xpSend m) s) := by
    unfold exec execXpEgressStart
    refine (event_next h _).trans (congrArg (fun u => Host.Outcome.next (settle s (settlePeriods s u))) ?_)
    dsimp only
    rw [next]
  obtain ⟨cache, coh, last4, txFree, txFail, sent⟩ := xpSend_eq m s
  have words := fun valid => chargeXp_words (s := s) valid (xpClass s m) m.data.length
  rw [getClass] at words
  generalize (chargeXp (xpClass s m) m.data.length s).reg.cls = cls at sent words
  rw [keepConfig, sent] at runs
  exact ⟨_, runs, rfl, rfl, rfl, tget_tmod_self 0 s.lnk.txCrd _ fun x => x - flits m, words⟩

end Sys2Proof.Proofs
end

section
/-! SUPPORT. What an array access does as it starts (02_data_array_and_boleri_code R42, R54; 06_kennels_and_channels R175; 12_regulation
R341). -/

namespace Sys2Proof.Proofs

open Sys2Proof.Machine Sys2Proof.Safety Sys2Proof.Laws

set_option Elab.async false

/-! ### What a read of the banks leaves -/

theorem seeWord_eq (loc : Nat) (s : State) :
    (∃ fresh, (seeWord loc s).2 = { s with fresh := fresh }) ∧ (seeWord loc s).1.loc = loc := by
  unfold seeWord
  split
  · exact ⟨⟨s.fresh, rfl⟩, rfl⟩
  · refine ⟨?_, rfl⟩
    dsimp only
    unfold cellsAt
    split
    · exact ⟨s.fresh, rfl⟩
    · exact ⟨_, rfl⟩

/-- The code words of sectors come in order, two of each. -/
theorem seeSectors_eq (secs : List Nat) (s : State) : (∃ fresh, (seeSectors secs s).2 = { s with fresh := fresh })
    ∧ (seeSectors secs s).1.map (fun x => x.loc) = secs.flatMap fun x => [2 * x, 2 * x + 1] := by
  induction secs generalizing s with
  | nil => exact ⟨⟨s.fresh, rfl⟩, rfl⟩
  | cons x secs ih =>
    obtain ⟨⟨fresh1, low⟩, lowLoc⟩ := seeWord_eq (2 * x) s
    obtain ⟨⟨fresh2, high⟩, highLoc⟩ := seeWord_eq (2 * x + 1) (seeWord (2 * x) s).2
    obtain ⟨⟨fresh3, rest⟩, restLoc⟩ := ih (seeWord (2 * x + 1) (seeWord (2 * x) s).2).2
    refine ⟨⟨fresh3, rest.trans ?_⟩, ?_⟩
    · rw [high, low]
    · rw [seeSectors, List.map_cons, List.map_cons, restLoc, lowLoc, highLoc]
      rfl

/-- The access is a read that takes its banks. -/
def Reads (s : State) (a : Access) : Prop :=
  a.isWrite = false ∧ a.ghost = false ∧ (a.isAtomRead = true → atomOff s = false)

theorem startAccess_reads {s : State} {a : Access} (h : Reads s a) : startAccess a s = readStarted a s := by
  obtain ⟨read, -, atom⟩ := h
  rw [startAccess, if_neg (ne_true_of_eq_false read)]
  split
  · next purpose =>
    rw [if_neg (ne_true_of_eq_false (atom (by rw [Access.isAtomRead, purpose])))]
  · rfl

/-- A read reaches the corrector's end 10 sc after its start. -/
theorem readStarted_eq {a : Access} (h : a.ghost = false) (s : State) : ∃ fresh seen, readStarted a s = { s with
      fresh := fresh, fg := { s.fg with reads := s.fg.reads ++ [{ due := s.env.sc + 10, acc := a, seen := seen }] } }
    ∧ seen.map (fun x => x.loc) = a.secs.flatMap fun x => [2 * x, 2 * x + 1] := by
  obtain ⟨⟨fresh, left⟩, locs⟩ := seeSectors_eq a.secs s
  refine ⟨fresh, (seeSectors a.secs s).1, ?_, locs⟩
  rw [readStarted, if_neg (ne_true_of_eq_false h)]
  dsimp only
  rw [left]

/-! ### What an access takes -/

theorem tget_set_foldl {α : Type} [DecidableEq α] (d v : α) (f : Nat → Nat) (l : List Nat) (t : Table α) (b : Nat) :
    tget d (l.foldl (fun t x => tset d t (f x) v) t) b = if b ∈ l.map f then v else tget d t b := by
  induction l generalizing t with
  | nil => rfl
  | cons x l ih =>
    rw [List.foldl_cons, ih, List.map_cons]
    by_cases rest : b ∈ l.map f
    · rw [if_pos rest, if_pos (List.mem_cons_of_mem _ rest)]
    · by_cases eq : b = f x
      · rw [if_neg rest, eq, tget_tset_self, if_pos List.mem_cons_self]
      · rw [if_neg rest, tget_tset_ne _ _ _ eq, if_neg (by simp [eq, rest])]

theorem chargeSector_queue (c bank : Nat) (s : State) (fg : Fg) :
    chargeSector c bank { s with fg := fg } = { chargeSector c bank s with fg := fg } := by
  unfold chargeSector charge
  split <;> rfl

/-- What the classes are once the sectors have been charged to one. -/
def charged (c : Nat) (secs : List Nat) (s : State) : Table Machine.Class :=
  (secs.foldl (fun s x => chargeSector c (secBank x) s) s).reg.cls

theorem chargeSectors_eq (c : Nat) (secs : List Nat) (s : State) (fg : Fg) :
    secs.foldl (fun s x => chargeSector c (secBank x) s) { s with fg := fg }
      = { s with fg := fg, reg := { s.reg with cls := charged c secs s } } := by
  induction secs generalizing s with
  | nil => rfl
  | cons x secs ih =>
    obtain ⟨cls, eq⟩ := chargeSector_eq c (secBank x) s
    rw [List.foldl_cons, chargeSector_queue, ih, charged, charged, List.foldl_cons, eq]

/-- An access takes its banks for 8 sc, and its class is charged. -/
theorem occupy_eq (a : Access) (s : State) : occupy a s = { s with
    fg := { s.fg with bankFree := a.banks.foldl (fun t b => tset 0 t b (s.env.sc + 8)) s.fg.bankFree }
    reg := { s.reg with cls := charged a.cls a.secs s } } := chargeSectors_eq ..

/-- The banks as an access has taken its own. -/
theorem banks_taken (a : Access) (t : Table Nat) (v b : Nat) :
    tget 0 (a.banks.foldl (fun t b => tset 0 t b v) t) b = if b ∈ a.banks then v else tget 0 t b := by
  have taken := tget_set_foldl 0 v id a.banks t b
  rwa [List.map_id] at taken

/-- What an access takes as it starts alone. -/
def accessTaken (a : Access) (s : State) : State :=
  { s with
    fg := { s.fg with accs := s.fg.accs.filter fun x => x.id != a.id
                      bankFree := a.banks.foldl (fun t b => tset 0 t b (s.env.sc + 8)) s.fg.bankFree }
    reg := { s.reg with cls := charged a.cls a.secs s } }

theorem charged_queue (c : Nat) (secs : List Nat) (s : State) (fg : Fg) : charged c secs { s with fg := fg } = charged c secs s := by
  rw [charged, chargeSectors_eq]

theorem beginAccess_takes {a : Access} {s : State} (h : takesBanks s a = true) :
    beginAccess a s = startAccess a (accessTaken a s) := by
  rw [beginAccess, if_pos h, occupy_eq, accessTaken]
  dsimp only [dropAccess]
  rw [charged_queue]

theorem getClass_charged {s : State} (valid : s.tick.cntValid = true) (a : Access) :
    (tget Machine.Class.initial (charged a.cls a.secs s) a.cls).bytes = (getClass s a.cls).bytes + 64 * a.secs.length :=
  chargeSectors_bytes valid a.cls a.secs

theorem bankAccessStart_alone {s : State} (h : inUse s) {a : Access} (next : nextAccess s = some a) (alone : a.merges = false) :
    exec .bankAccessStart s = .next (settle s (settlePeriods s (beginAccess a s))) := by
  unfold exec execBankAccessStart
  refine (event_next h _).trans (congrArg (fun u => Host.Outcome.next (settle s (settlePeriods s u))) ?_)
  dsimp only
  rw [next]
  exact if_neg (ne_true_of_eq_false alone)

theorem bankAccessStart_merges {s : State} (h : inUse s) {a : Access} (next : nextAccess s = some a) (merges : a.merges = true) :
    exec .bankAccessStart s = .next (settle s (settlePeriods s
      (startGroup (mergeGroup s s.fg.accs.length [a] a.secs).1 a.cls (mergeGroup s s.fg.accs.length [a] a.secs).2 s))) := by
  unfold exec execBankAccessStart
  refine (event_next h _).trans (congrArg (fun u => Host.Outcome.next (settle s (settlePeriods s u))) ?_)
  dsimp only
  rw [next]
  exact if_pos merges

/-- A read that no other may merge with starts alone. -/
theorem read_starts {s : State} (h : inUse s) {a : Access} (next : nextAccess s = some a) (alone : a.kennel = false ∨ a.isAtomRead = true)
    (reads : Reads s a) : ∃ t, exec .bankAccessStart s = .next t
      ∧ t.fg.accs = s.fg.accs.filter (fun x => x.id != a.id)
      ∧ (∀ b, tget 0 t.fg.bankFree b = if b ∈ a.banks then s.env.sc + 8 else tget 0 s.fg.bankFree b)
      ∧ (s.tick.cntValid = true → (getClass t a.cls).bytes = (getClass s a.cls).bytes + 64 * a.secs.length)
      ∧ ∃ seen, t.fg.reads = s.fg.reads ++ [{ due := s.env.sc + 10, acc := a, seen := seen }]
        ∧ seen.map (fun x => x.loc) = a.secs.flatMap (fun x => [2 * x, 2 * x + 1])
        ∧ t.arr = s.arr := by
  obtain ⟨read, real, atom⟩ := reads
  have taken : takesBanks s a = true := by
    have off : (a.isAtomRead && atomOff s) = false := by
      cases isRead : a.isAtomRead with
      | false => rfl
      | true => exact atom isRead
    rw [takesBanks, real, off]
    rfl
  have merges : a.merges = false := by
    rcases alone with cache | isRead
    · rw [Access.merges, cache]
      rfl
    · rw [Access.merges, isRead]
      simp
  have still : Reads (accessTaken a s) a := ⟨read, real, atom⟩
  obtain ⟨fresh, seen, started, locs⟩ := readStarted_eq real (accessTaken a s)
  have runs := bankAccessStart_alone h next merges
  rw [beginAccess_takes taken, startAccess_reads still, started] at runs
  refine ⟨_, runs, rfl, fun b => banks_taken a s.fg.bankFree (s.env.sc + 8) b, fun valid => ?_, seen, rfl, locs, rfl⟩
  exact getClass_charged valid a

end Sys2Proof.Proofs
end

section
/-! SUPPORT. A write that starts stores its code words; the reads that merge start together (02_data_array_and_boleri_code R54;
06_kennels_and_channels R175). -/

namespace Sys2Proof.Proofs

open Sys2Proof.Machine Sys2Proof.Safety Sys2Proof.Laws

set_option Elab.async false

/-! ### Writes -/

theorem tfind_below {α : Type} {n k : Nat} {t : Table α} (h : tableFrom n t = true) (lt : k < n) : tfind t k = none := by
  induction t generalizing n with
  | nil => rfl
  | cons p t ih =>
    simp only [tableFrom, Bool.and_eq_true, decide_eq_true_eq] at h
    exact (if_neg (by omega)).trans (ih h.2 (by omega))

theorem writeWords_outside (t : Table CodeWord) (s : State) : SameOutside s (writeWords t s) :=
  List.foldlRecOn (motive := SameOutside s) _ _ (.refl s) fun _ h p _ => h.trans (writeWord_outside p.1 p.2 _)

/-- The code words of a table stand where it puts them, and no others change. -/
theorem cellsOf_writeWords {n loc : Nat} (hl : loc < 2 ^ 19) {t : Table CodeWord} (wf : tableFrom n t = true)
    (lt : ∀ p ∈ t, p.1 < 2 ^ 19) (s : State) : cellsOf (writeWords t s) loc = match tfind t loc with
      | some w => some (wordCells s loc w)
      | none => cellsOf s loc := by
  induction t generalizing n s with
  | nil => rfl
  | cons p t ih =>
    simp only [tableFrom, Bool.and_eq_true, decide_eq_true_eq] at wf
    rw [List.forall_mem_cons] at lt
    have rest := ih wf.2 lt.2 (writeWord p.1 p.2 s)
    refine rest.trans ?_
    by_cases eq : p.1 = loc
    · subst eq
      have found : tfind (p :: t) p.1 = some p.2 := if_pos rfl
      rw [tfind_below wf.2 (Nat.lt_succ_self _), found]
      exact cellsOf_writeWord_self ..
    · have later : tfind (p :: t) loc = tfind t loc := if_neg eq
      rw [later]
      cases tfind t loc with
      | none => exact cellsOf_writeWord_ne p.2 s lt.1 hl (Ne.symm eq)
      | some w => exact congrArg some (wordCells_congr (writeWord_outside ..) loc w)

theorem settled_cells {s u : State} (fuse : u.fuse = s.fuse) (loc : Nat) :
    cellsOf (settle s (settlePeriods s u)) loc = cellsOf u loc := by
  have same : (settle s (settlePeriods s u)).fuse = u.fuse := fuse.symm
  rw [cellsOf, physRow_congr (s := u) same rfl (fun _ _ _ _ => rfl)]
  exact delivered_congr same rfl rfl loc _

/-- A write starts alone, takes its banks and stores its code words. -/
theorem write_starts {s : State} (h : inUse s) {a : Access} (next : nextAccess s = some a) (write : a.isWrite = true)
    (purpose : a.purpose = .write) (wf : tableWf a.data = true) (lt : ∀ p ∈ a.data, p.1 < 2 ^ 19) :
    ∃ t, exec .bankAccessStart s = .next t
      ∧ t.fg.accs = s.fg.accs.filter (fun x => x.id != a.id)
      ∧ (∀ b, tget 0 t.fg.bankFree b = if b ∈ a.banks then s.env.sc + 8 else tget 0 s.fg.bankFree b)
      ∧ ∀ loc, loc < 2 ^ 19 → cellsOf t loc = match tfind a.data loc with
        | some w => some (wordCells s loc w)
        | none => cellsOf s loc := by
  have taken : takesBanks s a = true := by rw [takesBanks, Access.ghost, Access.isAtomRead, purpose]; rfl
  have merges : a.merges = false := by rw [Access.merges, write]; simp
  have runs := bankAccessStart_alone h next merges
  have stored : startAccess a (accessTaken a s) = writeWords a.data (accessTaken a s) := by
    rw [startAccess, if_pos write, writeStarted, purpose]
  rw [beginAccess_takes taken, stored] at runs
  have outside := writeWords_outside a.data (accessTaken a s)
  have cells (loc : Nat) (hl : loc < 2 ^ 19) := cellsOf_writeWords hl wf lt (accessTaken a s)
  generalize writeWords a.data (accessTaken a s) = u at runs outside cells
  have fuse : u.fuse = s.fuse := (congrArg State.fuse outside :)
  have accs : u.fg.accs = (accessTaken a s).fg.accs := (congrArg (fun v => v.fg.accs) outside :)
  have free : u.fg.bankFree = (accessTaken a s).fg.bankFree := (congrArg (fun v => v.fg.bankFree) outside :)
  refine ⟨_, runs, accs, fun b => ?_, fun loc hl => (settled_cells fuse loc).trans (cells loc hl)⟩
  exact (congrArg (fun t => tget 0 t b) free).trans (banks_taken a s.fg.bankFree (s.env.sc + 8) b)

/-! ### Reads that merge (R175) -/

/-- A waiting read that others may merge with. -/
def Waits (s : State) (b : Access) : Prop := b ∈ s.fg.accs ∧ b.merges = true ∧ b.ready ≤ s.env.sc

/-- What starts together: the first access and its sectors, and reads that wait and may merge. -/
theorem mergeGroup_spec (s : State) (n : Nat) (g : List Access) (secs : List Nat) :
    (∀ x ∈ g, x ∈ (mergeGroup s n g secs).1) ∧ (∀ x ∈ secs, x ∈ (mergeGroup s n g secs).2)
    ∧ ∀ x ∈ (mergeGroup s n g secs).1, x ∈ g ∨ Waits s x := by
  induction n generalizing g secs with
  | zero => exact ⟨fun _ h => h, fun _ h => h, fun _ h => .inl h⟩
  | succ n ih =>
    rw [mergeGroup]
    split
    · exact ⟨fun _ h => h, fun _ h => h, fun _ h => .inl h⟩
    · next b found =>
      obtain ⟨group, sectors, joined⟩ := ih (g ++ [b]) (secs ++ b.secs.filter fun x => !secs.contains x)
      have both := List.find?_some found
      have joins : mayMerge s g secs b = true := (Bool.and_eq_true_iff.1 both).2
      simp only [mayMerge, Bool.and_eq_true, decide_eq_true_eq] at joins
      have waits : Waits s b := ⟨mem_ordered.1 (List.mem_of_find?_eq_some found), joins.1.1.1.1.1, joins.1.1.1.1.2⟩
      refine ⟨fun x hx => group x (List.mem_append_left _ hx), fun x hx => sectors x (List.mem_append_left _ hx), fun x hx => ?_⟩
      rcases joined x hx with listed | waits
      · rcases List.mem_append.1 listed with old | new
        · exact .inl old
        · exact .inr (List.mem_singleton.1 new ▸ waits)
      · exact .inr waits

/-- One read of a group after another starts. -/
def startEach (group : List Access) (ids : List Nat) (s : State) : State :=
  ids.foldl (fun s n => match group.find? fun a => a.id == n with
    | some a => startAccess a (dropAccess n s)
    | none => s) s

/-- The reads of a group with the numbers of a list have started. -/
structure Started (group : List Access) (ids : List Nat) (s t : State) : Prop where
  accs : t.fg.accs = s.fg.accs.filter fun x => !ids.contains x.id
  free : t.fg.bankFree = s.fg.bankFree
  arr : t.arr = s.arr
  sc : t.env.sc = s.env.sc
  reads : ∃ l, t.fg.reads = s.fg.reads ++ l ∧ ∀ n ∈ ids, ∀ a, group.find? (fun a => a.id == n) = some a →
    ∃ r ∈ l, r.acc = a ∧ r.due = s.env.sc + 10 ∧ r.seen.map (fun x => x.loc) = a.secs.flatMap fun x => [2 * x, 2 * x + 1]

theorem merges_reads {s : State} {a : Access} (h : a.merges = true) : Reads s a := by
  simp only [Access.merges, Bool.and_eq_true, Bool.not_eq_true'] at h
  obtain ⟨⟨⟨-, read⟩, atom⟩, real⟩ := h
  exact ⟨read, real, fun isRead => absurd isRead (ne_true_of_eq_false atom)⟩

theorem startEach_starts {group : List Access} (merge : ∀ a ∈ group, a.merges = true) {ids : List Nat}
    (own : ∀ n ∈ ids, ∃ a ∈ group, a.id = n) (s : State) : Started group ids s (startEach group ids s) := by
  induction ids generalizing s with
  | nil => exact ⟨by simp [startEach], rfl, rfl, rfl, [], (List.append_nil _).symm, nofun⟩
  | cons n ids ih =>
    rw [List.forall_mem_cons] at own
    obtain ⟨a, found⟩ : ∃ a, group.find? (fun a => a.id == n) = some a := by
      obtain ⟨a, listed, id⟩ := own.1
      exact Option.isSome_iff_exists.1 (List.find?_isSome.2 ⟨a, listed, by simp [id]⟩)
    have reads : Reads (dropAccess n s) a := merges_reads (merge a (List.mem_of_find?_eq_some found))
    obtain ⟨fresh, seen, started, locs⟩ := readStarted_eq reads.2.1 (dropAccess n s)
    have first : startEach group (n :: ids) s = startEach group ids (readStarted a (dropAccess n s)) := by
      rw [startEach, List.foldl_cons, found]
      dsimp only
      rw [startAccess_reads reads]
      rfl
    rw [first, started]
    obtain ⟨accs, free, arr, sc, l, left, rest⟩ := ih own.2 { dropAccess n s with
      fresh := fresh, fg := { (dropAccess n s).fg with
        reads := (dropAccess n s).fg.reads ++ [{ due := (dropAccess n s).env.sc + 10, acc := a, seen := seen }] } }
    refine ⟨?_, free, arr, sc, { due := s.env.sc + 10, acc := a, seen := seen } :: l, ?_, fun m hm b hb => ?_⟩
    · rw [accs]
      simp only [dropAccess, List.filter_filter, List.contains_cons, Bool.not_or]
      refine List.filter_congr fun x _ => ?_
      rw [Bool.and_comm]
      rfl
    · rw [left]
      exact List.append_assoc ..
    · by_cases eq : m = n
      · subst eq
        obtain rfl := Option.some.inj (found.symm.trans hb)
        exact ⟨_, List.mem_cons_self, rfl, rfl, locs⟩
      · obtain ⟨r, hr, same⟩ := rest m ((List.mem_cons.1 hm).resolve_left eq) b hb
        exact ⟨r, List.mem_cons_of_mem _ hr, same⟩

theorem chargeEach_eq (l : List (Nat × Nat)) (s : State) :
    ∃ cls, l.foldl (fun s p => chargeSector p.2 (secBank p.1) s) s = { s with reg := { s.reg with cls := cls } } := by
  refine List.foldlRecOn (motive := fun t => ∃ cls : Table Machine.Class, t = { s with reg := { s.reg with cls := cls } }) _ _
    ⟨s.reg.cls, rfl⟩ ?_
  rintro t ⟨cls, rfl⟩ p -
  obtain ⟨cls', eq⟩ := chargeSector_eq p.2 (secBank p.1) { s with reg := { s.reg with cls := cls } }
  exact ⟨cls', eq⟩

/-- A group starts: the banks of its sectors are taken, and its reads start. -/
theorem startGroup_starts {group : List Access} (merge : ∀ a ∈ group, a.merges = true) (dflt : Nat) (secs : List Nat) (s : State) :
    ∃ cls, Started group ((group.map fun a => a.id).mergeSort (· ≤ ·)) { s with
      fg := { s.fg with bankFree := secs.foldl (fun t x => tset 0 t (secBank x) (s.env.sc + 8)) s.fg.bankFree }
      reg := { s.reg with cls := cls } } (startGroup group dflt secs s) := by
  obtain ⟨cls, eq⟩ := chargeEach_eq (secs.map fun x => (x, mergeClass s group dflt x)) { s with
    fg := { s.fg with bankFree := secs.foldl (fun t x => tset 0 t (secBank x) (s.env.sc + 8)) s.fg.bankFree } }
  have own : ∀ n ∈ (group.map fun a => a.id).mergeSort (· ≤ ·), ∃ a ∈ group, a.id = n := fun n hn =>
    List.mem_map.1 (List.mem_mergeSort.1 hn)
  have starts := startEach_starts merge own { s with
    fg := { s.fg with bankFree := secs.foldl (fun t x => tset 0 t (secBank x) (s.env.sc + 8)) s.fg.bankFree }
    reg := { s.reg with cls := cls } }
  refine ⟨cls, ?_⟩
  rw [← eq] at starts ⊢
  exact starts

/-- In a queue whose numbers differ, the number tells the access. -/
theorem eq_of_id {l : List Access} (nodup : (l.map fun x => x.id).Nodup) {x y : Access} (hx : x ∈ l) (hy : y ∈ l)
    (h : x.id = y.id) : x = y := List.inj_on_of_nodup_map nodup hx hy h

/-- A kennel read starts with the reads that merge with it. -/
theorem merged_start {s : State} (h : inUse s) {a : Access} (next : nextAccess s = some a) (merges : a.merges = true)
    (nodup : (s.fg.accs.map fun x => x.id).Nodup) : ∃ t, exec .bankAccessStart s = .next t
      ∧ a ∉ t.fg.accs ∧ (∀ x ∈ t.fg.accs, x ∈ s.fg.accs) ∧ t.arr = s.arr
      ∧ (∀ b ∈ a.banks, tget 0 t.fg.bankFree b = s.env.sc + 8)
      ∧ (∃ r ∈ t.fg.reads, r.acc = a ∧ r.due = s.env.sc + 10
          ∧ r.seen.map (fun x => x.loc) = a.secs.flatMap (fun x => [2 * x, 2 * x + 1]))
      ∧ ∀ x ∈ s.fg.accs, x ∉ t.fg.accs → x.kennel = true ∧ x.isWrite = false ∧ x.ready ≤ s.env.sc := by
  obtain ⟨queued, ready, -⟩ := (nextAccess_some next).1
  obtain ⟨first, sectors, joined⟩ := mergeGroup_spec s s.fg.accs.length [a] a.secs
  have runs := bankAccessStart_merges h next merges
  generalize mergeGroup s s.fg.accs.length [a] a.secs = g at first sectors joined runs
  have waits (x : Access) (hx : x ∈ g.1) : Waits s x := by
    rcases joined x hx with own | waits
    · exact List.mem_singleton.1 own ▸ ⟨queued, merges, ready⟩
    · exact waits
  have member : a ∈ g.1 := first a (List.mem_singleton_self a)
  have starts := startGroup_starts (fun x hx => (waits x hx).2.1) a.cls g.2 s
  generalize startGroup g.1 a.cls g.2 s = u at runs starts
  obtain ⟨cls, accs, free, arr, -, l, reads, each⟩ := starts
  have started {x : Access} (hx : x ∈ g.1) : x.id ∈ (g.1.map fun a => a.id).mergeSort (· ≤ ·) :=
    List.mem_mergeSort.2 (List.mem_map_of_mem hx)
  refine ⟨_, runs, fun left => ?_, fun x hx => ?_, ?_, fun b hb => ?_, ?_, fun x hx gone => ?_⟩
  · have left : a ∈ u.fg.accs := left
    rw [accs, List.mem_filter] at left
    simp [started member] at left
  · have left : x ∈ u.fg.accs := hx
    rw [accs] at left
    exact List.mem_of_mem_filter left
  · have arr : u.arr = s.arr := arr
    change { u.arr with spareBank := s.arr.spareBank, spareEntry := s.arr.spareEntry } = s.arr
    rw [arr]
  · refine (congrArg (fun t => tget 0 t b) free).trans ((tget_set_foldl 0 (s.env.sc + 8) secBank g.2 s.fg.bankFree b).trans ?_)
    rw [Access.banks, List.mem_dedup, List.mem_map] at hb
    obtain ⟨x, hx, rfl⟩ := hb
    exact if_pos (List.mem_map_of_mem (sectors x hx))
  · obtain ⟨b, found⟩ : ∃ b, g.1.find? (fun x => x.id == a.id) = some b :=
      Option.isSome_iff_exists.1 (List.find?_isSome.2 ⟨a, member, by simp⟩)
    have same : b.id = a.id := by simpa using List.find?_some found
    obtain rfl := eq_of_id nodup (waits b (List.mem_of_find?_eq_some found)).1 queued same
    obtain ⟨r, hr, reader⟩ := each b.id (started member) b found
    refine ⟨r, ?_, reader⟩
    exact reads ▸ List.mem_append_right _ hr
  · have out : x ∉ u.fg.accs := gone
    rw [accs, List.mem_filter, not_and] at out
    have named := out hx
    simp only [Bool.not_eq_true', Bool.not_eq_false, List.contains_eq_mem, decide_eq_true_eq] at named
    obtain ⟨y, hy, id⟩ := List.mem_map.1 (List.mem_mergeSort.1 named)
    obtain ⟨listed, merge, due⟩ := waits y hy
    obtain rfl := eq_of_id nodup listed hx id
    simp only [Access.merges, Bool.and_eq_true, Bool.not_eq_true'] at merge
    exact ⟨merge.1.1.1, merge.1.1.2, due⟩

/-- Settles O36: what starts is the first that can, in the order of R343; then by the kind of the access. -/
theorem startsAnswer : Obligations.StartsAnswer := by
  unfold Obligations.StartsAnswer
  intro s h
  refine ⟨fun a next => ?_, fun m next => ?_⟩
  · obtain ⟨⟨queued, ready, unblocked⟩, opens, earlier⟩ := nextAccess_some next
    obtain ⟨t, runs⟩ : ∃ t, exec .bankAccessStart s = .next t := by
      unfold exec execBankAccessStart
      exact ⟨_, event_next h _⟩
    have same {P : State → Prop} (starts : ∃ t, exec .bankAccessStart s = .next t ∧ P t) : P t := by
      obtain ⟨u, ru, hu⟩ := starts
      obtain rfl := Host.Outcome.next.inj (runs.symm.trans ru)
      exact hu
    refine ⟨t, runs, queued, ready, unblocked, opens, fun x hx due may => earlier x ⟨hx, due, may⟩,
      fun alone read real atom => same (read_starts h next alone ⟨read, real, atom⟩),
      fun kennel read atom real nodup => same (merged_start h next ?_ nodup),
      fun write purpose wf lt => same (write_starts h next write purpose wf lt)⟩
    rw [Access.merges, kennel, read, atom, real]
    rfl
  · obtain ⟨free, queued, leaves, first, oldest⟩ := xpNext_some next
    obtain ⟨t, runs, sent⟩ := xpEgressStart_sends h next
    exact ⟨t, runs, queued, leaves, free, fun b hb may other => .inl (first b hb may other), oldest, sent⟩

end Sys2Proof.Proofs
end
